-- ==== Sys2Proof/Word.lean ====
section
/-! DEFINITION. The word types of the ZD8: bytes, 32-bit lane words, 64-bit control words. -/

namespace Sys2Proof

/-- One byte (00 R1). -/
abbrev Byte := BitVec 8

/-- A lane register of one lane, and a control word (09 R204, 07 R157). -/
abbrev Word := BitVec 32

/-- A group register or a system register (08 R180, 11 R266). -/
abbrev GWord := BitVec 64

end Sys2Proof
end

