-- ==== Sys2Proof/Config.lean ====
section
/-! DEFINITION. What an implementation fixes and the free values: constants with no body, so that nothing in
Lean can evaluate one. A claim that mentions a free value holds whatever the value is. -/

namespace Sys2Proof.Config

/-- A free 32-bit value, fresh for each `id` and index (log 6): undefined windows, tiles and handler banks. -/
opaque freeWord : Nat → Nat → Word

/-- A free byte (log 6): an undefined byte of a scratchpad window. -/
opaque freeByte : Nat → Nat → Byte

/-- A free number (log 6): a code or an INFO that the manual does not name. -/
opaque freeNat : Nat → Nat

/-- A free choice between the old and the new value of a register in one lane (07 R172; log 7). -/
opaque pickOld : Nat → Nat → Bool

/-- The result that this device gives for an approximation: form number and operand (10 R233; log 8). -/
opaque approx : Nat → Word → Word

/-- A byte of host memory that the model has not seen written (16 R340; log 2). -/
opaque hostByte : Nat → Byte

/-- Which frames above the HBM4E range and below the Rein aperture are host memory (16 R329; log 2). -/
opaque hostFrame : Nat → Bool

/-- The bytes of a line of device memory that the host answers a back-invalidate snoop with, or none (16 R335; log 31). -/
opaque snoopAnswer : Nat → Nat → Option (List Byte)

/-- SHAKE256 with a 32-byte output (17 R352 to R354; log 9). -/
opaque shake256 : List Byte → List Byte

/-- Falcon-1024 verification of a signature over a digest by the holder of a key digest (17 R352; log 9). -/
opaque falconVerify : Nat → List Byte → List Byte → Bool

/-- Falcon-1024 signing by the device identity key, 1,280 bytes (17 R354; log 9). -/
opaque falconSign : List Byte → List Byte

/-- A byte of the package record in flash of which no rule gives the value (17 R352; log 4). -/
opaque flashByte : Nat → Byte

/-- The package record in flash, 3,328 bytes: format 1, the part code, the default layout, here P (log 4), and the zero field (17 R352). -/
def flashRecord : List Byte :=
  [1, 0, 0, 0, 0, 0, 0, 0] ++ (List.range 8).map (fun k => flashByte (8 + k)) ++ [0x08, 0x5D, 0, 0, 0, 0, 0, 0] ++ [0, 0, 0, 0, 0, 0, 0, 0]
    ++ (List.range 1889).map (fun k => flashByte (32 + k)) ++ List.replicate 127 0 ++ (List.range 1280).map (fun k => flashByte (2048 + k))

/-- The firmware image in flash (17 R353; log 4). -/
opaque flashFirmware : List Byte

/-- The signature of the firmware image (17 R353; log 4). -/
opaque flashSignature : List Byte

/-- The version of the firmware image (17 R353; log 4). -/
opaque flashVersion : Nat

/-- The rollback counter in flash (17 R353; log 4). -/
opaque flashRollback : Nat

end Sys2Proof.Config
end

