-- ==== Sys2Proof/Machine/Bits.lean ====
section
/-! DEFINITION. Bit fields, sign extension and byte order (00 R1, R4). -/

namespace Sys2Proof.Machine

open Sys2Proof

/-- Bits [lo+n-1:lo] of a number. -/
def bits (w lo n : Nat) : Nat := w >>> lo % 2 ^ n

/-- Bit k of a number. -/
def bit (w k : Nat) : Bool := w.testBit k

/-- The signed value of the low n bits. -/
def sextI (n w : Nat) : Int :=
  if w.testBit (n - 1) then (w % 2 ^ n : Nat) - (2 ^ n : Nat) else (w % 2 ^ n : Nat)

/-- The low 64 bits of an exact integer (R4). -/
def g64 (x : Int) : GWord := BitVec.ofInt 64 x

/-- The low 32 bits of an exact integer (R4). -/
def w32 (x : Int) : Word := BitVec.ofInt 32 x

/-- The n bytes of a number, lowest byte first (R1). -/
def toBytes : Nat → Nat → List Byte
  | 0, _ => []
  | n + 1, w => BitVec.ofNat 8 w :: toBytes n (w / 256)

/-- The number that bytes hold, lowest byte first (R1). -/
def ofBytes : List Byte → Nat
  | [] => 0
  | b :: bs => b.toNat + 256 * ofBytes bs

/-- A CRC-16 after one more byte, with no reflection (04 R106, 17 R368). -/
def crcByte (poly c : Nat) (b : Byte) : Nat :=
  (List.range 8).foldl (fun c _ => if c.testBit 15 then (c <<< 1) ^^^ (65536 + poly) else c <<< 1) (c ^^^ (b.toNat <<< 8))

/-- A CRC-16 of bytes from a value, with no final inversion. The two cases of the value are one, told apart so that an evaluation has the
value of a byte before it goes on. -/
def crc16 (poly : Nat) : Nat → List Byte → Nat
  | c, [] => c
  | 0, b :: l => crc16 poly (crcByte poly 0 b) l
  | c + 1, b :: l => crc16 poly (crcByte poly (c + 1) b) l

/-- The check of a 32-byte sector (17 R368). -/
def check16 (l : List Byte) : Nat := crc16 0x8BB7 0 l

/-- Bytes with some of their bits, by number from bit 0 of the first byte, turned over. -/
def flipBits (l : List Byte) (ks : List Nat) : List Byte := ks.foldl (fun l k => l.modify (k / 8) (· ^^^ (1#8 <<< (k % 8)))) l

/-- 1 for true, 0 for false. -/
def b2n (b : Bool) : Nat := if b then 1 else 0

/-- The number of set bits among the low n. -/
def popc : Nat → Nat → Nat
  | 0, _ => 0
  | n + 1, w => w % 2 + popc n (w / 2)

/-- The number of leading zeros of the low n bits. -/
def clz : Nat → Nat → Nat
  | 0, _ => 0
  | n + 1, w => if w.testBit n then 0 else 1 + clz n w

/-- The low n bits in reverse order. -/
def brev : Nat → Nat → Nat
  | 0, _ => 0
  | n + 1, w => w % 2 * 2 ^ n + brev n (w / 2)

/-- floor(log2 n); 0 for 0. -/
def ilog2 (n : Nat) : Nat := n.log2

/-- The numbers below n at which f holds, rising. -/
def indices (n : Nat) (f : Nat → Bool) : List Nat := (List.range n).filter f

end Sys2Proof.Machine
end

