-- ==== Sys2Proof/Syntax.lean ====
section
/-! DEFINITION. Abstract syntax: one constructor of Instr for each row of the opcode table. Fields of an
encoding that carry a code are small inductive types; register fields keep their width. -/

namespace Sys2Proof

/-- A group-register field (07 R158). -/
abbrev GReg := BitVec 6
/-- A group-predicate field (07 R158). -/
abbrev QReg := BitVec 3
/-- A lane-register field (07 R159). -/
abbrev VReg := BitVec 8
/-- A lane-predicate field (07 R159). -/
abbrev PReg := BitVec 3
/-- A buffer-record slot (03 R56). -/
abbrev Slot := BitVec 4

/-- The eight scopes (01 R15). -/
inductive Scope where
  | grp | team | core | deck | tower | dev | sys | rein
  deriving DecidableEq, Repr

/-- Ordering of an atomic (07 R160, 08 R191). -/
inductive Ord where
  | plain | acq | rel | ar
  deriving DecidableEq, Repr

/-- Atomic operations (08 R190). -/
inductive AtomOp where
  | add | and | or | xor | smin | smax | umin | umax | swap | cas
  deriving DecidableEq, Repr

/-- Rounding modes (05 R119, R122). -/
inductive RMode where
  | rne | rtz | rdn | rup | stoch
  deriving DecidableEq, Repr

/-- The RM field of L-cvt: a mode of its own, or the captured fmt.RMODE (07 R160). -/
inductive RmSel where
  | own (m : RMode)
  | fmt
  deriving DecidableEq, Repr

/-- The SATSEL field of L-cvt (07 R160). -/
inductive SatSel where
  | fmt | off | on
  deriving DecidableEq, Repr

/-- The lane type codes (07 R161). -/
inductive VType where
  | i8 | i16 | i32 | i64 | n8 | n16 | n32 | n64 | f32 | f16 | bf16 | e4m3 | e5m2 | q8 | q4 | f16x2 | bf16x2
  deriving DecidableEq, Repr

/-- The SUB of the floating-point forms (10 R228), and the type of a compare (10 R230). -/
inductive FTy where
  | f32 | f16 | bf16
  deriving DecidableEq, Repr

/-- Integer compare conditions (09 R210). -/
inductive ICond where
  | eq | ne | ltI | leI | ltN | leN | gtI | geI | gtN | geN
  deriving DecidableEq, Repr

/-- Floating-point compare conditions (10 R230). -/
inductive FCond where
  | eq | ne | lt | le | gt | ge | unord | ord
  deriving DecidableEq, Repr

/-- Shuffle modes (10 R239). -/
inductive ShflMode where
  | idx | up | down | xor
  deriving DecidableEq, Repr

/-- Reduction and scan operations (10 R241). -/
inductive RedOp where
  | addF | maxF | minF | addI | maxI | minI | maxN | minN | and | or | xor
  deriving DecidableEq, Repr

/-- Width of an accumulator move (10 R243). -/
inductive TileW where
  | w32 | bf16x2 | f16x2
  deriving DecidableEq, Repr

/-- Access size code of L-mem: 1, 2, 4, 8, 16 bytes (07 R160). -/
inductive Size where
  | s1 | s2 | s4 | s8 | s16
  deriving DecidableEq, Repr

/-- Location kinds of a copy (11 R256). -/
inductive Loc where
  | glob | scratch | slot
  deriving DecidableEq, Repr

/-- Where a soft error strikes: a physical address in its home slice or HBM4E, in the replica of a deck, or in a core's caches; an offset
of a team's window, or of a tile of a pipe; or an array that is not addressed: the accumulator store or the range-lock table of a core, an
item queue of a team, or the directory of a slice (17 R371). -/
inductive ErrSite where
  | home (pa : Nat)
  | replica (deck pa : Nat)
  | cache (core pa : Nat)
  | window (team off : Nat)
  | slot (pipe : Nat) (seq : BitVec 32) (off : Nat)
  | acc (team : Nat)
  | locks (team : Nat)
  | items (team : Nat)
  | directory (slice : Nat)
  deriving DecidableEq, Repr

/-- Reach of a translation invalidation (11 R268). -/
inductive Reach where
  | core | deck | part
  deriving DecidableEq, Repr

/-- The system registers (11 R266). -/
inductive SysReg where
  | status | trapcause | trappc | traplpc | trapva | handlerbase | stablebase | stacklimit | checkmode
  | cmark | settledmark | partmap | hbmil | netbound | reinsplit
  deriving DecidableEq, Repr

/-- Kinds of access that a translation checks, coded as the KIND field of a record (15 R309, R318). -/
inductive AccKind where
  | load | store | atomic | fetch | engRead | engWrite | stream
  deriving DecidableEq, Repr

/-- Issue timing of a lane word: GAP, CEDE and the waits on rings M, L and F (07 R159). -/
structure Sched where
  gap  : BitVec 4
  cede : Bool
  wm   : BitVec 4
  wl   : BitVec 3
  wf   : BitVec 2
  deriving DecidableEq, Repr

/-- Issue timing and the guard (or condition) of a lane word: PRED and NEG (07 R159). -/
structure Hdr where
  t    : Sched
  neg  : Bool
  pred : PReg
  deriving DecidableEq, Repr

/-- Source b of L-alu: a register (TX 00) or IMM32 (TX 01) (09 R205). -/
inductive SrcB where
  | reg (r : VReg)
  | imm (w : Word)
  deriving DecidableEq, Repr

/-- Sources b and c of L-alu: at most one of them is IMM32 (TX 00, 01, 10) (09 R205). -/
inductive SrcBC where
  | rr (b c : VReg)
  | ir (w : Word) (c : VReg)
  | ri (b : VReg) (w : Word)
  deriving DecidableEq, Repr

/-- The extension word of a control atomic (08 R191). -/
structure AtomExt where
  b    : GReg
  c    : GReg
  op   : AtomOp
  w32  : Bool
  ord  : Ord
  sc   : Scope
  deriving DecidableEq, Repr

/-- A UALink message, one write of 256 bytes: its 32-byte header and its 224 bytes of payload (16 R343). -/
structure Msg where
  header : BitVec 256
  bytes  : List Byte
  deriving DecidableEq, Repr

/-- One constructor for each row of spec/opcode_table.json, in the table's order. -/
inductive Instr where
  /-- Control add: gD := gA + gB modulo 2^64 (R182). -/
  | gadd (d : GReg) (a : GReg) (b : GReg)
  /-- Control subtract: gD := gA - gB (R182). -/
  | gsub (d : GReg) (a : GReg) (b : GReg)
  /-- Control bitwise and (R182). -/
  | gand (d : GReg) (a : GReg) (b : GReg)
  /-- Control bitwise or (R182). -/
  | gor (d : GReg) (a : GReg) (b : GReg)
  /-- Control bitwise exclusive or (R182). -/
  | gxor (d : GReg) (a : GReg) (b : GReg)
  /-- Control and with the complement of gB (R182). -/
  | gandn (d : GReg) (a : GReg) (b : GReg)
  /-- Control shift left by gB[5:0] (R182). -/
  | gshl (d : GReg) (a : GReg) (b : GReg)
  /-- Control logical shift right by gB[5:0] (R182). -/
  | gshr (d : GReg) (a : GReg) (b : GReg)
  /-- Control arithmetic shift right by gB[5:0] (R182). -/
  | gsra (d : GReg) (a : GReg) (b : GReg)
  /-- Signed minimum of two group registers (R182). -/
  | gminI64 (d : GReg) (a : GReg) (b : GReg)
  /-- Signed maximum of two group registers (R182). -/
  | gmaxI64 (d : GReg) (a : GReg) (b : GReg)
  /-- Unsigned minimum of two group registers (R182). -/
  | gminN64 (d : GReg) (a : GReg) (b : GReg)
  /-- Unsigned maximum of two group registers (R182). -/
  | gmaxN64 (d : GReg) (a : GReg) (b : GReg)
  /-- gD := gA + (gB << k), k from 1 to 4 encoded in FN (R182). -/
  | gaddsh (d : GReg) (a : GReg) (b : GReg) (k : BitVec 2)
  /-- Unsigned bit-field extract with lo and len from gB; bad field traps ILLEGAL (R182). -/
  | gbfx (d : GReg) (a : GReg) (b : GReg)
  /-- Signed bit-field extract with lo and len from gB (R182). -/
  | gbfxI64 (d : GReg) (a : GReg) (b : GReg)
  /-- Count leading zero bits of gA (R182). -/
  | gclz (d : GReg) (a : GReg)
  /-- Count set bits of gA (R182). -/
  | gpopc (d : GReg) (a : GReg)
  /-- qD := gA = gB (R185). -/
  | gcmpEq (d : QReg) (a : GReg) (b : GReg)
  /-- qD := gA != gB (R185). -/
  | gcmpNe (d : QReg) (a : GReg) (b : GReg)
  /-- Signed less-than compare to a group predicate (R185). -/
  | gcmpLtI64 (d : QReg) (a : GReg) (b : GReg)
  /-- Signed less-or-equal compare to a group predicate (R185). -/
  | gcmpLeI64 (d : QReg) (a : GReg) (b : GReg)
  /-- Unsigned less-than compare to a group predicate (R185). -/
  | gcmpLtN64 (d : QReg) (a : GReg) (b : GReg)
  /-- Unsigned less-or-equal compare to a group predicate (R185). -/
  | gcmpLeN64 (d : QReg) (a : GReg) (b : GReg)
  /-- Group predicate and (R185). -/
  | qand (d : QReg) (a : QReg) (b : QReg)
  /-- Group predicate or (R185). -/
  | qor (d : QReg) (a : QReg) (b : QReg)
  /-- Group predicate exclusive or (R185). -/
  | qxor (d : QReg) (a : QReg) (b : QReg)
  /-- Group predicate and-not (R185). -/
  | qandn (d : QReg) (a : QReg) (b : QReg)
  /-- Group predicate negation (R185). -/
  | qnot (d : QReg) (a : QReg)
  /-- gD := 1 if qA else 0 (R185). -/
  | gsetq (d : GReg) (a : QReg)
  /-- Low 64 bits of the product (R183). -/
  | gmul (d : GReg) (a : GReg) (b : GReg)
  /-- High 64 bits of the signed product (R183). -/
  | gmulhI64 (d : GReg) (a : GReg) (b : GReg)
  /-- High 64 bits of the unsigned product (R183). -/
  | gmulhN64 (d : GReg) (a : GReg) (b : GReg)
  /-- Signed divide; divide by zero traps ARITH (R183). -/
  | gdivI64 (d : GReg) (a : GReg) (b : GReg)
  /-- Unsigned divide; divide by zero traps ARITH (R183). -/
  | gdivN64 (d : GReg) (a : GReg) (b : GReg)
  /-- Signed remainder; zero divisor traps ARITH (R183). -/
  | gremI64 (d : GReg) (a : GReg) (b : GReg)
  /-- Unsigned remainder; zero divisor traps ARITH (R183). -/
  | gremN64 (d : GReg) (a : GReg) (b : GReg)
  /-- gD := gA + sign-extended immediate (R184). -/
  | gaddi (d : GReg) (a : GReg) (imm : BitVec 14)
  /-- gD := gA & sign-extended immediate (R184). -/
  | gandi (d : GReg) (a : GReg) (imm : BitVec 14)
  /-- gD := gA | sign-extended immediate (R184). -/
  | gori (d : GReg) (a : GReg) (imm : BitVec 14)
  /-- gD := gA ^ sign-extended immediate (R184). -/
  | gxori (d : GReg) (a : GReg) (imm : BitVec 14)
  /-- Shift left by an immediate amount (R184). -/
  | gshli (d : GReg) (a : GReg) (sh : BitVec 6)
  /-- Logical shift right by an immediate amount (R184). -/
  | gshri (d : GReg) (a : GReg) (sh : BitVec 6)
  /-- Arithmetic shift right by an immediate amount (R184). -/
  | gsrai (d : GReg) (a : GReg) (sh : BitVec 6)
  /-- Unsigned bit-field extract with immediate lo and len (R184). -/
  | gbfxi (d : GReg) (a : GReg) (n : BitVec 6) (lo : BitVec 6)
  /-- Signed bit-field extract with immediate lo and len (R184). -/
  | gbfxiI64 (d : GReg) (a : GReg) (n : BitVec 6) (lo : BitVec 6)
  /-- qD := gA equals the sign-extended immediate (R184). -/
  | gcmpiEq (d : QReg) (a : GReg) (imm : BitVec 14)
  /-- Signed less-than against an immediate (R184). -/
  | gcmpiLtI64 (d : QReg) (a : GReg) (imm : BitVec 14)
  /-- Unsigned less-than against a zero-extended immediate (R184). -/
  | gcmpiLtN64 (d : QReg) (a : GReg) (imm : BitVec 14)
  /-- gD := (gA << 14) | zero-extended immediate (R184). -/
  | gupi (d : GReg) (a : GReg) (imm : BitVec 14)
  /-- Direct branch, conditional on a group predicate (R186). -/
  | br (q : QReg) (neg : Bool) (off : BitVec 22)
  /-- Direct call linking g62, conditional on a predicate (R186). -/
  | call (q : QReg) (neg : Bool) (off : BitVec 22)
  /-- Decrements g63 and branches while nonzero and the guard holds (R187). -/
  | bloop (q : QReg) (neg : Bool) (off : BitVec 22)
  /-- Indirect jump to gA (R188). -/
  | jmp (a : GReg)
  /-- Indirect call to gA, linking g62 (R188). -/
  | callr (a : GReg)
  /-- Return to the address in g62 (R188). -/
  | ret
  /-- Control 8-byte load through a buffer-record slot (R189). -/
  | gld64 (d : GReg) (a : GReg) (bn : Slot) (off : BitVec 10)
  /-- Control 8-byte store through a buffer-record slot (R189). -/
  | gst64 (src : GReg) (a : GReg) (bn : Slot) (off : BitVec 10)
  /-- Two-word control atomic with optional acquire and release (R191). -/
  | gatom (d : GReg) (a : GReg) (bn : Slot) (off : BitVec 10) (x : AtomExt)
  /-- Two-word acquire: an aligned 8-byte load at a scope (R192). -/
  | acq (d : GReg) (a : GReg) (bn : Slot) (off : BitVec 10) (sc : Scope)
  /-- Two-word release: an aligned 8-byte store at a scope (R192). -/
  | rel (src : GReg) (a : GReg) (bn : Slot) (off : BitVec 10) (sc : Scope)
  /-- Control-stream fence at a scope (R193). -/
  | fence (sc : Scope)
  /-- Loads a 32-byte buffer record into a slot after earlier blocks end (R194). -/
  | bufld (n : Slot) (a : GReg) (m : Slot)
  /-- Builds a buffer record in a slot from group registers (R194). -/
  | bufset (n : Slot) (a : GReg) (b : GReg)
  /-- Makes a buffer-record slot invalid (R194). -/
  | bufinv (n : Slot)
  /-- Enqueues a lane block with its argument, fmt and register count (R29). -/
  | lrun (w : BitVec 19) (a : GReg)
  /-- Enqueues a lane block whose result word is dropped (R29). -/
  | lrunNr (w : BitVec 19) (a : GReg)
  /-- Reads the oldest unread block result word and frees its entry (R31). -/
  | lres (d : GReg)
  /-- Waits until earlier blocks ended and their lane accesses are performed (R32). -/
  | lwait
  /-- Ends the group after its blocks end and its accesses perform (R25). -/
  | gend
  /-- Reads the location word (R196). -/
  | gloc (d : GReg)
  /-- Reads the role register (R196). -/
  | grole (d : GReg)
  /-- Reads a launch value selected by FN (R197). -/
  | glv (d : GReg) (n : BitVec 4)
  /-- Writes fmt if well formed, else traps ILLEGAL (R198). -/
  | fmtset (a : GReg)
  /-- Reads fmt (R198). -/
  | fmtget (d : GReg)
  /-- Reseeds every lane's stochastic generator after earlier blocks end (R198). -/
  | gseed (a : GReg)
  /-- Returns lane registers to the bay's sub-pool (R34). -/
  | vgive (n : BitVec 6)
  /-- Claims lane registers from the sub-pool, waiting in order; may trap CLAIMLOCK (R35). -/
  | vclaim (n : BitVec 6)
  /-- Reads the group's register count (R198). -/
  | vcount (d : GReg)
  /-- Arrives at a team barrier and waits for the phase to complete (R199). -/
  | nbsync (k : BitVec 4) (a : GReg)
  /-- Arrives at a team barrier without waiting (R199). -/
  | nbarrive (k : BitVec 4) (a : GReg)
  /-- Sets up an arrival word and returns its generation (R201). -/
  | aset (d : GReg) (a : GReg) (b : GReg)
  /-- Waits until an arrival-word generation is reached, with acquire at .team (R71). -/
  | await (a : GReg) (b : GReg)
  /-- Reads an arrival word's generation and flags without ordering (R201). -/
  | aread (d : GReg) (a : GReg)
  /-- Posts a byte count to an arrival word (R201). -/
  | apost (a : GReg) (b : GReg)
  /-- Appends an item to a team item queue if it has room (R202). -/
  | iqpush (d : QReg) (k : BitVec 5) (a : GReg)
  /-- Reads an item queue's count and bound state (R202). -/
  | iqstat (d : GReg) (k : BitVec 5)
  /-- Issues a matrix multiply-accumulate from scratchpad operands into the open batch (R251). -/
  | mma (e : GReg) (a : GReg) (b : GReg) (z : Bool)
  /-- Issues a matrix operation with A taken from lane registers (R252). -/
  | mmaV (e : GReg) (b : GReg) (z : Bool)
  /-- Multiplies resident vectors by streamed global weights (R253). -/
  | mmv (e : GReg) (v : GReg) (w : GReg) (z : Bool)
  /-- Closes the open matrix batch and returns its number (R255). -/
  | mfence (d : GReg)
  /-- Waits until a matrix batch is complete (R255). -/
  | mwait (a : GReg)
  /-- Issues a row copy between global, scratchpad and pipe-slot operands (R256). -/
  | tcopy (src : GReg) (dst : GReg) (c : GReg) (dk : Loc) (sk : Loc)
  /-- Issues a transposing copy into scratchpad or a slot (R257). -/
  | tcopyT (src : GReg) (dst : GReg) (c : GReg) (dk : Loc) (sk : Loc)
  /-- Multicasts a scratchpad tile to cores of the deck (R258). -/
  | tmcastDeck (src : GReg) (t : GReg) (c : GReg)
  /-- Multicasts a tile to cores of the tower through the Rein window (R259). -/
  | tmcastTower (src : GReg) (t : GReg) (c : GReg)
  /-- Streams device memory to host memory (R260). -/
  | hstreamOut (src : GReg) (dst : GReg) (c : GReg)
  /-- Streams host memory to device memory (R260). -/
  | hstreamIn (src : GReg) (dst : GReg) (c : GReg)
  /-- Issues a histogram of a scratchpad tile (R261). -/
  | qhist (src : GReg) (h : GReg) (c : GReg) (acc : Bool)
  /-- Computes a quantisation group word from a histogram (R262). -/
  | qclip (d : GReg) (h : GReg) (p : GReg)
  /-- Takes a free slot of a pipe for the producer, stalling PIPE-FULL (R141). -/
  | pacq (d : GReg) (n : BitVec 6)
  /-- Takes a free slot or returns the null handle (R141). -/
  | pacqTry (d : GReg) (n : BitVec 6)
  /-- Takes the oldest committed tile with acquire, stalling PIPE-EMPTY (R143). -/
  | pget (d : GReg) (n : BitVec 6)
  /-- Takes a committed tile or returns the null handle (R143). -/
  | pgetTry (d : GReg) (n : BitVec 6)
  /-- Publishes a held slot with a tag, as a release (R142). -/
  | pcommit (t : GReg) (h : GReg)
  /-- Returns a taken tile or spill entry (R144). -/
  | pfree (h : GReg)
  /-- Sends one scratchpad line as a Rein-window store (R264). -/
  | rput (src : GReg) (o : GReg) (m : GReg) (bn : Slot)
  /-- Sends one line as a Rein release at .rein (R264). -/
  | rputRel (src : GReg) (o : GReg) (m : GReg) (bn : Slot)
  /-- Reads the slot sequence of the last slot applied at the deck (R265). -/
  | rseq (d : GReg)
  /-- Reads a system register in system mode (R266). -/
  | sysrd (d : GReg) (r : SysReg)
  /-- Writes a system register in system mode (R266). -/
  | syswr (r : SysReg) (a : GReg)
  /-- Returns from a trap handler to TRAPPC and TRAPLPC (R315). -/
  | tret
  /-- Ends the group's team as faulted, discarding a rerunnable team (R267). -/
  | tabort
  /-- Drops translations of one page within a reach (R268). -/
  | tlbinvVa (a : GReg) (reach : Reach)
  /-- Drops every translation of a context within a reach (R268). -/
  | tlbinvCtx (a : GReg) (reach : Reach)
  /-- Drops every translation within a reach (R268). -/
  | tlbinvAll (reach : Reach)
  /-- Full settle of the issuing core (R269). -/
  | sysettle
  /-- Starts a snapshot: pause, full settles, arm copy-on-write (R325). -/
  | snapreq (d : GReg) (a : GReg)
  /-- Reads snapshot running and abandoned state (R269). -/
  | snapstat (d : GReg)
  /-- Traps BREAK with a code (R270). -/
  | brk (code : BitVec 10)
  /-- Lane integer add (R206). -/
  | vaddI32 (h : Hdr) (d : VReg) (a : VReg) (b : SrcB)
  /-- Lane integer subtract (R206). -/
  | vsubI32 (h : Hdr) (d : VReg) (a : VReg) (b : SrcB)
  /-- Lane signed saturating add (R206). -/
  | vaddSatI32 (h : Hdr) (d : VReg) (a : VReg) (b : SrcB)
  /-- Lane signed saturating subtract (R206). -/
  | vsubSatI32 (h : Hdr) (d : VReg) (a : VReg) (b : SrcB)
  /-- Lane unsigned saturating add (R206). -/
  | vaddSatN32 (h : Hdr) (d : VReg) (a : VReg) (b : SrcB)
  /-- Lane unsigned saturating subtract (R206). -/
  | vsubSatN32 (h : Hdr) (d : VReg) (a : VReg) (b : SrcB)
  /-- Lane low 32-bit product (R206). -/
  | vmulI32 (h : Hdr) (d : VReg) (a : VReg) (b : SrcB)
  /-- Lane high signed product (R206). -/
  | vmulhI32 (h : Hdr) (d : VReg) (a : VReg) (b : SrcB)
  /-- Lane high unsigned product (R206). -/
  | vmulhN32 (h : Hdr) (d : VReg) (a : VReg) (b : SrcB)
  /-- Lane multiply-add (R206). -/
  | vmadI32 (h : Hdr) (d : VReg) (a : VReg) (bc : SrcBC)
  /-- Lane signed divide that never traps (R207). -/
  | vdivI32 (h : Hdr) (d : VReg) (a : VReg) (b : SrcB)
  /-- Lane unsigned divide (R207). -/
  | vdivN32 (h : Hdr) (d : VReg) (a : VReg) (b : SrcB)
  /-- Lane signed remainder (R207). -/
  | vremI32 (h : Hdr) (d : VReg) (a : VReg) (b : SrcB)
  /-- Lane unsigned remainder (R207). -/
  | vremN32 (h : Hdr) (d : VReg) (a : VReg) (b : SrcB)
  /-- Lane signed minimum (R206). -/
  | vminI32 (h : Hdr) (d : VReg) (a : VReg) (b : SrcB)
  /-- Lane signed maximum (R206). -/
  | vmaxI32 (h : Hdr) (d : VReg) (a : VReg) (b : SrcB)
  /-- Lane unsigned minimum (R206). -/
  | vminN32 (h : Hdr) (d : VReg) (a : VReg) (b : SrcB)
  /-- Lane unsigned maximum (R206). -/
  | vmaxN32 (h : Hdr) (d : VReg) (a : VReg) (b : SrcB)
  /-- Lane absolute value (R206). -/
  | vabsI32 (h : Hdr) (d : VReg) (a : VReg)
  /-- Lane bitwise and (R206). -/
  | vand (h : Hdr) (d : VReg) (a : VReg) (b : SrcB)
  /-- Lane bitwise or (R206). -/
  | vor (h : Hdr) (d : VReg) (a : VReg) (b : SrcB)
  /-- Lane bitwise exclusive or (R206). -/
  | vxor (h : Hdr) (d : VReg) (a : VReg) (b : SrcB)
  /-- Lane and-not (R206). -/
  | vandn (h : Hdr) (d : VReg) (a : VReg) (b : SrcB)
  /-- Lane shift left (R206). -/
  | vshl (h : Hdr) (d : VReg) (a : VReg) (b : SrcB)
  /-- Lane logical shift right (R206). -/
  | vshr (h : Hdr) (d : VReg) (a : VReg) (b : SrcB)
  /-- Lane arithmetic shift right (R206). -/
  | vsra (h : Hdr) (d : VReg) (a : VReg) (b : SrcB)
  /-- Lane unsigned bit-field extract, clamped (R208). -/
  | vbfxN32 (h : Hdr) (d : VReg) (a : VReg) (b : SrcB)
  /-- Lane signed bit-field extract, clamped (R208). -/
  | vbfxI32 (h : Hdr) (d : VReg) (a : VReg) (b : SrcB)
  /-- Lane bit-field insert (R208). -/
  | vbfi (h : Hdr) (d : VReg) (a : VReg) (bc : SrcBC)
  /-- Lane count of leading zeros (R208). -/
  | vclz (h : Hdr) (d : VReg) (a : VReg)
  /-- Lane count of set bits (R208). -/
  | vpopc (h : Hdr) (d : VReg) (a : VReg)
  /-- Lane bit reversal (R208). -/
  | vbrev (h : Hdr) (d : VReg) (a : VReg)
  /-- Lane register move (R209). -/
  | vmov (h : Hdr) (d : VReg) (a : VReg)
  /-- Lane immediate move (R209). -/
  | vmovi (h : Hdr) (d : VReg) (imm : Word)
  /-- Reads the lane number (R209). -/
  | vlaneid (h : Hdr) (d : VReg)
  /-- Reads block argument bits [31:0] (R209). -/
  | vargl (h : Hdr) (d : VReg)
  /-- Reads block argument bits [63:32] (R209). -/
  | vargh (h : Hdr) (d : VReg)
  /-- Lane integer compare to a lane predicate (R210). -/
  | vcmp (h : Hdr) (c : ICond) (d : PReg) (a : VReg) (b : SrcB)
  /-- Lane predicate and (R211). -/
  | pand (h : Hdr) (d : PReg) (a : PReg) (b : PReg)
  /-- Lane predicate or (R211). -/
  | por (h : Hdr) (d : PReg) (a : PReg) (b : PReg)
  /-- Lane predicate exclusive or (R211). -/
  | pxor (h : Hdr) (d : PReg) (a : PReg) (b : PReg)
  /-- Lane predicate and-not (R211). -/
  | pandn (h : Hdr) (d : PReg) (a : PReg) (b : PReg)
  /-- Lane predicate negation (R211). -/
  | pnot (h : Hdr) (d : PReg) (a : PReg)
  /-- Lane register from predicate (R211). -/
  | vfromp (h : Hdr) (d : VReg) (a : PReg)
  /-- Lane select by predicate (R211). -/
  | vsel (h : Hdr) (d : VReg) (a : VReg) (b : SrcB) (c : PReg)
  /-- Opens a divergent region, skipping when no lane stays active (R39). -/
  | lif (h : Hdr) (off : BitVec 20)
  /-- Swaps active lanes of the region, skipping when none remain (R39). -/
  | lelse (t : Sched) (off : BitVec 20)
  /-- Closes a divergent region and reconverges (R39). -/
  | lendif (t : Sched)
  /-- Opens a lane loop (R40). -/
  | lloop (t : Sched)
  /-- Refill loop head that pulls items from an item queue to idle lanes (R43). -/
  | lloopRefill (t : Sched) (iq : BitVec 5) (d : VReg)
  /-- Lanes with the predicate leave a loop (R40). -/
  | lbreak (h : Hdr) (n : BitVec 8)
  /-- Lanes with the predicate continue the innermost loop (R40). -/
  | lcont (h : Hdr) (n : BitVec 8)
  /-- Closes a lane loop, branching back while lanes remain (R40). -/
  | lendloop (t : Sched) (off : BitVec 20)
  /-- Closes a refill loop, branching back while lanes or items remain (R44). -/
  | lendloopRefill (t : Sched) (iq : BitVec 5) (off : BitVec 20)
  /-- Ends the lane block and posts its result word (R30). -/
  | lend
  /-- Records the block result word from the lowest taking lane (R215). -/
  | vyield (h : Hdr) (a : VReg)
  /-- Posts each lane's item to a bound item queue (R45). -/
  | lcallQ (h : Hdr) (t : VReg) (a : VReg)
  /-- Lane-stream fence at a scope (R217). -/
  | vfence (t : Sched) (sc : Scope)
  /-- Lane global load, zero-extended (R219). -/
  | vld (h : Hdr) (d : VReg) (sz : Size) (bn : Slot) (a : VReg) (off : BitVec 23) (na : Bool)
  /-- Lane global 1- or 2-byte sign-extended load (R219). -/
  | vldSigned (h : Hdr) (d : VReg) (sz : Size) (bn : Slot) (a : VReg) (off : BitVec 23) (na : Bool)
  /-- Lane global store (R219). -/
  | vst (h : Hdr) (src : VReg) (sz : Size) (bn : Slot) (a : VReg) (off : BitVec 23) (na : Bool)
  /-- Lane scratchpad load, zero-extended (R219). -/
  | sld (h : Hdr) (d : VReg) (sz : Size) (a : VReg) (off : BitVec 23)
  /-- Lane scratchpad sign-extended load (R219). -/
  | sldSigned (h : Hdr) (d : VReg) (sz : Size) (a : VReg) (off : BitVec 23)
  /-- Lane scratchpad store (R219). -/
  | sst (h : Hdr) (src : VReg) (sz : Size) (a : VReg) (off : BitVec 23)
  /-- Lane gather load with row and column index (R219). -/
  | vgath (h : Hdr) (d : VReg) (b : VReg) (sz : Size) (bn : Slot) (a : VReg) (off : BitVec 23) (na : Bool)
  /-- Lane scatter store with row and column index (R219). -/
  | vscat (h : Hdr) (src : VReg) (b : VReg) (sz : Size) (bn : Slot) (a : VReg) (off : BitVec 23) (na : Bool)
  /-- Lane atomic, performed per location in ascending lane order (R220). -/
  | vatom (h : Hdr) (op : AtomOp) (w64 : Bool) (ord : Ord) (sc : Scope) (d : VReg) (bn : Slot) (a : VReg) (off : BitVec 23) (b : VReg) (c : VReg)
  /-- Future load at the home slice, deferred while empty (R222). -/
  | vldf (h : Hdr) (sc : Scope) (d : VReg) (p : PReg) (bn : Slot) (a : VReg) (off : BitVec 23)
  /-- Future load that empties the word (R222). -/
  | vldfTake (h : Hdr) (sc : Scope) (d : VReg) (p : PReg) (bn : Slot) (a : VReg) (off : BitVec 23)
  /-- Future store that fills an empty word and answers deferred requests (R73). -/
  | vstf (h : Hdr) (sc : Scope) (src : VReg) (p : PReg) (bn : Slot) (a : VReg) (off : BitVec 23)
  /-- Loads and marks lines of one block for a conditional commit (R76). -/
  | vmark (h : Hdr) (d : VReg) (sz : Size) (bn : Slot) (a : VReg) (off : BitVec 23)
  /-- Stores to marked lines atomically if none changed (R77). -/
  | vcommit (h : Hdr) (src : VReg) (p : PReg) (sz : Size) (bn : Slot) (a : VReg) (off : BitVec 23)
  /-- Floating-point add, rounded once (R228). -/
  | vfadd (h : Hdr) (ty : FTy) (d : VReg) (a : VReg) (b : SrcB)
  /-- Floating-point subtract (R228). -/
  | vfsub (h : Hdr) (ty : FTy) (d : VReg) (a : VReg) (b : SrcB)
  /-- Floating-point multiply (R228). -/
  | vfmul (h : Hdr) (ty : FTy) (d : VReg) (a : VReg) (b : SrcB)
  /-- Fused multiply-add, one rounding (R228). -/
  | vffma (h : Hdr) (ty : FTy) (d : VReg) (a : VReg) (bc : SrcBC)
  /-- Exact floating-point minimum (R229). -/
  | vfmin (h : Hdr) (ty : FTy) (d : VReg) (a : VReg) (b : SrcB)
  /-- Exact floating-point maximum (R229). -/
  | vfmax (h : Hdr) (ty : FTy) (d : VReg) (a : VReg) (b : SrcB)
  /-- Clears sign bits (R228). -/
  | vfabs (h : Hdr) (ty : FTy) (d : VReg) (a : VReg)
  /-- Inverts sign bits (R228). -/
  | vfneg (h : Hdr) (ty : FTy) (d : VReg) (a : VReg)
  /-- Floating-point compare to a lane predicate (R230). -/
  | vfcmp (h : Hdr) (ty : FTy) (c : FCond) (d : PReg) (a : VReg) (b : SrcB)
  /-- Packed two-element dot product plus FP32, one rounding (R231). -/
  | vfdot2 (h : Hdr) (bf : Bool) (d : VReg) (a : VReg) (bc : SrcBC)
  /-- Approximate reciprocal (R233). -/
  | vrcp (h : Hdr) (d : VReg) (a : VReg)
  /-- Approximate reciprocal square root (R233). -/
  | vrsqrt (h : Hdr) (d : VReg) (a : VReg)
  /-- Correctly rounded square root (R232). -/
  | vsqrt (h : Hdr) (d : VReg) (a : VReg)
  /-- Correctly rounded divide (R232). -/
  | vfdiv (h : Hdr) (d : VReg) (a : VReg) (b : SrcB)
  /-- Approximate power of two (R233). -/
  | vexp2 (h : Hdr) (d : VReg) (a : VReg)
  /-- Approximate base-2 logarithm (R233). -/
  | vlog2 (h : Hdr) (d : VReg) (a : VReg)
  /-- Approximate sin(pi a) (R233). -/
  | vsinpi (h : Hdr) (d : VReg) (a : VReg)
  /-- Approximate cos(pi a) (R233). -/
  | vcospi (h : Hdr) (d : VReg) (a : VReg)
  /-- Approximate hyperbolic tangent (R233). -/
  | vtanh (h : Hdr) (d : VReg) (a : VReg)
  /-- Converts between scalar formats (R235). -/
  | vcvt (h : Hdr) (st : VType) (dt : VType) (rm : RmSel) (ss : SatSel) (d : VReg) (a : VReg)
  /-- Packs two FP32 values into a 16-bit pair (R236). -/
  | vcvtPk (h : Hdr) (bf : Bool) (rm : RmSel) (ss : SatSel) (d : VReg) (a : VReg) (b : VReg)
  /-- Packs four FP32 values into FP8 bytes (R236). -/
  | vcvtPk4 (h : Hdr) (e5 : Bool) (rm : RmSel) (ss : SatSel) (d : VReg) (a : VReg)
  /-- Unpacks four FP8 bytes to FP32 (R236). -/
  | vcvtUnpk4 (h : Hdr) (e5 : Bool) (d : VReg) (a : VReg)
  /-- Unpacks a 16-bit pair to FP32 (R236). -/
  | vcvtUnpk (h : Hdr) (bf : Bool) (d : VReg) (a : VReg)
  /-- Quantises an element to Q8 or Q4 with a group word (R237). -/
  | vqnt (h : Hdr) (st : VType) (q4 : Bool) (rm : RmSel) (d : VReg) (a : VReg) (g : VReg)
  /-- Dequantises a Q8 or Q4 code to FP32 (R238). -/
  | vdeq (h : Hdr) (q4 : Bool) (d : VReg) (a : VReg) (g : VReg)
  /-- Lane shuffle (R239). -/
  | vshfl (h : Hdr) (m : ShflMode) (d : VReg) (a : VReg) (b : SrcB)
  /-- Vote any (R240). -/
  | vvoteAny (h : Hdr) (d : PReg) (a : PReg)
  /-- Vote all (R240). -/
  | vvoteAll (h : Hdr) (d : PReg) (a : PReg)
  /-- Vote uniform (R240). -/
  | vvoteUni (h : Hdr) (d : PReg) (a : PReg)
  /-- Ballot of a predicate into a register (R240). -/
  | vballot (h : Hdr) (d : VReg) (a : PReg)
  /-- Group reduction in a fixed tree (R241). -/
  | vred (h : Hdr) (op : RedOp) (d : VReg) (a : VReg) (p : PReg)
  /-- Group inclusive scan (R241). -/
  | vscan (h : Hdr) (op : RedOp) (d : VReg) (a : VReg)
  /-- Reads an accumulator tile into lane registers; busy tile traps ACCBUSY (R243). -/
  | amov (h : Hdr) (w : TileW) (d : VReg) (n : BitVec 9)
  /-- Writes lane registers into an accumulator tile (R243). -/
  | amovw (h : Hdr) (w : TileW) (src : VReg) (n : BitVec 9)
  /-- Zeroes the tile elements that taking lanes hold (R243). -/
  | azero (h : Hdr) (n : BitVec 9)
  /-- Lane break trap when some lane takes part (R270). -/
  | lbrk (h : Hdr) (code : BitVec 8)
  /-- Enters the trap handler once the bay's handler bank is free (R314). -/
  | trapEntry (g : Nat)
  /-- A waiting register claim is granted once the free count meets it (R35). -/
  | claimGrant (team : Nat) (bay : Nat)
  /-- Starts a drain group in an emptied slot while a bound queue holds items (R46). -/
  | drainGroupStart (team : Nat) (slot : Nat)
  /-- Places a team on a core once its whole budget is free (R21). -/
  | teamPlace (launch : Nat) (stage : Nat) (deck : Nat)
  /-- Retires a team when slots, bound queues and commands are done (R26). -/
  | teamRetire (team : Nat)
  /-- An engine lands a destination line and posts its piece to the arrival word (R70). -/
  | engineLanding (core : Nat) (cmd : Nat) (piece : Nat)
  /-- The histogram is written and its whole count posted (R261). -/
  | qhistDone (core : Nat) (cmd : Nat)
  /-- One line of a host stream is translated and moved (R260). -/
  | hstreamLine (core : Nat) (cmd : Nat)
  /-- A closed matrix batch completes, freeing tiles and range locks (R254). -/
  | batchComplete (g : Nat)
  /-- A bad group word read by a matrix operation fails its batch (R319). -/
  | groupword (core : Nat)
  /-- A core serves a settle request, writing back dirty lines up to a mark (R93). -/
  | settle (core : Nat)
  /-- The settle acknowledgement completes a stalled acquire and retires records (R92). -/
  | settleAck (g : Nat) (lane : Bool)
  /-- A core settles itself when CM passes a multiple of 2^20 (R94). -/
  | backgroundSettle (core : Nat)
  /-- A home slice times out during a settle; the buddy takes over or the acquire traps (R97). -/
  | homeTimeout (g : Nat) (lane : Bool)
  /-- Each clock a Rein slot is granted and applied to every awake deck's replica (R107). -/
  | reinSlot (tower : Nat) (flips : List (Nat × Nat))
  /-- A deck starts refilling a stale replica by replay or copy (R111). -/
  | refill (deck : Nat)
  /-- The refill reaches the live slot and waiting Rein accesses proceed (R111). -/
  | refillEnd (deck : Nat)
  /-- The stack cache writes back dirty lines in the background (R49). -/
  | stackWriteback (core : Nat) (bay : Nat) (line : Nat)
  /-- The core prefetches a line for a placed group (R379). -/
  | prefetch (g : Nat) (bn : Nat) (off : Nat)
  /-- A TLB miss walks the page tables for a line (R309). -/
  | translateWalk (g : Nat) (va : Nat) (k : AccKind)
  /-- The scheduler saves the faulting team and posts a PAGEFAULT record (R316). -/
  | pagefault (g : Nat)
  /-- FRESUME with ACT 1 makes a faulted team ready to restore (R316). -/
  | fresumeRetry (part : Nat) (frame : Nat)
  /-- FRESUME with ACT 2 makes the faulting instruction trap ACCESS on restore (R316). -/
  | fresumeFail (part : Nat) (frame : Nat)
  /-- Writing PREEMPT.REQ 1 halts, drains and saves the partition (R320). -/
  | preemptReq (part : Nat)
  /-- Writing PREEMPT.REQ 0 restores the launch state and saved teams (R320). -/
  | preemptRestore (part : Nat)
  /-- At the drain bound, still outstanding commands are abandoned with PARTIAL (R104). -/
  | drainBound (team : Nat)
  /-- Writes a team's context to a Stable frame and frees its resources (R322). -/
  | save (team : Nat)
  /-- Places a saved team and reads its frame back (R322). -/
  | restore (part : Nat) (frame : Nat)
  /-- A parity or uncorrectable private-state error ends a team with record 0x73 (R371). -/
  | stateError (team : Nat)
  /-- An ECC error is corrected and counted, or poisons the sector (R371). -/
  | softError (site : ErrSite) (corrected : Bool)
  /-- Background scrub reads and corrects L2 and scratchpad lines (R371). -/
  | scrub (pa : Nat)
  /-- The first write to a SNAP line after the point copies the old line (R325). -/
  | snapCopyOnWrite (part : Nat) (pa : Nat)
  /-- The snapshot engine finishes copying, or abandons on a full area (R325). -/
  | snapEnd (part : Nat)
  /-- Configures or enables a launch queue (R280). -/
  | lqcfgWrite (q : Nat) (v : GWord)
  /-- Publishes launch records, or posts TAILERR (R281). -/
  | lqtailWrite (q : Nat) (v : GWord)
  /-- Every 1 us the dependence of a host-memory word is retested (R282). -/
  | depPoll (q : Nat)
  /-- The master takes a ready queue head, refusing or activating it (R283). -/
  | launchTake (part : Nat)
  /-- A waiting hitch becomes active once SHAREMIN cores fit (R296). -/
  | hitchActivate (part : Nat)
  /-- The launch status word is written when every team is done (R284). -/
  | launchComplete (launch : Nat)
  /-- The master issues a range of team indices to a deck pool (R299). -/
  | rangeIssue (launch : Nat) (stage : Nat) (deck : Nat)
  /-- A deck with an empty pool asks a victim for teams (R301). -/
  | stealRequest (launch : Nat) (thief : Nat)
  /-- A thief receives a lend landing and acknowledges it (R302). -/
  | landing (launch : Nat) (victim : Nat) (seq : Nat)
  /-- The victim receives an acknowledgement and sends a transfer or refusal (R302). -/
  | lendAck (launch : Nat) (victim : Nat) (seq : Nat)
  /-- The master records a lend transfer and confirms to the thief (R302). -/
  | transfer (launch : Nat) (victim : Nat) (seq : Nat)
  /-- The thief's landed teams join its pool (R302). -/
  | confirmation (launch : Nat) (victim : Nat) (seq : Nat)
  /-- The thief discards a refused landing (R302). -/
  | lendRefusal (launch : Nat) (victim : Nat) (seq : Nat)
  /-- 2 us after shipping, an unacknowledged lend is reclaimed (R302). -/
  | lendReclaim (launch : Nat) (victim : Nat) (seq : Nat)
  /-- 4 us without answer, the thief asks the master (R302). -/
  | landedTimeout (launch : Nat) (victim : Nat) (seq : Nat)
  /-- Every 10 us the Teamster samples pipes and may start a core move (R303). -/
  | teamsterTick (launch : Nat)
  /-- A moved core is held by its new stage once empty of old teams (R303). -/
  | moveEnd (launch : Nat)
  /-- Every 1 us the monitor finds blocked stages and, after HOLD, spills or halts (R304). -/
  | deadlockTick (launch : Nat)
  /-- At most every 10 us the done watermark is written (R297). -/
  | donewWrite (launch : Nat)
  /-- The Farrier fences a deck that failed to answer in time (R375). -/
  | fenceDeck (decks : List Nat)
  /-- Configures or enables the fault queue (R306). -/
  | fqcfgWrite (part : Nat) (v : GWord)
  /-- The driver consumes records, letting waiting posts proceed (R307). -/
  | fqheadWrite (part : Nat) (v : GWord)
  /-- A write to a register with no row of its own, by its access codes (R3). -/
  | registerWrite (addr : Nat) (v : GWord)
  /-- Verifies record and firmware, sets measurements, brings up the package (R353). -/
  | powerUp
  /-- Writes a signed attestation report (R354). -/
  | attest
  /-- Joins two quiesced partitions and formats them (R363). -/
  | merge
  /-- Splits a quiesced partition and formats the parts (R363). -/
  | split
  /-- Formats a quiesced partition in place (R363). -/
  | reset
  /-- Returns the whole package to its power-up state (R365). -/
  | pkgreset
  /-- Settles, drains the send queue and gates a deck (R381). -/
  | sleep
  /-- Powers a deck and starts its replica refill (R381). -/
  | wake
  /-- Erases the key store at once (R377). -/
  | erase
  /-- Sets tamper policies once and extends measurement M2 (R376). -/
  | tamperpolWrite (v : GWord)
  /-- Sets the power cap and extends measurement M2 (R382). -/
  | pwrcapWrite (v : GWord)
  /-- A sensor alarms: HIT set, record posted, halt or erase per policy (R377). -/
  | tamperAlarm (sensor : Nat)
  /-- The Farrier lowers the core clock to hold power and temperature (R382). -/
  | powerControl (watts : Nat) (junction : Nat)
  /-- A junction above 115 C for 1 ms halts the package (R382). -/
  | thermalHalt
  /-- The host link starts training on PERST# deassertion (R329). -/
  | perstDeassert
  /-- Host link training completes as PCIe or CXL (R329). -/
  | linkUp (cxl : Bool) (flit : Bool) (width : Nat) (speed : Nat)
  /-- A host link reset loses requests, drops host lines and posts records (R332). -/
  | hostLinkReset
  /-- Enables or disables training of a UALink port (R330). -/
  | portcfgWrite (port : Nat) (v : GWord)
  /-- A UALink port completes training and its pipes start (R330). -/
  | portUp (port : Nat) (peer : Nat)
  /-- A port fails; hitches with pipes on it halt with LINKLOST (R331). -/
  | portFail (port : Nat)
  /-- A host CXL.mem read is served at the home slice (R334). -/
  | hostMemRead (pa : Nat)
  /-- A host CXL.mem write is performed at the home slice (R334). -/
  | hostMemWrite (pa : Nat) (bytes : List Byte)
  /-- The host's BIConflict is answered with BIConflictAck (R336). -/
  | biconflict (pa : Nat)
  /-- A host snoop of a host-memory line held in a device L2 is answered (R340). -/
  | hostSnoop (pa : Nat) (inv : Bool)
  /-- FLIPREQ with GO starts a bias flip of one page (R338). -/
  | flip (part : Nat) (v : GWord)
  /-- The flip's write-backs or snoops finish and the bias bit changes (R338). -/
  | flipComplete (part : Nat)
  /-- A pending MSI-X vector is sent when unmasked (R328). -/
  | msixSend (vec : Nat)
  /-- A TILE message lands bytes of a tile (R344). -/
  | tile (port : Nat) (m : Msg)
  /-- A COMMIT message commits a tile or adds it to its merge (R344). -/
  | commit (port : Nat) (m : Msg)
  /-- A CREDIT message returns one credit (R344). -/
  | credit (port : Nat) (m : Msg)
  /-- A CLOSE message closes the pipe at the consumer (R344). -/
  | close (port : Nat) (m : Msg)
  /-- A PAUSE message marks the sender's producers saved (R344). -/
  | pause (port : Nat) (m : Msg)
  /-- A RESUME message marks them restored (R344). -/
  | resume (port : Nat) (m : Msg)
  /-- An ABORT message abandons the sender's tile or merge (R348). -/
  | abort (port : Nat) (m : Msg)
  /-- A merge's hold timer reaches HOLDLIM and the merge is abandoned (R348). -/
  | mergeHoldExpiry (pipe : Nat) (k : Nat)
  /-- The zeroing of a MERGE, SPLIT or RESET ends, FSTAT.STATE becomes 2 and held host CXL.mem requests are served under the new layout (R363). -/
  | formatComplete
  /-- A UALink request other than a write to the message window arrives from a peer; it gets an error completion and is counted (R342). -/
  | errorCompletion (port : Nat)
  /-- A UALink message whose header fails HCHECK or whose KIND is reserved arrives and is dropped and counted in XDROP (R343). -/
  | droppedMessage (port : Nat) (m : Msg)
  deriving DecidableEq, Repr

end Sys2Proof
end

