-- ==== Sys2Proof/Machine/State.lean ====
section
/-! DEFINITION. The state of the ZD8 as plain data, and the state after a package reset. Tables are
association lists; an entry that is not listed holds the default of its kind. -/

namespace Sys2Proof.Machine

open Sys2Proof

/-- A table from numbers to values. -/
abbrev Tab (α : Type) := List (Nat × α)

/-- Byte-addressed memory in canonical form: addresses strictly rising, no listed byte zero. -/
abbrev Memory := List Host.Cell

/-- Why the machine stops with a fault. -/
inductive Fault where
  /-- A trap on the Farrier, for which 15 R314 gives no handler entry (it is told of groups only). Safe: the model stops. -/
  | farrierTrap (code : Nat)
  deriving DecidableEq, Repr

/-- Why an instruction has no meaning. -/
inductive Refusal where
  /-- An instruction of the table that the model gives no meaning, by its mnemonic. Safe: the model stops. -/
  | notModelled (mnemonic : String)
  deriving DecidableEq, Repr

/-- The stall reasons (02 R50), and waits that count as latency. -/
inductive Stall where
  | pipeFull | pipeEmpty | arrival | barrier | batch | laneq | claim | future | fault | settle | latency
  deriving DecidableEq, Repr

/-- A pinned line: the slice whose pinned ways it is filled into, and the context and page under which it was first filled
(03 R64). -/
structure Pin where
  slice : Nat
  ctx   : Nat
  va    : Nat
  size  : Nat
  deriving DecidableEq, Repr

/-- A release record: releaser core and mark (04 R91). -/
structure Rec where
  core : Nat
  mark : Word
  deriving DecidableEq, Repr

/-- How a line came: on demand (or referenced since), by a prefetch in flight, or by one that has arrived (17 R379). -/
inductive Fetched where
  | demand | flying | unused
  deriving DecidableEq, Repr

/-- A load of one byte that a stream of a team's group performed ahead of its place in program order: its physical address, or its
offset in the team's scratchpad window, and the value that the byte had (04 R87, log 3). -/
structure Early where
  gid  : Nat
  lane : Bool
  uid  : Nat
  scr  : Bool
  at_  : Nat
  val  : Byte
  deriving DecidableEq, Repr

/-- A line of an L1 or of a stack cache: data, byte dirty mask, stamp (in a stack cache its place in the order of use, 02 R49),
whether its page is private to the core, whether it was prefetched and not yet referenced, and the 32-byte sectors whose check does not
match (04 R90, 15 R311, 17 R369, R379). -/
structure Line where
  data  : List Byte
  dirty : BitVec 128
  stamp : Word
  priv  : Bool
  pf    : Fetched
  bad   : BitVec 4
  deriving DecidableEq, Repr

/-- A valid buffer record (03 R56). -/
structure BufRec where
  base    : GWord
  extent  : BitVec 40
  stride  : Word
  esize   : BitVec 3
  swz     : BitVec 4
  rdok    : Bool
  wrok    : Bool
  noalloc : Bool
  idem    : Bool
  deriving DecidableEq, Repr

/-- A TLB entry: context, page base and size, level of the entry, leaf entry and its physical address (15 R310). -/
structure TlbE where
  ctx  : Nat
  va   : Nat
  size : Nat
  lvl  : Nat
  ptea : Nat
  pte  : GWord
  deriving DecidableEq, Repr

/-- A range-lock entry: a range of global addresses of a context, or of a team's window (04 R98). -/
structure LockE where
  glob  : Bool
  owner : Nat
  lo    : Nat
  hi    : Nat
  dst   : Bool
  cmd   : Nat
  deriving DecidableEq, Repr

/-- A row operand of an engine command, as its registers stood at issue (11 R256). -/
inductive Place where
  /-- A buffer record and a byte offset. -/
  | glob (r : BufRec) (off : Int)
  /-- A window offset with ROWPITCH, TILEPITCH and ROT (03 R67). -/
  | scr (team : Nat) (off rowp tilep rot : Nat)
  /-- A pipe (by its key), a handle and a byte offset in the tile (06 R146). -/
  | slot (pipe : Nat) (handle : GWord) (off : Nat)
  deriving DecidableEq, Repr

/-- Kinds of outstanding engine commands. -/
inductive CmdKind where
  | copy | mcastDeck | mcastTower | hostOut | hostIn | hist
  deriving DecidableEq, Repr

/-- A receiver of a multicast: core, its team (and the team's number) when one is placed there at issue, pieces landed
(11 R258). -/
structure Recv where
  core : Nat
  team : Option Nat
  uid  : Nat
  done : List Nat
  deriving DecidableEq, Repr

/-- An outstanding engine command (11 R248). `tr` maps the lines of its global ranges to physical lines, as translated at issue;
`ar` is the receivers' arrival word, `staged` the window lines sent of a tower multicast, `pos` the bytes posted, `pre` the bytes of memory
that it has read before their piece, by physical address, `wrote` those that it has written before it, by receiver, row and column
(04 R103), and `never` the physical lines of never-cached pages (03 R61). -/
structure Cmd where
  kind  : CmdKind
  team  : Nat
  gid   : Nat
  src   : Place
  dst   : Place
  rows  : Nat
  rowb  : Nat
  esz   : Nat
  trans : Bool
  aw    : Nat
  fmt   : Nat
  acc   : Bool
  len   : Nat
  pos   : Nat
  st    : Nat
  done  : List Nat
  recvs : List Recv
  tr    : List (Nat × Nat)
  ar    : Nat
  staged : Nat
  pre   : Tab Byte
  wrote : List (Nat × Nat × Nat)
  never : List Nat
  deriving DecidableEq, Repr

/-- Kinds of matrix operations. -/
inductive MatKind where
  | mma | mmaV | mmv
  deriving DecidableEq, Repr

/-- A matrix operation that is not complete: operand registers and fmt as read at issue, and the weights' bytes that it has read before
their chunk, by physical address (11 R251 to R254, 15 R321, 04 R103). -/
structure MatOp where
  id     : Nat
  kind   : MatKind
  gid    : Nat
  team   : Nat
  batch  : Word
  region : GWord
  regs   : List GWord
  rcd    : Option BufRec
  tr     : List (Nat × Nat)
  fmt    : Word
  zero   : Bool
  chunks : Nat
  ran    : Bool
  bad    : Bool
  pre    : Tab Byte
  deriving DecidableEq, Repr

/-- The handler bank of a bay: owner, identity of its undefined contents, and what has been written (15 R314). -/
structure Bank where
  owner : Option Nat
  id    : Nat
  hg    : Tab GWord
  hv    : Tab Word
  hb    : Tab (Option BufRec)
  deriving DecidableEq, Repr

/-- A settle request at a core: the mark, and the waiting stream if an acquire sent it (04 R93). -/
structure SettleReq where
  mark : Word
  who  : Option (Nat × Bool)
  deriving DecidableEq, Repr

/-- The state of one core. -/
structure Core where
  cm          : Word
  settled     : Word
  checkmode   : GWord
  handlerBase : GWord
  l1          : Tab Line
  stackc      : Tab Line
  tlb         : List TlbE
  locks       : Tab LockE
  matq        : List MatOp
  cmds        : Tab Cmd
  settleReqs  : List SettleReq
  banks       : Tab Bank
  heldBy      : Option (Nat × Nat)
  moving      : Bool
  deriving DecidableEq, Repr

/-- A core after core reset (04 R90, 07 R173, 15 R312). -/
def Core.empty : Core :=
  { cm := 1, settled := 0, checkmode := 0, handlerBase := 0, l1 := [], stackc := [], tlb := [], locks := [], matq := [],
    cmds := [], settleReqs := [], banks := [], heldBy := none, moving := false }

/-- A held entry of the lane queue (02 R29, 15 R322). -/
structure QEntry where
  arg    : GWord
  block  : Nat
  nr     : Bool
  posted : Bool
  fmt    : Word
  count  : Nat
  result : Word
  deriving DecidableEq, Repr

/-- The three completion rings (07 R171). -/
inductive Ring where
  | M | L | F
  deriving DecidableEq, Repr

/-- A result that a later word must count or wait for: a lane register or predicate, the producer's ring or its fixed
latency left, and the values it replaced (07 R170 to R172). -/
structure Hazard where
  pred : Bool
  reg  : Nat
  ring : Option Ring
  left : Nat
  old  : List Word
  deriving DecidableEq, Repr

/-- A control stream's wait. -/
inductive CWait where
  | none
  /-- Stalled; the instruction at pc is tried again. -/
  | stall (r : Stall)
  /-- A claim in its sub-pool's queue (02 R35). -/
  | claim
  /-- An acquire whose value is held until the settle of (core, mark) is acknowledged (04 R92). -/
  | settle (r : Rec) (vals : List (Nat × GWord)) (len : Nat)
  /-- An acquiring atomic that waits for the settle of (core, mark) before it is performed (08 R203). -/
  | presettle (r : Rec) (acked : Bool)
  /-- A Rein atomic in the send queue, or a full send queue (04 R110). -/
  | rein
  /-- An access, as latency, or an engine command, as BATCH, that meets a page being flipped (16 R339). -/
  | flip (r : Stall)
  deriving DecidableEq, Repr

/-- A lane stream's wait. -/
inductive LWait where
  | none
  | stall (r : Stall)
  | presettle (r : Rec) (acked : Bool)
  /-- A lane atomic with window slots that are not applied: how many, the results (register, lane, value), and the word. -/
  | rein (left : Nat) (vals : List (Nat × Nat × Word)) (i : Instr)
  /-- An access that meets a page being flipped (16 R339). -/
  | flip
  deriving DecidableEq, Repr

/-- A trap that is to enter, or a page fault that is to be taken. -/
inductive Pending where
  | trap (lane : Bool) (code info : Nat) (lnum : Option Nat) (va : GWord)
  | pf (lane : Bool) (va : Nat) (k : AccKind) (lnum : Option Nat)
  deriving DecidableEq, Repr

/-- The state of one group, its two streams included (02 R24, 15 R312, R322). `reported` are failed batches whose trap an
`mwait` has taken (15 R319), `bphase` is the barrier and phase that a waiting
`nbsync` has arrived in (08 R199), `posted` the lanes of a waiting `lcall.q` that have posted (02 R45), `acqVa` and `acqLane`
the address and the lane of a waiting acquire (04 R97). While a handler runs, `heldPhase` and `heldPosted` are what the interrupted
words at control address `heldPc` and at the lane stream's place had done, and `heldArr` how that place was reached. -/
structure Group where
  team      : Nat
  gidx      : Nat
  g         : Tab GWord
  q         : BitVec 8
  pc        : GWord
  fmt       : Word
  role      : Word
  count     : Nat
  v         : Tab Word
  p         : Tab Word
  dc        : Tab Nat
  cm        : Word
  gen       : Tab Word
  buf       : Tab BufRec
  laneQ     : List QEntry
  started   : Bool
  lpc       : Nat
  refillArr : Bool
  hazards   : List Hazard
  ringM     : Nat
  ringL     : Nat
  ringF     : Tab Word
  bc        : Word
  lastDone  : Word
  failed    : List Word
  reported  : List Word
  sys       : Bool
  laneTrap  : Bool
  cause     : GWord
  trappc    : GWord
  traplpc   : GWord
  trapva    : GWord
  stackLim  : GWord
  heldDc    : Tab Nat
  heldCm    : Word
  heldArr   : Bool
  heldPhase : Option (Nat × Nat)
  heldPosted : Word
  heldPc    : GWord
  hblock    : Option QEntry
  hlpc      : Nat
  hresult   : List Word
  cwait     : CWait
  lwait     : LWait
  acqVa     : GWord
  acqLane   : Nat
  bphase    : Option (Nat × Nat)
  posted    : Word
  pend      : Option Pending
  halted    : Bool
  tcore     : Nat
  deriving DecidableEq, Repr

/-- An empty slot: every register zero, no buffer record, empty queues. -/
def Group.empty : Group :=
  { team := 0, gidx := 0, g := [], q := 0, pc := 0, fmt := 0, role := 0, count := 0, v := [], p := [], dc := [], cm := 0,
    gen := [], buf := [], laneQ := [], started := false, lpc := 0, refillArr := false, hazards := [], ringM := 0, ringL := 0,
    ringF := [], bc := 0, lastDone := 0, failed := [], reported := [], sys := false, laneTrap := false, cause := 0, trappc := 0, traplpc := 0,
    trapva := 0, stackLim := 0, heldDc := [], heldCm := 0, heldArr := false, heldPhase := none, heldPosted := 0,
    heldPc := 0, hblock := none, hlpc := 0, hresult := [], cwait := .none,
    lwait := .none, acqVa := 0, acqLane := 0, bphase := none, posted := 0, pend := none, halted := false, tcore := 0 }

/-- The launch values of a team (02 R23). -/
structure LaunchVals where
  x : Word
  y : Word
  z : Word
  gx : Word
  gy : Word
  gz : Word
  shape : List Word
  bucket : Nat
  args : GWord
  stage : Nat
  deriving DecidableEq, Repr

/-- A team barrier (08 R199). -/
structure Barrier where
  arrived : Nat
  expect  : Nat
  phase   : Nat
  deriving DecidableEq, Repr

/-- A binding of an item queue (14 R287). -/
structure Bind where
  bound : Bool
  role  : Nat
  entry : GWord
  deriving DecidableEq, Repr

/-- A group slot that a team holds: core-local slot, group index, occupied (02 R20, R25). -/
structure SlotHold where
  slot : Nat
  gidx : Nat
  occ  : Bool
  deriving DecidableEq, Repr

/-- A waiting register claim (02 R35). -/
structure Claim where
  bay : Nat
  gid : Nat
  n   : Nat
  deriving DecidableEq, Repr

/-- A placed team. `bad` are the 32-byte sectors of its window that are poisoned (17 R371). `saving` is 1 while it stops to be saved
for a pre-emption and 2 for a page fault; `faultG` is the index of its group whose instruction page-faulted first (15 R316, R320), and
`blocked` the pipes on which it stalled when it was stopped, if it was blocked then (14 R304). -/
structure Team where
  core    : Nat
  part    : Nat
  launch  : Nat
  stage   : Nat
  lin     : Nat
  ctx     : Nat
  lv      : LaunchVals
  groups  : Nat
  vregs   : Nat
  acc     : Nat
  scratch : Nat
  niq     : Nat
  iqs     : Tab (List GWord)
  binds   : List Bind
  slots   : List SlotHold
  free    : Tab Nat
  claims  : List Claim
  bars    : Tab Barrier
  win     : Tab Byte
  bad     : List Nat
  tiles   : Tab Word
  area    : Option Nat
  mcast   : Bool
  rerun   : Bool
  faulted : Bool
  uid     : Nat
  lcb     : GWord
  lcn     : Nat
  fmt0    : Word
  seed    : GWord
  stackLo : GWord
  stackSz : Nat
  saving  : Nat
  faultG  : Nat
  blocked : Option (List (Nat × Bool))
  deriving DecidableEq, Repr

def LaunchVals.empty : LaunchVals :=
  { x := 0, y := 0, z := 0, gx := 0, gy := 0, gz := 0, shape := [], bucket := 0, args := 0, stage := 0 }

/-- A team entry that is free. -/
def Team.empty : Team :=
  { core := 0, part := 0, launch := 0, stage := 0, lin := 0, ctx := 0, lv := LaunchVals.empty, groups := 0, vregs := 0, acc := 0,
    scratch := 0, niq := 0, iqs := [], binds := [], slots := [], free := [], claims := [], bars := [], win := [], bad := [], tiles := [],
    area := none, mcast := false, rerun := false, faulted := false, uid := 0, lcb := 0, lcn := 0, fmt0 := 0, seed := 0,
    stackLo := 0, stackSz := 0, saving := 0, faultG := 0, blocked := none }

/-- A grid as its descriptor and selected bucket give it (14 R285 to R288). -/
structure Grid where
  lcb     : GWord
  lcn     : Nat
  fmt     : Word
  seed    : GWord
  roleMap : GWord
  stackBase : GWord
  stackSize : Nat
  areas   : Nat
  binds   : List Bind
  mcast   : Bool
  migr    : Bool
  bucket  : Nat
  entry   : GWord
  groups  : Nat
  vregs   : Nat
  acc     : Nat
  scratch : Nat
  gx : Nat
  gy : Nat
  gz : Nat
  deriving DecidableEq, Repr

/-- An issued or unstarted range of team indices, inclusive, with the deck that holds it (14 R298, R299). -/
structure Range where
  lo   : Nat
  hi   : Nat
  deck : Nat
  deriving DecidableEq, Repr

/-- A stage of an active or waiting launch (14 R293, R298). -/
structure Stage where
  grid     : Grid
  ckstart  : Nat
  rerun    : Bool
  retry    : Nat
  shareMin : Nat
  shareMax : Nat
  rslot    : Nat
  rslotN   : Nat
  movePre  : Bool
  next     : Nat
  returned : List Range
  pools    : List Range
  shadow   : List Range
  retired  : List Nat
  ended    : List Nat
  discards : Tab Nat
  areasUsed : List Nat
  deriving DecidableEq, Repr

/-- A lend and the messages of it that are under way (14 R302); `named` says that the shadow names its thief by its number. -/
structure Lend where
  seq     : Nat
  victim  : Nat
  thief   : Nat
  stage   : Nat
  lo      : Nat
  hi      : Nat
  shipped : Nat
  lent    : Bool
  named   : Bool
  landed  : Option Nat
  mLanding  : Bool
  mAck      : Bool
  mTransfer : Bool
  mConfirm  : Bool
  mRefuse   : Bool
  deriving DecidableEq, Repr

/-- A spill entry in use (14 R384): the pipe and the tile's sequence number. -/
structure Spill where
  pipe : Nat
  seq  : Word
  deriving DecidableEq, Repr

/-- A launch that has been taken: waiting for cores, active or complete (14 R283, R296). -/
structure Launch where
  part    : Nat
  queue   : Nat
  index   : Nat
  prio    : Nat
  hitch   : Bool
  active  : Bool
  desc    : GWord
  ctx     : Nat
  args    : GWord
  shape   : List Word
  status  : GWord
  stages  : List Stage
  faulted : Bool
  tms     : Bool
  hold    : Nat
  spillN  : Nat
  spillBase : GWord
  spillE  : Nat
  spills  : Tab Spill
  since   : Option Nat
  lastD   : List Nat
  seenCommits : Nat
  move    : Option (Nat × Nat × Nat)
  lastDone : Nat
  lends   : List Lend
  deriving DecidableEq, Repr

/-- The states of a pipe slot (06 R140). -/
inductive SlotState where
  | free | held | pending | committed | taken | done | returned
  deriving DecidableEq, Repr

/-- A tile: in a slot, or spilled (06 R138, R140). `team` is the holder's stage and linear index. -/
structure Tile where
  st    : SlotState
  slot  : Nat
  spill : Bool
  seq   : Word
  tag   : GWord
  rcd   : Option Rec
  team  : Nat × Nat
  order : Nat
  data  : Tab Byte
  uid   : Nat
  bad   : List Nat
  abort : Bool
  from_ : List Nat
  deriving DecidableEq, Repr

/-- A tile that a UALink sender is sending, or its contribution to a merge (16 R344, R347); `skip` stands for one that will never
come (R348). -/
structure InTile where
  sender : Nat
  seq    : Nat
  data   : Tab Byte
  tag    : Option GWord
  bad    : List Nat
  abort  : Bool
  skip   : Bool
  deriving DecidableEq, Repr

/-- A pipe of a running hitch (06 R137, 14 R294). Of a pipe that leaves the package: `sent` and `credits` at the producers' side; at
the consumer's, the tiles under way, the tiles of each sender that are through (`passed`), the merges that are through (`merged`),
the abandoned ones with the senders whose contributions had come, the hold timers of merges, and the senders that paused, closed
(with the tiles they sent) or were seen. -/
structure Pipe where
  rows     : Nat
  rowBytes : Nat
  fmt      : Nat
  depth    : Nat
  prods    : List Nat
  cons     : Nat
  homes    : List Nat
  xlink    : Nat
  xport    : Nat
  xpipe    : Nat
  seq      : Word
  order    : Nat
  tiles    : List Tile
  acqWait  : List Nat
  getWait  : List Nat
  closed   : Bool
  credits  : Nat
  sent     : Nat
  inTiles  : List InTile
  passed   : Tab Nat
  merged   : Nat
  abandoned : Tab (List Nat)
  timers   : Tab Nat
  paused   : List Nat
  closedBy : Tab Nat
  senders  : List Nat
  deriving DecidableEq, Repr

/-- Where the old value of a Rein atomic goes: a group register, or a lane of a lane register. -/
inductive RDest where
  | none
  | g (r : Nat)
  | v (r lane : Nat)
  deriving DecidableEq, Repr

/-- A Rein write in a deck's send queue or in the held slots (04 R106, R110); `acq` marks an atomic with acquire (R109), `synced` a
lane write that an `lwait` has ordered before the control stream (R81), and `bytes` and `flags` what a copy's write posts once its
own deck has applied it (03 R70). -/
structure RWrite where
  gid    : Nat
  lane   : Bool
  core   : Nat
  line   : Nat
  kind   : Nat
  aop    : Nat
  mask   : Word
  mark   : Word
  data   : List Word
  launch : Nat
  stage  : Nat
  cmd    : Option Nat
  dest   : RDest
  acq    : Bool
  synced : Bool
  bytes  : Nat
  flags  : Nat
  deriving DecidableEq, Repr

/-- A deck: its power, its replica of the tower's window and its send queue (04 R107 to R112, 17 R356, R381). `own` holds its writes that
a slot has taken and it has not applied, `bad` the poisoned 32-byte sectors of its replica (17 R371). -/
structure Deck where
  awake    : Bool
  live     : Bool
  rep      : Tab Word
  bad      : List Nat
  recs     : Tab Rec
  stale    : Bool
  copying  : Option Nat
  sendQ    : List RWrite
  own      : List RWrite
  lastQ    : Nat
  sleptAt  : Nat
  sleeping : Bool
  lendSeq  : Word
  waking   : Bool
  deriving DecidableEq, Repr

/-- A deck after package reset. -/
def Deck.empty : Deck :=
  { awake := true, live := true, rep := [], bad := [], recs := [], stale := false, copying := none, sendQ := [], own := [], lastQ := 0, sleptAt := 0,
    sleeping := false, lendSeq := 0, waking := false }

/-- A tower's Rein (04 R105, R110, R111). `missed` are the check mismatches of the frame that goes round (17 R376). -/
structure Tower where
  q       : Nat
  grant0  : Nat
  grant1  : Nat
  held    : Tab RWrite
  reinSplit : GWord
  missed  : Nat
  deriving DecidableEq, Repr

def Tower.empty : Tower := { q := 0, grant0 := 3, grant1 := 3, held := [], reinSplit := 0, missed := 0 }

/-- A saved team: its frame in the Stable and what the device keeps of it besides (15 R316, R317, R322): its groups by index, its
matrix operations and their range entries, the page fault that a driver has answered with a failure, and, when it was blocked
at the save, the pipes on which it stalls, as a producer or not (14 R304). -/
structure Saved where
  frame  : Nat
  chunks : Nat
  team   : Team
  gids   : List (Nat × Group)
  mats   : List MatOp
  locks  : List LockE
  reason : Nat
  ready  : Bool
  fail   : Bool
  stalls : Option (List (Nat × Bool))
  deriving DecidableEq, Repr

/-- A snapshot (15 R324, R325). -/
structure Snap where
  running   : Bool
  abandoned : Bool
  ctx    : Nat
  ndir   : Nat
  asize  : Nat
  area   : Nat
  used   : Nat
  next   : Nat
  pages  : List (Nat × Nat × Nat × Nat)
  copied : List Nat
  deriving DecidableEq, Repr

def Snap.empty : Snap :=
  { running := false, abandoned := false, ctx := 0, ndir := 0, asize := 0, area := 0, used := 0, next := 0, pages := [], copied := [] }

/-- A halt of a launch that waits for its record, with what the record names (15 R307, 14 R305). -/
structure Doom where
  launch : Nat
  code   : Nat
  stage  : Nat
  pipe   : Nat
  team   : Nat
  deriving DecidableEq, Repr

/-- The registers and the device's own state of one partition code (15 R306, R317, 16 R326, 17 R357, R358, R373). `flipped` is a page
whose flip has ended while host requests to it are still held (16 R338). -/
structure Part where
  ctxtab   : GWord
  fqcfg    : GWord
  fqtail   : Word
  fqhead   : Word
  fresume  : GWord
  preReq   : Bool
  preState : Nat
  biasbase : GWord
  flipreq  : GWord
  flipReason : Nat
  flipState  : Nat
  holdlim  : Word
  intstat  : BitVec 4
  intcfg   : BitVec 2
  stable   : GWord
  hbmil    : GWord
  netbound : GWord
  resetUs  : Nat
  saved    : List Saved
  snap     : Snap
  flip     : Option (Nat × Bool)
  flipped  : Option Nat
  poisoned : List Nat
  nextQueue : Nat
  halting  : Bool
  heldRecs : List Nat
  doomed   : List Doom
  deriving DecidableEq, Repr

/-- A partition after partition reset, with HBMIL and NETBOUND of a code that is not live. -/
def Part.empty : Part :=
  { ctxtab := 0, fqcfg := 0, fqtail := 0, fqhead := 0, fresume := 0, preReq := false, preState := 0, biasbase := 0, flipreq := 0,
    flipReason := 0, flipState := 0, holdlim := 1000, intstat := 0, intcfg := 2, stable := 0, hbmil := 0, netbound := 0,
    resetUs := 0, saved := [], snap := Snap.empty, flip := none, flipped := none, poisoned := [], nextQueue := 0, halting := false,
    heldRecs := [], doomed := [] }

/-- A launch queue (14 R280); `rcd` is its head record, as the device read it when it became the head (R281). -/
structure LQueue where
  cfg  : GWord
  tail : Word
  head : Word
  rcd  : Option Nat
  deriving DecidableEq, Repr

def LQueue.empty : LQueue := { cfg := 0, tail := 0, head := 0, rcd := none }

/-- A UALink port (16 R330). `held` are the messages that wait for it to come up, each with its destination, or none for the package
that the port then reaches (R331). -/
structure Port where
  en    : Bool
  state : Nat
  peer  : Nat
  errs  : Nat
  held  : List (Option Nat × Msg)
  deriving DecidableEq, Repr

def Port.empty : Port := { en := false, state := 0, peer := 0, errs := 0, held := [] }

/-- A deferral entry of a slice (03 R74, 09 R223): the word, the instruction (group and number), take, its unanswered lanes,
destination quad and predicate, and whether the quad is of the handler bank. -/
structure Defer where
  pa   : Nat
  gid  : Nat
  fid  : Nat
  take : Bool
  lanes : Word
  d    : Nat
  p    : Nat
  bank : Bool
  deriving DecidableEq, Repr

/-- A mark of a group: its slice, and the lines touched of one 512-byte block, by physical and by virtual number (03 R76). -/
structure Mark where
  gid   : Nat
  slice : Nat
  lines : List Nat
  vlines : List Nat
  deriving DecidableEq, Repr

/-- Package registers and the Farrier's own state (16 R328 to R330, R345, 17 R351 to R365, R376, R382). `record`, `firmware`,
`fwVersion` and `rollback` are the flash as the boot read it, `m2log` the values that have
extended M2, `format` the codes that a format in progress changes, `heldHost` the held host requests (a write with its bytes),
`outbox` the messages sent, each with its port and destination, `hostOut` the answers to the host with their poison, `bisnp` the
back-invalidate snoops sent (a line, and whether it is BISnpInv), `biAcks` the lines of the BIConflictAcks sent, `biReqs` the lines for
which the host has a request of its own in flight, `errOut` the ports of the error completions sent, `hdm` the HDM decoders (a host
address, the device address of the partition's HBM4E to which it maps, and the bytes), and `aer` and `ras` the status bits of the PCIe
error capability and of the CXL RAS capability. -/
structure Pkg where
  codes    : List Nat
  tamperpol : Option (BitVec 8)
  tamperstat : BitVec 4
  pwrcap   : BitVec 12
  fcmd     : GWord
  fstate   : Nat
  freason  : Nat
  fbuf     : GWord
  fintstat : BitVec 3
  cxlstat  : GWord
  ualid    : BitVec 10
  ports    : Tab Port
  fabgraph : Tab GWord
  msixMasked : List Nat
  msixPend : List Nat
  msixSent : List Nat
  record   : List Byte
  firmware : List Byte
  fwVersion : Nat
  rollback : Nat
  m2log : List GWord
  keyErased : Bool
  lidLatched : Bool
  clockMhz : Nat
  halted   : Bool
  booted   : Bool
  format   : Option (List Nat)
  heldHost : List (Nat × Option (List Byte))
  outbox   : List (Nat × Nat × Msg)
  hostOut  : List (Nat × List Byte × Bool)
  bisnp    : List (Nat × Bool)
  biAcks   : List Nat
  biReqs   : List Nat
  errOut   : List Nat
  hdm      : Tab (Nat × Nat × Nat)
  aer      : Word
  ras      : Word
  deriving DecidableEq, Repr

/-- The package registers after package reset and a boot from the record in layout P (17 R365, R353; log 4, log 5). -/
def Pkg.reset : Pkg :=
  { codes := [0, 0, 0, 0], tamperpol := none, tamperstat := 0, pwrcap := 2200, fcmd := 0, fstate := 0, freason := 0, fbuf := 0,
    fintstat := 0, cxlstat := 0, ualid := 0, ports := [], fabgraph := [], msixMasked := List.range 32, msixPend := [], msixSent := [],
    record := Config.flashRecord, firmware := Config.flashFirmware, fwVersion := Config.flashVersion,
    rollback := Config.flashRollback, m2log := [], keyErased := false, lidLatched := false, clockMhz := 2250, halted := false, booted := true, format := none, heldHost := [],
    outbox := [], hostOut := [], bisnp := [], biAcks := [], biReqs := [], errOut := [], hdm := [], aer := 0, ras := 0 }

/-- A move of the machine: what State.agenda lists. The first two are the streams and the events of the opcode table;
the others are moves of the device that the manual leaves to it at any time (log 1). -/
inductive Move where
  /-- The named stream of the named group issues. -/
  | issue (g : Nat) (lane : Bool)
  /-- An event of the opcode table happens. -/
  | event (i : Instr)
  /-- The core's L1 evicts a line: its dirty bytes are written back (04 R88, R102). -/
  | evict (core line : Nat)
  /-- The core's TLB drops an entry (15 R310). -/
  | tlbDrop (core idx : Nat)
  /-- The oldest word of a ring retires (07 R171). -/
  | retire (g : Nat) (r : Ring)
  /-- The matrix unit runs some chunks of the oldest operation of the core's queue, or with 0 all that are left (11 R254, 15 R320). -/
  | matrix (core n : Nat)
  /-- The home slice evicts a line to HBM4E (03 R78). -/
  | homeEvict (line : Nat)
  /-- The host stores bytes of one line of its own memory (16 R340). -/
  | hostStore (pa : Nat) (bytes : List Byte)
  /-- A tile sent to another package, of the pipe and the sequence number, has arrived there (06 R153). -/
  | arrived (pipe : Nat) (seq : Word)
  /-- A prefetched line arrives in the core's L1 (17 R379). -/
  | pfArrive (core line : Nat)
  /-- The home slices of a deck rebuild a directory entry by a discovery request (04 R97, 17 R380). -/
  | discover (deck : Nat)
  /-- A stream's next load of a byte, by its physical address, is performed now, ahead of its place (04 R87). -/
  | early (g : Nat) (lane : Bool) (pa : Nat)
  /-- The same of a byte of the team's scratchpad window. -/
  | earlyScr (g off : Nat)
  /-- An engine command or matrix operation of the core, by its number, reads a byte of its source in memory now (04 R103). -/
  | engRead (core id pa : Nat)
  /-- An engine command of the core, by its number, writes a byte of a row of its destination, at one of its receivers, now (04 R103). -/
  | engWrite (core id recv row col : Nat)
  /-- The check of a sector at a site stops matching its data (17 R369). -/
  | upset (site : ErrSite)
  /-- The host programs, or takes back, an HDM decoder: the partition, and the host address at which its HBM4E begins (16 R327). -/
  | hdmWrite (k : Nat) (d : Option (Nat × Nat))
  /-- The link reports errors in the AER or the CXL RAS capability (16 R327). -/
  | linkError (ras : Bool) (bits : Word)
  /-- The host clears error bits of a capability. -/
  | linkClear (ras : Bool) (bits : Word)
  /-- One core clock passes (17 R378). -/
  | clock
  /-- One microsecond passes. -/
  | micro
  deriving DecidableEq, Repr

/-- The state of the package. `mirror` are the lines of which the buddy slice holds a copy (17 R374), `l2` the lines that the slices'
unpinned ways hold, each with its partition (01 R13), and `early` the loads that streams have performed ahead (04 R87). -/
structure State where
  cur     : Nat
  curLane : Bool
  agenda  : List Move
  freeCtr : Nat
  clock   : Nat
  us      : Nat
  mem     : Memory
  hostMem : Tab Byte
  hostL2  : Tab Byte
  l2      : Tab Nat
  early   : List Early
  poison  : List Nat
  mirror  : List Nat
  recs    : Tab Rec
  fullWords : List Nat
  deferred : List Defer
  marks   : List Mark
  pinned  : Tab Pin
  snoop   : List Nat
  groups  : Tab Group
  teams   : Tab Team
  cores   : Tab Core
  decks   : Tab Deck
  towers  : Tab Tower
  parts   : Tab Part
  queues  : Tab LQueue
  launches : Tab Launch
  nextLaunch : Nat
  pipes   : Tab Pipe
  pkg     : Pkg
  ctr     : Tab GWord
  deriving DecidableEq, Repr

/-- The Farrier's key in State.groups. -/
def farrierId : Nat := 24576

/-- The team entry that no team has: the Farrier is of no team. -/
def noTeam : Nat := 6144

/-- The Farrier's control stream: in system mode (15 R312). -/
def farrierReset : Group := { Group.empty with sys := true, team := noTeam }

/-- Partition P after reset: HBMIL names stacks 0 to 11 from base 0, NETBOUND every deck, port and the bridge (17 R357, R358). -/
def partPReset : Part := { Part.empty with hbmil := 0xCFFF, netbound := 0xFFFF01FF }

/-- The package after package reset (17 R365): no team placed, nothing launched, memory zero, layout P. -/
def State.reset : State :=
  { cur := 0, curLane := false, agenda := [], freeCtr := 0, clock := 0, us := 0, mem := [], hostMem := [], hostL2 := [], l2 := [], early := [], poison := [], mirror := [],
    recs := [], fullWords := [], deferred := [], marks := [], pinned := [], snoop := [], groups := [(farrierId, farrierReset)],
    teams := [], cores := [], decks := [], towers := [], parts := [(0, partPReset)], queues := [], launches := [], nextLaunch := 0,
    pipes := [], pkg := Pkg.reset, ctr := [] }

end Sys2Proof.Machine
end

