-- ==== Sys2Proof/Machine/Tab.lean ====
section
/-! DEFINITION. Tables from numbers to values: an entry that is not listed holds the default of its kind, and
an entry equal to the default is never listed. -/

namespace Sys2Proof.Machine

open Sys2Proof

/-- The listed entry of key k. -/
def Tab.find {α : Type} : Tab α → Nat → Option α
  | [], _ => none
  | (j, x) :: t, k => if j == k then some x else Tab.find t k

/-- The entry of key k, or the default. -/
def Tab.get {α : Type} (t : Tab α) (d : α) (k : Nat) : α := (Tab.find t k).getD d

/-- Removes key k. -/
def Tab.del {α : Type} : Tab α → Nat → Tab α
  | [], _ => []
  | (j, x) :: t, k => if j == k then Tab.del t k else (j, x) :: Tab.del t k

/-- Lists key k with value x, before the first greater key. -/
def Tab.put {α : Type} : Tab α → Nat → α → Tab α
  | [], k, x => [(k, x)]
  | (j, y) :: t, k, x =>
    if j == k then (k, x) :: t
    else if k < j then (k, x) :: (j, y) :: Tab.del t k
    else (j, y) :: Tab.put t k x

/-- Gives key k the value x: an entry equal to the default is not listed. -/
def Tab.set {α : Type} [DecidableEq α] (t : Tab α) (d : α) (k : Nat) (x : α) : Tab α :=
  if x = d then Tab.del t k else Tab.put t k x

/-- Changes the entry of key k. -/
def Tab.modify {α : Type} [DecidableEq α] (t : Tab α) (d : α) (k : Nat) (f : α → α) : Tab α :=
  Tab.set t d k (f (Tab.get t d k))

/-- The keys below and at hi, from lo, that are listed. -/
def Tab.keys {α : Type} (t : Tab α) : List Nat := t.map Prod.fst

/-- Drops every entry for which f holds. -/
def Tab.dropIf {α : Type} (t : Tab α) (f : Nat → α → Bool) : Tab α := t.filter (fun e => !f e.1 e.2)

/-- The least key from lo up to lo + n that is not listed. -/
def Tab.fresh {α : Type} (t : Tab α) : Nat → Nat → Nat
  | 0, lo => lo
  | n + 1, lo => if (Tab.find t lo).isSome then Tab.fresh t n (lo + 1) else lo

/-- One key more than the greatest listed. -/
def Tab.next {α : Type} : Tab α → Nat
  | [] => 0
  | (k, _) :: t => max (k + 1) (Tab.next t)

/-- The byte at an address; an unlisted address reads 0 (17 R365). -/
def Memory.read (m : Memory) (a : Nat) : Byte := Tab.get m 0 a

/-- Writes a byte, keeping the canonical form. -/
def Memory.write (m : Memory) (a : Nat) (b : Byte) : Memory := Tab.set m 0 a b

/-- Keys strictly rising, every key above lo. -/
def Tab.rising {α : Type} : Tab α → Bool
  | [] => true
  | (_, _) :: [] => true
  | (j, _) :: (k, x) :: t => decide (j < k) && Tab.rising ((k, x) :: t)

/-- The canonical form: addresses strictly rising, no listed byte 0. -/
def Memory.wf (m : Memory) : Bool := Tab.rising m && m.all (fun e => e.2 != 0)

end Sys2Proof.Machine
end

