-- ==== Sys2Proof/Machine/Access.lean ====
section
/-! DEFINITION. How an instruction stops, and the named accessors of the state: groups, cores, teams, decks,
partitions, counters, group registers, predicates and buffer-record slots. -/

namespace Sys2Proof.Machine

open Sys2Proof

/-- A trap: code (01 R18), INFO, reported lane and TRAPVA (15 R313). -/
structure Trap where
  code : Nat
  info : Nat
  lane : Option Nat
  va   : GWord
  deriving DecidableEq, Repr

/-- How an instruction ends without its own effect. -/
inductive Stop where
  /-- A trap; `keep` is the state to enter it from where the instruction keeps a side effect (02 R48). -/
  | trap (t : Trap) (keep : Option State)
  /-- A page fault of an address, and its lane (15 R309). -/
  | pf (va : Nat) (k : AccKind) (lnum : Option Nat)
  /-- The stream waits; the state holds what the wait has done and its reason. -/
  | wait (s : State)
  /-- The machine stops with a fault. -/
  | fault (f : Fault)
  deriving DecidableEq, Repr

/-- The result of a part of an instruction. -/
abbrev R (α : Type) := Except Stop α

/-! ## Trap codes (01 R18) -/

def cILLEGAL : Nat := 0x01
def cPRIV : Nat := 0x02
def cBOUNDS : Nat := 0x03
def cALIGN : Nat := 0x04
def cRANGELOCK : Nat := 0x05
def cACCBUSY : Nat := 0x06
def cSTALLCOUNT : Nat := 0x07
def cSTACKLIMIT : Nat := 0x08
def cCLAIMLOCK : Nat := 0x09
def cPIPEFAULT : Nat := 0x0A
def cCHECKFAIL : Nat := 0x0B
def cBREAK : Nat := 0x0C
def cARITH : Nat := 0x0E
def cACCESS : Nat := 0x11

/-- A trap with no INFO, lane or address. -/
def trapOf (code : Nat) : Stop := .trap { code := code, info := 0, lane := none, va := 0 } none

/-- A trap with INFO, lane and address. -/
def trapAt (code info : Nat) (lane : Option Nat) (va : Int) : Stop :=
  .trap { code := code, info := info, lane := lane, va := g64 va } none

/-- Traps with the code unless the condition holds. -/
def need (c : Bool) (code : Nat) : R Unit := if c then .ok () else .error (trapOf code)

/-- ILLEGAL unless the condition holds. -/
def legal (c : Bool) : R Unit := need c cILLEGAL

/-! ## Numbering (01 R9) -/

def coreOf (g : Nat) : Nat := g / 64
def slotOf (g : Nat) : Nat := g % 64
def bayOf (g : Nat) : Nat := g % 64 / 16
def deckOfCore (c : Nat) : Nat := c / 48
def towerOfDeck (d : Nat) : Nat := d / 4
def deckOf (g : Nat) : Nat := deckOfCore (coreOf g)
def towerOf (g : Nat) : Nat := towerOfDeck (deckOf g)

/-! ## Tables of the state -/

/-- A group's record. -/
def State.grp (s : State) (g : Nat) : Group := s.groups.get Group.empty g
/-- Changes a group's record. -/
def State.setGrp (s : State) (g : Nat) (x : Group) : State := { s with groups := s.groups.set Group.empty g x }
/-- Applies f to a group's record. -/
def State.onGrp (s : State) (g : Nat) (f : Group → Group) : State := s.setGrp g (f (s.grp g))

/-- A core's record. -/
def State.core (s : State) (c : Nat) : Core := s.cores.get Core.empty c
/-- Changes a core's record. -/
def State.setCore (s : State) (c : Nat) (x : Core) : State := { s with cores := s.cores.set Core.empty c x }
/-- Applies f to a core's record. -/
def State.onCore (s : State) (c : Nat) (f : Core → Core) : State := s.setCore c (f (s.core c))

/-- A team's record. -/
def State.team (s : State) (t : Nat) : Team := s.teams.get Team.empty t
/-- Changes a team's record. -/
def State.setTeam (s : State) (t : Nat) (x : Team) : State := { s with teams := s.teams.set Team.empty t x }
/-- Applies f to a team's record. -/
def State.onTeam (s : State) (t : Nat) (f : Team → Team) : State := s.setTeam t (f (s.team t))

/-- A deck's record. -/
def State.deck (s : State) (d : Nat) : Deck := s.decks.get Deck.empty d
/-- Applies f to a deck's record. -/
def State.onDeck (s : State) (d : Nat) (f : Deck → Deck) : State := { s with decks := s.decks.set Deck.empty d (f (s.deck d)) }

/-- A tower's record. -/
def State.tower (s : State) (t : Nat) : Tower := s.towers.get Tower.empty t
/-- Applies f to a tower's record. -/
def State.onTower (s : State) (t : Nat) (f : Tower → Tower) : State := { s with towers := s.towers.set Tower.empty t (f (s.tower t)) }

/-- A partition code's record. -/
def State.part (s : State) (p : Nat) : Part := s.parts.get Part.empty p
/-- Changes a partition code's record. -/
def State.setPart (s : State) (p : Nat) (x : Part) : State := { s with parts := s.parts.set Part.empty p x }
/-- Applies f to a partition code's record. -/
def State.onPart (s : State) (p : Nat) (f : Part → Part) : State := s.setPart p (f (s.part p))

/-- A launch's record; none when there is none. -/
def State.launch (s : State) (l : Nat) : Option Launch := s.launches.find l
/-- Applies f to a launch's record. -/
def State.onLaunch (s : State) (l : Nat) (f : Launch → Launch) : State :=
  match s.launches.find l with
  | some x => { s with launches := s.launches.put l (f x) }
  | none => s

/-- A pipe's record. -/
def State.pipe (s : State) (k : Nat) : Option Pipe := s.pipes.find k
/-- Applies f to a pipe's record. -/
def State.onPipe (s : State) (k : Nat) (f : Pipe → Pipe) : State :=
  match s.pipes.find k with
  | some x => { s with pipes := s.pipes.put k (f x) }
  | none => s

/-- The team of a group. -/
def State.teamOf (s : State) (g : Nat) : Team := s.team (s.grp g).team

/-- The group's slot is occupied: its team holds it and a group is in it (02 R20, R25). -/
def State.occupied (s : State) (g : Nat) : Bool :=
  let t := s.team (s.grp g).team
  coreOf g == t.core && t.slots.any (fun h => h.slot == slotOf g && h.occ)

/-- A stage of a launch. -/
def State.stage (s : State) (l k : Nat) : Option Stage :=
  match s.launch l with
  | some x => x.stages[k]?
  | none => none

/-! ## Partitions (01 R11, 17 R355) -/

/-- The partition code of a quarter. -/
def State.codeOfQuarter (s : State) (q : Nat) : Nat := s.pkg.codes.getD q 0
/-- The partition code of a deck. -/
def State.codeOfDeck (s : State) (d : Nat) : Nat := s.codeOfQuarter (d / 2)
/-- The partition code of a core. -/
def State.codeOfCore (s : State) (c : Nat) : Nat := s.codeOfDeck (deckOfCore c)
/-- The partition code of a group's core. -/
def State.codeOf (s : State) (g : Nat) : Nat := s.codeOfCore (coreOf g)
/-- The decks of a partition, rising. -/
def State.decksOf (s : State) (p : Nat) : List Nat := indices 8 (fun d => s.codeOfDeck d == p)
/-- The cores of a partition, rising. -/
def State.coresOf (s : State) (p : Nat) : List Nat := indices 384 (fun c => s.codeOfCore c == p)
/-- The partition code is live in the current layout. -/
def State.liveCode (s : State) (p : Nat) : Bool := s.pkg.codes.contains p

/-! ## Counters (17 R378) -/

/-- The counter block of a core is frozen. -/
def State.frozen (s : State) (c : Nat) : Bool := (s.ctr.get 0 (0x800000 + 0x200 * c + 0xF0)).getLsbD 0

/-- Adds n to a counter register. -/
def State.bump (s : State) (addr n : Nat) : State := { s with ctr := s.ctr.modify 0 addr (· + BitVec.ofNat 64 n) }

/-- Adds n to a counter of a core, unless its block is frozen. -/
def State.bumpCore (s : State) (c off n : Nat) : State := if s.frozen c then s else s.bump (0x800000 + 0x200 * c + off) n

/-- Adds n to a counter of a deck (17 R380). -/
def State.bumpDeck (s : State) (d off n : Nat) : State := s.bump (0x780000 + 0x100 * d + off) n

/-- A fresh number for a free value (log 6). -/
def State.tick (s : State) : State := { s with freeCtr := s.freeCtr + 1 }

/-! ## The handler bank (15 R314) -/

/-- The handler bank of a bay of a core. -/
def bankEmpty : Bank := { owner := none, id := 0, hg := [], hv := [], hb := [] }

/-- The handler bank of the group's bay. -/
def State.bank (s : State) (g : Nat) : Bank := (s.core (coreOf g)).banks.get bankEmpty (bayOf g)

/-- Applies f to the handler bank of the group's bay. -/
def State.onBank (s : State) (g : Nat) (f : Bank → Bank) : State :=
  s.onCore (coreOf g) (fun c => { c with banks := c.banks.set bankEmpty (bayOf g) (f (s.bank g)) })

/-- Register fields name the handler bank: system mode on a core. -/
def State.inBank (s : State) (g : Nat) : Bool := (s.grp g).sys && g != farrierId

/-- hg0 to hg7: undefined at entry, so free until written. -/
def Bank.getHg (b : Bank) (k : Nat) : GWord :=
  match b.hg.find k with
  | some x => x
  | none => Config.freeWord b.id (1000 + k) ++ Config.freeWord b.id (2000 + k)

/-! ## Group registers and predicates (07 R158) -/

/-- Register field r of a control word. -/
def State.rg (s : State) (g : Nat) (r : GReg) : GWord :=
  if r = 0 then 0
  else if s.inBank g && r.toNat ≥ 56 then (s.bank g).getHg (r.toNat - 56)
  else (s.grp g).g.get 0 r.toNat

/-- Register number n, above 63 read as g0's neighbour never does: pairs and quads are checked before (11 R247). -/
def State.rgN (s : State) (g n : Nat) : GWord := s.rg g (BitVec.ofNat 6 n)

/-- The STACKLIMIT test of a write of g61 (02 R48). -/
def stackOk (lim v : GWord) : Bool :=
  !(v.toNat < (lim.toNat / 16) * 16) && !(lim.getLsbD 0 && v != 0)

/-- Writes register field r without the test of R48. -/
def State.putG (s : State) (g : Nat) (r : GReg) (v : GWord) : State :=
  if r = 0 then s
  else if s.inBank g && r.toNat ≥ 56 then s.onBank g (fun b => { b with hg := b.hg.put (r.toNat - 56) v })
  else s.onGrp g (fun x => { x with g := x.g.set 0 r.toNat v })

/-- The write is of g61 and fails the test of R48. -/
def State.stackBad (s : State) (g : Nat) (r : GReg) (v : GWord) : Bool :=
  r == 61 && !s.inBank g && !stackOk (s.grp g).stackLim v

/-- Writes register field r, with the test of R48 before any effect. -/
def State.wg (s : State) (g : Nat) (r : GReg) (v : GWord) : R State :=
  if s.stackBad g r v then .error (trapOf cSTACKLIMIT) else .ok (s.putG g r v)

/-- A group predicate: q0 reads true. -/
def State.rq (s : State) (g : Nat) (q : QReg) : Bool := q == 0 || (s.grp g).q.getLsbD q.toNat

/-- Writes a group predicate: a write of q0 is discarded. -/
def State.wq (s : State) (g : Nat) (q : QReg) (v : Bool) : State :=
  if q = 0 then s
  else
    let m : BitVec 8 := 1#8 <<< q.toNat
    s.onGrp g (fun x => { x with q := if v then x.q ||| m else x.q &&& ~~~m })

/-! ## Control PC -/

/-- The control stream goes on at pc. -/
def State.goto (s : State) (g : Nat) (pc : GWord) : State := s.onGrp g (fun x => { x with pc := pc, cwait := .none })

/-- The control stream goes on after an instruction of n bytes. -/
def State.adv (s : State) (g n : Nat) : State := s.goto g ((s.grp g).pc + BitVec.ofNat 64 n)

/-- The control stream waits with a stall reason, its instruction to be tried again. -/
def State.stallC (s : State) (g : Nat) (r : Stall) : State := s.onGrp g (fun x => { x with cwait := .stall r })

/-- The lane stream waits with a stall reason, its word to be tried again. -/
def State.stallL (s : State) (g : Nat) (r : Stall) : State := s.onGrp g (fun x => { x with lwait := .stall r })

/-- A wait of the control stream. -/
def waitC {α : Type} (s : State) (g : Nat) (r : Stall) : R α := .error (.wait (s.stallC g r))

/-- A wait of the lane stream. -/
def waitL {α : Type} (s : State) (g : Nat) (r : Stall) : R α := .error (.wait (s.stallL g r))

/-! ## Buffer-record slots (03 R56 to R58, 15 R314) -/

/-- The swizzle (R58): bits [3+k:4] of the offset are xored with the row number. -/
def BufRec.swizzle (b : BufRec) (off : Int) : Int :=
  if b.swz = 0 || off < 0 then off
  else
    let o := off.toNat
    let row := o / b.stride.toNat
    ((o ^^^ (row % 2 ^ b.swz.toNat * 16) : Nat) : Int)

/-- The virtual address of a record offset (R58). -/
def BufRec.address (b : BufRec) (off : Int) : Int := (b.base.toNat : Int) + b.swizzle off

/-- The bounds test (R58). -/
def BufRec.inBounds (b : BufRec) (off : Int) (n : Nat) : Bool := 0 ≤ off && off + n ≤ (b.extent.toNat : Int)

/-- The permission test (R58). -/
def BufRec.permits (b : BufRec) (k : AccKind) : Bool :=
  match k with
  | .load | .fetch | .engRead | .stream => b.rdok
  | .store | .engWrite => b.wrok
  | .atomic => b.rdok && b.wrok

/-- Canonical: bits [63:55] equal (R54). -/
def canonical (va : Nat) : Bool := va < 2 ^ 64 && (va / 2 ^ 55 == 0 || va / 2 ^ 55 == 511)

/-- What a slot accepts (R57), reserved fields apart. -/
def BufRec.accept (b : BufRec) : Bool :=
  b.esize.toNat ≤ 4 && b.swz.toNat ≤ 3
    && (b.extent == 0
        || (b.base.toNat + b.extent.toNat ≤ 2 ^ 64 && canonical b.base.toNat && canonical (b.base.toNat + b.extent.toNat - 1)
            && b.base.toNat / 2 ^ 63 == (b.base.toNat + b.extent.toNat - 1) / 2 ^ 63))
    && (b.swz == 0
        || (b.base.toNat % 128 == 0 && b.stride.toNat % 128 == 0 && b.extent.toNat % 128 == 0 && b.stride != 0))

/-- The record's 32 bytes as a number (R56). -/
def BufRec.toNat (b : BufRec) : Nat :=
  b.base.toNat + b.extent.toNat * 2 ^ 64 + b.stride.toNat * 2 ^ 128 + b.esize.toNat * 2 ^ 160 + b.swz.toNat * 2 ^ 168
    + b2n b.rdok * 2 ^ 192 + b2n b.wrok * 2 ^ 193 + b2n b.noalloc * 2 ^ 194 + b2n b.idem * 2 ^ 195

/-- The record that 32 bytes hold; none when a reserved field is not zero (R56, R57). -/
def BufRec.ofNat (w : Nat) : Option BufRec :=
  if bits w 104 24 == 0 && bits w 163 5 == 0 && bits w 172 20 == 0 && bits w 196 60 == 0 then
    some { base := BitVec.ofNat 64 w, extent := BitVec.ofNat 40 (w >>> 64), stride := BitVec.ofNat 32 (w >>> 128),
           esize := BitVec.ofNat 3 (w >>> 160), swz := BitVec.ofNat 4 (w >>> 168), rdok := bit w 192, wrok := bit w 193,
           noalloc := bit w 194, idem := bit w 195 }
  else none

/-- hb0 and hb1: undefined at entry, so a free record or none until written (log 6). -/
def Bank.getHb (b : Bank) (k : Nat) : Option BufRec :=
  match b.hb.find k with
  | some x => x
  | none =>
    match BufRec.ofNat (((List.range 8).map (fun j => (Config.freeWord b.id (3000 + 8 * k + j)).toNat * 2 ^ (32 * j))).sum) with
    | some r => if r.accept then some r else none
    | none => none

/-- The record in slot n, or none when it is invalid. -/
def State.slotRec (s : State) (g : Nat) (n : Slot) : Option BufRec :=
  if s.inBank g && n.toNat ≥ 14 then (s.bank g).getHb (n.toNat - 14) else (s.grp g).buf.find n.toNat

/-- Puts a record into slot n. -/
def State.setSlot (s : State) (g : Nat) (n : Slot) (b : BufRec) : State :=
  if s.inBank g && n.toNat ≥ 14 then s.onBank g (fun k => { k with hb := k.hb.put (n.toNat - 14) (some b) })
  else s.onGrp g (fun x => { x with buf := x.buf.put n.toNat b })

/-- Makes slot n invalid. -/
def State.clearSlot (s : State) (g : Nat) (n : Slot) : State :=
  if s.inBank g && n.toNat ≥ 14 then s.onBank g (fun k => { k with hb := k.hb.put (n.toNat - 14) none })
  else s.onGrp g (fun x => { x with buf := x.buf.del n.toNat })

/-- The size in bytes of an access size code. -/
def sizeBytes : Size → Nat
  | .s1 => 1 | .s2 => 2 | .s4 => 4 | .s8 => 8 | .s16 => 16

/-- The kind code of a fault record (15 R318). -/
def kindCode : AccKind → Nat
  | .load => 0 | .store => 1 | .atomic => 2 | .fetch => 3 | .engRead => 4 | .engWrite => 5 | .stream => 6

/-- The group's context. -/
def State.ctxOf (s : State) (g : Nat) : Nat := (s.teamOf g).ctx

/-! ## Management registers -/

/-- The management space answers: the package has booted and is under no tamper halt (17 R353, R377). -/
def State.mgmt (s : State) : Bool := s.pkg.booted && !s.pkg.halted

/-- A format in progress changes the partition of a code (17 R363). -/
def State.formatting (s : State) (p : Nat) : Bool := match s.pkg.format with
  | some l => l.contains p
  | none => false

/-- The register blocks of a partition code take writes: the code is live, and no format changes it (15 R306, 17 R364). -/
def State.answers (s : State) (p : Nat) : Bool := s.mgmt && s.liveCode p && !s.formatting p

/-! ## Interrupt causes (16 R328) -/

/-- A vector can go out: the host link is up, and a partition's partition is live (16 R328). -/
def State.vectorUp (s : State) (v : Nat) : Bool := decide (2 ≤ s.pkg.cxlstat.toNat % 4) && (28 ≤ v || s.liveCode (v / 4))

/-- A vector is sent, or made pending while it is masked or cannot go out (16 R328, log 86). -/
def State.vector (s : State) (v : Nat) : State :=
  if s.pkg.msixMasked.contains v || !s.vectorUp v then { s with pkg := { s.pkg with msixPend := v :: s.pkg.msixPend.filter (· != v) } }
  else { s with pkg := { s.pkg with msixSent := s.pkg.msixSent ++ [v] } }

/-- Sets a cause bit of a partition's INTSTAT; its vector goes out when the bit was 0 (R328). -/
def State.cause (s : State) (p b : Nat) : State :=
  if (s.part p).intstat.getLsbD b then s
  else (s.onPart p (fun x => { x with intstat := x.intstat ||| (1#4 <<< b) })).vector (4 * p + b)

/-- Sets a cause bit of FINTSTAT (R328). -/
def State.fcause (s : State) (b : Nat) : State :=
  if s.pkg.fintstat.getLsbD b then s
  else ({ s with pkg := { s.pkg with fintstat := s.pkg.fintstat ||| (1#3 <<< b) } }).vector (28 + b)

end Sys2Proof.Machine
end

