-- ==== Sys2Proof/Machine/Float.lean ====
section
/-! DEFINITION. Exact floating-point arithmetic and the one rounding of the manual (05 R115 to R129). A finite value is a sign, a
natural number and a power of two; a quotient is a sign and a fraction. -/

namespace Sys2Proof.Machine

open Sys2Proof

/-- A floating-point format: stored significand bits, exponent bits, and whether it has infinities (E4M3 has none). -/
structure FFmt where
  mb  : Nat
  eb  : Nat
  inf : Bool
  deriving DecidableEq, Repr

def fFP32 : FFmt := { mb := 23, eb := 8, inf := true }
def fFP16 : FFmt := { mb := 10, eb := 5, inf := true }
def fBF16 : FFmt := { mb := 7, eb := 8, inf := true }
def fE4M3 : FFmt := { mb := 3, eb := 4, inf := false }
def fE5M2 : FFmt := { mb := 2, eb := 5, inf := true }

/-- The exponent bias. -/
def FFmt.bias (f : FFmt) : Nat := 2 ^ (f.eb - 1) - 1
/-- The exponent of the smallest subnormal. -/
def FFmt.emin (f : FFmt) : Int := 1 - f.bias - f.mb
/-- The width of the format. -/
def FFmt.width (f : FFmt) : Nat := 1 + f.eb + f.mb
/-- The canonical NaN (R118). -/
def FFmt.nan (f : FFmt) : Nat := if f.inf then (2 ^ f.eb - 1) * 2 ^ f.mb + 2 ^ (f.mb - 1) else 2 ^ (f.eb + f.mb) - 1
/-- The code of +∞. -/
def FFmt.infCode (f : FFmt) : Nat := (2 ^ f.eb - 1) * 2 ^ f.mb
/-- The code of the largest finite value. -/
def FFmt.maxCode (f : FFmt) : Nat := if f.inf then f.infCode - 1 else 2 ^ (f.eb + f.mb) - 2

/-- A value of a format: NaN, an infinity, or ± m·2^e. -/
inductive FV where
  | nan
  | inf (neg : Bool)
  | fin (neg : Bool) (m : Nat) (e : Int)
  deriving DecidableEq, Repr

/-- An exact result before rounding: NaN, an infinity, or ± num/den with den > 0. -/
inductive FR where
  | nan
  | inf (neg : Bool)
  | fin (neg : Bool) (num den : Nat)
  deriving DecidableEq, Repr

/-- 2^e for e ≥ 0, else 1. -/
def pow2 (e : Int) : Nat := 2 ^ e.toNat

/-- A value as a fraction. -/
def FV.toR : FV → FR
  | .nan => .nan
  | .inf s => .inf s
  | .fin s m e => .fin s (m * pow2 e) (pow2 (-e))

/-- An integer as a value. -/
def FV.ofInt (x : Int) : FV := .fin (x < 0) x.natAbs 0

/-- The value that a code stands for. -/
def FFmt.decode (f : FFmt) (w : Nat) : FV :=
  let s := bit w (f.eb + f.mb)
  let ex := bits w f.mb f.eb
  let m := bits w 0 f.mb
  if ex == 2 ^ f.eb - 1 && f.inf then (if m == 0 then .inf s else .nan)
  else if !f.inf && ex == 2 ^ f.eb - 1 && m == 2 ^ f.mb - 1 then .nan
  else if ex == 0 then .fin s m f.emin
  else .fin s (m + 2 ^ f.mb) ((ex : Int) - f.bias - f.mb)

/-- The sign bit of a code. -/
def FFmt.sign (f : FFmt) (s : Bool) : Nat := b2n s * 2 ^ (f.eb + f.mb)

/-- The code of a grid point k·2^q with k ≤ 2^(mb+1), when it is at most the largest finite value; none when it overflows. -/
def FFmt.codeOf (f : FFmt) (k : Nat) (q : Int) : Option Nat :=
  let (k, q) := if k == 2 ^ (f.mb + 1) then (2 ^ f.mb, q + 1) else (k, q)
  let c := if k < 2 ^ f.mb then k else ((q + f.bias + f.mb).toNat * 2 ^ f.mb) + (k - 2 ^ f.mb)
  if c ≤ f.maxCode then some c else none

/-- floor(log2(num/den)) for num, den > 0. -/
def ilogQ (num den : Nat) : Int :=
  let l : Int := (ilog2 num : Int) - ilog2 den
  if den * pow2 l ≤ num * pow2 (-l) then l else l - 1

/-- The grid step up from k when the discarded part is r/d (R122). -/
def roundsUp (mode : RMode) (rw : Nat) (neg : Bool) (k r d : Nat) : Bool :=
  match mode with
  | .rne => d < 2 * r || (2 * r == d && k % 2 == 1)
  | .rtz => false
  | .rdn => 0 < r && neg
  | .rup => 0 < r && !neg
  | .stoch => 65536 ≤ r * 65536 / d + rw

/-- num/den rounded to a multiple of 2^q. -/
def roundGrid (mode : RMode) (rw : Nat) (neg : Bool) (num den : Nat) (q : Int) : Nat :=
  let n := num * pow2 (-q)
  let d := den * pow2 q
  n / d + b2n (roundsUp mode rw neg (n / d) (n % d) d)

/-- A finite value above the largest (R124). -/
def FFmt.over (f : FFmt) (sat : Bool) (mode : RMode) (neg : Bool) : Nat :=
  let toMax := sat || (match mode with
    | .rne | .stoch => false
    | .rtz => true
    | .rdn => !neg
    | .rup => neg)
  if toMax then f.sign neg + f.maxCode
  else if f.inf then f.sign neg + f.infCode
  else f.nan

/-- An infinite result (R124). -/
def FFmt.infinite (f : FFmt) (sat neg : Bool) : Nat :=
  if sat then f.sign neg + f.maxCode else if f.inf then f.sign neg + f.infCode else f.nan

/-- round(x, mode) into a floating-point format, with R124; rw is the random word of STOCH (R122). -/
def FFmt.round (f : FFmt) (sat : Bool) (mode : RMode) (rw : Nat) (x : FR) : Nat :=
  match x with
  | .nan => f.nan
  | .inf s => f.infinite sat s
  | .fin s num den =>
    if num == 0 then f.sign s
    else
      let q := max f.emin (ilogQ num den - f.mb)
      match f.codeOf (roundGrid mode rw s num den q) q with
      | some c => f.sign s + c
      | none => f.over sat mode s

/-- round(x, mode) into the integers: none for a NaN, and an infinity by its sign (R122, R125). -/
inductive RInt where
  | nan
  | inf (neg : Bool)
  | val (x : Int)
  deriving DecidableEq, Repr

/-- round into the integers. -/
def roundInt (mode : RMode) (rw : Nat) (x : FR) : RInt :=
  match x with
  | .nan => .nan
  | .inf s => .inf s
  | .fin s num den =>
    let k := roundGrid mode rw s num den 0
    .val (if s then -(k : Int) else k)

/-- sat into an integer range (R125). -/
def RInt.sat (lo hi : Int) : RInt → Int
  | .nan => 0
  | .inf s => if s then lo else hi
  | .val x => max lo (min x hi)

/-! ## Exact operations -/

/-- The signed integer of a finite value scaled to exponent e0 ≤ e. -/
def scaled (s : Bool) (m : Nat) (e e0 : Int) : Int :=
  let v : Int := (m * pow2 (e - e0) : Nat)
  if s then -v else v

/-- The exact sum; rdn says that the rounding mode is RDN, which decides the sign of a zero (R134, 10 R228). -/
def FV.add (rdn : Bool) (a b : FV) : FV :=
  match a, b with
  | .nan, _ => .nan
  | _, .nan => .nan
  | .inf s, .inf t => if s == t then .inf s else .nan
  | .inf s, .fin _ _ _ => .inf s
  | .fin _ _ _, .inf t => .inf t
  | .fin s m e, .fin t n k =>
    if m == 0 && n == 0 then .fin (if s == t then s else rdn) 0 0
    else
      let e0 := min e k
      let x := scaled s m e e0 + scaled t n k e0
      if x = 0 then .fin rdn 0 0 else .fin (x < 0) x.natAbs e0

/-- The value with its sign inverted. -/
def FV.neg : FV → FV
  | .nan => .nan
  | .inf s => .inf (!s)
  | .fin s m e => .fin (!s) m e

/-- The exact product. -/
def FV.mul (a b : FV) : FV :=
  match a, b with
  | .nan, _ => .nan
  | _, .nan => .nan
  | .inf s, .inf t => .inf (s != t)
  | .inf s, .fin t n _ => if n == 0 then .nan else .inf (s != t)
  | .fin s m _, .inf t => if m == 0 then .nan else .inf (s != t)
  | .fin s m e, .fin t n k => .fin (s != t) (m * n) (e + k)

/-- The exact quotient (10 R232). -/
def FV.div (a b : FV) : FR :=
  match a, b with
  | .nan, _ => .nan
  | _, .nan => .nan
  | .inf _, .inf _ => .nan
  | .inf s, .fin t _ _ => .inf (s != t)
  | .fin s _ _, .inf t => .fin (s != t) 0 1
  | .fin s m e, .fin t n k =>
    if n == 0 then (if m == 0 then .nan else .inf (s != t)) else .fin (s != t) (m * pow2 (e - k)) (n * pow2 (k - e))

/-- How two values compare; none with a NaN. Zeros of either sign are equal. -/
def FV.cmp (a b : FV) : Option Ordering :=
  match a, b with
  | .nan, _ => none
  | _, .nan => none
  | .inf s, .inf t => some (if s == t then .eq else if s then .lt else .gt)
  | .inf s, .fin _ _ _ => some (if s then .lt else .gt)
  | .fin _ _ _, .inf t => some (if t then .gt else .lt)
  | .fin s m e, .fin t n k => some (compare (scaled s m e (min e k)) (scaled t n k (min e k)))

/-- The sign of a value; false for a NaN. -/
def FV.isNeg : FV → Bool
  | .nan => false
  | .inf s => s
  | .fin s _ _ => s

/-- The value is a NaN. -/
def FV.isNan : FV → Bool
  | .nan => true
  | .inf _ => false
  | .fin _ _ _ => false

/-- The value is a zero. -/
def FV.isZero : FV → Bool
  | .nan => false
  | .inf _ => false
  | .fin _ m _ => m == 0

/-- The rounding mode is RDN. -/
def modeDn : RMode → Bool
  | .rdn => true
  | .rne | .rtz | .rup | .stoch => false

/-- The smaller or larger of two values: a NaN operand gives a NaN; max(+0, −0) is +0 and min(+0, −0) is −0 (R135, 10 R229). -/
def FV.minmax (mx : Bool) (a b : FV) : FV :=
  match a.cmp b with
  | none => .nan
  | some .eq => if a.isNeg == mx then b else a
  | some .lt => if mx then b else a
  | some .gt => if mx then a else b

/-! ## The stochastic generator (R123) -/

/-- stoch_next (R123). -/
def stochNext (x : Word) : Word :=
  let x := x ^^^ (x <<< 13)
  let x := x ^^^ (x >>> 17)
  x ^^^ (x <<< 5)

/-! ## Modes and formats by code -/

/-- The rounding mode of a code of fmt.RMODE (R119). -/
def modeOf (n : Nat) : RMode :=
  match n with
  | 0 => .rne | 1 => .rtz | 2 => .rdn | 3 => .rup | _ => .stoch

/-- fmt.RMODE. -/
def fmtMode (w : Word) : RMode := modeOf (bits w.toNat 12 3)
/-- fmt.SAT. -/
def fmtSat (w : Word) : Bool := bit w.toNat 15
/-- fmt.FTZIN. -/
def fmtFtz (w : Word) : Bool := bit w.toNat 16
/-- The group size of fmt.QGROUP. -/
def fmtG (w : Word) : Nat := 32 * 2 ^ bits w.toNat 10 2

/-- The mode of the matrix unit and of engines: STOCH is read as RNE (R123). -/
def detMode (m : RMode) : RMode :=
  match m with
  | .stoch => .rne
  | .rne | .rtz | .rdn | .rup => m

/-! ## Group quantisation (R128, R129) -/

/-- A group word is well formed (R128). -/
def groupWordOk (q4 : Bool) (w : Word) : Bool := w.toNat / 2 ^ 24 == 0 && !(q4 && bits w.toNat 20 4 != 0)

/-- Largest code. -/
def qmaxOf (q4 : Bool) : Nat := if q4 then 15 else 255

/-- quant (R129). -/
def quant (q4 : Bool) (gw : Word) (mode : RMode) (rw : Nat) (x : FV) : Nat :=
  let s := fFP16.decode (bits gw.toNat 0 16)
  let z := bits gw.toNat 16 8
  let qm := qmaxOf q4
  match s, x with
  | .nan, _ => z
  | .inf _, _ => z
  | .fin _ _ _, .nan => z
  | .fin sn m _, .inf neg => if sn || m == 0 then z else if neg then 0 else qm
  | .fin sn m e, .fin xn n k =>
    if sn || m == 0 then z
    else
      match roundInt mode rw (FV.div (.fin xn n k) (.fin sn m e)) with
      | .val v => (max 0 (min (v + z) qm)).toNat
      | .nan => z
      | .inf _ => z

/-- dequant (R129), as an FP32 code: exact for a finite scale; SAT acts on an infinite result (10 R238). -/
def dequant (sat : Bool) (gw : Word) (q : Nat) : Nat :=
  let s := fFP16.decode (bits gw.toNat 0 16)
  let z := bits gw.toNat 16 8
  fFP32.round sat .rne 0 (FV.mul s (FV.ofInt ((q : Int) - z))).toR

/-! ## Rounding in a lane (R122, R123, 10 R227) -/

/-- round and overflow of one result element with a lane's generator, which steps under STOCH. -/
def FFmt.roundGen (f : FFmt) (sat : Bool) (mode : RMode) (gen : Word) (x : FR) : Nat × Word :=
  if mode = .stoch then (f.round sat mode ((stochNext gen).toNat / 65536) x, stochNext gen) else (f.round sat mode 0 x, gen)

/-- The same into the integers. -/
def roundIntGen (mode : RMode) (gen : Word) (x : FR) : RInt × Word :=
  if mode = .stoch then (roundInt mode ((stochNext gen).toNat / 65536) x, stochNext gen) else (roundInt mode 0 x, gen)

/-- The code of a value of the format, with no rounding: a NaN is the canonical one, an infinity stays. -/
def FFmt.encode (f : FFmt) (x : FV) : Nat := f.round false .rne 0 x.toR

/-- The exact sum of values, in order. -/
def sumFV : List FV → FV
  | [] => .fin false 0 0
  | x :: xs => xs.foldl (FV.add false) x

/-! ## Square root (10 R232) -/

/-- The integer square root of n below 2^(2k), bit by bit from r. -/
def isqrtFrom : Nat → Nat → Nat → Nat
  | 0, _, r => r
  | k + 1, n, r => if (r + 2 ^ k) * (r + 2 ^ k) ≤ n then isqrtFrom k n (r + 2 ^ k) else isqrtFrom k n r

/-- The integer square root. -/
def isqrt (n : Nat) : Nat := isqrtFrom (n.log2 / 2 + 1) n 0

/-- √(m·2^e) as a fraction whose rounding to 24 bits, in every mode, is that of the exact root: 64 bits of the root, and a half more
when they are not exact. -/
def sqrtR (m : Nat) (e : Int) : FR :=
  let k : Int := if (e - 128) % 2 = 0 then e - 128 else e - 129
  let n := m * pow2 (e - k)
  let r := isqrt n
  let t := 2 * r + b2n (r * r != n)
  .fin false (t * pow2 (k / 2)) (2 * pow2 (-(k / 2)))

/-- The square root of a value: NaN below zero, zero as it is (10 R233). -/
def FV.sqrt : FV → FR
  | .nan => .nan
  | .inf s => if s then .nan else .inf false
  | .fin s m e => if m = 0 then .fin s 0 1 else if s then .nan else sqrtR m e

end Sys2Proof.Machine
end

