-- ==== Sys2Proof/Machine/Fabric.lean ====
section
/-! DEFINITION. UALink messages (16 R343), and the graphs of the port fabric: conversion, block-exponent compression and reduction of
the tiles that pass through a UALink port (16 R345 to R347). -/

namespace Sys2Proof

/-! ## Messages (R343) -/

/-- A field of a message's header. -/
def Msg.field (m : Msg) (lo n : Nat) : Nat := (m.header.extractLsb' lo n).toNat

def Msg.kind (m : Msg) : Nat := m.field 124 4
def Msg.abortF (m : Msg) : Bool := m.header.getLsbD 120
def Msg.sender (m : Msg) : Nat := m.field 110 10
def Msg.xpipe (m : Msg) : Nat := m.field 104 6
def Msg.seq (m : Msg) : Nat := m.field 64 32
def Msg.off (m : Msg) : Nat := m.field 48 16
def Msg.len (m : Msg) : Nat := m.field 40 8

/-- Sector k of a payload. -/
def sectorOf (l : List Byte) (k : Nat) : List Byte := (List.range 32).map (fun j => l.getD (32 * k + j) 0)

/-- HCHECK holds: it is the check of the header with the field taken as zero. -/
def Msg.hok (m : Msg) : Bool :=
  m.field 128 16 == Machine.check16 (Machine.toBytes 32 (m.header &&& ~~~(0xFFFF#256 <<< 128)).toNat)

/-- The payload sectors whose entry of CHECK fails. -/
def Msg.bad (m : Msg) : List Nat :=
  Machine.indices 7 (fun k => m.field (144 + 16 * k) 16 != Machine.check16 (sectorOf m.bytes k))

/-- Those of them that hold bytes of the tile. -/
def Msg.badUsed (m : Msg) : List Nat := m.bad.filter (fun i => 32 * i < min m.len 224)

/-- The message of some fields and 224 payload bytes, with its checks; that of a sector in `bad` does not match. -/
def mkMsg (kind : Nat) (abort : Bool) (sender xpipe seq off len : Nat) (bytes : List Byte) (bad : List Nat) : Msg :=
  let sum (k : Nat) : Nat := if bad.contains k then Machine.check16 (sectorOf bytes k) ^^^ 1 else Machine.check16 (sectorOf bytes k)
  let check : BitVec 112 := BitVec.ofNat 112 (((List.range 7).map (fun k => sum k * 2 ^ (16 * k))).sum)
  let low : BitVec 128 := BitVec.ofNat 4 kind ++ BitVec.ofNat 4 (Machine.b2n abort) ++ BitVec.ofNat 10 sender ++ BitVec.ofNat 6 xpipe ++ 0#8
    ++ BitVec.ofNat 32 seq ++ BitVec.ofNat 16 off ++ BitVec.ofNat 8 len ++ 0#40
  let h := BitVec.ofNat 16 (Machine.check16 (Machine.toBytes 32 (check ++ 0#16 ++ low).toNat))
  { header := check ++ h ++ low, bytes := bytes }

end Sys2Proof

namespace Sys2Proof.Machine

open Sys2Proof

/-- 224 payload bytes that begin with some; of the others no rule gives the values (log 84). -/
def padPayload (id : Nat) (l : List Byte) : List Byte :=
  l ++ (List.range (224 - l.length)).map (fun k => Config.freeByte (2 ^ 66 + id) k)

/-- The entry of a port that is in use for a pipe number in a direction (R345): 1 outbound, 0 inbound. -/
def State.fabEntry (s : State) (port dir pipe : Nat) : Nat :=
  match (List.range 8).find? (fun k =>
      let w := (s.pkg.fabgraph.get 0 (8 * port + k)).toNat
      bit w 0 && bits w 1 6 == pipe && bits w 7 1 == dir) with
  | some k => (s.pkg.fabgraph.get 0 (8 * port + k)).toNat
  | none => 0

def fabCvt (w : Nat) : Nat := bits w 13 2
def fabCmp (w : Nat) : Nat := bits w 11 2
def fabRed (w : Nat) : Nat := bits w 8 2
def fabSat (w : Nat) : Bool := bit w 15
def fabNprod (w : Nat) : Nat := bits w 16 5

/-- The format of FMT code 0 or 1, and its bytes. -/
def fabFmt (bf : Bool) : FFmt := if bf then fBF16 else fFP32
def fabSize (bf : Bool) : Nat := if bf then 2 else 4

/-- The elements of a tile of n-byte elements, lowest first. -/
def elemsOf (n : Nat) (b : List Byte) : List Nat := (List.range (b.length / n)).map (fun k => ofBytes ((b.drop (n * k)).take n))

/-- The bytes of elements of n bytes. -/
def bytesOfElems (n : Nat) (l : List Nat) : List Byte := l.flatMap (toBytes n)

/-- The sectors of n sent bytes that are bad: those of the tile, or where the graph changes the bytes all of them once one is (log 33). -/
def sentBad (w n : Nat) (l : List Nat) : List Nat := if l.isEmpty || (fabCvt w == 0 && fabCmp w == 0) then l else List.range ((n + 31) / 32)

/-- Converts elements between FP32 and BF16 under RNE (R346); to the wider format an infinity stays one (05 R126). -/
def fabConvert (toBf sat : Bool) (l : List Nat) : List Nat :=
  l.map (fun w => (fabFmt toBf).round (sat && toBf) .rne 0 ((fabFmt (!toBf)).decode w).toR)

/-- The value is a NaN or an infinity. -/
def FV.special : FV → Bool
  | .nan => true
  | .inf _ => true
  | .fin _ _ _ => false

/-- floor(log2 |x|) of a nonzero finite value. -/
def FV.ilog : FV → Int
  | .fin _ m e => (ilog2 m : Int) + e
  | .nan => 0
  | .inf _ => 0

/-- The block of 16 elements, compressed (R346). -/
def compress16 (bf : Bool) (l : List Nat) : List Byte :=
  let vs := l.map (fabFmt bf).decode
  if vs.any FV.special then 0xFF :: bytesOfElems (fabSize bf) l
  else
    let nz := vs.filter (fun v => !v.isZero)
    match nz.map FV.ilog with
    | [] => 0 :: List.replicate 16 0
    | x :: xs =>
      let e := max (xs.foldl max x) (-126)
      BitVec.ofInt 8 (e + 127) :: vs.map (fun v => BitVec.ofInt 8 ((roundInt .rne 0 (FV.div v (.fin false 1 (e - 6)))).sat (-127) 127))

/-- The runs of 16 elements, the last padded with zeros. -/
def compressAll (bf : Bool) (l : List Nat) : List Byte :=
  (List.range ((l.length + 15) / 16)).flatMap (fun k =>
    let r := (l.drop (16 * k)).take 16
    compress16 bf (r ++ List.replicate (16 - r.length) 0))

/-- Expands k runs; none while bytes are missing or left over (R346). -/
def expandRuns (bf : Bool) : Nat → List Byte → Option (List Nat)
  | 0, [] => some []
  | 0, _ :: _ => none
  | _ + 1, [] => none
  | k + 1, h :: t =>
    let n := if h == 0xFF then 16 * fabSize bf else 16
    if t.length < n then none
    else
      let c := t.take n
      let run := if h == 0xFF then elemsOf (fabSize bf) c
        else c.map (fun q => (fabFmt bf).round false .rne 0
          (if q.toInt = 0 then .fin false 0 1 else FV.toR (.fin (q.toInt < 0) q.toInt.natAbs ((h.toNat : Int) - 133))))
      (expandRuns bf k (t.drop n)).map (run ++ ·)

/-- The bytes that k runs take; none while some are missing. -/
def runsWant (bf : Bool) : Nat → List Byte → Option Nat
  | 0, _ => some 0
  | _ + 1, [] => none
  | k + 1, h :: t =>
    let n := if h == 0xFF then 16 * fabSize bf else 16
    if t.length < n then none else (runsWant bf k (t.drop n)).map (· + (n + 1))

/-- The bytes that a package sends for a committed tile of a format code, by the outbound entry: none for a tile that does not
fit its steps (R345). -/
def fabSend (w fmt : Nat) (b : List Byte) : Option (List Byte) :=
  let cvt := fabCvt w
  if cvt == 0 && fabCmp w == 0 then some b
  else if fmt > 1 then none
  else if cvt == 1 && fmt != 0 then none
  else if cvt == 2 && fmt != 1 then none
  else if b.length % fabSize (fmt == 1) != 0 then none
  else
    let l := elemsOf (fabSize (fmt == 1)) b
    let bf := if cvt == 0 then fmt == 1 else cvt == 1
    let l := if cvt == 0 then l else fabConvert bf (fabSat w) l
    some (if fabCmp w == 1 then compressAll bf l else bytesOfElems (fabSize bf) l)

/-- What the bytes of a received tile give, before a reduction: `wait` while bytes are missing, `bad` when they do not fit. -/
inductive FabIn where
  | wait
  | bad
  | tile (b : List Byte)
  deriving DecidableEq, Repr

/-- Expansion and conversion of a received tile for a pipe whose tile has n bytes in a format code (R345). -/
def fabReceive (w fmt n : Nat) (b : List Byte) : FabIn :=
  let cvt := fabCvt w
  if cvt == 0 && fabCmp w == 0 then (if b.length < n then .wait else if b.length == n then .tile b else .bad)
  else if fmt > 1 || (cvt == 1 && fmt != 1) || (cvt == 2 && fmt != 0) || n % fabSize (fmt == 1) != 0 then .bad
  else
    let cnt := n / fabSize (fmt == 1)
    let inBf := if cvt == 0 then fmt == 1 else cvt == 2
    let want : Option Nat := if fabCmp w == 1 then runsWant inBf ((cnt + 15) / 16) b
      else if b.length < cnt * fabSize inBf then none else some (cnt * fabSize inBf)
    match want with
    | none => .wait
    | some n =>
      let elems : Option (List Nat) := if b.length != n then none
        else if fabCmp w == 1 then (expandRuns inBf ((cnt + 15) / 16) b).map (·.take cnt)
        else some (elemsOf (fabSize inBf) b)
      match elems with
      | none => .bad
      | some l => .tile (bytesOfElems (fabSize (fmt == 1)) (if cvt == 0 then l else fabConvert (cvt == 1) (fabSat w) l))

/-- One step of a reduction (R347): sum under RNE with SAT, or max. -/
def fabComb (w : Nat) (a b : Nat) : Nat :=
  let f := fabFmt (bit w 10)
  if fabRed w == 1 then f.round (fabSat w) .rne 0 (FV.add false (f.decode a) (f.decode b)).toR
  else f.round false .rne 0 (FV.minmax true (f.decode a) (f.decode b)).toR

/-- The merge of contributions in ascending order of sender (R347). -/
def fabReduce (w : Nat) : List (List Byte) → List Byte
  | [] => []
  | c :: cs =>
    let n := fabSize (bit w 10)
    bytesOfElems n (cs.foldl (fun acc x => (acc.zip (elemsOf n x)).map (fun e => fabComb w e.1 e.2)) (elemsOf n c))

end Sys2Proof.Machine
end

