-- ==== Sys2Proof/Machine/Walk.lean ====
section
/-! DEFINITION. Physical address spaces, home slices, the reading of memory at its homes, the page tables and their walk, and what a
partition's packets may cross (01 R7, 03 R61 to R65, 15 R308, R309, 17 R355 to R358). -/

namespace Sys2Proof.Machine

open Sys2Proof

/-! ## Physical addresses -/

/-- The address lies in the Rein aperture: bits [51:19] are all ones (01 R7). -/
def isRein (pa : Nat) : Bool := pa / 2 ^ 19 == 2 ^ 33 - 1

/-- The tower of an aperture address. -/
def reinTower (pa : Nat) : Nat := pa / 2 ^ 18 % 2

/-- The frame is host memory. The manual places the frames of HBM4E and of the aperture only (log 2). -/
def isHost (pa : Nat) : Bool := decide (2 ^ 40 ≤ pa) && !isRein pa && Config.hostFrame (pa / 4096)

/-- The host link is up as CXL, so that host memory can be reached (16 R329). -/
def State.cxlUp (s : State) : Bool := s.pkg.cxlstat.toNat % 4 == 3

/-- Byte 0 of a partition's HBM4E (17 R357). -/
def Part.hbmBase (p : Part) : Nat := bits p.hbmil.toNat 38 14 * 2 ^ 38
/-- The number of stacks of a partition. -/
def Part.nstk (p : Part) : Nat := bits p.hbmil.toNat 12 4

/-- The address lies in the partition's HBM4E (R357). -/
def Part.inHbm (p : Part) (pa : Nat) : Bool :=
  p.hbmBase ≤ pa && (pa - p.hbmBase) / 4096 < 15625000 * p.nstk

/-- The partition holds a deck of the tower. -/
def State.holdsTower (s : State) (p t : Nat) : Bool := (s.decksOf p).any (fun d => towerOfDeck d == t)

/-- The frame lies inside the partition, for R309. -/
def State.inPart (s : State) (p pa : Nat) : Bool :=
  if isRein pa then s.holdsTower p (reinTower pa)
  else if isHost pa then s.cxlUp
  else (s.part p).inHbm pa

/-- Window lines that a deck may reach: all, or those of its quarter when the tower is split (17 R359). -/
def State.reinLineOk (s : State) (d line : Nat) : Bool :=
  !(s.tower (towerOfDeck d)).reinSplit.getLsbD 0 || line / 1024 == d % 4 / 2

/-! ## Home slices (R65, R64, R375) -/

/-- The live deck that answers for deck d: its buddy when d is fenced. -/
def State.liveDeck (s : State) (d : Nat) : Nat := if (s.deck d).live then d else d ^^^ 1

/-- The slice that the mapping of R65 gives an address in a partition, as if every deck were live. -/
def State.hashSlice (s : State) (p pa : Nat) : Nat :=
  let ds := s.decksOf p
  let u := pa / 512
  let h := (u ^^^ (u >>> 13) ^^^ (u >>> 26)) % 8192 ^^^ bits u 39 4
  let j := h * (96 * ds.length) / 8192
  96 * ds.getD (j / 96) 0 + j % 96

/-- The slice that answers for a slice: that of the buddy when the deck is fenced (R375). -/
def State.liveSlice (s : State) (sl : Nat) : Nat := 96 * s.liveDeck (sl / 96) + sl % 96

/-- The home slice of an address that is not core-pinned. -/
def State.homeSlice (s : State) (p pa : Nat) : Nat := s.liveSlice (s.hashSlice p pa)

/-- The slice that holds a core-pinned address of owner c (R64). -/
def pinSlice (c pa : Nat) : Nat := 96 * deckOfCore c + 2 * (c % 48) + pa / 512 % 2

/-- The slice of an address before any deck was fenced: that of its pinned line, or the mapping's (R64, R65). -/
def State.firstSlice (s : State) (p pa : Nat) : Nat :=
  match s.pinned.find (pa / 128) with
  | some x => x.slice
  | none => s.hashSlice p pa

/-- The home slice of a line, pinned or not (R65, R375). -/
def State.lineSlice (s : State) (p pa : Nat) : Nat := s.liveSlice (s.firstSlice p pa)

/-- The live partition whose HBM4E holds an address. -/
def State.partAt (s : State) (pa : Nat) : Option Nat := (List.range 7).find? (fun p => s.liveCode p && (s.part p).inHbm pa)

/-- The key of the release record of an address: each partition homes the lines of host memory, and keeps their records, in its
own slices (01 R16, R65). -/
def recKey (p pa : Nat) : Nat := if isHost pa then (p + 1) * 2 ^ 46 + pa / 128 else pa / 128

/-- The first address of the line of a record's key. -/
def keyPa (k : Nat) : Nat := k % 2 ^ 46 * 128

/-- The directory set of an address (R383). -/
def dirSet (pa : Nat) : Nat :=
  (bits pa 7 11 ^^^ bits pa 18 11 ^^^ bits pa 29 11 ^^^ bits pa 40 11 ^^^ bits pa 51 1) % 2048

/-! ## Home memory -/

/-- The byte at a physical address at its home. -/
def State.homeByte (s : State) (pa : Nat) : Byte :=
  if isHost pa then
    match s.hostL2.find pa with
    | some b => b
    | none =>
      match s.hostMem.find pa with
      | some b => b
      | none => Config.hostByte pa
  else s.mem.read pa

/-- n bytes at their home. -/
def State.homeBytes (s : State) (pa n : Nat) : List Byte := (List.range n).map (fun k => s.homeByte (pa + k))

/-- The n bytes at an address as a number. -/
def State.homeNat (s : State) (pa n : Nat) : Nat := ofBytes (s.homeBytes pa n)

/-! ## Page tables -/

/-- Why a translation fails. -/
inductive TErr where
  /-- ACCESS with INFO n. -/
  | access (info : Nat)
  /-- PAGEFAULT. -/
  | fault
  /-- The page is being flipped: the access waits (16 R339). -/
  | busy
  /-- The packet to the line's home leaves NETBOUND and is dropped (17 R358): the access waits for ever. -/
  | dropped
  deriving DecidableEq, Repr

/-- A translated address: its physical address, the leaf entry, where it stands, its level, and the page. -/
structure Tr where
  pa   : Nat
  e    : Nat
  ptea : Nat
  lvl  : Nat
  va0  : Nat
  size : Nat
  deriving DecidableEq, Repr

/-! ## Fields of an entry (R308) -/

def pteOwner (e : Nat) : Nat := bits e 54 9
def pteApl (e : Nat) : Nat := bits e 52 2
def ptePfn (e : Nat) : Nat := bits e 12 40
def pteHome (e : Nat) : Nat := bits e 9 3
def pteBias (e : Nat) : Bool := bit e 8
def pteCls (e : Nat) : Bool := bit e 7
def pteSnap (e : Nat) : Bool := bit e 6
def pteCont (e : Nat) : Bool := bit e 5
def pteX (e : Nat) : Bool := bit e 4
def pteW (e : Nat) : Bool := bit e 3
def pteR (e : Nat) : Bool := bit e 2
def pteT (e : Nat) : Bool := bit e 1
def pteV (e : Nat) : Bool := bit e 0

/-- A table entry with nothing but V, T and PFN. -/
def pteTableOk (e : Nat) : Bool := e == ptePfn e * 4096 + 3

/-- The index of a virtual address at a level (R308). -/
def vaIndex (lvl va : Nat) : Nat :=
  match lvl with
  | 0 => bits va 39 17
  | 1 => bits va 30 9
  | 2 => bits va 21 9
  | _ => bits va 12 9

/-- The bytes that an entry of a level maps. -/
def lvlSize (lvl : Nat) : Nat :=
  match lvl with
  | 0 => 2 ^ 39
  | 1 => 2 ^ 30
  | 2 => 2 ^ 21
  | _ => 2 ^ 12

/-- The checks of a leaf entry at a level: its address, and the size of the page it maps (R309). -/
def leafOk (s : State) (lvl va ptea e : Nat) : Except TErr Tr :=
  if lvl == 0 || (lvl == 3 && !pteT e) || bit e 63 || (lvl != 3 && pteCont e) then .error (.access 2)
  else if lvl != 3 && ptePfn e * 4096 % lvlSize lvl != 0 then .error (.access 2)
  else if pteCont e then
    let b := ptea / 128 * 128
    let same := (List.range 16).all (fun k => (s.homeNat (b + 8 * k) 8) / 2 ^ 16 == e / 2 ^ 16
      && s.homeNat (b + 8 * k) 8 % 4096 == e % 4096)
    if !same || ptePfn e % 16 != bits va 12 4 then .error (.access 2)
    else .ok { pa := ptePfn e / 16 * 65536 + va % 65536, e := e, ptea := ptea, lvl := 3, va0 := va / 65536 * 65536, size := 65536 }
  else
    .ok { pa := ptePfn e * 4096 + va % lvlSize lvl, e := e, ptea := ptea, lvl := lvl, va0 := va / lvlSize lvl * lvlSize lvl,
          size := lvlSize lvl }

/-- A table entry may be read: its frame is in memory inside the partition (17 R355). -/
def State.tableIn (s : State) (p pa : Nat) : Bool := !isRein pa && s.inPart p pa

/-- The walk of the tables of partition p from level lvl down (R309); a table outside the partition is ACCESS with INFO 4. -/
def walkFrom (s : State) (p va : Nat) : Nat → Nat → Nat → Except TErr Tr
  | 0, _, _ => .error (.access 2)
  | fuel + 1, lvl, t =>
    let ptea := t * 4096 + 8 * vaIndex lvl va
    let e := s.homeNat ptea 8
    if !s.tableIn p ptea then .error (.access 4)
    else if !pteV e then .error .fault
    else if pteT e && lvl < 3 then
      if pteTableOk e then walkFrom s p va fuel (lvl + 1) (ptePfn e) else .error (.access 2)
    else leafOk s lvl va ptea e

/-- Where the entry of a context stands (R308). -/
def State.ctxAt (s : State) (p ctx : Nat) : Nat := bits (s.part p).ctxtab.toNat 19 33 * 2 ^ 19 + 8 * ctx

/-- The walk of a context's tables in partition p. -/
def walk (s : State) (p ctx va : Nat) : Except TErr Tr :=
  let c := s.homeNat (s.ctxAt p ctx) 8
  if !s.tableIn p (s.ctxAt p ctx) then .error (.access 4)
  else if !bit c 0 || c % 2 ^ 20 / 2 != 0 || c / 2 ^ 52 != 0 then .error (.access 8)
  else walkFrom s p va 4 0 (bits c 20 32 * 256)

/-- The addresses of the table entries that a walk reads from level lvl down. -/
def walkPtes (s : State) (p va : Nat) : Nat → Nat → Nat → List Nat
  | 0, _, _ => []
  | fuel + 1, lvl, t =>
    let ptea := t * 4096 + 8 * vaIndex lvl va
    let e := s.homeNat ptea 8
    if !s.tableIn p ptea then []
    else ptea :: (if pteV e && pteT e && lvl < 3 && pteTableOk e then walkPtes s p va fuel (lvl + 1) (ptePfn e) else [])

/-- The addresses that the walk of a context's tables reads. -/
def walkReads (s : State) (p ctx va : Nat) : List Nat :=
  s.ctxAt p ctx :: walkPtes s p va 4 0 (bits (s.homeNat (s.ctxAt p ctx) 8) 20 32 * 256)

/-- A byte of a range of virtual addresses of a context is mapped to one of n physical bytes. -/
def rangeMaps (s : State) (p ctx : Nat) (r : Nat × Nat) (pa n : Nat) : Bool :=
  (List.range ((r.2 + 4095) / 4096 - r.1 / 4096)).any (fun k =>
    let v := (r.1 / 4096 + k) * 4096
    match walk s p ctx v with
    | .ok t => t.pa / 4096 == pa / 4096 && max r.1 v - v < pa % 4096 + n && pa % 4096 < min r.2 (v + 4096) - v
    | .error _ => false)

/-! ## What a partition's traffic may cross (17 R358) -/

/-- A packet between two decks of a partition stays inside its NETBOUND: both are in DECKS, and BRIDGE lets it cross to the other tower. One
of the Farrier, which is on no deck, is not bounded. -/
def State.netOk (s : State) (p d h : Nat) : Bool :=
  let b := (s.part p).netbound
  decide (8 ≤ d) || (b.getLsbD d && b.getLsbD h && (towerOfDeck d == towerOfDeck h || b.getLsbD 8))

/-- A packet of a deck of a partition reaches the home slice of an address. -/
def State.homeOk (s : State) (p d pa : Nat) : Bool := s.netOk p d (s.lineSlice p pa / 96)

/-- The deck from which the device's own accesses for a partition go: its master (14 R298, log 85); none when no deck is live, and the Farrier
makes them. -/
def State.masterDeck (s : State) (p : Nat) : Nat := ((s.decksOf p).filter (fun d => (s.deck d).live)).headD 8

/-- A packet of a partition's own that leaves its bounds is dropped, and counted at its lowest core (17 R358, log 85). -/
def State.dropPacket (s : State) (p : Nat) : State := s.bumpCore ((s.coresOf p).headD 0) 0xB0 1

end Sys2Proof.Machine
end

