-- ==== Sys2Proof/Machine/Home.lean ====
section
/-! DEFINITION. Memory at its homes: the lines that slices hold, the one write of home memory with its copy-on-write, mirror, marks and
poison, fault records, the L1s, settles and release records (03 R61 to R65, 04 R88 to R97, R383, 15 R318, 17 R369 to R374). -/

namespace Sys2Proof.Machine

open Sys2Proof

/-! ## Home memory -/

/-- Writes one byte of storage: device memory, or host memory, in the device L2's copy of its line where a slice holds the line
(03 R61, 16 R340). -/
def State.rawByte (s : State) (pa : Nat) (b : Byte) : State :=
  if !isHost pa then { s with mem := s.mem.write pa b }
  else if (s.l2.find (pa / 128)).isSome then { s with hostL2 := s.hostL2.put pa b }
  else { s with hostMem := s.hostMem.put pa b, hostL2 := s.hostL2.del pa }

/-- Writes bytes of storage at rising addresses. -/
def State.rawBytes (s : State) (pa : Nat) : List Byte → State
  | [] => s
  | b :: bs => (s.rawByte pa b).rawBytes (pa + 1) bs

/-! ## The lines that a slice holds (01 R13, 17 R374) -/

/-- The partition in whose slices a line is homed: that of its HBM4E, or of host memory the one that has it in its L2 (03 R65). -/
def State.linePart (s : State) (line : Nat) : Option Nat := if isHost (line * 128) then s.l2.find line else s.partAt (line * 128)

/-- Drops the marks that a write of a line, or its leaving the slice, kills (03 R78). -/
def State.killMarks (s : State) (line : Nat) : State := { s with marks := s.marks.filter (fun m => !m.lines.contains line) }

/-- The device's L2 copy of a line of host memory is written to the host and given up (16 R340, R341). -/
def State.hostPush (s : State) (line : Nat) : State :=
  if !isHost (line * 128) then s
  else
    { s with hostL2 := s.hostL2.dropIf (fun a _ => a / 128 == line), l2 := s.l2.del line,
             hostMem := (s.hostL2.filter (fun e => e.1 / 128 == line)).foldl (fun t e => t.put e.1 e.2) s.hostMem }

/-- A line leaves its slice for HBM4E, or for host memory: marks on it are lost, and its mirror copy (03 R78, 16 R340, 17 R374). -/
def State.l2Out (s : State) (line : Nat) : State :=
  let s := (s.killMarks line).hostPush line
  { s with mirror := s.mirror.filter (· != line), l2 := s.l2.del line }

/-- The physical line overlaps a range that an engine command or a matrix operation of some core has registered: one of the lines that it
translated, or any that its entry's addresses map (R98, R101, R102). -/
def State.lockedLine (s : State) (line : Nat) : Bool :=
  s.cores.any (fun e => e.2.cmds.any (fun x => x.2.tr.any (fun l => l.2 == line)) || e.2.matq.any (fun m => m.tr.any (fun l => l.2 == line))
    || e.2.locks.any (fun x => x.2.glob && x.2.owner < 2 ^ 32 && rangeMaps s (s.codeOfCore e.1) x.2.owner (x.2.lo, x.2.hi) (line * 128) 128))

/-- Lines that a slice's pinned ways hold, those of a fenced deck's slice that it answers for among them (R64, R375). -/
def State.pinnedIn (s : State) (sl : Nat) : Nat := (s.pinned.filter (fun e => s.liveSlice e.2.slice == s.liveSlice sl)).length

/-- Mirror copies that a slice holds, of lines homed at the slice of its buddy deck (17 R374). -/
def State.mirrorsIn (s : State) (sl : Nat) : Nat :=
  (s.mirror.filter (fun l => match s.linePart l with
    | some p => s.lineSlice p (l * 128) == 96 * (sl / 96 ^^^ 1) + sl % 96
    | none => false)).length

/-- The lines of a slice's unpinned ways. -/
def State.l2Lines (s : State) (sl : Nat) : List Nat := (s.l2.filter (fun e => s.lineSlice e.2 (e.1 * 128) == sl)).map Prod.fst

/-- The slice of a line holds it, pinned or not, or has room for it in its 12,288 lines (R13). -/
def State.l2Room (s : State) (p line : Nat) : Bool :=
  let sl := s.lineSlice p (line * 128)
  (s.l2.find line).isSome || (s.pinned.find line).isSome || (s.l2Lines sl).length + s.pinnedIn sl + s.mirrorsIn sl < 12288

/-- An access of partition p brings a line into its home slice. Where the slice is full, one of its unpinned lines that no registered range
overlaps leaves it, freely chosen; with none the access is performed at memory (R13, 04 R102, log 73). -/
def State.l2Touch (s : State) (p line : Nat) : State :=
  if isRein (line * 128) || (s.l2.find line).isSome || (s.pinned.find line).isSome then s
  else if s.l2Room p line then { s with l2 := s.l2.put line p }
  else
    let l := (s.l2Lines (s.lineSlice p (line * 128))).filter (fun k => !s.lockedLine k)
    match l[Config.freeNat s.freeCtr % l.length]? with
    | some k => let t := (s.l2Out k).tick; { t with l2 := t.l2.put line p }
    | none => s

/-- A slice's copy of a line of host memory is written to the host and stays, clean. -/
def State.hostClean (s : State) (line : Nat) : State :=
  { s with hostL2 := s.hostL2.dropIf (fun a _ => a / 128 == line),
           hostMem := (s.hostL2.filter (fun e => e.1 / 128 == line)).foldl (fun t e => t.put e.1 e.2) s.hostMem }

/-- With MIRROR = 1 a line that becomes dirty at its home is copied to the buddy's slice, and counted. When the 3,072 lines of a quarter
of the slice's ways are in use, one of them is written to HBM4E and its copy dropped, freely chosen (17 R374, log 91). -/
def State.mirrorLine (s : State) (line : Nat) : State :=
  match s.linePart line with
  | none => s
  | some p =>
    let sl := s.lineSlice p (line * 128)
    if !(s.part p).intcfg.getLsbD 0 || !(s.deck (sl / 96 ^^^ 1)).live || s.mirror.contains line then s
    else
      let l := s.mirror.filter (fun k => s.linePart k == some p && s.lineSlice p (k * 128) == sl)
      let s := if l.length < 3072 then s
        else
          match l[Config.freeNat (2 ^ 68 + line) % l.length]? with
          | some k => let t := s.hostClean k; { t with mirror := t.mirror.filter (· != k) }
          | none => s
      ({ s with mirror := line :: s.mirror }).bumpDeck (sl / 96) 0x30 1

/-! ## Snapshots (15 R324, R325) -/

/-- Writes bytes of a partition's snapshot area, which become dirty at their homes like any other; packets that leave NETBOUND are dropped
(17 R358). -/
def State.areaPut (s : State) (p pa : Nat) (bs : List Byte) : State :=
  if !s.homeOk p (s.masterDeck p) pa then s.dropPacket p
  else ((List.range ((pa % 128 + bs.length + 127) / 128)).foldl (fun s k => s.mirrorLine (pa / 128 + k)) s).rawBytes pa bs

/-- Writes an n-byte number to a snapshot's area. -/
def State.areaNat (s : State) (p pa n w : Nat) : State := s.areaPut p pa (toBytes n w)

/-- A partition's snapshot is abandoned: +8 becomes 2 (15 R325), and it has ended (16 R328). -/
def State.snapAbandon (s : State) (p : Nat) : State :=
  let sn := (s.part p).snap
  ((s.areaNat p (sn.area + 8) 8 2).onPart p (fun x => { x with snap := { sn with running := false, abandoned := true } })).cause p 3

/-- Size of a snapshot page by its code (R324). -/
def snapSize (code : Nat) : Nat :=
  match code with
  | 0 => 2 ^ 12
  | 1 => 2 ^ 16
  | 2 => 2 ^ 21
  | _ => 2 ^ 30

/-- The bytes of a deck's replica of its tower's window (04 R108). -/
def State.replica (s : State) (d pa n : Nat) : List Byte :=
  (List.range n).map (fun k =>
    let o := pa % 2 ^ 18 + k
    BitVec.ofNat 8 (((s.deck d).rep.get 0 (o / 4)).toNat >>> (8 * (o % 4))))

/-- The line that a snapshot copies: of a Rein window from the replica of a partition's awake deck of the tower (15 R325, log 88). -/
def State.snapBytes (s : State) (p line : Nat) : List Byte :=
  if isRein (line * 128) then
    s.replica (((s.decksOf p).find? (fun d => towerOfDeck d == reinTower (line * 128) && (s.deck d).awake && (s.deck d).live)).getD 0) (line * 128) 128
  else s.homeBytes (line * 128) 128

/-- Copies the old line of a SNAP page to the snapshot's area, allocating the page's data at its first copy. `pages` holds
(virtual address, physical address, size code, data offset or 0). -/
def State.snapCopy (s : State) (p line : Nat) : State :=
  let sn := (s.part p).snap
  if !sn.running || sn.copied.contains line then s
  else
    match sn.pages.find? (fun e => e.2.1 ≤ line * 128 && line * 128 < e.2.1 + snapSize e.2.2.1) with
    | none => s
    | some (va, pa, code, off) =>
      if off == 0 then
        let d := 4096 + 16 * sn.ndir + sn.used
        if sn.next ≥ sn.ndir || d + snapSize code > sn.asize then s.snapAbandon p
        else
          let e := sn.area + 4096 + 16 * sn.next
          let s := s.areaNat p e 8 va
          let s := s.areaNat p (e + 8) 8 (code * 2 ^ 62 + d)
          let s := s.areaNat p sn.area 8 (sn.next + 1)
          let s := s.areaPut p (sn.area + d + (line * 128 - pa)) (s.snapBytes p line)
          s.onPart p (fun x => { x with snap := { sn with
            next := sn.next + 1, used := sn.used + snapSize code, copied := line :: sn.copied,
            pages := sn.pages.map (fun q => if q.2.1 == pa then (q.1, q.2.1, q.2.2.1, d) else q) } })
      else
        let s := s.areaPut p (sn.area + off + (line * 128 - pa)) (s.snapBytes p line)
        s.onPart p (fun x => { x with snap := { sn with copied := line :: sn.copied } })

/-- Copy-on-write of every partition's snapshot before a write of a line (R325). -/
def State.cow (s : State) (line : Nat) : State := (List.range 7).foldl (fun s p => s.snapCopy p line) s

/-- Drops the poison of the 32-byte sectors that a write covers whole (17 R370). -/
def State.clearPoison (s : State) (pa n : Nat) : State :=
  { s with poison := s.poison.filter (fun q => !(pa ≤ 32 * q && 32 * q + 32 ≤ pa + n)) }

/-- A write that reaches a line at its home: copy-on-write, the mirror, marks and poison first, then the bytes. The bytes lie in one
line. -/
def State.homeWrite (s : State) (pa : Nat) (bs : List Byte) : State :=
  if bs.isEmpty then s
  else ((((s.cow (pa / 128)).mirrorLine (pa / 128)).killMarks (pa / 128)).clearPoison pa bs.length).rawBytes pa bs

/-- Writes bytes at their homes line by line. -/
def State.homeStore (s : State) (pa : Nat) (bs : List Byte) : State :=
  let n := (pa % 128 + bs.length + 127) / 128
  (List.range n).foldl (fun s k =>
    let lo := if k == 0 then pa else (pa / 128 + k) * 128
    let hi := (pa / 128 + k + 1) * 128
    s.homeWrite lo ((bs.drop (lo - pa)).take (hi - lo))) s

/-- Writes an n-byte number at its home. -/
def State.homeSet (s : State) (pa n w : Nat) : State := s.homeStore pa (toBytes n w)

/-- Writes the bytes of a line that a mask names (04 R93). -/
def State.homeMerge (s : State) (line : Nat) (data : List Byte) (mask : BitVec 128) : State :=
  if mask == 0 then s
  else
    let s := ((s.cow line).mirrorLine line).killMarks line
    let s := (indices 4 (fun q => (mask >>> (32 * q)).toNat % 2 ^ 32 == 2 ^ 32 - 1)).foldl (fun s q => s.clearPoison (line * 128 + 32 * q) 32) s
    (indices 128 (fun k => mask.getLsbD k)).foldl (fun s k => s.rawByte (line * 128 + k) (data.getD k 0)) s

/-! ## Poison and bias -/

/-- The 32-byte sector of the address is poisoned, or its home was on a fenced deck without mirroring (R370, R375). -/
def State.poisoned (s : State) (p pa : Nat) : Bool :=
  s.poison.contains (pa / 32) || (!isRein pa && (s.part p).poisoned.contains (s.firstSlice p pa / 96))

/-- Some sector of n bytes is poisoned. -/
def State.poisonedIn (s : State) (p pa n : Nat) : Bool :=
  (List.range ((pa + n + 31) / 32 - pa / 32)).any (fun k => s.poisoned p ((pa / 32 + k) * 32))

/-- The bias of the page of an address: true for host bias (16 R333). A table outside the partition's HBM4E is not read (17 R355). -/
def State.hostBias (s : State) (p pa : Nat) : Bool :=
  let x := s.part p
  if x.biasbase.getLsbD 0 && x.inHbm pa then
    let i := (pa - x.hbmBase) / 4096
    let a := bits x.biasbase.toNat 12 40 * 4096 + i / 8
    x.inHbm a && bit (s.mem.read a).toNat (i % 8)
  else false

/-! ## Fault records (15 R307, R318, 17 R372) -/

/-- The device writes a number at a physical address for a partition: what lies outside the partition, or past its NETBOUND, is not reached
(17 R355, R358). -/
def State.physSet (s : State) (p pa n w : Nat) : State :=
  if s.inPart p pa && s.inPart p (pa + n - 1) && s.homeOk p (s.masterDeck p) pa then s.homeSet pa n w else s.dropPacket p

/-- A record can be posted to the partition's fault queue (15 R307). -/
def State.canPost (s : State) (p : Nat) : Bool :=
  let x := s.part p
  x.fqcfg.getLsbD 0 && (x.fqtail - x.fqhead).toNat < 2 ^ bits x.fqcfg.toNat 8 4

/-- Posts a 32-byte record (R306, R307). -/
def State.postRec (s : State) (p w : Nat) : Option State :=
  if s.canPost p then
    let x := s.part p
    let a := bits x.fqcfg.toNat 12 40 * 4096 + 32 * (x.fqtail.toNat % 2 ^ bits x.fqcfg.toNat 8 4)
    some (((s.physSet p a 32 w).onPart p (fun y => { y with fqtail := y.fqtail + 1 })).cause p 0)
  else none

/-- TIME of a record: microseconds since partition reset. -/
def State.timeOf (s : State) (p : Nat) : Nat := (s.us - (s.part p).resetUs) % 2 ^ 64

/-- A record of R318: VA, FRAME, CTX, CORE, TRAP, KIND, DOUBLE, STAGE and CODE. -/
def faultRec (s : State) (p va frame ctx core trap kind : Nat) (double : Bool) (stage code : Nat) : Nat :=
  code + stage * 2 ^ 8 + b2n double * 2 ^ 16 + kind * 2 ^ 52 + trap * 2 ^ 56 + core * 2 ^ 71 + ctx * 2 ^ 80 + frame * 2 ^ 96
    + va % 2 ^ 64 * 2 ^ 128 + s.timeOf p * 2 ^ 192

/-- A record of R372: only VA, CORE, TRAP and CODE. -/
def eventRec (s : State) (p va core trap code : Nat) : Nat := faultRec s p va 0xFFFFFFFF 0 core trap 0 false 0 code

/-- A record of R291: DESC, TEAM, INDEX, QUEUE, PIPE, STAGE and CODE. -/
def launchRec (s : State) (p desc team index queue pipe stage code : Nat) : Nat :=
  code + stage * 2 ^ 8 + pipe * 2 ^ 16 + queue * 2 ^ 32 + index * 2 ^ 64 + team * 2 ^ 96 + desc * 2 ^ 128 + s.timeOf p * 2 ^ 192

/-- Posts a record of an event that nothing holds back, or keeps it until it can be posted (R307, log 23). -/
def State.tryPost (s : State) (p w : Nat) : State :=
  (s.postRec p w).getD (s.onPart p (fun x => { x with heldRecs := x.heldRecs ++ [w] }))

/-- Posts kept records, oldest first, as far as there is room, and keeps the rest. -/
def State.postList (s : State) (p : Nat) : List Nat → State
  | [] => s.onPart p (fun x => { x with heldRecs := [] })
  | w :: ws =>
    match s.postRec p w with
    | some t => t.postList p ws
    | none => s.onPart p (fun x => { x with heldRecs := w :: ws })

/-- The kept records after a write of FQCFG or FQHEAD (R307). -/
def State.postHeld (s : State) (p : Nat) : State := s.postList p (s.part p).heldRecs

/-! ## L1 lines (04 R90) -/

/-- The mask of n bytes from byte o of a line. -/
def byteMask (o n : Nat) : BitVec 128 := BitVec.ofNat 128 ((2 ^ n - 1) * 2 ^ o)

/-- Replaces the bytes from offset o. -/
def patch (data : List Byte) (o : Nat) (bs : List Byte) : List Byte :=
  data.take o ++ bs ++ data.drop (o + bs.length)

/-- Replaces a core's L1 lines. -/
def State.setL1 (s : State) (c : Nat) (t : Tab Line) : State := s.onCore c (fun k => { k with l1 := t })

/-- The sectors of a line that a byte mask touches. -/
def sectorsOf (m : BitVec 128) : BitVec 4 := BitVec.ofNat 4 (((indices 4 (fun q => (m >>> (32 * q)).toNat % 2 ^ 32 != 0)).map (fun q => 2 ^ q)).sum)

/-- The sector of an address is poisoned at its home. -/
def State.poisonHome (s : State) (pa : Nat) : State := { s with poison := if s.poison.contains (pa / 32) then s.poison else pa / 32 :: s.poison }

/-- Sectors of a line whose check does not match are stored at the home with a poison mark, and reported as core c's (17 R370, R372). -/
def State.hopBad (s : State) (c line : Nat) (bad : BitVec 4) : State :=
  (indices 4 (fun q => bad.getLsbD q)).foldl (fun s q =>
    (s.poisonHome (line * 128 + 32 * q)).tryPost (s.codeOfCore c) (eventRec s (s.codeOfCore c) (line * 128 + 32 * q) c 0 0x70)) s

/-- The home slice accepts dirty bytes of a line that a core writes back, merged by byte mask, and verifies the sectors that they touch; a
packet that leaves NETBOUND is dropped, and counted, and bytes of host memory that the link does not reach are lost (R93, 16 R329, R332,
17 R358, R369, log 99). -/
def State.acceptLine (s : State) (c line : Nat) (x : Line) : State :=
  let p := s.codeOfCore c
  if x.dirty == 0 then s
  else if !s.homeOk p (deckOfCore c) (line * 128) then s.bumpCore c 0xB0 1
  else if isHost (line * 128) && !s.cxlUp then s
  else (((s.l2Touch p line).homeMerge line x.data x.dirty)).hopBad c line (x.bad &&& sectorsOf x.dirty)

/-- Writes back the dirty bytes of a core's line and clears its mask and stamp; the line stays. -/
def State.wbLine (s : State) (c line : Nat) : State :=
  match (s.core c).l1.find line with
  | none => s
  | some x =>
    if x.dirty == 0 then s
    else (s.acceptLine c line x).onCore c (fun k => { k with l1 := k.l1.put line { x with dirty := 0, stamp := 0 } })

/-- A core's L1 copy of a line takes the bytes that a mask names as they stand at the home: they are clean in it. -/
def State.l1Take (s : State) (c line : Nat) (data : List Byte) (mask : BitVec 128) : State :=
  match (s.core c).l1.find line with
  | none => s
  | some x =>
    let dirty := x.dirty &&& ~~~mask
    s.onCore c (fun k => { k with l1 := k.l1.put line { x with
      data := (List.range 128).map (fun j => if mask.getLsbD j then data.getD j 0 else x.data.getD j 0),
      dirty := dirty, stamp := if dirty == 0 then 0 else x.stamp } })

/-- Drops a core's line without writing it back. -/
def State.dropLine (s : State) (c line : Nat) : State :=
  let s := match (s.core c).l1.find line with
    | some x => if x.pf != Fetched.demand then s.bumpCore c 0xE0 1 else s
    | none => s
  s.onCore c (fun k => { k with l1 := k.l1.del line })

/-- A demand access to a prefetched line counts it as used, and as late while the prefetch is in flight (17 R379). -/
def State.usePf (s : State) (c line : Nat) : State :=
  match (s.core c).l1.find line with
  | some x =>
    if x.pf == .demand then s
    else
      let s := s.bumpCore c 0xD0 1
      (if x.pf == .flying then s.bumpCore c 0xD8 1 else s).onCore c (fun k => { k with l1 := k.l1.put line { x with pf := .demand } })
  | none => s

/-- Writes back and invalidates a core's line. -/
def State.flushLine (s : State) (c line : Nat) : State :=
  if ((s.core c).l1.find line).isSome then (s.wbLine c line).dropLine c line else s

/-- Flushes every line of a core that satisfies f. -/
def State.flushIf (s : State) (c : Nat) (f : Nat → Line → Bool) : State :=
  (((s.core c).l1.filter (fun e => f e.1 e.2)).map Prod.fst).foldl (fun s l => s.flushLine c l) s

/-- Writes back the dirty lines of a core that satisfy f, keeping them. -/
def State.writeBackIf (s : State) (c : Nat) (f : Nat → Line → Bool) : State :=
  (((s.core c).l1.filter (fun e => e.2.dirty != 0 && f e.1 e.2)).map Prod.fst).foldl (fun s l => s.wbLine c l) s

/-- A line of a shared page that is dirty in some bytes takes the others from its home, those of a poisoned sector as bad (R86, log 92). -/
def State.refreshed (s : State) (c line : Nat) (x : Line) : Line :=
  { x with
    data := (List.range 128).map (fun k => if x.dirty.getLsbD k then x.data.getD k 0 else s.homeByte (line * 128 + k)),
    bad := BitVec.ofNat 4 (((indices 4 (fun q => x.bad.getLsbD q && (x.dirty >>> (32 * q)).toNat % 2 ^ 32 != 0
      || ((x.dirty >>> (32 * q)).toNat % 2 ^ 32 != 2 ^ 32 - 1 && s.poisoned (s.codeOfCore c) (line * 128 + 32 * q)))).map (fun q => 2 ^ q)).sum) }

/-- Invalidates the clean lines of shared pages (R85, R92); of one that is dirty in some bytes the clean bytes are read anew (R86, log 92). -/
def State.invShared (s : State) (c : Nat) : State :=
  let n := ((s.core c).l1.filter (fun e => e.2.dirty == 0 && !e.2.priv && e.2.pf != .demand)).length
  (s.bumpCore c 0xE0 n).onCore c (fun k => { k with
    l1 := (k.l1.dropIf (fun _ x => x.dirty == 0 && !x.priv)).map (fun e => (e.1, if e.2.priv then e.2 else s.refreshed c e.1 e.2)) })

/-- Room for one more line in a core's L1 of 2,048 (01 R13): when it is full, one of the lines that no registered range overlaps
leaves it, freely chosen (log 73); none when every line is in such a range (R102). -/
def State.l1Room (s : State) (c : Nat) : Option State :=
  if (s.core c).l1.length < 2048 then some s
  else
    let l := ((s.core c).l1.map Prod.fst).filter (fun k => !s.lockedLine k)
    (l[Config.freeNat s.freeCtr % l.length]?).map (fun k => (s.flushLine c k).tick)

/-- A line as it is read from its home. -/
def State.freshLine (s : State) (line : Nat) (priv : Bool) (pf : Fetched) : Line :=
  { data := s.homeBytes (line * 128) 128, dirty := 0, stamp := 0, priv := priv, pf := pf, bad := 0 }

/-- The line read from its home into a core's L1, when it is not there and has room; no line that a registered range overlaps is filled
where the L1 is full (R102). -/
def State.fillLine (s : State) (c line : Nat) (priv : Bool) : State :=
  if ((s.core c).l1.find line).isSome then s
  else
    match s.l1Room c with
    | none => s
    | some t =>
      ((t.l2Touch (t.codeOfCore c) line).bumpCore c 0xB8 1).onCore c (fun k => { k with l1 := k.l1.put line (s.freshLine line priv .demand) })

/-- The core's L1 holds the line. -/
def State.inL1 (s : State) (c line : Nat) : Bool := ((s.core c).l1.find line).isSome

/-- Stores bytes into a line of a core's L1 that is there: mask, stamp when it was clean, and a new check of the sectors that it touches
(R90, 17 R369). -/
def State.dirtyLine (s : State) (c line o : Nat) (bs : List Byte) : State :=
  s.onCore c (fun k =>
    match k.l1.find line with
    | none => k
    | some x =>
      { k with l1 := k.l1.put line { x with data := patch x.data o bs, dirty := x.dirty ||| byteMask o bs.length,
                                            stamp := if x.dirty == 0 then k.cm else x.stamp,
                                            bad := x.bad &&& ~~~(sectorsOf (byteMask o bs.length)) } })

/-! ## Early loads (R87) -/

/-- The early load is of the current stream, and of one of n bytes at a physical address, or of its team's window. -/
def State.ownEarly (s : State) (scr : Bool) (a n : Nat) (e : Early) : Bool :=
  e.gid == s.cur && e.lane == s.curLane && e.uid == (s.teamOf s.cur).uid && e.scr == scr && a ≤ e.at_ && e.at_ < a + n

/-- The bytes that a load of the current stream returns: those that it has loaded early, and the ones there. System mode uses no early load
(R80, R87, log 3). -/
def State.heed (s : State) (scr : Bool) (a : Nat) (bs : List Byte) : List Byte :=
  if s.early.isEmpty || (s.grp s.cur).sys then bs
  else (List.range bs.length).map (fun k => ((s.early.find? (s.ownEarly scr (a + k) 1)).map (fun e => e.val)).getD (bs.getD k 0))

/-- The current stream's early loads of some bytes have been used, or are given up for its own store of them (R80). -/
def State.spend (s : State) (scr : Bool) (a n : Nat) : State :=
  if s.early.isEmpty then s else { s with early := s.early.filter (fun e => !s.ownEarly scr a n e) }

/-! ## Settles and release records (R90 to R94, R383) -/

/-- Marks compare by serial order (R90). -/
def markLe (a b : Word) : Bool := (b - a).toNat < 2 ^ 31

/-- settle(k, m) of R93, with the retirement of records of R94; served and lines written back are counted (17 R378). -/
def State.settle (s : State) (k : Nat) (m : Word) : State :=
  if markLe m (s.core k).settled then s
  else
    let n := ((s.core k).l1.filter (fun e => e.2.dirty != 0 && markLe e.2.stamp m)).length
    let s := s.writeBackIf k (fun _ x => markLe x.stamp m)
    let s := s.onCore k (fun c => { c with settled := m })
    let s := { s with recs := s.recs.dropIf (fun _ r => r.core == k && markLe r.mark m) }
    (s.bumpCore k 0x90 1).bumpCore k 0x98 n

/-- A settle that a deck of a partition asks of the core that a record names: a request that leaves NETBOUND is dropped (17 R358). -/
def State.settleFrom (s : State) (p d : Nat) (r : Rec) : State :=
  if s.netOk p d (deckOfCore r.core) then s.settle r.core r.mark else s.dropPacket p

/-- The mark step of R91: the mark and the state after it. -/
def State.markStep (s : State) (k : Nat) : Word × State :=
  ((s.core k).cm, s.onCore k (fun c => { c with cm := c.cm + 1 }))

/-- A full settle of R93. -/
def State.fullSettle (s : State) (k : Nat) : State :=
  let (m, s) := s.markStep k
  s.settle k m

/-- The partition in whose slices the line of a record's key is homed: that of its HBM4E, or of a key of host memory the one in
the key. -/
def State.keyPart (s : State) (k : Nat) : Nat := if 2 ^ 46 ≤ k then k / 2 ^ 46 - 1 else (s.partAt (keyPa k)).getD 0

/-- No directory entry can carry a record of the line: it has none and its set is full of records (R383). -/
def State.dirFull (s : State) (p pa : Nat) : Bool :=
  let sl := s.lineSlice p pa
  (s.recs.find (recKey p pa)).isNone
    && 12 ≤ (s.recs.filter (fun e => dirSet (keyPa e.1) == dirSet pa && s.lineSlice (s.keyPart e.1) (keyPa e.1) == sl)).length

/-- The record steps of a release with mark m at `.deck` or wider on a variable (R91), up to the write of the value. `sys` says
that the scope is `.sys`. -/
def State.releaseAt (s : State) (c pa : Nat) (m : Word) (sys : Bool) : State :=
  let p := s.codeOfCore c
  let k := recKey p pa
  let s := match s.recs.find k with
    | some r => if r.core != c then s.settleFrom p (s.lineSlice p pa / 96) r else s
    | none => s
  let s := s.flushLine c (pa / 128)
  if (sys && isHost pa) || s.hostBias p pa then { s.settle c m with recs := (s.settle c m).recs.del k }
  else if s.dirFull p pa then
    let s := (s.settle c m).bumpCore c 0xA0 1
    { s with recs := s.recs.del k }
  else { s with recs := s.recs.put k { core := c, mark := m } }

/-- A release of one variable: the mark step, and the record steps. -/
def State.releaseSteps (s : State) (c pa : Nat) (sys : Bool) : State :=
  let (m, s) := s.markStep c
  s.releaseAt c pa m sys

/-- The record at a variable names another core: the settle that an acquire must wait for (R92). -/
def State.foreignRec (s : State) (c pa : Nat) : Option Rec :=
  match s.recs.find (recKey (s.codeOfCore c) pa) with
  | some r => if r.core == c then none else some r
  | none => none

/-- The record at a variable names this core. -/
def State.ownRec (s : State) (c pa : Nat) : Bool :=
  match s.recs.find (recKey (s.codeOfCore c) pa) with
  | some r => r.core == c
  | none => false

/-- Sends a settle request of an acquire to the releaser's core (R92, R93); one that leaves NETBOUND is dropped, and the acquire waits for
ever (17 R358). -/
def State.requestSettle (s : State) (c : Nat) (r : Rec) (who : Option (Nat × Bool)) : State :=
  if s.netOk (s.codeOfCore c) (deckOfCore c) (deckOfCore r.core) then
    (s.bumpCore c 0x88 1).onCore r.core (fun k => { k with settleReqs := k.settleReqs ++ [{ mark := r.mark, who := who }] })
  else s.bumpCore c 0xB0 1

end Sys2Proof.Machine
end

