-- ==== Sys2Proof/Machine/Translate.lean ====
section
/-! DEFINITION. The page-table walk, the TLB, classification and the pinning of lines (15 R308 to R311, 03 R61 to R64). -/

namespace Sys2Proof.Machine

open Sys2Proof

/-- The TLB entry of a virtual address in a context. -/
def tlbFind (t : List TlbE) (ctx va : Nat) : Option TlbE :=
  t.find? (fun e => e.ctx == ctx && e.va ≤ va && va < e.va + e.size)

/-- The translation that a TLB entry gives. -/
def TlbE.tr (x : TlbE) (va : Nat) : Tr :=
  let e := x.pte.toNat
  { pa := (if pteCont e then ptePfn e / 16 * 65536 else ptePfn e * 4096) + (va - x.va), e := e, ptea := x.ptea, lvl := x.lvl,
    va0 := x.va, size := x.size }

/-- The TLB entry of a translation. -/
def Tr.tlbE (t : Tr) (ctx : Nat) : TlbE :=
  { ctx := ctx, va := t.va0, size := t.size, lvl := t.lvl, ptea := t.ptea, pte := BitVec.ofNat 64 t.e }

/-- Drops the TLB entries of a core for which f holds. -/
def State.tlbDrop (s : State) (c : Nat) (f : TlbE → Bool) : State :=
  s.onCore c (fun k => { k with tlb := k.tlb.filter (fun e => !f e) })

/-- Fills a core's TLB of 256 entries, the oldest leaving (R310). -/
def State.tlbFill (s : State) (c : Nat) (x : TlbE) : State :=
  s.onCore c (fun k => { k with tlb := ((k.tlb.filter (fun e => !(e.ctx == x.ctx && e.va == x.va))) ++ [x]).drop (k.tlb.length - 255) })

/-- The page is private to the core (R311). -/
def Tr.privTo (t : Tr) (c : Nat) : Bool := pteHome t.e == 0 && !pteCls t.e && pteOwner t.e == c

/-- Writes a leaf entry of partition p at its home, the 16 of a CONT page together (R311). -/
def State.writePte (s : State) (p : Nat) (t : Tr) (f : Nat → Nat) : State :=
  if !s.tableIn p t.ptea then s
  else if pteCont t.e then
    (List.range 16).foldl (fun s k =>
      let a := t.ptea / 128 * 128 + 8 * k
      s.homeSet a 8 (f (s.homeNat a 8))) s
  else s.homeSet t.ptea 8 (f (s.homeNat t.ptea 8))

/-- An entry with OWNER c and CLS 0. -/
def pteOwn (c e : Nat) : Nat := e % 2 ^ 54 / 2 ^ 8 * 2 ^ 8 + e % 2 ^ 7 + c * 2 ^ 54 + e / 2 ^ 63 * 2 ^ 63
/-- An entry with CLS 1. -/
def pteShare (e : Nat) : Nat := if pteCls e then e else e + 2 ^ 7

/-- The TLB entry maps the page of a translation: of a CONT page, through any of its 16 entries. -/
def TlbE.ofPage (x : TlbE) (t : Tr) : Bool := if pteCont t.e then x.ptea / 128 == t.ptea / 128 else x.ptea == t.ptea

/-- Reclassification of a page from private to core k into shared (R311 steps 1 to 4). -/
def State.reclassify (s : State) (c k : Nat) (t : Tr) : State :=
  let p := s.codeOfCore c
  let s := s.writePte p t pteShare
  let base := t.pa / t.size * t.size
  let s := s.flushIf k (fun l _ => base ≤ l * 128 && l * 128 < base + t.size)
  (s.coresOf p).foldl (fun s d => s.tlbDrop d (fun e => e.ofPage t)) s

/-- classify of R311 and the translation as it then stands. -/
def State.classify (s : State) (c ctx : Nat) (t : Tr) : Except TErr (State × Tr) :=
  if pteHome t.e != 0 then .ok (s, t)
  else if pteOwner t.e == 0x1FF then
    let s := s.writePte (s.codeOfCore c) t (pteOwn c)
    let t := { t with e := pteOwn c t.e }
    .ok (s.tlbFill c (t.tlbE ctx), t)
  else if pteCls t.e || pteOwner t.e == c then .ok (s, t)
  else if pteApl t.e == 0 then .error (.access 3)
  else
    let k := pteOwner t.e
    let s := s.reclassify c k t
    .ok (s, { t with e := pteShare t.e })

/-- Pins the line of a translated address of a context in a slice at its first fill; its future words start empty (R64, R73). -/
def State.pinLine (s : State) (ctx : Nat) (t : Tr) (sl : Nat) : Except TErr State :=
  if (s.pinned.find (t.pa / 128)).isSome then .ok s
  else if 6144 ≤ s.pinnedIn sl then .error (.access 7)
  else .ok { s with pinned := s.pinned.put (t.pa / 128) { slice := sl, ctx := ctx, va := t.va0, size := t.size },
                    l2 := s.l2.del (t.pa / 128), fullWords := s.fullWords.filter (fun w => w / 8 != t.pa / 128) }

/-- The kind needs R, W or X and the entry does not give it (R309). -/
def pteDenies (e : Nat) (k : AccKind) : Bool :=
  match k with
  | .load | .engRead | .stream => !pteR e
  | .store | .engWrite => !pteW e
  | .atomic => !pteR e || !pteW e
  | .fetch => !pteX e

/-- The page's home does not allow the access from core c: R7, R61, R63, R64, R340. -/
def State.homeBad (s : State) (c p : Nat) (t : Tr) : Option Nat :=
  let home := pteHome t.e
  if home ≥ 5 || pteApl t.e == 3 then some 3
  else if (home == 4) != isRein t.pa || (home == 4 && t.lvl != 3) then some 3
  else if !s.inPart p t.pa then some 4
  else if home == 4 && reinTower t.pa != towerOfDeck (deckOfCore c) then some 3
  else if home == 4 && !s.reinLineOk (deckOfCore c) (t.pa / 128 % 2048) then some 4
  else if isHost t.pa && (home == 1 || home == 2) then some 3
  else if home == 1 && (pteOwner t.e > 383 || s.codeOfCore (pteOwner t.e) != p) then some 3
  else none

/-- The page of the address is being flipped (R338). -/
def State.flipping (s : State) (p pa : Nat) : Bool :=
  match (s.part p).flip with
  | some (pg, _) => pa / 4096 == pg
  | none => false

/-- The translation of an access that the device itself makes to memory of a context: none where R309 refuses it, where the page does not
give the permission, for a Rein-window page, whose lines have no home slice, and where a packet would leave NETBOUND (17 R358). -/
def State.devTr (s : State) (p ctx va : Nat) (write : Bool) : Option Tr :=
  match (if canonical va then walk s p ctx va else .error (.access 1)) with
  | .error _ => none
  | .ok t =>
    if pteDenies t.e (if write then .store else .load) || isRein t.pa || (s.homeBad 0 p t).isSome
        || !((t.pa :: walkReads s p ctx va).all (s.homeOk p (s.masterDeck p))) then none else some t

/-- A packet that the device sends for an access to memory of a context leaves NETBOUND: it is dropped, and counted (17 R358). -/
def State.devLost (s : State) (p ctx va : Nat) : State :=
  let far := !(walkReads s p ctx va).all (s.homeOk p (s.masterDeck p)) || (match walk s p ctx va with
    | .ok t => !isRein t.pa && !s.homeOk p (s.masterDeck p) t.pa
    | .error _ => false)
  if canonical va && far then s.dropPacket p else s

/-- A packet of a core to the line's home stays inside the partition's NETBOUND (17 R358). An access that its L1 serves sends none. -/
def State.inBound (s : State) (c : Nat) (t : Tr) (k : AccKind) : Bool :=
  let p := s.codeOfCore c
  let h := (if pteHome t.e == 1 then s.liveSlice (pinSlice (pteOwner t.e) t.pa) else s.lineSlice p t.pa) / 96
  isRein t.pa || (s.inL1 c (t.pa / 128) && !(k == .atomic && pteApl t.e != 0)) || s.netOk p (deckOfCore c) h

/-- translate of R309 for an access of core c in context ctx. -/
def State.translate (s : State) (c ctx va : Nat) (k : AccKind) : Except TErr (State × Tr) := do
  let p := s.codeOfCore c
  if !canonical va then throw (.access 1)
  let (s, t) ← (match tlbFind (s.core c).tlb ctx va with
    | some x => Except.ok (s, x.tr va)
    | none => do
      if !(walkReads s p ctx va).all (s.homeOk p (deckOfCore c)) then throw .dropped
      let t ← walk s p ctx va
      Except.ok ((s.bumpCore c 0xC0 1).tlbFill c (t.tlbE ctx), t))
  if pteDenies t.e k then throw .fault
  match s.homeBad c p t with
  | some n => throw (.access n)
  | none =>
    if s.flipping p t.pa then throw .busy
    if !s.inBound c t k then throw .dropped
    let (s, t) ← s.classify c ctx t
    if pteHome t.e == 1 then
      let s ← s.pinLine ctx t (pinSlice (pteOwner t.e) t.pa)
      pure (s, t)
    else if pteHome t.e == 2 then
      let s ← s.pinLine ctx t (s.hashSlice p t.pa)
      pure (s, t)
    else pure (s, t)

/-- translate for a line of a command that is registered: a flip of its page does not hold it (16 R339). -/
def State.translateOn (s : State) (c ctx va : Nat) (k : AccKind) : Except TErr (State × Tr) :=
  let p := s.codeOfCore c
  match (s.onPart p (fun x => { x with flip := none })).translate c ctx va k with
  | .ok (t, tr) => .ok (t.onPart p (fun x => { x with flip := (s.part p).flip }), tr)
  | .error e => .error e

end Sys2Proof.Machine
end

