-- ==== Sys2Proof/Machine/Mem.lean ====
section
/-! DEFINITION. The accesses of threads: checks in the order of 03 R59, the place where each home performs an access, plain
loads and stores, atomics, acquires and releases, the stack cache and the Rein send queue. -/

namespace Sys2Proof.Machine

open Sys2Proof

/-- One access of a thread: its lane, its virtual address and size, and its translation. -/
structure Acc where
  lane : Option Nat
  va   : Nat
  n    : Nat
  tr   : Tr
  deriving DecidableEq, Repr

/-- One access as its registers give it: lane, record offset and size. -/
structure Req where
  lane : Option Nat
  off  : Int
  n    : Nat
  deriving DecidableEq, Repr

/-! ## Checks (R58, R59, R99) -/

/-- The range-lock entry that an access of a global range meets (04 R99). -/
def lockHit (t : Tab LockE) (glob : Bool) (owner lo hi : Nat) (write : Bool) : Option Nat :=
  (t.find? (fun e => e.2.glob == glob && e.2.owner == owner && lo < e.2.hi && e.2.lo < hi && (e.2.dst || write))).map Prod.fst

/-- The kind stores. -/
def kindWrites : AccKind → Bool
  | .store | .atomic | .engWrite => true
  | .load | .fetch | .engRead | .stream => false

/-- BOUNDS: the first request outside its record or not permitted (R58). -/
def checkBounds (b : Option BufRec) (slot : Nat) (k : AccKind) (l : List Req) : R BufRec :=
  match b with
  | none =>
    match l with
    | [] => .error (trapAt cBOUNDS slot none 0)
    | q :: _ => .error (trapAt cBOUNDS slot q.lane q.off)
  | some b =>
    match l.find? (fun q => !(b.inBounds q.off q.n && b.permits k)) with
    | some q => .error (trapAt cBOUNDS slot q.lane q.off)
    | none => .ok b

/-- ALIGN: the first request whose address is not a multiple of m q (R58). -/
def checkAlign (b : BufRec) (m : Req → Nat) (l : List Req) : R Unit :=
  match l.find? (fun q => (b.address q.off).toNat % m q != 0) with
  | some q => .error (trapAt cALIGN 0 q.lane (b.address q.off))
  | none => .ok ()

/-- The current stream's access waits, as latency, for a page that is being flipped (16 R339). -/
def State.flipWait (s : State) : State :=
  s.onGrp s.cur (fun x => if s.curLane then { x with lwait := .flip } else { x with cwait := .flip .latency })

/-- The translations of some accesses, lowest lane first: an ACCESS in any lane comes before a PAGEFAULT in any (R59). `bad` says
that the page does not allow the form, which is ACCESS with INFO 3. -/
def translateAll (s : State) (c ctx : Nat) (k : AccKind) (bad : State → Acc → Bool) :
    List (Option Nat × Nat × Nat) → R (State × List Acc)
  | [] => .ok (s, [])
  | (lane, va, n) :: l =>
    match s.translate c ctx va k with
    | .ok (s, t) =>
      if bad s { lane := lane, va := va, n := n, tr := t } then .error (trapAt cACCESS 3 lane va)
      else do
        let (s, a) ← translateAll s c ctx k bad l
        pure (s, { lane := lane, va := va, n := n, tr := t } :: a)
    | .error (.access i) => .error (trapAt cACCESS i lane va)
    | .error e =>
      match translateAll s c ctx k bad l with
      | .error (.trap t keep) => .error (.trap t keep)
      | _ => .error (if e == .busy then .wait s.flipWait else if e == .dropped then .wait (s.bumpCore c 0xB0 1) else .pf va k lane)

/-- The owner under which a staging range of a tower's window is registered (11 R259). -/
def stageOwner (tower : Nat) : Nat := 2 ^ 32 + tower

/-- The range-lock entry of the core that an access meets: by its virtual address, or by its offset in a tower's window. -/
def accHit (s : State) (c ctx : Nat) (k : AccKind) (a : Acc) : Option Nat :=
  match lockHit (s.core c).locks true ctx a.va (a.va + a.n) (kindWrites k) with
  | some e => some e
  | none =>
    if pteHome a.tr.e == 4 then
      let o := a.tr.pa % 2 ^ 18
      lockHit (s.core c).locks true (stageOwner (reinTower a.tr.pa)) o (o + a.n) (kindWrites k)
    else none

/-- RANGELOCK: the first access that meets a range lock of the core (R99). -/
def checkLocks (s : State) (c ctx : Nat) (k : AccKind) (l : List Acc) : R Unit :=
  match l.find? (fun a => (accHit s c ctx k a).isSome) with
  | some a => .error (trapAt cRANGELOCK ((accHit s c ctx k a).getD 0) a.lane a.va)
  | none => .ok ()

/-- The translation of an access of the Farrier, for which no rule gives a context: a free physical address of device memory with the
offset of the virtual one, never cached, with every permission (log 16). -/
def farrierTr (s : State) (va : Nat) : Tr :=
  let pa := Config.freeNat s.freeCtr % 2 ^ 28 * 2 ^ 12 + va % 2 ^ 12
  { pa := pa, e := 2 ^ 52 + pa / 2 ^ 12 * 2 ^ 12 + 3 * 2 ^ 9 + 2 ^ 7 + 2 ^ 3 + 2 ^ 2 + 2 + 1, ptea := 0, lvl := 3, va0 := va / 2 ^ 12 * 2 ^ 12,
    size := 2 ^ 12 }

/-- The checks of a global access of the Farrier, up to ALIGN: it has buffer slots, and no core, team or context (log 16). -/
def checkFarrier (s : State) (slot : Slot) (k : AccKind) (m : Req → Nat) (l : List Req) : R (State × List Acc) := do
  let b ← checkBounds (s.slotRec farrierId slot) slot.toNat k l
  checkAlign b m l
  pure (s.tick, l.map (fun q => { lane := q.lane, va := (b.address q.off).toNat, n := q.n, tr := farrierTr s (b.address q.off).toNat }))

/-- The checks of a global access in the order of R59, up to RANGELOCK; a write of a rerunnable team through a record that is
not IDEM traps PIPEFAULT before its translation (06 R151, log 13). -/
def checkGlobal (s : State) (g : Nat) (slot : Slot) (k : AccKind) (m : Req → Nat) (bad : State → Acc → Bool) (l : List Req) :
    R (State × List Acc) :=
  if g == farrierId then checkFarrier s slot k m l
  else if l.isEmpty then .ok (s, [])
  else do
    let b ← checkBounds (s.slotRec g slot) slot.toNat k l
    checkAlign b m l
    need (!(kindWrites k && (s.teamOf g).rerun && !b.idem)) cPIPEFAULT
    let (s, a) ← translateAll s (coreOf g) (s.ctxOf g) k bad (l.map (fun q => (q.lane, (b.address q.off).toNat, q.n)))
    checkLocks s (coreOf g) (s.ctxOf g) k a
    pure (s, a)

/-! ## Where an access is performed (R61, 16 R335) -/

/-- The access goes through the core's L1. -/
def viaL1 (s : State) (c : Nat) (t : Tr) : Bool :=
  match pteHome t.e with
  | 0 | 2 => !pteBias t.e && !s.hostBias (s.codeOfCore c) t.pa
  | 1 => pteOwner t.e == c && !pteBias t.e && !s.hostBias (s.codeOfCore c) t.pa
  | _ => false

/-- The page is a Rein-window page. -/
def Tr.rein (t : Tr) : Bool := pteHome t.e == 4

/-- A sector of n bytes of a deck's replica is poisoned (17 R371). -/
def State.replicaBad (s : State) (d pa n : Nat) : Bool :=
  (s.deck d).bad.any (fun q => 32 * q < pa % 2 ^ 18 + n && pa % 2 ^ 18 < 32 * q + 32)

/-- The window writes of a deck that it has not applied: in its send queue, or taken by a slot (R107, R110). -/
def State.unapplied (s : State) (d : Nat) : List RWrite := (s.deck d).sendQ ++ (s.deck d).own

/-- A write of the group's that its deck has not applied and that overlaps bytes of the window (R108). -/
def State.reinPending (s : State) (g pa n : Nat) : Bool :=
  (s.unapplied (deckOf g)).any (fun w => w.gid == g
    && (List.range ((pa % 2 ^ 18 + n + 3) / 4 - pa % 2 ^ 18 / 4)).any (fun k =>
        let o := pa % 2 ^ 18 / 4 + k
        w.line == o / 32 && w.mask.getLsbD (o % 32)))

/-- The write is one of a stream's earlier ones: of the stream itself, or of the lane stream where an `lwait` has ordered it before
the control stream (04 R81). -/
def RWrite.before (w : RWrite) (g : Nat) (lane : Bool) : Bool := w.gid == g && (w.lane == lane || (w.synced && !lane))

/-- Earlier window writes of a stream that its deck has not applied (R108). -/
def State.reinEarlier (s : State) (g : Nat) (lane : Bool) : Bool := (s.unapplied (deckOf g)).any (fun w => w.before g lane)

/-- The lane stream's window writes so far are ordered before what the control stream does next (R81). -/
def State.syncLane (s : State) (g : Nat) : State :=
  let f (w : RWrite) : RWrite := if w.gid == g && w.lane then { w with synced := true } else w
  s.onDeck (deckOf g) (fun d => { d with sendQ := d.sendQ.map f, own := d.own.map f })

/-- The deck's replica is being refilled: window accesses wait (R111). -/
def State.reinStale (s : State) (g : Nat) : Bool := (s.deck (deckOf g)).stale

/-- A snoop of a line that the host may hold: BISnpInv or BISnpData is sent and its answer awaited, which brings the line's bytes or
none, as the host has it (Config.snoopAnswer, log 31); BISnpInv drops the filter entry (16 R335, R338). Where a request of the host's own
for the line is in flight, its BIConflict is answered with BIConflictAck first (R336). -/
def State.snoopLine (s : State) (line : Nat) (inv : Bool) : State :=
  if !s.snoop.contains line then s
  else
    let a := Config.snoopAnswer s.freeCtr line
    let own := s.pkg.biReqs.contains line
    let s := { s.tick with
      snoop := if inv then s.snoop.filter (· != line) else s.snoop,
      pkg := { s.pkg with bisnp := s.pkg.bisnp ++ [(line, inv)], biAcks := if own then s.pkg.biAcks ++ [line] else s.pkg.biAcks,
                          biReqs := s.pkg.biReqs.filter (· != line) } }
    match a with
    | some bs => s.homeWrite (line * 128) (bs.take 128)
    | none => s

/-- A device access to a line that the host may hold has it back first (16 R335). -/
def State.snoopHost (s : State) (pa : Nat) (write : Bool) : State := s.snoopLine (pa / 128) write

/-- The slice keeps no copy of a line of a never-cached page of host memory (03 R61, R62). -/
def State.hostOnly (s : State) (t : Tr) : State := if pteHome t.e == 3 && isHost t.pa then s.hostPush (t.pa / 128) else s

/-- An access of partition p at a line's home brings the line into the slice, but of a never-cached or a host-bias page (03 R61, 16 R335). -/
def State.l2For (s : State) (p : Nat) (t : Tr) : State :=
  if pteHome t.e == 3 || s.hostBias p t.pa then s else s.l2Touch p (t.pa / 128)

/-- A write of core c of bytes at a line's home, past any copy of the host's; of a never-cached page of host memory, at that memory. -/
def State.storeHome (s : State) (c : Nat) (t : Tr) (bs : List Byte) : State :=
  ((((s.hostOnly t).l2For (s.codeOfCore c) t).snoopHost t.pa true).homeWrite t.pa bs).hostOnly t

/-- The check of a sector of n bytes of a line does not match. -/
def Line.badIn (x : Line) (o n : Nat) : Bool := x.bad &&& sectorsOf (byteMask o n) != 0

/-- The bytes that a thread load of core c returns, and CHECKFAIL for a poisoned sector read at its home, or for a sector of the L1 whose
check does not match (R60, 17 R369, R370). -/
def State.loadAt (s : State) (c : Nat) (noalloc : Bool) (t : Tr) (n : Nat) : State × List Byte × Bool :=
  let p := s.codeOfCore c
  let line := t.pa / 128
  if viaL1 s c t then
    match (s.core c).l1.find line with
    | some x => ((s.usePf c line).spend false t.pa n, s.heed false t.pa ((x.data.drop (t.pa % 128)).take n), x.badIn (t.pa % 128) n)
    | none =>
      if noalloc || s.poisonedIn p (line * 128) 128 then
        ((s.l2For p t).spend false t.pa n, s.heed false t.pa (s.homeBytes t.pa n), s.poisonedIn p t.pa n)
      else ((s.fillLine c line (t.privTo c)).spend false t.pa n, s.heed false t.pa (s.homeBytes t.pa n), false)
  else
    let s := ((s.hostOnly t).l2For p t).snoopHost t.pa false
    (s.spend false t.pa n, s.heed false t.pa (s.homeBytes t.pa n), s.poisonedIn p t.pa n)

/-- A plain store of core c of bytes within one line, other than to the Rein window (R61, R88). The stream's own early loads of them are
dropped (R80). -/
def State.storeAt (s : State) (c : Nat) (noalloc : Bool) (t : Tr) (bs : List Byte) : State :=
  let line := t.pa / 128
  let s := s.spend false t.pa bs.length
  if viaL1 s c t then
    if ((s.core c).l1.find line).isSome then (s.usePf c line).dirtyLine c line (t.pa % 128) bs
    else if noalloc || s.poisonedIn (s.codeOfCore c) (line * 128) 128 then (s.l2For (s.codeOfCore c) t).homeWrite t.pa bs
    else
      let s := s.fillLine c line (t.privTo c)
      if s.inL1 c line then s.dirtyLine c line (t.pa % 128) bs else (s.l2For (s.codeOfCore c) t).homeWrite t.pa bs
  else s.storeHome c t bs

/-- A store or atomic of 1 or 2 bytes to a Rein-window page, which takes ACCESS (R106). -/
def reinNarrow (_ : State) (a : Acc) : Bool := a.tr.rein && a.n < 4

/-- No further condition on the page. -/
def anyPage (_ : State) (_ : Acc) : Bool := false

/-! ## The Rein send queue (R106, R110) -/

/-- Puts a window write into the deck's send queue; none when its 64 entries are held. -/
def State.sendRein (s : State) (d : Nat) (w : RWrite) : Option State :=
  if (s.deck d).sendQ.length ≥ 64 then none else some (s.onDeck d (fun x => { x with sendQ := x.sendQ ++ [w] }))

/-- The words of a line and its mask for bytes at an offset of the line, whole words. -/
def lineWords (o : Nat) (bs : List Byte) : List Word × Word :=
  ((List.range 32).map (fun w => if o ≤ 4 * w && 4 * w + 4 ≤ o + bs.length
      then BitVec.ofNat 32 (ofBytes ((bs.drop (4 * w - o)).take 4)) else 0),
   BitVec.ofNat 32 ((2 ^ (bs.length / 4) - 1) * 2 ^ (o / 4)))

/-- A window write of a group's stream. -/
def reinWrite (s : State) (g : Nat) (lane : Bool) (pa kind aop : Nat) (mask : Word) (data : List Word) (dest : RDest) : RWrite :=
  { gid := g, lane := lane, core := coreOf g, line := pa % 2 ^ 18 / 128, kind := kind, aop := aop, mask := mask, mark := 0,
    data := data, launch := (s.teamOf g).launch, stage := (s.teamOf g).stage, cmd := none, dest := dest, acq := false, synced := false, bytes := 0, flags := 0 }

/-! ## Atomics (08 R190, 03 R62) -/

/-- The new value of an atomic of w bytes. -/
def atomNew (op : AtomOp) (w old b c : Nat) : Nat :=
  let m := 2 ^ (8 * w)
  let sg (x : Nat) : Int := sextI (8 * w) x
  match op with
  | .add => (old + b) % m
  | .and => old &&& b
  | .or => old ||| b
  | .xor => old ^^^ b
  | .smin => if sg old ≤ sg b then old else b
  | .smax => if sg old ≥ sg b then old else b
  | .umin => min old b
  | .umax => max old b
  | .swap => b
  | .cas => if old = c then b else old

/-- The operation of an AOP code of a slot header (R106). -/
def aopOf (n : Nat) : AtomOp :=
  match n with
  | 1 => .add | 2 => .and | 3 => .or | 4 => .xor | 5 => .smin | 6 => .smax | 7 => .umin | 8 => .umax | 9 => .swap | _ => .cas

/-- Why an atomic's placement takes ACCESS with INFO 3 (R62, R191, R220, 16 R335, R341). -/
def atomBad (s : State) (c : Nat) (op : AtomOp) (w : Nat) (wide : Bool) (t : Tr) : Bool :=
  match pteApl t.e with
  | 0 => !t.privTo c || wide || s.hostBias (s.codeOfCore c) t.pa
  | 1 => !(pteHome t.e == 0 || pteHome t.e == 2 || pteHome t.e == 3 || pteHome t.e == 4)
      || (t.rein && (w != 4 || op == .cas))
  | 2 => !isHost t.pa || !(op == .add || op == .swap || op == .cas)
  | _ => true

/-- An atomic at this placement reads a poisoned sector at its home (R59, 17 R370), or, a near one whose line the L1 holds, one whose check
does not match there. -/
def atomPoisoned (s : State) (c w : Nat) (t : Tr) : Bool :=
  match (if pteApl t.e == 0 then (s.core c).l1.find (t.pa / 128) else none) with
  | some x => x.badIn (t.pa % 128) w
  | none => s.poisonedIn (s.codeOfCore c) t.pa w

/-- Performs one atomic of w bytes at its placement, other than on a window page: the old value and the state (R62, R191). A near
one that may not, or cannot, have its line in the L1 is performed at the home (R56, 04 R102). -/
def State.atomAt (s : State) (c : Nat) (na : Bool) (op : AtomOp) (w b cmp : Nat) (t : Tr) : State × Nat :=
  let line := t.pa / 128
  match pteApl t.e with
  | 0 =>
    let s := if na || s.poisonedIn (s.codeOfCore c) (line * 128) 128 then s else s.fillLine c line (t.privTo c)
    match (s.core c).l1.find line with
    | some x =>
      let old := ofBytes ((x.data.drop (t.pa % 128)).take w)
      if op = .cas ∧ old ≠ cmp then (s, old)
      else (s.dirtyLine c line (t.pa % 128) (toBytes w (atomNew op w old b cmp)), old)
    | none =>
      let s := s.l2For (s.codeOfCore c) t
      let old := s.homeNat t.pa w
      if op = .cas ∧ old ≠ cmp then (s, old) else (s.homeSet t.pa w (atomNew op w old b cmp), old)
  | 2 =>
    let s := (s.flushLine c line).hostPush line
    let old := s.homeNat t.pa w
    let new := toBytes w (atomNew op w old b cmp)
    if op = .cas ∧ old ≠ cmp then (s, old)
    else ({ s with hostMem := (List.range w).foldl (fun m k => m.put (t.pa + k) (new.getD k 0)) s.hostMem }, old)
  | _ =>
    let s := (((s.flushLine c line).hostOnly t).l2For (s.codeOfCore c) t).snoopHost t.pa true
    let old := s.homeNat t.pa w
    if op = .cas ∧ old ≠ cmp then (s, old) else ((s.homeSet t.pa w (atomNew op w old b cmp)).hostOnly t, old)

/-- A core's L1 copy of a line takes bytes that were stored at the home: they are clean in it. -/
def State.l1Patch (s : State) (c line o : Nat) (bs : List Byte) : State :=
  match (s.core c).l1.find line with
  | none => s
  | some x =>
    let dirty := x.dirty &&& ~~~(byteMask o bs.length)
    s.onCore c (fun k => { k with
      l1 := k.l1.put line { x with data := patch x.data o bs, dirty := dirty, stamp := if dirty == 0 then 0 else x.stamp } })

/-! ## The stack cache (02 R49) -/

/-- A control access to the group's own stack region goes through its bay's stack cache. -/
def State.inStack (s : State) (g va : Nat) : Bool :=
  let lim := (s.grp g).stackLim
  let lo := lim.toNat / 16 * 16
  !lim.getLsbD 0 && (s.teamOf g).stackSz != 0 && lo ≤ va && va < lo + (s.teamOf g).stackSz

/-- The stack-cache key of a line in a bay. -/
def stackKey (bay line : Nat) : Nat := bay * 2 ^ 46 + line

/-- The lines of a bay in a core's stack cache. Their stamps are 1 to their number, in the order of use. -/
def stackLines (k : Core) (bay : Nat) : Tab Line := k.stackc.filter (fun e => e.1 / 2 ^ 46 == bay)

/-- Later stamps of a bay move down by one. -/
def stampDown (bay : Nat) (st : Word) (t : Tab Line) : Tab Line :=
  t.map (fun e => if e.1 / 2 ^ 46 == bay && st.toNat < e.2.stamp.toNat then (e.1, { e.2 with stamp := e.2.stamp - 1 }) else e)

/-- Gives up a stack-cache line without a write-back. -/
def State.stackDel (s : State) (c key : Nat) : State :=
  match (s.core c).stackc.find key with
  | none => s
  | some x => s.onCore c (fun k => { k with stackc := stampDown (key / 2 ^ 46) x.stamp (k.stackc.del key) })

/-- Puts a line into a bay's stack cache as the last one used. -/
def State.stackPut (s : State) (c key : Nat) (x : Line) : State :=
  let s := s.stackDel c key
  s.onCore c (fun k => { k with
    stackc := k.stackc.put key { x with stamp := BitVec.ofNat 32 ((stackLines k (key / 2 ^ 46)).length + 1) } })

/-- Writes a stack-cache line back to its home, keeping it clean; the core's L1 copy of the line takes the bytes, which are newer than its
own (04 R80, log 78). -/
def State.stackWb (s : State) (c key : Nat) : State :=
  match (s.core c).stackc.find key with
  | none => s
  | some x =>
    ((s.acceptLine c (key % 2 ^ 46) x).l1Take c (key % 2 ^ 46) x.data x.dirty).onCore c (fun k => { k with
      stackc := k.stackc.put key { x with dirty := 0 } })

/-- Room for one more line in a bay's stack cache of 512: the one used longest ago leaves it (R49, 01 R13). -/
def State.stackRoom (s : State) (c bay : Nat) : State :=
  let l := stackLines (s.core c) bay
  if l.length < 512 then s
  else
    match l.find? (fun e => e.2.stamp == 1) with
    | some e => (s.stackWb c e.1).stackDel c e.1
    | none => s

/-- A line as its core sees it outside the stack cache: the home's bytes, and over them the dirty ones of its L1 (log 78). -/
def State.lineView (s : State) (c line : Nat) : List Byte :=
  let bs := s.homeBytes (line * 128) 128
  match (s.core c).l1.find line with
  | some x => (List.range 128).map (fun k => if x.dirty.getLsbD k then x.data.getD k 0 else bs.getD k 0)
  | none => bs

/-- The stack-cache line of an address, filled on demand: none where it has a poisoned sector, which is never cached (17 R370). -/
def State.stackLine (s : State) (c bay pa : Nat) : State × Option Line :=
  match (s.core c).stackc.find (stackKey bay (pa / 128)) with
  | some x => (s, some x)
  | none =>
    if s.poisonedIn (s.codeOfCore c) (pa / 128 * 128) 128 then (s, none)
    else ((s.stackRoom c bay).l2Touch (s.codeOfCore c) (pa / 128), some { data := s.lineView c (pa / 128), dirty := 0, stamp := 0, priv := true, pf := .demand, bad := 0 })

/-- Reads bytes through the stack cache; true for a poisoned sector. -/
def State.stackLoad (s : State) (c bay pa n : Nat) : State × List Byte × Bool :=
  match s.stackLine c bay pa with
  | (s, some x) => (s.stackPut c (stackKey bay (pa / 128)) x, (x.data.drop (pa % 128)).take n, x.badIn (pa % 128) n)
  | (s, none) => (s, s.homeBytes pa n, s.poisonedIn (s.codeOfCore c) pa n)

/-- Writes bytes through the stack cache. -/
def State.stackStore (s : State) (c bay pa : Nat) (bs : List Byte) : State :=
  match s.stackLine c bay pa with
  | (s, some x) =>
    s.stackPut c (stackKey bay (pa / 128))
      { x with data := patch x.data (pa % 128) bs, dirty := x.dirty ||| byteMask (pa % 128) bs.length,
               bad := x.bad &&& ~~~(sectorsOf (byteMask (pa % 128) bs.length)) }
  | (s, none) => s.homeWrite pa bs

/-- A stack-cache line is given up: its dirty bytes go to the L1's copy of the line, or to the home. -/
def State.stackGive (s : State) (c key : Nat) : State :=
  match (s.core c).stackc.find key with
  | none => s
  | some x =>
    let line := key % 2 ^ 46
    let s := match (s.core c).l1.find line with
      | some y =>
        if x.dirty == 0 then s
        else s.onCore c (fun k => { k with l1 := k.l1.put line { y with
          data := (List.range 128).map (fun j => if x.dirty.getLsbD j then x.data.getD j 0 else y.data.getD j 0),
          dirty := y.dirty ||| x.dirty, stamp := if y.dirty == 0 then k.cm else y.stamp, bad := y.bad ||| (x.bad &&& sectorsOf x.dirty) } })
      | none => s.acceptLine c line x
    s.stackDel c key

/-- The bay's stack cache is emptied where the two streams of a group are ordered, so that each then sees what the other has stored
in the stack region (04 R81; log 78). -/
def State.stackSync (s : State) (g : Nat) : State :=
  ((stackLines (s.core (coreOf g)) (bayOf g)).map Prod.fst).foldl (fun s k => s.stackGive (coreOf g) k) s

/-! ## The scratchpad window (03 R55, R66, R69, R70) -/

/-- A byte of a team's window: free until written (log 6). -/
def Team.winByte (t : Team) (o : Nat) : Byte :=
  match t.win.find o with
  | some b => b
  | none => Config.freeByte t.uid o

/-- n bytes of a team's window. -/
def Team.winBytes (t : Team) (o n : Nat) : List Byte := (List.range n).map (fun k => t.winByte (o + k))

/-- Writes bytes of a team's window. -/
def Team.winPut (t : Team) (o : Nat) : List Byte → Team
  | [] => t
  | b :: bs => Team.winPut { t with win := t.win.put o b } (o + 1) bs

/-- Stores byte strings at offsets of the window: a poisoned sector that they cover whole is good again (17 R370). -/
def Team.winStore (t : Team) (l : List (Nat × List Byte)) : Team :=
  let t := l.foldl (fun t e => t.winPut e.1 e.2) t
  { t with bad := t.bad.filter (fun q => !(List.range 32).all (fun k => l.any (fun e => e.1 ≤ 32 * q + k && 32 * q + k < e.1 + e.2.length))) }

/-- A sector of n bytes of the window is poisoned. -/
def Team.winBad (t : Team) (o n : Nat) : Bool := t.bad.any (fun q => 32 * q < o + n && o < 32 * q + 32)

/-- A 32-bit field of the window. -/
def Team.winW (t : Team) (o : Nat) : Word := BitVec.ofNat 32 (ofBytes (t.winBytes o 4))

/-- Writes a 32-bit field of the window. -/
def Team.winSetW (t : Team) (o : Nat) (w : Word) : Team := t.winPut o (toBytes 4 w.toNat)

/-- The while loop of post: how many generations n bytes complete, and what is left (R70). -/
def postCount (arrived target n : Nat) : Nat × Nat :=
  if target = 0 then (0, min (arrived + n) 0xFFFFFFFF) else ((arrived + n) / target, (arrived + n) % target)

/-- post(w, n, flags) of R70 on the arrival word at offset o: flags are LOST 4, PARTIAL 2, ABORT 1. -/
def Team.post (t : Team) (o n flags : Nat) : Team :=
  let (k, a) := postCount (t.winW (o + 4)).toNat (t.winW o).toNat n
  let t := t.winSetW (o + 12) (t.winW (o + 12) ||| BitVec.ofNat 32 flags)
  let t := t.winSetW (o + 4) (BitVec.ofNat 32 a)
  if k = 0 then t else t.winSetW (o + 8) (t.winW (o + 8) + BitVec.ofNat 32 k)

/-- The scratchpad checks of a thread access: BOUNDS, ALIGN, RANGELOCK, and CHECKFAIL of a load (R66, R99, 17 R370). -/
def checkScratch (s : State) (g : Nat) (k : AccKind) (l : List Req) : R Unit :=
  let t := s.teamOf g
  match l.find? (fun q => q.off < 0 || (t.scratch : Int) < q.off + q.n) with
  | some q => .error (trapAt cBOUNDS 16 q.lane q.off)
  | none =>
    match l.find? (fun q => q.off.toNat % q.n != 0) with
    | some q => .error (trapAt cALIGN 0 q.lane q.off)
    | none =>
      let hit (q : Req) := lockHit (s.core (coreOf g)).locks false (s.grp g).team q.off.toNat (q.off.toNat + q.n) (kindWrites k)
      match l.find? (fun q => (hit q).isSome) with
      | some q => .error (trapAt cRANGELOCK ((hit q).getD 0) q.lane q.off)
      | none =>
        match (if k == .load then l.find? (fun q => t.winBad q.off.toNat q.n) else none) with
        | some q => .error (trapAt cCHECKFAIL 0 q.lane q.off)
        | none => .ok ()

end Sys2Proof.Machine
end

