-- ==== Sys2Proof/Machine/Team.lean ====
section
/-! DEFINITION. The start and the end of groups and teams, what a pipe does when its holder ends, the discard
of a rerunnable team and the halt of a hitch (02 R20 to R27, 06 R140, R150, R156, 14 R291, R305, 15 R307). -/

namespace Sys2Proof.Machine

open Sys2Proof

/-! ## Memory of a launch's context, as the device writes it -/

/-- Writes a number at a virtual address of a context at its home slice. -/
def State.ctxSet (s : State) (p ctx va n w : Nat) : State :=
  match s.devTr p ctx va true with
  | some t => s.homeSet t.pa n w
  | none => s.devLost p ctx va

/-- The pieces of n bytes from an address that lie in one line each: address and bytes. -/
def linePieces (va n : Nat) : List (Nat × Nat) :=
  (List.range ((va % 128 + n + 127) / 128)).map (fun k =>
    let lo := if k == 0 then va else (va / 128 + k) * 128
    (lo, min ((va / 128 + k + 1) * 128) (va + n) - lo))

/-- Reads n bytes at a virtual address of a context at their homes, as the device reads a descriptor (14 R290): none where a line
does not translate for a load of the device or is poisoned. -/
def State.ctxRead (s : State) (p ctx va n : Nat) : Option (List Byte) :=
  (linePieces va n).foldr (fun e acc =>
    match s.devTr p ctx e.1 false with
    | some t => if s.poisonedIn p t.pa e.2 then none else acc.map (s.homeBytes t.pa e.2 ++ ·)
    | none => none) (some [])

/-- Writes bytes at a virtual address of a context at their homes, as the device writes them. -/
def State.ctxStore (s : State) (p ctx va : Nat) (bs : List Byte) : State :=
  (linePieces va bs.length).foldl (fun s e =>
    match s.devTr p ctx e.1 true with
    | some t => s.homeWrite t.pa ((bs.drop (e.1 - va)).take e.2)
    | none => s.devLost p ctx e.1) s

/-! ## Pipes when a holder ends (06 R140) -/

/-- Adds 1 to a pipe counter: 0 COMMITS, 8 SPILLS, 16 LOSTSLOTS, 24 XDROP (17 R380). -/
def State.bumpPipe (s : State) (p n off : Nat) : State := s.bump (0x700000 + 0x800 * p + 32 * n + off) 1

/-- The tile is held by the team of a stage and linear index. -/
def Tile.heldBy (t : Tile) (who : Nat × Nat) : Bool :=
  t.team == who && (t.st == .held || t.st == .pending || t.st == .taken || t.st == .done || t.st == .returned)

/-- The spill entry of a tile is released: +19 of the entry becomes 0 (14 R384). -/
def State.freeSpill (s : State) (l k : Nat) (q : Word) : State :=
  match s.launch l with
  | none => s
  | some x =>
    match x.spills.find? (fun e => e.2.pipe == k && e.2.seq == q) with
    | none => s
    | some (e, _) =>
      (s.ctxSet x.part x.ctx (x.spillBase.toNat + x.spillE * e + 19) 1 0).onLaunch l (fun y => { y with spills := y.spills.del e })

/-- Removes the tile with sequence number q from a pipe: its slot is FREE and its spill entry, when it has one, is free. -/
def State.freeTile (s : State) (k : Nat) (q : Word) : State :=
  (s.freeSpill (k / 64) (k % 64) q).onPipe k (fun x => { x with tiles := x.tiles.filter (fun t => t.seq != q) })

/-- A UALink port. -/
def State.port (s : State) (n : Nat) : Port := s.pkg.ports.get Port.empty n

/-- Applies f to a port. -/
def State.onPort (s : State) (n : Nat) (f : Port → Port) : State :=
  { s with pkg := { s.pkg with ports := s.pkg.ports.set Port.empty n (f (s.port n)) } }

/-- Sends messages of a partition through a port, to a package or to the one that the port reaches; those of a port outside its NETBOUND
are dropped (17 R358), and those of a port that is not up wait for it (16 R331, log 93). -/
def State.sendMsgs (s : State) (p port : Nat) (dest : Option Nat) (l : List Msg) : State :=
  if !(s.part p).netbound.getLsbD (16 + port) then l.foldl (fun s _ => s.dropPacket p) s
  else if (s.port port).state != 2 then s.onPort port (fun x => { x with held := x.held ++ l.map (fun m => (dest, m)) })
  else { s with pkg := { s.pkg with outbox := s.pkg.outbox ++ l.map (fun m => (port, dest.getD (s.port port).peer, m)) } }

/-- Sends a message of a kind about a pipe through its port to a package, or to the one that the port reaches (16 R343, R344). -/
def State.sendTo (s : State) (k kind seq : Nat) (dest : Option Nat) : State :=
  match s.pipe k with
  | none => s
  | some x =>
    let m := mkMsg kind false s.pkg.ualid.toNat x.xpipe seq 0 0 (padPayload s.freeCtr []) []
    s.tick.sendMsgs (s.codeOfQuarter (x.xport / 4)) x.xport dest [m]

/-- Sends a message about a pipe whose consumer is far. -/
def State.sendPipe (s : State) (k kind seq : Nat) : State :=
  match s.pipe k with
  | none => s
  | some _ => s.sendTo k kind seq none

/-- The message that a far sender's tile is abandoned (16 R348): the sender's next tile number is used up, and its credit with
it until the consumer's package returns it. -/
def State.sendAbort (s : State) (k : Nat) : State :=
  match s.pipe k with
  | none => s
  | some x => if x.xlink == 1 then (s.sendPipe k 7 x.sent).onPipe k (fun y => { y with sent := y.sent + 1 }) else s

/-- A staged tile that is never sent gives its credit back (R153). -/
def State.unstage (s : State) (k : Nat) : State := s.onPipe k (fun x => if x.xlink == 1 then { x with credits := x.credits + 1 } else x)

/-- Returns the credits of a freed consumer tile of a far producer (06 R153, 16 R344). -/
def State.sendCredits (s : State) (k : Nat) (froms : List Nat) (slot : Nat) : State :=
  match s.pipe k with
  | none => s
  | some x => if x.xlink == 2 then froms.foldl (fun s d => s.sendTo k 3 slot (some d)) s else s

/-- The keys of a launch's pipes. -/
def State.pipesOf (s : State) (l : Nat) : List Nat := (s.pipes.filter (fun e => e.1 / 64 == l)).map Prod.fst

/-- Frees a consumer's tile: the slot is FREE and the credits of its senders return (R140, R153). -/
def State.freeTaken (s : State) (k : Nat) (t : Tile) : State := (s.freeTile k t.seq).sendCredits k t.from_ t.slot

/-- What one tile of a team does when the team ends without a rerun (R140, R348). -/
def State.endTile (s : State) (p k : Nat) (fault : Bool) (t : Tile) : State :=
  match t.st with
  | .held | .pending =>
    let s := if fault then s.sendAbort k else s
    (s.freeTile k t.seq).bumpPipe p (k % 64) 16
  | .taken | .done | .returned => (s.freeTaken k t).bumpPipe p (k % 64) 16
  | .free | .committed => s

/-- What one tile of a team does when the team is discarded for a rerun (R150). -/
def State.discardTile (s : State) (k : Nat) (t : Tile) : State :=
  match t.st with
  | .held | .pending => (s.sendAbort k).freeTile k t.seq
  | .taken | .done =>
    s.onPipe k (fun x => { x with tiles := x.tiles.map (fun u => if u.seq == t.seq then { u with st := .returned } else u) })
  | .free | .committed | .returned => s

/-- Commits a tile: it joins its pipe's queue, or is sent through the port's graph when the consumer is far (R142, R153,
16 R345); its staging slot is then kept until its bytes have arrived. -/
def State.commitTile (s : State) (p k : Nat) (q : Word) : State :=
  match s.pipe k with
  | none => s
  | some x =>
    if x.xlink == 1 then
      match x.tiles.find? (fun t => t.seq == q) with
      | none => s
      | some t =>
        let id := s.pkg.ualid.toNat
        let own := (List.range (x.rows * x.rowBytes)).map (fun i => match t.data.find i with
          | some b => b
          | none => Config.freeByte t.uid i)
        let sent := if t.abort then none else fabSend (s.fabEntry x.xport 1 (k % 64)) x.fmt own
        let bs := sent.getD []
        let n := bs.length
        let bad := sentBad (s.fabEntry x.xport 1 (k % 64)) n t.bad
        let part (j : Nat) : Msg :=
          mkMsg 1 false id x.xpipe x.sent (14 * j) (min 224 (n - 224 * j)) (padPayload s.freeCtr ((bs.drop (224 * j)).take 224))
            ((bad.filter (fun q => q / 7 == j)).map (· % 7))
        let fin := mkMsg 2 sent.isNone id x.xpipe x.sent 0 8 (padPayload (s.freeCtr + 1) (toBytes 8 t.tag.toNat)) []
        let s := s.tick.tick.sendMsgs p x.xport none ((List.range ((n + 223) / 224)).map part ++ [fin])
        (s.onPipe k (fun y => { y with
          sent := y.sent + 1, order := y.order + 1, tiles := y.tiles.map (fun t => if t.seq == q then { t with st := .committed } else t) })).bumpPipe p (k % 64) 0
    else
      let s := s.onPipe k (fun y => { y with
        order := y.order + 1,
        tiles := y.tiles.map (fun t => if t.seq == q then { t with st := .committed, order := y.order } else t) })
      s.bumpPipe p (k % 64) 0

/-- The bytes of a tile that was sent have all arrived at the consumer's package: its staging slot is free (R153). -/
def State.staged (s : State) (k : Nat) (q : Word) : State :=
  match s.pipe k with
  | none => s
  | some x =>
    if x.xlink == 1 && (s.port x.xport).held.isEmpty && x.tiles.any (fun t => t.seq == q && t.st == .committed) then s.freeTile k q else s

/-- What one tile of a team does when the team retires (R140, R149). -/
def State.retireTile (s : State) (p k : Nat) (t : Tile) : State :=
  match t.st with
  | .held => ((s.freeTile k t.seq).unstage k).bumpPipe p (k % 64) 16
  | .pending => s.commitTile p k t.seq
  | .taken => (s.freeTaken k t).bumpPipe p (k % 64) 16
  | .done => s.freeTaken k t
  | .free | .committed | .returned => s

/-- Applies f to every tile that a team holds, in the order in which the tiles were committed or taken. -/
def State.onTiles (s : State) (l : Nat) (who : Nat × Nat) (f : State → Nat → Tile → State) : State :=
  (s.pipesOf l).foldl (fun s k =>
    match s.pipe k with
    | none => s
    | some x => (x.tiles.filter (fun t => t.heldBy who)).foldl (fun s t => f s k t) s) s

/-! ## Ending groups and teams -/

/-- The groups of a team: the keys of its occupied slots. -/
def Team.gids (t : Team) : List Nat := (t.slots.filter (fun h => h.occ)).map (fun h => 64 * t.core + h.slot)

/-- Withdraws the deferred future entries for which f holds; the lanes of their instructions count as refused (03 R75). -/
def State.withdrawIf (s : State) (f : Defer → Bool) : State :=
  let mine := s.deferred.filter f
  let s := { s with deferred := s.deferred.filter (fun d => !f d) }
  mine.foldl (fun s d => s.onGrp d.gid (fun x => { x with
    ringF := (x.ringF.map (fun e => if e.1 == d.fid then (e.1, e.2 &&& ~~~d.lanes) else e)),
    p := if d.p == 0 then x.p else x.p.set 0 d.p (x.p.get 0 d.p &&& ~~~d.lanes) })) s

/-- Withdraws the deferred future entries of a group. -/
def State.withdraw (s : State) (g : Nat) : State := s.withdrawIf (fun d => d.gid == g)

/-- The early loads of a group that ends are given up. -/
def State.dropEarly (s : State) (g : Nat) : State := if s.early.isEmpty then s else { s with early := s.early.filter (fun e => e.gid != g) }

/-- Drops a group's mark (R78). -/
def State.dropMark (s : State) (g : Nat) : State := { s with marks := s.marks.filter (fun m => m.gid != g) }

/-- Frees a handler bank that the group owns. -/
def State.freeBank (s : State) (g : Nat) : State :=
  if (s.bank g).owner == some g then s.onBank g (fun _ => bankEmpty) else s

/-- Withdraws a group's claim from its sub-pool (02 R36). -/
def State.dropClaim (s : State) (g : Nat) : State :=
  s.onTeam (s.grp g).team (fun t => { t with claims := t.claims.filter (fun c => c.gid != g) })

/-- Posts to a team's arrival word. -/
def State.post (s : State) (t o n flags : Nat) : State := s.onTeam t (fun x => x.post o n flags)

/-- Applies f to every core that is listed. -/
def State.onCores (s : State) (f : Core → Core) : State := s.cores.keys.foldl (fun s c => s.onCore c f) s

/-- Clears the range-lock entries of a command or matrix operation in every table (R101). Commands carry odd numbers and
matrix operations even ones. -/
def State.clearLocks (s : State) (n : Nat) : State := s.onCores (fun k => { k with locks := k.locks.dropIf (fun _ e => e.cmd == n) })

/-- The place is a slot of a UALink pipe. -/
def State.farSlot (s : State) (p : Place) : Bool :=
  match p with
  | .slot k _ _ => ((s.pipe k).map (fun x => x.xlink != 0)).getD false
  | .glob _ _ | .scr _ _ _ _ _ => false

/-- Abandons a command: the uncounted bytes are posted with PARTIAL, of a copy into or out of a UALink slot, which is a collective one, with
ABORT too, and its entries clear (R70, R104, 16 R348). -/
def State.abandonCmd (s : State) (c id : Nat) : State :=
  match (s.core c).cmds.find id with
  | none => s
  | some x =>
    let s := if x.len > x.pos then s.post x.team x.aw (x.len - x.pos) (if s.farSlot x.src || s.farSlot x.dst then 3 else 2) else s
    (s.clearLocks (2 * id + 1)).onCore c (fun k => { k with cmds := k.cmds.del id })

/-- Abandons every copy, multicast, stream and histogram of a team (R104). -/
def State.abandonTeam (s : State) (t : Nat) : State :=
  let c := t / 16
  (((s.core c).cmds.filter (fun e => e.2.team == t)).map Prod.fst).foldl (fun s id => s.abandonCmd c id) s

/-- Every line of a core's stack caches is written back and given up, as they may be at any time (02 R49). -/
def State.flushStack (s : State) (c : Nat) : State :=
  ((s.core c).stackc.keys.foldl (fun s k => s.stackWb c k) s).onCore c (fun k => { k with stackc := [] })

/-- A window write of a group that ends goes on without it. -/
def RWrite.orphan (gids : List Nat) (w : RWrite) : RWrite :=
  if gids.contains w.gid && w.cmd.isNone then { w with gid := w.gid + 2 ^ 32, dest := .none } else w

/-- A partition whose teams are all saved, or over, is pre-empted: the launch state is written (15 R317, R320). With STABLEBASE.SIZE 0 there
is no place for it: STATE becomes 2 all the same, which is the model's choice (log 102). -/
def State.preemptTest (s : State) (p : Nat) : State :=
  let x := s.part p
  if x.preState == 1 && s.teams.all (fun e => e.2.part != p) then
    let s := if bits x.stable.toNat 0 13 == 0 then s else s.physSet p (bits x.stable.toNat 21 31 * 2 ^ 21) 8 1
    (s.onPart p (fun y => { y with preState := 2 })).cause p 3
  else s

/-- Frees everything that a team holds on its core: entry, slots, registers, tiles, window, queues, matrix operations, range
entries, deferred entries, marks, banks (R26, R75, R101, R322); with the last one of a partition that is halting, its pre-emption is done. -/
def State.freeTeam (s : State) (t : Nat) : State :=
  let x := s.team t
  let s := (x.gids.foldl (fun s g => (((s.withdraw g).dropMark g).dropEarly g).freeBank g) s).flushStack x.core
  let s := (s.pipesOf x.launch).foldl (fun s k => s.onPipe k (fun p => { p with
    acqWait := p.acqWait.filter (fun g => !x.gids.contains g), getWait := p.getWait.filter (fun g => !x.gids.contains g) })) s
  let s := s.onDeck (deckOfCore x.core) (fun d => { d with
    sendQ := d.sendQ.map (RWrite.orphan x.gids), own := d.own.map (RWrite.orphan x.gids) })
  let k := s.core x.core
  let s := (k.matq.filter (fun m => m.team == t)).foldl (fun s m => s.clearLocks (2 * m.id)) s
  let s := (k.cmds.filter (fun e => e.2.team == t)).foldl (fun s e => s.clearLocks (2 * e.1 + 1)) s
  let s := s.onCore x.core (fun k => { k with
    matq := k.matq.filter (fun m => m.team != t),
    cmds := k.cmds.dropIf (fun _ e => e.team == t),
    locks := k.locks.dropIf (fun _ e => !e.glob && e.owner == t) })
  let s := { s with groups := s.groups.dropIf (fun g e => g != farrierId && coreOf g == x.core && e.team == t) }
  ({ s with teams := s.teams.del t }).preemptTest x.part

/-- Every team of the stage that is to run has retired or has been ended (14 R284, R297). -/
def Stage.isDone (g : Stage) : Bool := g.grid.gx * g.grid.gy * g.grid.gz ≤ g.ckstart + g.retired.length + g.ended.length

/-- Every team of a stage has retired (02 R26; a team that was ended has not, log 21). -/
def Stage.isRetired (g : Stage) : Bool := g.grid.gx * g.grid.gy * g.grid.gz ≤ g.ckstart + g.retired.length

/-- Closes the pipes of a launch whose producer stages' teams have all retired; a producer of a far pipe reports it to the consumer's
package (06 R140, R153). -/
def State.closePipes (s : State) (l : Nat) : State :=
  match s.launch l with
  | none => s
  | some x =>
    let through (k : Nat) : Bool := match x.stages[k]? with
      | some g => g.isRetired
      | none => true
    (s.pipesOf l).foldl (fun s k =>
      match s.pipe k with
      | none => s
      | some p =>
        if p.closed || p.xlink == 2 || !p.prods.all through then s
        else
          let s := s.onPipe k (fun y => { y with closed := true })
          if p.xlink == 1 then s.sendPipe k 4 p.sent else s) s

/-- Marks a team index of a stage as retired, or as ended by a fault (14 R298, R284). -/
def State.retireIndex (s : State) (t : Team) (faulted : Bool) : State :=
  let s := s.onLaunch t.launch (fun l => { l with
    faulted := l.faulted || faulted,
    stages := l.stages.modify t.stage (fun g => { g with
      retired := if faulted then g.retired else t.lin :: g.retired.filter (· != t.lin),
      ended := if faulted then t.lin :: g.ended.filter (· != t.lin) else g.ended,
      areasUsed := match t.area with
        | some a => g.areasUsed.filter (· != a)
        | none => g.areasUsed }) })
  s.closePipes t.launch

/-- Returns a discarded team index to its stage, to be issued again (R150). -/
def State.returnIndex (s : State) (t : Team) : State :=
  s.onLaunch t.launch (fun l => { l with
    stages := l.stages.modify t.stage (fun g => { g with
      returned := g.returned ++ [{ lo := t.lin, hi := t.lin, deck := deckOfCore t.core }],
      discards := g.discards.set 0 t.lin (g.discards.get 0 t.lin + 1),
      areasUsed := match t.area with
        | some a => g.areasUsed.filter (· != a)
        | none => g.areasUsed }) })

/-- The done watermark (R297): the least index that neither CKSTART skips nor a retired team has. -/
def Stage.watermark (g : Stage) : Nat :=
  let ws := (g.ckstart :: g.retired.map (· + 1)).filter (fun w => g.ckstart ≤ w && !g.retired.contains w)
  min (ws.foldl min (g.grid.gx * g.grid.gy * g.grid.gz)) (g.grid.gx * g.grid.gy * g.grid.gz)

/-- Writes DONEW of every stage of a hitch (14 R297, R293). -/
def State.writeDonew (s : State) (l : Nat) : State :=
  match s.launch l with
  | none => s
  | some x =>
    if x.hitch then
      (List.range x.stages.length).foldl (fun s k =>
        match x.stages[k]? with
        | some g => s.ctxSet x.part x.ctx (x.desc.toNat + 64 + 64 * k + 24) 4 g.watermark
        | none => s) s
    else s

/-- Writes a status word, where the record names one that is 8-aligned and can be translated (14 R284, log 29). -/
def State.putStatus (s : State) (p ctx va code : Nat) : State :=
  if va == 0 || va % 8 != 0 then s
  else
    match s.devTr p ctx va true with
    | some t => (s.homeSet t.pa 8 code).cause p 1
    | none => s.devLost p ctx va

/-- Writes a launch's status word. -/
def State.writeStatus (s : State) (l code : Nat) : State :=
  match s.launch l with
  | none => s
  | some x => s.putStatus x.part x.ctx x.status.toNat code

/-- Frees a launch: its cores, its pipes and its saved teams. -/
def State.dropLaunch (s : State) (l : Nat) : State :=
  match s.launch l with
  | none => s
  | some x =>
    let s := { s with pipes := s.pipes.dropIf (fun k _ => k / 64 == l), launches := s.launches.del l }
    let s := s.onCores (fun c => if (c.heldBy.map Prod.fst) == some l then { c with heldBy := none, moving := false } else c)
    s.onPart x.part (fun p => { p with saved := p.saved.filter (fun v => v.team.launch != l) })

/-- halt(h, code) of R305 with R156: nothing happens while its record cannot be posted (R307). -/
def State.haltHitch (s : State) (l code stage pipe team : Nat) : Option State :=
  match s.launch l with
  | none => some s
  | some x =>
    if !s.canPost x.part then none
    else
      let ts := (s.teams.filter (fun e => e.2.launch == l)).map Prod.fst
      let s := ts.foldl (fun s t => (s.abandonTeam t).freeTeam t) s
      let s := x.spills.foldl (fun s e => s.ctxSet x.part x.ctx (x.spillBase.toNat + x.spillE * e.1 + 19) 1 0) s
      let s := (s.writeDonew l).writeStatus l code
      let s := s.dropLaunch l
      s.postRec x.part (launchRec s x.part x.desc.toNat team x.index x.queue pipe stage code)

/-- The launch's halt waits for its record: until then it keeps its state (15 R307, log 97). -/
def State.isDoomed (s : State) (l : Nat) : Bool :=
  match s.launch l with
  | some x => (s.part x.part).doomed.any (fun d => d.launch == l)
  | none => false

/-- halt(h, code) of R305 that comes from outside the launch: where its record cannot be posted now it is kept until it can (15 R307). -/
def State.haltOr (s : State) (d : Doom) : State :=
  match s.haltHitch d.launch d.code d.stage d.pipe d.team, s.launch d.launch with
  | some t, _ => t
  | none, some x => if s.isDoomed d.launch then s else s.onPart x.part (fun p => { p with doomed := p.doomed ++ [d] })
  | none, none => s

/-- The kept halts of a partition, oldest first, after its fault queue has room again (15 R307). -/
def State.retryHalts (s : State) (p : Nat) : State :=
  ((s.part p).doomed).foldl State.haltOr (s.onPart p (fun x => { x with doomed := [] }))

/-- Discards a team of a rerunnable stage (R150): its index is issued again, or the hitch halts with RETRIES. -/
def State.discardTeam (s : State) (t : Nat) : Option State :=
  let x := s.team t
  let s1 := ((s.abandonTeam t).onTiles x.launch (x.stage, x.lin) State.discardTile).freeTeam t
  match s.stage x.launch x.stage with
  | none => some s1
  | some g =>
    if g.discards.get 0 x.lin ≥ g.retry then s.haltHitch x.launch 0x52 x.stage 0xFF x.lin
    else some (s1.returnIndex x)

/-- Ends a team as faulted (11 R267): a rerunnable team is discarded, any other ends with a TEAMFAULT or STATEERR record.
none: a record that is needed cannot be posted, and the event waits. -/
def State.faultTeam (s : State) (t trap va kind : Nat) (double : Bool) (code : Nat) : Option State :=
  let x := s.team t
  if x.rerun then s.discardTeam t
  else
    match s.postRec x.part (faultRec s x.part va 0xFFFFFFFF x.ctx x.core trap kind double x.stage code) with
    | none => none
    | some s =>
      let s := (s.abandonTeam t).onTiles x.launch (x.stage, x.lin) (fun s k u => s.endTile x.part k true u)
      some ((s.freeTeam t).retireIndex x true)

/-! ## Starting groups (02 R22 to R24, R46, 14 R289) -/

/-- stoch seeding of a lane (05 R123). -/
def seedLane (sd : GWord) (l : Nat) : Word :=
  let x : Word := sd.setWidth 32 ^^^ (sd >>> 32).setWidth 32 ^^^ BitVec.ofNat 32 (l * 0x9E3779B9)
  if x = 0 then 0x6D2B79F5 else x

/-- The seed of a group (R123). -/
def groupSeed (t : Team) (gidx : Nat) : GWord := t.seed ^^^ BitVec.ofNat 64 (t.lin * 16) ^^^ BitVec.ofNat 64 gidx

/-- The group that starts in a slot of team t with GIDX k, a control entry and a role code (R24, R27, R289). -/
def startGroup (tid : Nat) (t : Team) (k : Nat) (entry : GWord) (role : Nat) : Group :=
  let lo := t.stackLo.toNat + t.stackSz * k
  { Group.empty with
    team := tid, gidx := k, pc := entry, fmt := t.fmt0, role := BitVec.ofNat 32 (role + k * 2 ^ 8 + t.groups * 2 ^ 12),
    count := t.vregs,
    g := if t.stackSz == 0 then [] else [(61, BitVec.ofNat 64 (lo + t.stackSz))],
    gen := (List.range 32).map (fun l => (l, seedLane (groupSeed t k) l)),
    stackLim := if t.stackSz == 0 then 1 else BitVec.ofNat 64 (lo / 16 * 16),
    tcore := t.core }

end Sys2Proof.Machine
end

