-- ==== Sys2Proof/Decode.lean ====
section
/-! DEFINITION. The decoder of control words and lane words, total on any bits and rejecting by name, and the
encoder, both from the field layouts of 07 R157 to R161 and the tables of chapters 08 to 11. -/

namespace Sys2Proof

/-- Why a word is no instruction: the failing step of 07 R162. `sys` says that the word is a system-mode form, so
that PRIV comes before this trap outside system mode. -/
inductive BadWord where
  /-- Step 1: OP, FN, SUB or SEL is not allocated. -/
  | unallocated
  /-- Step 3: a reserved or unused field is not zero. -/
  | reserved (sys : Bool)
  /-- Step 4: a field holds a forbidden value. -/
  | forbidden (sys : Bool)
  deriving DecidableEq, Repr

/-- What the decoder answers. -/
inductive Dec where
  | ok (i : Instr)
  | bad (why : BadWord)
  deriving DecidableEq, Repr

/-- The instruction, when there is one. -/
def Dec.toOption : Dec → Option Instr
  | .ok i => some i
  | .bad _ => none

/-- Step 3 of R162: the form's unused fields are zero. -/
def Dec.zero (unused : Bool) (d : Dec) : Dec := if unused then d else .bad (.reserved false)

/-- Step 3 of R162 for a system-mode form. -/
def Dec.zeroSys (unused : Bool) (d : Dec) : Dec := if unused then d else .bad (.reserved true)

/-- Step 4 of R162: the fields hold allowed values. -/
def Dec.allow (allowed : Bool) (d : Dec) : Dec := if allowed then d else .bad (.forbidden false)

/-- Step 4 of R162 for a code that names something: none is a forbidden value. -/
def Dec.code {α : Type} (c : Option α) (d : α → Dec) : Dec :=
  match c with
  | some x => d x
  | none => .bad (.forbidden false)

/-- Step 1 of R162 for a code that selects the form. -/
def Dec.form {α : Type} (c : Option α) (d : α → Dec) : Dec :=
  match c with
  | some x => d x
  | none => .bad .unallocated

/-! ## Codes -/

/-- Scope codes (01 R15). -/
def Scope.code : Scope → BitVec 3
  | .grp => 0 | .team => 1 | .core => 2 | .deck => 3 | .tower => 4 | .dev => 5 | .sys => 6 | .rein => 7

/-- The scope of a code. -/
def Scope.ofCode (c : BitVec 3) : Scope :=
  match c.toNat with
  | 0 => .grp | 1 => .team | 2 => .core | 3 => .deck | 4 => .tower | 5 => .dev | 6 => .sys | _ => .rein

/-- ORD codes (07 R160). -/
def Ord.code : Ord → BitVec 2
  | .plain => 0 | .acq => 1 | .rel => 2 | .ar => 3

/-- The ordering of a code. -/
def Ord.ofCode (c : BitVec 2) : Ord :=
  match c.toNat with
  | 0 => .plain | 1 => .acq | 2 => .rel | _ => .ar

/-- AOP codes (08 R190). -/
def AtomOp.code : AtomOp → BitVec 4
  | .add => 1 | .and => 2 | .or => 3 | .xor => 4 | .smin => 5 | .smax => 6 | .umin => 7 | .umax => 8 | .swap => 9 | .cas => 10

/-- The operation of an AOP code; codes 0 and 11 to 15 have none. -/
def AtomOp.ofCode (c : BitVec 4) : Option AtomOp :=
  match c.toNat with
  | 1 => some .add | 2 => some .and | 3 => some .or | 4 => some .xor | 5 => some .smin | 6 => some .smax
  | 7 => some .umin | 8 => some .umax | 9 => some .swap | 10 => some .cas | _ => none

/-- Rounding-mode codes (05 R119). -/
def RMode.code : RMode → BitVec 3
  | .rne => 0 | .rtz => 1 | .rdn => 2 | .rup => 3 | .stoch => 4

/-- RM codes of L-cvt (07 R160). -/
def RmSel.code : RmSel → BitVec 3
  | .own m => m.code | .fmt => 7

/-- The RM field's meaning; 5 and 6 have none. -/
def RmSel.ofCode (c : BitVec 3) : Option RmSel :=
  match c.toNat with
  | 0 => some (.own .rne) | 1 => some (.own .rtz) | 2 => some (.own .rdn) | 3 => some (.own .rup) | 4 => some (.own .stoch)
  | 7 => some .fmt | _ => none

/-- SATSEL codes (07 R160). -/
def SatSel.code : SatSel → BitVec 2
  | .fmt => 0 | .off => 1 | .on => 2

/-- The SATSEL field's meaning; 3 has none. -/
def SatSel.ofCode (c : BitVec 2) : Option SatSel :=
  match c.toNat with
  | 0 => some .fmt | 1 => some .off | 2 => some .on | _ => none

/-- Lane type codes (07 R161). -/
def VType.code : VType → BitVec 5
  | .i8 => 0 | .i16 => 1 | .i32 => 2 | .i64 => 3 | .n8 => 4 | .n16 => 5 | .n32 => 6 | .n64 => 7 | .f32 => 8 | .f16 => 9
  | .bf16 => 10 | .e4m3 => 11 | .e5m2 => 12 | .q8 => 13 | .q4 => 14 | .f16x2 => 15 | .bf16x2 => 16

/-- The type of a code; 17 to 31 have none. -/
def VType.ofCode (c : BitVec 5) : Option VType :=
  match c.toNat with
  | 0 => some .i8 | 1 => some .i16 | 2 => some .i32 | 3 => some .i64 | 4 => some .n8 | 5 => some .n16 | 6 => some .n32
  | 7 => some .n64 | 8 => some .f32 | 9 => some .f16 | 10 => some .bf16 | 11 => some .e4m3 | 12 => some .e5m2
  | 13 => some .q8 | 14 => some .q4 | 15 => some .f16x2 | 16 => some .bf16x2 | _ => none

/-- SUB of the floating-point forms (10 R228). -/
def FTy.code : FTy → BitVec 4
  | .f32 => 0 | .f16 => 1 | .bf16 => 2

/-- The type of a floating-point SUB. -/
def FTy.ofCode (c : BitVec 4) : Option FTy :=
  match c.toNat with
  | 0 => some .f32 | 1 => some .f16 | 2 => some .bf16 | _ => none

/-- SUB of the integer compares (09 R210). -/
def ICond.code : ICond → BitVec 4
  | .eq => 0 | .ne => 1 | .ltI => 2 | .leI => 3 | .ltN => 4 | .leN => 5 | .gtI => 6 | .geI => 7 | .gtN => 8 | .geN => 9

/-- The condition of an integer-compare SUB. -/
def ICond.ofCode (c : BitVec 4) : Option ICond :=
  match c.toNat with
  | 0 => some .eq | 1 => some .ne | 2 => some .ltI | 3 => some .leI | 4 => some .ltN | 5 => some .leN | 6 => some .gtI
  | 7 => some .geI | 8 => some .gtN | 9 => some .geN | _ => none

/-- SUB of the floating-point compares (10 R230). -/
def FCond.code : FCond → BitVec 4
  | .eq => 0 | .ne => 1 | .lt => 2 | .le => 3 | .gt => 4 | .ge => 5 | .unord => 6 | .ord => 7

/-- The condition of a floating-point compare SUB. -/
def FCond.ofCode (c : BitVec 4) : Option FCond :=
  match c.toNat with
  | 0 => some .eq | 1 => some .ne | 2 => some .lt | 3 => some .le | 4 => some .gt | 5 => some .ge | 6 => some .unord
  | 7 => some .ord | _ => none

/-- SUB of the shuffle (10 R239). -/
def ShflMode.code : ShflMode → BitVec 4
  | .idx => 0 | .up => 1 | .down => 2 | .xor => 3

/-- The mode of a shuffle SUB. -/
def ShflMode.ofCode (c : BitVec 4) : Option ShflMode :=
  match c.toNat with
  | 0 => some .idx | 1 => some .up | 2 => some .down | 3 => some .xor | _ => none

/-- SUB of the reductions and scans (10 R241). -/
def RedOp.code : RedOp → BitVec 4
  | .addF => 0 | .maxF => 1 | .minF => 2 | .addI => 3 | .maxI => 4 | .minI => 5 | .maxN => 6 | .minN => 7 | .and => 8
  | .or => 9 | .xor => 10

/-- The operation of a reduction SUB. -/
def RedOp.ofCode (c : BitVec 4) : Option RedOp :=
  match c.toNat with
  | 0 => some .addF | 1 => some .maxF | 2 => some .minF | 3 => some .addI | 4 => some .maxI | 5 => some .minI
  | 6 => some .maxN | 7 => some .minN | 8 => some .and | 9 => some .or | 10 => some .xor | _ => none

/-- SUB of the accumulator moves (10 R243). -/
def TileW.code : TileW → BitVec 4
  | .w32 => 0 | .bf16x2 => 1 | .f16x2 => 2

/-- SUB of L-mem (07 R160). -/
def Size.code : Size → BitVec 4
  | .s1 => 0 | .s2 => 1 | .s4 => 2 | .s8 => 3 | .s16 => 4

/-- The size of an L-mem SUB. -/
def Size.ofCode (c : BitVec 4) : Option Size :=
  match c.toNat with
  | 0 => some .s1 | 1 => some .s2 | 2 => some .s4 | 3 => some .s8 | 4 => some .s16 | _ => none

/-- Location kinds of a copy (11 R256). -/
def Loc.code : Loc → BitVec 2
  | .glob => 0 | .scratch => 1 | .slot => 2

/-- The location kind of a code; 3 has none. -/
def Loc.ofCode (c : BitVec 2) : Option Loc :=
  match c.toNat with
  | 0 => some .glob | 1 => some .scratch | 2 => some .slot | _ => none

/-- SEL[1:0] of the invalidations (11 R268). -/
def Reach.code : Reach → BitVec 10
  | .core => 0 | .deck => 1 | .part => 2

/-- The reach of a SEL; 3 and above have none. -/
def Reach.ofCode (c : BitVec 10) : Option Reach :=
  match c.toNat with
  | 0 => some .core | 1 => some .deck | 2 => some .part | _ => none

/-- System-register numbers (11 R266). -/
def SysReg.code : SysReg → BitVec 10
  | .status => 0x000 | .trapcause => 0x001 | .trappc => 0x002 | .traplpc => 0x003 | .trapva => 0x004
  | .handlerbase => 0x008 | .stablebase => 0x009 | .stacklimit => 0x00A | .checkmode => 0x00B | .cmark => 0x010
  | .settledmark => 0x011 | .partmap => 0x020 | .hbmil => 0x021 | .netbound => 0x022 | .reinsplit => 0x023

/-- The system register of a SEL. -/
def SysReg.ofCode (c : BitVec 10) : Option SysReg :=
  match c.toNat with
  | 0 => some .status | 1 => some .trapcause | 2 => some .trappc | 3 => some .traplpc | 4 => some .trapva
  | 8 => some .handlerbase | 9 => some .stablebase | 10 => some .stacklimit | 11 => some .checkmode | 16 => some .cmark
  | 17 => some .settledmark | 32 => some .partmap | 33 => some .hbmil | 34 => some .netbound | 35 => some .reinsplit
  | _ => none

/-! ## Control words -/

/-- A predicate field is a 6-bit field whose upper three bits are reserved (R158). -/
def isQ (x : BitVec 6) : Bool := x.toNat < 8

/-- The predicate of a 6-bit field. -/
def qOf (x : BitVec 6) : QReg := x.extractLsb' 0 3

/-- The 6-bit field of a predicate. -/
def qField (q : QReg) : BitVec 6 := 0#3 ++ q

/-- OP 0x01 (08 R182). -/
def decReg (d a b : BitVec 6) (fn : BitVec 8) : Dec :=
  match fn.toNat with
  | 0x00 => .ok (.gadd d a b)
  | 0x01 => .ok (.gsub d a b)
  | 0x02 => .ok (.gand d a b)
  | 0x03 => .ok (.gor d a b)
  | 0x04 => .ok (.gxor d a b)
  | 0x05 => .ok (.gandn d a b)
  | 0x06 => .ok (.gshl d a b)
  | 0x07 => .ok (.gshr d a b)
  | 0x08 => .ok (.gsra d a b)
  | 0x09 => .ok (.gminI64 d a b)
  | 0x0A => .ok (.gmaxI64 d a b)
  | 0x0B => .ok (.gminN64 d a b)
  | 0x0C => .ok (.gmaxN64 d a b)
  | 0x10 => .ok (.gaddsh d a b 0)
  | 0x11 => .ok (.gaddsh d a b 1)
  | 0x12 => .ok (.gaddsh d a b 2)
  | 0x13 => .ok (.gaddsh d a b 3)
  | 0x14 => .ok (.gbfx d a b)
  | 0x15 => .ok (.gbfxI64 d a b)
  | 0x18 => Dec.zero (b == 0) (.ok (.gclz d a))
  | 0x19 => Dec.zero (b == 0) (.ok (.gpopc d a))
  | _ => .bad .unallocated

/-- OP 0x02 (08 R185). -/
def decCmp (d a b : BitVec 6) (fn : BitVec 8) : Dec :=
  match fn.toNat with
  | 0x00 => Dec.zero (isQ d) (.ok (.gcmpEq (qOf d) a b))
  | 0x01 => Dec.zero (isQ d) (.ok (.gcmpNe (qOf d) a b))
  | 0x02 => Dec.zero (isQ d) (.ok (.gcmpLtI64 (qOf d) a b))
  | 0x03 => Dec.zero (isQ d) (.ok (.gcmpLeI64 (qOf d) a b))
  | 0x04 => Dec.zero (isQ d) (.ok (.gcmpLtN64 (qOf d) a b))
  | 0x05 => Dec.zero (isQ d) (.ok (.gcmpLeN64 (qOf d) a b))
  | 0x10 => Dec.zero (isQ d && isQ a && isQ b) (.ok (.qand (qOf d) (qOf a) (qOf b)))
  | 0x11 => Dec.zero (isQ d && isQ a && isQ b) (.ok (.qor (qOf d) (qOf a) (qOf b)))
  | 0x12 => Dec.zero (isQ d && isQ a && isQ b) (.ok (.qxor (qOf d) (qOf a) (qOf b)))
  | 0x13 => Dec.zero (isQ d && isQ a && isQ b) (.ok (.qandn (qOf d) (qOf a) (qOf b)))
  | 0x14 => Dec.zero (isQ d && isQ a && b == 0) (.ok (.qnot (qOf d) (qOf a)))
  | 0x18 => Dec.zero (isQ a && b == 0) (.ok (.gsetq d (qOf a)))
  | _ => .bad .unallocated

/-- OP 0x03 (08 R183). -/
def decMul (d a b : BitVec 6) (fn : BitVec 8) : Dec :=
  match fn.toNat with
  | 0x00 => .ok (.gmul d a b)
  | 0x01 => .ok (.gmulhI64 d a b)
  | 0x02 => .ok (.gmulhN64 d a b)
  | 0x04 => .ok (.gdivI64 d a b)
  | 0x05 => .ok (.gdivN64 d a b)
  | 0x06 => .ok (.gremI64 d a b)
  | 0x07 => .ok (.gremN64 d a b)
  | _ => .bad .unallocated

/-- OP 0x14 (08 R188). -/
def decJump (d a b : BitVec 6) (fn : BitVec 8) : Dec :=
  match fn.toNat with
  | 0 => Dec.zero (d == 0 && b == 0) (.ok (.jmp a))
  | 1 => Dec.zero (d == 0 && b == 0) (.ok (.callr a))
  | 2 => Dec.zero (d == 0 && a == 0 && b == 0) (.ok .ret)
  | _ => .bad .unallocated

/-- The 4-bit field of a slot or barrier in a 6-bit field. -/
def lo4 (x : BitVec 6) : BitVec 4 := x.extractLsb' 0 4

/-- The upper bits of a slot or barrier field are zero. -/
def is4 (x : BitVec 6) : Bool := x.toNat < 16

/-- OP 0x1A (08 R194). -/
def decBuf (d a b : BitVec 6) (fn : BitVec 8) : Dec :=
  match fn.toNat with
  | 0 => Dec.zero (is4 d && is4 b) (.ok (.bufld (lo4 d) a (lo4 b)))
  | 1 => Dec.zero (is4 d) (.ok (.bufset (lo4 d) a b))
  | 2 => Dec.zero (is4 d && a == 0 && b == 0) (.ok (.bufinv (lo4 d)))
  | _ => .bad .unallocated

/-- OP 0x1C (08 R196, R197). -/
def decGroup (d a b : BitVec 6) (fn : BitVec 8) : Dec :=
  match fn.toNat with
  | 0x00 => Dec.zero (a == 0 && b == 0) (.ok (.lres d))
  | 0x01 => Dec.zero (d == 0 && a == 0 && b == 0) (.ok .lwait)
  | 0x02 => Dec.zero (d == 0 && a == 0 && b == 0) (.ok .gend)
  | 0x03 => Dec.zero (a == 0 && b == 0) (.ok (.gloc d))
  | 0x04 => Dec.zero (a == 0 && b == 0) (.ok (.grole d))
  | n =>
    if 0x10 ≤ n ∧ n ≤ 0x1C then Dec.zero (a == 0 && b == 0) (.ok (.glv d (fn.extractLsb' 0 4)))
    else .bad .unallocated

/-- OP 0x1D (08 R198). -/
def decFmt (d a b : BitVec 6) (fn : BitVec 8) : Dec :=
  match fn.toNat with
  | 0 => Dec.zero (d == 0 && b == 0) (.ok (.fmtset a))
  | 1 => Dec.zero (a == 0 && b == 0) (.ok (.fmtget d))
  | 2 => Dec.zero (d == 0 && b == 0) (.ok (.gseed a))
  | 3 => Dec.zero (d == 0 && b == 0) (.ok (.vgive a))
  | 4 => Dec.zero (d == 0 && b == 0) (.ok (.vclaim a))
  | 5 => Dec.zero (a == 0 && b == 0) (.ok (.vcount d))
  | _ => .bad .unallocated

/-- OP 0x1E (08 R199). -/
def decBar (d a b : BitVec 6) (fn : BitVec 8) : Dec :=
  match fn.toNat with
  | 0 => Dec.zero (is4 d && b == 0) (.ok (.nbsync (lo4 d) a))
  | 1 => Dec.zero (is4 d && b == 0) (.ok (.nbarrive (lo4 d) a))
  | _ => .bad .unallocated

/-- OP 0x1F (08 R201). -/
def decArr (d a b : BitVec 6) (fn : BitVec 8) : Dec :=
  match fn.toNat with
  | 0 => .ok (.aset d a b)
  | 1 => Dec.zero (d == 0) (.ok (.await a b))
  | 2 => Dec.zero (b == 0) (.ok (.aread d a))
  | 4 => Dec.zero (d == 0) (.ok (.apost a b))
  | _ => .bad .unallocated

/-- OP 0x20 (08 R202): FN[7:5] selects the form. -/
def decIq (d a b : BitVec 6) (fn : BitVec 8) : Dec :=
  match (fn.extractLsb' 5 3).toNat with
  | 0 => Dec.zero (isQ d && b == 0) (.ok (.iqpush (qOf d) (fn.extractLsb' 0 5) a))
  | 1 => Dec.zero (a == 0 && b == 0) (.ok (.iqstat d (fn.extractLsb' 0 5)))
  | _ => .bad .unallocated

/-- OP 0x0B (08 R184): bit 12 of IMM14 is 1 for the signed form, bit 13 is zero. -/
def decBfxi (d a : BitVec 6) (imm : BitVec 14) : Dec :=
  Dec.zero (!imm.getLsbD 13)
    (Dec.allow ((imm.extractLsb' 0 6).toNat + (imm.extractLsb' 6 6).toNat + 1 ≤ 64)
      (if imm.getLsbD 12 then .ok (.gbfxiI64 d a (imm.extractLsb' 6 6) (imm.extractLsb' 0 6))
       else .ok (.gbfxi d a (imm.extractLsb' 6 6) (imm.extractLsb' 0 6))))

/-- The shift amount of an immediate shift: IMM14[13:6] is zero (08 R184). -/
def decSh (imm : BitVec 14) (f : BitVec 6 → Instr) : Dec :=
  Dec.zero (imm.extractLsb' 6 8 == 0) (.ok (f (imm.extractLsb' 0 6)))

/-- C-br: q = 0 with NEG = 1 is forbidden (R157). -/
def decBr (w : Word) (f : QReg → Bool → BitVec 22 → Instr) : Dec :=
  Dec.allow (!(w.extractLsb' 23 3 == 0#3 && w.getLsbD 22))
    (.ok (f (w.extractLsb' 23 3) (w.getLsbD 22) (w.extractLsb' 0 22)))

/-- OP 0x17: the first word d a bn off, and the extension word x (08 R191). -/
def decAtom (d a : GReg) (bn : Slot) (off : BitVec 10) (x : Word) : Dec :=
  Dec.form (if x.extractLsb' 26 6 == 0#6 then AtomOp.ofCode (x.extractLsb' 10 4) else none) fun op =>
    Dec.zero (x.extractLsb' 0 4 == 0#4)
      (Dec.allow ((op == .cas || x.extractLsb' 14 6 == 0#6)
          && (x.extractLsb' 7 2 != 0#2 || x.extractLsb' 4 3 == 0#3))
        (.ok (.gatom d a bn off { b := x.extractLsb' 20 6, c := x.extractLsb' 14 6, op := op, w32 := x.getLsbD 9,
                                  ord := Ord.ofCode (x.extractLsb' 7 2), sc := Scope.ofCode (x.extractLsb' 4 3) })))

/-- OP 0x18 with its extension word (08 R192). -/
def decAcq (d a : GReg) (bn : Slot) (off : BitVec 10) (x : Word) : Dec :=
  if x.extractLsb' 26 6 == 0#6 then
    Dec.zero (x.extractLsb' 8 18 == 0#18 && x.extractLsb' 0 4 == 0#4)
      (if x.getLsbD 7 then .ok (.rel d a bn off (Scope.ofCode (x.extractLsb' 4 3)))
       else .ok (.acq d a bn off (Scope.ofCode (x.extractLsb' 4 3))))
  else .bad .unallocated

/-- OP 0x28 to 0x30 in C-eng (chapter 11): SA, SB, SC, SUB and MOD. -/
def decEng (op : Nat) (a b c : BitVec 6) (sub md : BitVec 4) : Dec :=
  match op with
  | 0x28 =>
    match sub.toNat with
    | 0 => Dec.zero (md.extractLsb' 1 3 == 0#3) (.ok (.mma a b c (md.getLsbD 0)))
    | 1 => Dec.zero (md.extractLsb' 1 3 == 0#3 && b == 0) (.ok (.mmaV a c (md.getLsbD 0)))
    | _ => .bad .unallocated
  | 0x29 =>
    match sub.toNat with
    | 0 => Dec.zero (md.extractLsb' 1 3 == 0#3) (.ok (.mmv a b c (md.getLsbD 0)))
    | _ => .bad .unallocated
  | 0x2A =>
    match sub.toNat with
    | 0 => Dec.zero (b == 0 && c == 0 && md == 0) (.ok (.mfence a))
    | 1 => Dec.zero (b == 0 && c == 0 && md == 0) (.ok (.mwait a))
    | _ => .bad .unallocated
  | 0x2B =>
    Dec.zero (md.extractLsb' 1 3 == 0#3)
      (Dec.code (Loc.ofCode (sub.extractLsb' 2 2)) fun dk =>
       Dec.code (Loc.ofCode (sub.extractLsb' 0 2)) fun sk =>
         if md.getLsbD 0 then .ok (.tcopyT a b c dk sk) else .ok (.tcopy a b c dk sk))
  | 0x2C =>
    match sub.toNat with
    | 0 => Dec.zero (md == 0) (.ok (.tmcastDeck a b c))
    | 1 => Dec.zero (md == 0) (.ok (.tmcastTower a b c))
    | _ => .bad .unallocated
  | 0x2D =>
    match sub.toNat with
    | 0 => Dec.zero (md == 0) (.ok (.hstreamOut a b c))
    | 1 => Dec.zero (md == 0) (.ok (.hstreamIn a b c))
    | _ => .bad .unallocated
  | 0x2E =>
    match sub.toNat with
    | 0 => Dec.zero (md.extractLsb' 1 3 == 0#3) (.ok (.qhist a b c (md.getLsbD 0)))
    | 1 => Dec.zero (md == 0) (.ok (.qclip a b c))
    | _ => .bad .unallocated
  | _ =>
    match sub.toNat with
    | 0 => .ok (.rput a b c md)
    | 1 => .ok (.rputRel a b c md)
    | 2 => Dec.zero (b == 0 && c == 0 && md == 0) (.ok (.rseq a))
    | _ => .bad .unallocated

/-- OP 0x2F: IMM14[13:11] selects the form and IMM14[10:6] is zero (11 R263). -/
def decPipe (d a : BitVec 6) (imm : BitVec 14) : Dec :=
  match (imm.extractLsb' 11 3).toNat with
  | 0 => Dec.zero (imm.extractLsb' 6 5 == 0#5 && a == 0) (.ok (.pacq d (imm.extractLsb' 0 6)))
  | 1 => Dec.zero (imm.extractLsb' 6 5 == 0#5 && a == 0) (.ok (.pacqTry d (imm.extractLsb' 0 6)))
  | 2 => Dec.zero (imm.extractLsb' 6 5 == 0#5 && a == 0) (.ok (.pget d (imm.extractLsb' 0 6)))
  | 3 => Dec.zero (imm.extractLsb' 6 5 == 0#5 && a == 0) (.ok (.pgetTry d (imm.extractLsb' 0 6)))
  | 4 => Dec.zero (imm.extractLsb' 0 11 == 0#11) (.ok (.pcommit d a))
  | 5 => Dec.zero (imm.extractLsb' 0 11 == 0#11 && d == 0) (.ok (.pfree a))
  | _ => .bad .unallocated

/-- OP 0x38 to 0x3C in C-sys (11 R266 to R270). -/
def decSys (op : Nat) (d a : BitVec 6) (sel : BitVec 10) (fn : BitVec 4) : Dec :=
  match op with
  | 0x38 =>
    match fn.toNat with
    | 0 => Dec.form (SysReg.ofCode sel) fun r => Dec.zeroSys (a == 0) (.ok (.sysrd d r))
    | 1 => Dec.form (SysReg.ofCode sel) fun r => Dec.zeroSys (d == 0) (.ok (.syswr r a))
    | _ => .bad .unallocated
  | 0x39 =>
    match fn.toNat with
    | 0 => Dec.zeroSys (d == 0 && a == 0 && sel == 0) (.ok .tret)
    | 1 => Dec.zeroSys (d == 0 && a == 0 && sel == 0) (.ok .tabort)
    | _ => .bad .unallocated
  | 0x3A =>
    match fn.toNat, Reach.ofCode sel with
    | 0, some r => Dec.zeroSys (d == 0) (.ok (.tlbinvVa a r))
    | 1, some r => Dec.zeroSys (d == 0) (.ok (.tlbinvCtx a r))
    | 2, some r => Dec.zeroSys (d == 0 && a == 0) (.ok (.tlbinvAll r))
    | _, _ => .bad .unallocated
  | 0x3B =>
    match fn.toNat with
    | 0 => Dec.zeroSys (d == 0 && a == 0 && sel == 0) (.ok .sysettle)
    | 1 => Dec.zeroSys (sel == 0) (.ok (.snapreq d a))
    | 2 => Dec.zeroSys (a == 0 && sel == 0) (.ok (.snapstat d))
    | _ => .bad .unallocated
  | _ =>
    match fn.toNat with
    | 0 => Dec.zero (d == 0 && a == 0) (.ok (.brk sel))
    | _ => .bad .unallocated

/-- A control word w; x is the word at the next address, read by the two-word instructions only (07 R164, 08 R181). -/
def decodeCtrl (w x : Word) : Dec :=
  let d := w.extractLsb' 20 6
  let a := w.extractLsb' 14 6
  let b := w.extractLsb' 8 6
  let fn := w.extractLsb' 0 8
  let imm := w.extractLsb' 0 14
  let bn := w.extractLsb' 10 4
  let off := w.extractLsb' 0 10
  match (w.extractLsb' 26 6).toNat with
  | 0x01 => decReg d a b fn
  | 0x02 => decCmp d a b fn
  | 0x03 => decMul d a b fn
  | 0x04 => .ok (.gaddi d a imm)
  | 0x05 => .ok (.gandi d a imm)
  | 0x06 => .ok (.gori d a imm)
  | 0x07 => .ok (.gxori d a imm)
  | 0x08 => decSh imm (.gshli d a ·)
  | 0x09 => decSh imm (.gshri d a ·)
  | 0x0A => decSh imm (.gsrai d a ·)
  | 0x0B => decBfxi d a imm
  | 0x0C => Dec.zero (isQ d) (.ok (.gcmpiEq (qOf d) a imm))
  | 0x0D => Dec.zero (isQ d) (.ok (.gcmpiLtI64 (qOf d) a imm))
  | 0x0E => Dec.zero (isQ d) (.ok (.gcmpiLtN64 (qOf d) a imm))
  | 0x0F => .ok (.gupi d a imm)
  | 0x10 => decBr w .br
  | 0x11 => decBr w .call
  | 0x12 => decBr w .bloop
  | 0x14 => decJump d a b fn
  | 0x15 => .ok (.gld64 d a bn off)
  | 0x16 => .ok (.gst64 d a bn off)
  | 0x17 => decAtom d a bn off x
  | 0x18 => decAcq d a bn off x
  | 0x19 => Dec.zero (d == 0 && a == 0 && b == 0 && w.extractLsb' 3 5 == 0#5) (.ok (.fence (Scope.ofCode (w.extractLsb' 0 3))))
  | 0x1A => decBuf d a b fn
  | 0x1B =>
    if d.getLsbD 5 then .ok (.lrunNr (d.extractLsb' 0 5 ++ imm) a) else .ok (.lrun (d.extractLsb' 0 5 ++ imm) a)
  | 0x1C => decGroup d a b fn
  | 0x1D => decFmt d a b fn
  | 0x1E => decBar d a b fn
  | 0x1F => decArr d a b fn
  | 0x20 => decIq d a b fn
  | 0x28 => decEng 0x28 d a b (w.extractLsb' 4 4) (w.extractLsb' 0 4)
  | 0x29 => decEng 0x29 d a b (w.extractLsb' 4 4) (w.extractLsb' 0 4)
  | 0x2A => decEng 0x2A d a b (w.extractLsb' 4 4) (w.extractLsb' 0 4)
  | 0x2B => decEng 0x2B d a b (w.extractLsb' 4 4) (w.extractLsb' 0 4)
  | 0x2C => decEng 0x2C d a b (w.extractLsb' 4 4) (w.extractLsb' 0 4)
  | 0x2D => decEng 0x2D d a b (w.extractLsb' 4 4) (w.extractLsb' 0 4)
  | 0x2E => decEng 0x2E d a b (w.extractLsb' 4 4) (w.extractLsb' 0 4)
  | 0x2F => decPipe d a imm
  | 0x30 => decEng 0x30 d a b (w.extractLsb' 4 4) (w.extractLsb' 0 4)
  | 0x38 => decSys 0x38 d a (w.extractLsb' 4 10) (w.extractLsb' 0 4)
  | 0x39 => decSys 0x39 d a (w.extractLsb' 4 10) (w.extractLsb' 0 4)
  | 0x3A => decSys 0x3A d a (w.extractLsb' 4 10) (w.extractLsb' 0 4)
  | 0x3B => decSys 0x3B d a (w.extractLsb' 4 10) (w.extractLsb' 0 4)
  | 0x3C => decSys 0x3C d a (w.extractLsb' 4 10) (w.extractLsb' 0 4)
  | _ => .bad .unallocated

/-! ## Lane words -/

/-- The fields of a lane word below OP and SUB (R159). -/
structure LaneF where
  t    : Sched
  neg  : Bool
  pred : PReg
  d    : BitVec 8
  a    : BitVec 8
  b    : BitVec 8
  c    : BitVec 8
  tx   : BitVec 2
  imm  : Word
  deriving DecidableEq, Repr

/-- The guard and issue timing of a lane word. -/
def LaneF.hdr (f : LaneF) : Hdr := { t := f.t, neg := f.neg, pred := f.pred }

/-- The fields of a lane word (R159). -/
def LaneF.ofWord (w : BitVec 96) : LaneF :=
  { t := { gap := w.extractLsb' 80 4, cede := w.getLsbD 79, wm := w.extractLsb' 75 4, wl := w.extractLsb' 72 3,
           wf := w.extractLsb' 70 2 },
    neg := w.getLsbD 69, pred := w.extractLsb' 66 3, d := w.extractLsb' 58 8, a := w.extractLsb' 50 8,
    b := w.extractLsb' 42 8, c := w.extractLsb' 34 8, tx := w.extractLsb' 32 2, imm := w.extractLsb' 0 32 }

/-- A lane-predicate field (R159): its upper five bits are zero. -/
def isP (x : BitVec 8) : Bool := x.toNat < 8

/-- The predicate of an 8-bit field. -/
def pOf (x : BitVec 8) : PReg := x.extractLsb' 0 3

/-- The 8-bit field of a predicate. -/
def pField (p : PReg) : BitVec 8 := 0#5 ++ p

/-- A guard of PRED = 0 with NEG = 1 is forbidden (R159). -/
def LaneF.guardOk (f : LaneF) : Bool := !(f.neg && f.pred == 0#3)

/-- Step 3 and step 4 of R162 for a guarded form. -/
def LaneF.form (f : LaneF) (unused allowed : Bool) (i : Instr) : Dec :=
  Dec.zero unused (Dec.allow (f.guardOk && allowed) (.ok i))

/-- L-alu with sources a and b: TX 00 or 01, SC zero (R160, R205). -/
def LaneF.ab (f : LaneF) (k : SrcB → Instr) : Dec :=
  match f.tx.toNat with
  | 0 => f.form (f.c == 0 && f.imm == 0) true (k (.reg f.b))
  | 1 => f.form (f.c == 0 && f.b == 0) true (k (.imm f.imm))
  | _ => .bad (.forbidden false)

/-- L-alu with sources a, b and c: TX 00, 01 or 10 (R160, R205). -/
def LaneF.abc (f : LaneF) (k : SrcBC → Instr) : Dec :=
  match f.tx.toNat with
  | 0 => f.form (f.imm == 0) true (k (.rr f.b f.c))
  | 1 => f.form (f.b == 0) true (k (.ir f.imm f.c))
  | 2 => f.form (f.c == 0) true (k (.ri f.b f.imm))
  | _ => .bad (.forbidden false)

/-- L-alu with source a only: SB, SC and TX zero. -/
def LaneF.aOnly (f : LaneF) (i : Instr) : Dec :=
  if f.tx == 0 then f.form (f.b == 0 && f.c == 0 && f.imm == 0) true i else .bad (.forbidden false)

/-- L-alu with no source: SA, SB, SC and TX zero. -/
def LaneF.noSrc (f : LaneF) (i : Instr) : Dec :=
  if f.tx == 0 then f.form (f.a == 0 && f.b == 0 && f.c == 0 && f.imm == 0) true i else .bad (.forbidden false)

/-- BN of L-mem. -/
def LaneF.bn (f : LaneF) : Slot := f.imm.extractLsb' 28 4
/-- SCOPE of L-mem. -/
def LaneF.sc (f : LaneF) : BitVec 3 := f.imm.extractLsb' 25 3
/-- ORD of L-mem. -/
def LaneF.ord (f : LaneF) : BitVec 2 := f.imm.extractLsb' 23 2
/-- OFF23 of L-mem. -/
def LaneF.off (f : LaneF) : BitVec 23 := f.imm.extractLsb' 0 23
/-- N of L-ctl. -/
def LaneF.n (f : LaneF) : BitVec 8 := f.imm.extractLsb' 24 8
/-- OFF20 of L-ctl. -/
def LaneF.skip (f : LaneF) : BitVec 20 := f.imm.extractLsb' 0 20

/-- SCOPE and ORD are zero (R218). -/
def LaneF.plain (f : LaneF) : Bool := f.imm.extractLsb' 23 5 == 0#5

/-- Plain global forms: TX 00 or 01 (R160, R219). -/
def LaneF.glob (f : LaneF) (unused : Bool) (k : Bool → Instr) : Dec :=
  match f.tx.toNat with
  | 0 => f.form (unused && f.plain) true (k false)
  | 1 => f.form (unused && f.plain) true (k true)
  | _ => .bad (.forbidden false)

/-- Scratchpad, mark and commit forms: TX, SCOPE and ORD zero (R218, R224). -/
def LaneF.noTx (f : LaneF) (unused : Bool) (i : Instr) : Dec :=
  f.form (unused && f.plain && f.tx == 0) true i

/-- The sizes of a signed load (R219). -/
def Size.signed : Size → Bool
  | .s1 | .s2 => true
  | .s4 | .s8 | .s16 => false

/-- A signed load's SUB. -/
def signedSize (sub : BitVec 4) : Option Size :=
  match Size.ofCode sub with
  | some z => if z.signed then some z else none
  | none => none

/-- Future forms: SUB 4, SCOPE 3, 4 or 5, ORD and TX zero (R222). -/
def LaneF.future (f : LaneF) (sub : BitVec 4) (unused : Bool) (i : Instr) : Dec :=
  if sub == 4 then
    Dec.zero unused
      (Dec.allow (f.guardOk && isP f.c && f.ord == 0#2 && f.tx == 0#2 && 3 ≤ f.sc.toNat && f.sc.toNat ≤ 5) (.ok i))
  else .bad .unallocated

/-- L-ctl: TX, bits [23:20] and the register fields that the form does not use are zero (R212). -/
def LaneF.ctl (f : LaneF) (unused allowed : Bool) (i : Instr) : Dec :=
  Dec.zero (unused && f.tx == 0 && f.imm.extractLsb' 20 4 == 0#4) (Dec.allow allowed (.ok i))

/-- No register field is used. -/
def LaneF.noRegs (f : LaneF) : Bool := f.d == 0 && f.a == 0 && f.b == 0 && f.c == 0

/-- PRED and NEG are unused. -/
def LaneF.noGuard (f : LaneF) : Bool := !f.neg && f.pred == 0

/-- OP 0x01 to 0x08 (09 R206 to R209). -/
def decLaneInt (op sub : Nat) (f : LaneF) : Dec :=
  let h := f.hdr
  match op, sub with
  | 0x01, 0 => f.ab (.vaddI32 h f.d f.a ·)
  | 0x01, 1 => f.ab (.vsubI32 h f.d f.a ·)
  | 0x01, 2 => f.ab (.vaddSatI32 h f.d f.a ·)
  | 0x01, 3 => f.ab (.vsubSatI32 h f.d f.a ·)
  | 0x01, 4 => f.ab (.vaddSatN32 h f.d f.a ·)
  | 0x01, 5 => f.ab (.vsubSatN32 h f.d f.a ·)
  | 0x02, 0 => f.ab (.vmulI32 h f.d f.a ·)
  | 0x02, 1 => f.ab (.vmulhI32 h f.d f.a ·)
  | 0x02, 2 => f.ab (.vmulhN32 h f.d f.a ·)
  | 0x02, 3 => f.abc (.vmadI32 h f.d f.a ·)
  | 0x03, 0 => f.ab (.vdivI32 h f.d f.a ·)
  | 0x03, 1 => f.ab (.vdivN32 h f.d f.a ·)
  | 0x03, 2 => f.ab (.vremI32 h f.d f.a ·)
  | 0x03, 3 => f.ab (.vremN32 h f.d f.a ·)
  | 0x04, 0 => f.ab (.vminI32 h f.d f.a ·)
  | 0x04, 1 => f.ab (.vmaxI32 h f.d f.a ·)
  | 0x04, 2 => f.ab (.vminN32 h f.d f.a ·)
  | 0x04, 3 => f.ab (.vmaxN32 h f.d f.a ·)
  | 0x04, 4 => f.aOnly (.vabsI32 h f.d f.a)
  | 0x05, 0 => f.ab (.vand h f.d f.a ·)
  | 0x05, 1 => f.ab (.vor h f.d f.a ·)
  | 0x05, 2 => f.ab (.vxor h f.d f.a ·)
  | 0x05, 3 => f.ab (.vandn h f.d f.a ·)
  | 0x06, 0 => f.ab (.vshl h f.d f.a ·)
  | 0x06, 1 => f.ab (.vshr h f.d f.a ·)
  | 0x06, 2 => f.ab (.vsra h f.d f.a ·)
  | 0x07, 0 => f.ab (.vbfxN32 h f.d f.a ·)
  | 0x07, 1 => f.ab (.vbfxI32 h f.d f.a ·)
  | 0x07, 2 => f.abc (.vbfi h f.d f.a ·)
  | 0x07, 3 => f.aOnly (.vclz h f.d f.a)
  | 0x07, 4 => f.aOnly (.vpopc h f.d f.a)
  | 0x07, 5 => f.aOnly (.vbrev h f.d f.a)
  | 0x08, 0 => f.aOnly (.vmov h f.d f.a)
  | 0x08, 1 => f.form (f.a == 0 && f.b == 0 && f.c == 0) (f.tx == 1) (.vmovi h f.d f.imm)
  | 0x08, 2 => f.noSrc (.vlaneid h f.d)
  | 0x08, 3 => f.noSrc (.vargl h f.d)
  | 0x08, 4 => f.noSrc (.vargh h f.d)
  | _, _ => .bad .unallocated

/-- OP 0x20 to 0x22 (09 R210, R211). -/
def decLaneCmp (op : Nat) (sub : BitVec 4) (f : LaneF) : Dec :=
  let h := f.hdr
  let p3 := isP f.d && isP f.a && isP f.b
  let none0 := f.c == 0 && f.tx == 0 && f.imm == 0
  match op with
  | 0x20 => Dec.form (ICond.ofCode sub) fun k => Dec.zero (isP f.d) (f.ab (.vcmp h k (pOf f.d) f.a ·))
  | 0x21 =>
    match sub.toNat with
    | 0 => f.form (p3 && none0) true (.pand h (pOf f.d) (pOf f.a) (pOf f.b))
    | 1 => f.form (p3 && none0) true (.por h (pOf f.d) (pOf f.a) (pOf f.b))
    | 2 => f.form (p3 && none0) true (.pxor h (pOf f.d) (pOf f.a) (pOf f.b))
    | 3 => f.form (p3 && none0) true (.pandn h (pOf f.d) (pOf f.a) (pOf f.b))
    | 4 => f.form (isP f.d && isP f.a && f.b == 0 && none0) true (.pnot h (pOf f.d) (pOf f.a))
    | 5 => f.form (isP f.a && f.b == 0 && none0) true (.vfromp h f.d (pOf f.a))
    | _ => .bad .unallocated
  | _ =>
    match sub.toNat, f.tx.toNat with
    | 0, 0 => f.form (isP f.c && f.imm == 0) true (.vsel h f.d f.a (.reg f.b) (pOf f.c))
    | 0, 1 => f.form (isP f.c && f.b == 0) true (.vsel h f.d f.a (.imm f.imm) (pOf f.c))
    | 0, _ => .bad (.forbidden false)
    | _, _ => .bad .unallocated

/-- OP 0x30 to 0x3B (09 R212). -/
def decLaneCtl (op sub : Nat) (f : LaneF) : Dec :=
  let h := f.hdr
  match op, sub with
  | 0x30, 0 => f.ctl (f.noRegs && f.n == 0) (f.guardOk && f.skip != 0) (.lif h f.skip)
  | 0x31, 0 => f.ctl (f.noRegs && f.n == 0 && f.noGuard) (f.skip != 0) (.lelse f.t f.skip)
  | 0x32, 0 => f.ctl (f.noRegs && f.n == 0 && f.skip == 0 && f.noGuard) true (.lendif f.t)
  | 0x33, 0 => f.ctl (f.noRegs && f.n == 0 && f.skip == 0 && f.noGuard) true (.lloop f.t)
  | 0x34, 0 =>
    f.ctl (f.a == 0 && f.b == 0 && f.c == 0 && f.n.extractLsb' 5 3 == 0#3 && f.skip == 0 && f.noGuard) true
      (.lloopRefill f.t (f.n.extractLsb' 0 5) f.d)
  | 0x35, 0 => f.ctl (f.noRegs && f.skip == 0) (f.guardOk && f.n != 255) (.lbreak h f.n)
  | 0x36, 0 => f.ctl (f.noRegs && f.skip == 0) (f.guardOk && f.n != 255) (.lcont h f.n)
  | 0x37, 0 => f.ctl (f.noRegs && f.n == 0 && f.noGuard) (f.skip != 0) (.lendloop f.t f.skip)
  | 0x37, 1 =>
    f.ctl (f.noRegs && f.n.extractLsb' 5 3 == 0#3 && f.noGuard) (f.skip != 0)
      (.lendloopRefill f.t (f.n.extractLsb' 0 5) f.skip)
  | 0x38, 0 =>
    f.ctl (f.noRegs && f.n == 0 && f.skip == 0 && f.noGuard && f.t.gap == 0 && !f.t.cede && f.t.wm == 0 && f.t.wl == 0
      && f.t.wf == 0) true .lend
  | 0x39, 0 => f.ctl (f.d == 0 && f.b == 0 && f.c == 0 && f.n == 0 && f.skip == 0) f.guardOk (.vyield h f.a)
  | 0x3A, 0 => f.ctl (f.d == 0 && f.c == 0 && f.n == 0 && f.skip == 0) f.guardOk (.lcallQ h f.a f.b)
  | 0x3B, 0 =>
    f.ctl (f.noRegs && f.n.extractLsb' 3 5 == 0#5 && f.skip == 0 && f.noGuard) true (.vfence f.t (Scope.ofCode (f.n.extractLsb' 0 3)))
  | _, _ => .bad .unallocated

/-- OP 0x40 to 0x5C (09 R219 to R224). -/
def decLaneMem (op : Nat) (sub : BitVec 4) (f : LaneF) : Dec :=
  let h := f.hdr
  match op with
  | 0x40 => Dec.form (Size.ofCode sub) fun z => f.glob (f.b == 0 && f.c == 0) (.vld h f.d z f.bn f.a f.off ·)
  | 0x41 => Dec.form (signedSize sub) fun z => f.glob (f.b == 0 && f.c == 0) (.vldSigned h f.d z f.bn f.a f.off ·)
  | 0x42 => Dec.form (Size.ofCode sub) fun z => f.glob (f.d == 0 && f.c == 0) (.vst h f.b z f.bn f.a f.off ·)
  | 0x43 => Dec.form (Size.ofCode sub) fun z => f.noTx (f.b == 0 && f.c == 0 && f.bn == 0) (.sld h f.d z f.a f.off)
  | 0x44 => Dec.form (signedSize sub) fun z => f.noTx (f.b == 0 && f.c == 0 && f.bn == 0) (.sldSigned h f.d z f.a f.off)
  | 0x45 => Dec.form (Size.ofCode sub) fun z => f.noTx (f.d == 0 && f.c == 0 && f.bn == 0) (.sst h f.b z f.a f.off)
  | 0x46 => Dec.form (Size.ofCode sub) fun z => f.glob (f.c == 0) (.vgath h f.d f.b z f.bn f.a f.off ·)
  | 0x47 => Dec.form (Size.ofCode sub) fun z => f.glob (f.d == 0) (.vscat h f.c f.b z f.bn f.a f.off ·)
  | 0x58 => f.future sub (f.b == 0) (.vldf h (Scope.ofCode f.sc) f.d (pOf f.c) f.bn f.a f.off)
  | 0x59 => f.future sub (f.b == 0) (.vldfTake h (Scope.ofCode f.sc) f.d (pOf f.c) f.bn f.a f.off)
  | 0x5A => f.future sub (f.d == 0) (.vstf h (Scope.ofCode f.sc) f.b (pOf f.c) f.bn f.a f.off)
  | 0x5B => Dec.form (Size.ofCode sub) fun z => f.noTx (f.b == 0 && f.c == 0) (.vmark h f.d z f.bn f.a f.off)
  | 0x5C => Dec.form (Size.ofCode sub) fun z => f.noTx (f.d == 0 && isP f.c) (.vcommit h f.b (pOf f.c) z f.bn f.a f.off)
  | _ =>
    Dec.form (if op < 0x58 && (sub == 2 || sub == 3) then AtomOp.ofCode (BitVec.ofNat 4 (op - 0x48)) else none) fun k =>
      Dec.zero (k == .cas || f.c == 0)
        (Dec.allow (f.guardOk && f.tx == 0#2 && (f.ord != 0#2 || f.sc == 0#3))
          (.ok (.vatom h k (sub == 3) (Ord.ofCode f.ord) (Scope.ofCode f.sc) f.d f.bn f.a f.off f.b f.c)))

/-- OP 0x60 to 0x88 (10 R228 to R232). -/
def decLaneFp (op : Nat) (sub : BitVec 4) (f : LaneF) : Dec :=
  let h := f.hdr
  match op with
  | 0x60 => Dec.form (FTy.ofCode sub) fun t => f.ab (.vfadd h t f.d f.a ·)
  | 0x61 => Dec.form (FTy.ofCode sub) fun t => f.ab (.vfsub h t f.d f.a ·)
  | 0x62 => Dec.form (FTy.ofCode sub) fun t => f.ab (.vfmul h t f.d f.a ·)
  | 0x63 => Dec.form (FTy.ofCode sub) fun t => f.abc (.vffma h t f.d f.a ·)
  | 0x64 => Dec.form (FTy.ofCode sub) fun t => f.ab (.vfmin h t f.d f.a ·)
  | 0x65 => Dec.form (FTy.ofCode sub) fun t => f.ab (.vfmax h t f.d f.a ·)
  | 0x66 => Dec.form (FTy.ofCode sub) fun t => f.aOnly (.vfabs h t f.d f.a)
  | 0x67 => Dec.form (FTy.ofCode sub) fun t => f.aOnly (.vfneg h t f.d f.a)
  | 0x68 => Dec.form (FCond.ofCode sub) fun k => Dec.zero (isP f.d) (f.ab (.vfcmp h .f32 k (pOf f.d) f.a ·))
  | 0x69 => Dec.form (FCond.ofCode sub) fun k => Dec.zero (isP f.d) (f.ab (.vfcmp h .f16 k (pOf f.d) f.a ·))
  | 0x6A => Dec.form (FCond.ofCode sub) fun k => Dec.zero (isP f.d) (f.ab (.vfcmp h .bf16 k (pOf f.d) f.a ·))
  | 0x6C =>
    match sub.toNat with
    | 1 => f.abc (.vfdot2 h false f.d f.a ·)
    | 2 => f.abc (.vfdot2 h true f.d f.a ·)
    | _ => .bad .unallocated
  | _ =>
    match op, sub.toNat with
    | 0x80, 0 => f.aOnly (.vrcp h f.d f.a)
    | 0x81, 0 => f.aOnly (.vrsqrt h f.d f.a)
    | 0x82, 0 => f.aOnly (.vsqrt h f.d f.a)
    | 0x83, 0 => f.ab (.vfdiv h f.d f.a ·)
    | 0x84, 0 => f.aOnly (.vexp2 h f.d f.a)
    | 0x85, 0 => f.aOnly (.vlog2 h f.d f.a)
    | 0x86, 0 => f.aOnly (.vsinpi h f.d f.a)
    | 0x87, 0 => f.aOnly (.vcospi h f.d f.a)
    | 0x88, 0 => f.aOnly (.vtanh h f.d f.a)
    | _, _ => .bad .unallocated

/-- Types that a conversion accepts (10 R235). -/
def VType.scalar : VType → Bool
  | .q8 | .q4 | .f16x2 | .bf16x2 => false
  | .i8 | .i16 | .i32 | .i64 | .n8 | .n16 | .n32 | .n64 | .f32 | .f16 | .bf16 | .e4m3 | .e5m2 => true

/-- Source types of a quantisation (10 R237). -/
def VType.quantSrc : VType → Bool
  | .f32 | .f16 | .bf16 => true
  | .i8 | .i16 | .i32 | .i64 | .n8 | .n16 | .n32 | .n64 | .e4m3 | .e5m2 | .q8 | .q4 | .f16x2 | .bf16x2 => false

/-- OP 0x90 to 0x99 in L-cvt (10 R235 to R238). -/
def decLaneCvt (op sub : Nat) (f : LaneF) : Dec :=
  let h := f.hdr
  let z := f.tx == 0 && f.imm.extractLsb' 0 17 == 0#17
  Dec.form (if sub == 0 && (op ≤ 0x94 || op == 0x98 || op == 0x99) then some () else none) fun _ =>
  Dec.zero (z && f.c == 0 && (op == 0x91 || op == 0x98 || op == 0x99 || f.b == 0))
    (Dec.code (VType.ofCode (f.imm.extractLsb' 27 5)) fun st =>
     Dec.code (VType.ofCode (f.imm.extractLsb' 22 5)) fun dt =>
     Dec.code (RmSel.ofCode (f.imm.extractLsb' 19 3)) fun rm =>
     Dec.code (SatSel.ofCode (f.imm.extractLsb' 17 2)) fun ss =>
     let exact := f.imm.extractLsb' 17 5 == 0#5
     match op with
     | 0x90 => Dec.allow (f.guardOk && st.scalar && dt.scalar && st != dt) (.ok (.vcvt h st dt rm ss f.d f.a))
     | 0x91 =>
       Dec.allow (f.guardOk && st == .f32 && (dt == .f16x2 || dt == .bf16x2)) (.ok (.vcvtPk h (dt == .bf16x2) rm ss f.d f.a f.b))
     | 0x92 => Dec.allow (f.guardOk && st == .f32 && (dt == .e4m3 || dt == .e5m2)) (.ok (.vcvtPk4 h (dt == .e5m2) rm ss f.d f.a))
     | 0x93 => Dec.allow (f.guardOk && dt == .f32 && (st == .e4m3 || st == .e5m2) && exact) (.ok (.vcvtUnpk4 h (st == .e5m2) f.d f.a))
     | 0x94 =>
       Dec.allow (f.guardOk && dt == .f32 && (st == .f16x2 || st == .bf16x2) && exact) (.ok (.vcvtUnpk h (st == .bf16x2) f.d f.a))
     | 0x98 =>
       Dec.allow (f.guardOk && st.quantSrc && (dt == .q8 || dt == .q4) && ss == .fmt) (.ok (.vqnt h st (dt == .q4) rm f.d f.a f.b))
     | _ => Dec.allow (f.guardOk && (st == .q8 || st == .q4) && dt == .f32 && exact) (.ok (.vdeq h (st == .q4) f.d f.a f.b)))

/-- OP 0xA0 to 0xB1 (10 R239 to R243). -/
def decLaneColl (op : Nat) (sub : BitVec 4) (f : LaneF) : Dec :=
  let h := f.hdr
  let vote := isP f.a && f.b == 0 && f.c == 0 && f.imm == 0
  let tile := f.imm.extractLsb' 0 9
  let tz := f.imm.extractLsb' 9 23 == 0#23 && f.b == 0 && f.c == 0
  match op, sub.toNat with
  | 0xA0, _ => Dec.form (ShflMode.ofCode sub) fun m => f.ab (.vshfl h m f.d f.a ·)
  | 0xA1, 0 => f.form (isP f.d && vote) (f.tx == 0) (.vvoteAny h (pOf f.d) (pOf f.a))
  | 0xA1, 1 => f.form (isP f.d && vote) (f.tx == 0) (.vvoteAll h (pOf f.d) (pOf f.a))
  | 0xA1, 2 => f.form (isP f.d && vote) (f.tx == 0) (.vvoteUni h (pOf f.d) (pOf f.a))
  | 0xA1, 3 => f.form vote (f.tx == 0) (.vballot h f.d (pOf f.a))
  | 0xA2, _ =>
    Dec.form (RedOp.ofCode sub) fun o => f.form (isP f.c && f.b == 0 && f.imm == 0) (f.tx == 0) (.vred h o f.d f.a (pOf f.c))
  | 0xA3, _ => Dec.form (RedOp.ofCode sub) fun o => f.form (f.c == 0 && f.b == 0 && f.imm == 0) (f.tx == 0) (.vscan h o f.d f.a)
  | 0xB0, 0 => f.form (tz && f.a == 0) (f.tx == 1) (.amov h .w32 f.d tile)
  | 0xB0, 1 => f.form (tz && f.a == 0) (f.tx == 1) (.amov h .bf16x2 f.d tile)
  | 0xB0, 2 => f.form (tz && f.a == 0) (f.tx == 1) (.amov h .f16x2 f.d tile)
  | 0xB1, 0 => f.form (tz && f.d == 0) (f.tx == 1) (.amovw h .w32 f.a tile)
  | 0xB1, 1 => f.form (tz && f.d == 0) (f.tx == 1) (.amovw h .bf16x2 f.a tile)
  | 0xB1, 2 => f.form (tz && f.d == 0) (f.tx == 1) (.amovw h .f16x2 f.a tile)
  | 0xB1, 3 => f.form (tz && f.d == 0 && f.a == 0) (f.tx == 1) (.azero h tile)
  | _, _ => .bad .unallocated

/-- A lane word by its OP, SUB and other fields (07 R165). -/
def decLane (op : Nat) (sub : BitVec 4) (f : LaneF) : Dec :=
  if op < 0x20 then decLaneInt op sub.toNat f
  else if op < 0x23 then decLaneCmp op sub f
  else if op < 0x30 then .bad .unallocated
  else if op < 0x40 then decLaneCtl op sub.toNat f
  else if op < 0x60 then decLaneMem op sub f
  else if op < 0x90 then decLaneFp op sub f
  else if op < 0xA0 then decLaneCvt op sub.toNat f
  else if op < 0xB2 then decLaneColl op sub f
  else if op == 0xB8 && sub == 0 then f.ctl (f.noRegs && f.skip == 0) f.guardOk (.lbrk f.hdr f.n)
  else .bad .unallocated

/-- A lane word (07 R159). -/
def decodeLane (w : BitVec 96) : Dec :=
  decLane (w.extractLsb' 88 8).toNat (w.extractLsb' 84 4) (LaneF.ofWord w)

/-! ## The encoder -/

/-- The bits of an instruction: one control word, a two-word instruction, or a lane word. -/
inductive Code where
  | ctrl (w : Word)
  | pair (w x : Word)
  | lane (w : BitVec 96)
  deriving DecidableEq, Repr

/-- The decoder on the bits of an instruction. -/
def decode : Code → Dec
  | .ctrl w => decodeCtrl w 0
  | .pair w x => decodeCtrl w x
  | .lane w => decodeLane w

/-- A control word in C-reg (R157). -/
def ctrl (op d a b : BitVec 6) (fn : BitVec 8) : Code := .ctrl (op ++ d ++ a ++ b ++ fn)

/-- A control word in C-imm. -/
def ctrlImm (op d a : BitVec 6) (imm : BitVec 14) : Code := .ctrl (op ++ d ++ a ++ imm)

/-- A control word in C-eng. -/
def eng (op a b c : BitVec 6) (sub md : BitVec 4) : Code := .ctrl (op ++ a ++ b ++ c ++ sub ++ md)

/-- A control word in C-sys. -/
def sysw (op d a : BitVec 6) (sel : BitVec 10) (fn : BitVec 4) : Code := .ctrl (op ++ d ++ a ++ sel ++ fn)

/-- A lane word (R159). -/
def encLane (op : BitVec 8) (sub : BitVec 4) (f : LaneF) : BitVec 96 :=
  op ++ sub ++ f.t.gap ++ BitVec.ofBool f.t.cede ++ f.t.wm ++ f.t.wl ++ f.t.wf ++ BitVec.ofBool f.neg ++ f.pred ++ f.d ++ f.a
    ++ f.b ++ f.c ++ f.tx ++ f.imm

/-- A lane word whose TX and immediate are zero. -/
def laneR (op : BitVec 8) (sub : BitVec 4) (h : Hdr) (d a b c : BitVec 8) : Code :=
  .lane (encLane op sub (LaneF.mk h.t h.neg h.pred d a b c 0 0))

/-- A lane word in L-alu with sources a and b (R205). -/
def laneAB (op : BitVec 8) (sub : BitVec 4) (h : Hdr) (d a : BitVec 8) : SrcB → Code
  | .reg b => laneR op sub h d a b 0
  | .imm w => .lane (encLane op sub (LaneF.mk h.t h.neg h.pred d a 0 0 1 w))

/-- A lane word in L-alu with sources a, b and c (R205). -/
def laneABC (op : BitVec 8) (sub : BitVec 4) (h : Hdr) (d a : BitVec 8) : SrcBC → Code
  | .rr b c => laneR op sub h d a b c
  | .ir w c => .lane (encLane op sub (LaneF.mk h.t h.neg h.pred d a 0 c 1 w))
  | .ri b w => .lane (encLane op sub (LaneF.mk h.t h.neg h.pred d a b 0 2 w))

/-- TX of a plain global form: 1 for no allocation in the L1 (R160). -/
def laneNa (na : Bool) : BitVec 2 := if na then 1 else 0

/-- The bits of an instruction; an event has none. -/
def encode (i : Instr) : Option Code :=
  match i with
  | .gadd d a b => some (ctrl 0x01 d a b 0)
  | .gsub d a b => some (ctrl 0x01 d a b 1)
  | .gand d a b => some (ctrl 0x01 d a b 2)
  | .gor d a b => some (ctrl 0x01 d a b 3)
  | .gxor d a b => some (ctrl 0x01 d a b 4)
  | .gandn d a b => some (ctrl 0x01 d a b 5)
  | .gshl d a b => some (ctrl 0x01 d a b 6)
  | .gshr d a b => some (ctrl 0x01 d a b 7)
  | .gsra d a b => some (ctrl 0x01 d a b 8)
  | .gminI64 d a b => some (ctrl 0x01 d a b 9)
  | .gmaxI64 d a b => some (ctrl 0x01 d a b 10)
  | .gminN64 d a b => some (ctrl 0x01 d a b 11)
  | .gmaxN64 d a b => some (ctrl 0x01 d a b 12)
  | .gaddsh d a b k => some (ctrl 0x01 d a b (0x04#6 ++ k))
  | .gbfx d a b => some (ctrl 0x01 d a b 20)
  | .gbfxI64 d a b => some (ctrl 0x01 d a b 21)
  | .gclz d a => some (ctrl 0x01 d a 0 0x18)
  | .gpopc d a => some (ctrl 0x01 d a 0 0x19)
  | .gcmpEq d a b => some (ctrl 0x02 (qField d) a b 0)
  | .gcmpNe d a b => some (ctrl 0x02 (qField d) a b 1)
  | .gcmpLtI64 d a b => some (ctrl 0x02 (qField d) a b 2)
  | .gcmpLeI64 d a b => some (ctrl 0x02 (qField d) a b 3)
  | .gcmpLtN64 d a b => some (ctrl 0x02 (qField d) a b 4)
  | .gcmpLeN64 d a b => some (ctrl 0x02 (qField d) a b 5)
  | .qand d a b => some (ctrl 0x02 (qField d) (qField a) (qField b) 16)
  | .qor d a b => some (ctrl 0x02 (qField d) (qField a) (qField b) 17)
  | .qxor d a b => some (ctrl 0x02 (qField d) (qField a) (qField b) 18)
  | .qandn d a b => some (ctrl 0x02 (qField d) (qField a) (qField b) 19)
  | .qnot d a => some (ctrl 0x02 (qField d) (qField a) 0 0x14)
  | .gsetq d a => some (ctrl 0x02 d (qField a) 0 0x18)
  | .gmul d a b => some (ctrl 0x03 d a b 0)
  | .gmulhI64 d a b => some (ctrl 0x03 d a b 1)
  | .gmulhN64 d a b => some (ctrl 0x03 d a b 2)
  | .gdivI64 d a b => some (ctrl 0x03 d a b 4)
  | .gdivN64 d a b => some (ctrl 0x03 d a b 5)
  | .gremI64 d a b => some (ctrl 0x03 d a b 6)
  | .gremN64 d a b => some (ctrl 0x03 d a b 7)
  | .gaddi d a imm => some (ctrlImm 4 d a imm)
  | .gandi d a imm => some (ctrlImm 5 d a imm)
  | .gori d a imm => some (ctrlImm 6 d a imm)
  | .gxori d a imm => some (ctrlImm 7 d a imm)
  | .gshli d a sh => some (ctrlImm 8 d a (0#8 ++ sh))
  | .gshri d a sh => some (ctrlImm 9 d a (0#8 ++ sh))
  | .gsrai d a sh => some (ctrlImm 10 d a (0#8 ++ sh))
  | .gbfxi d a n lo => some (ctrlImm 0x0B d a (0#2 ++ n ++ lo))
  | .gbfxiI64 d a n lo => some (ctrlImm 0x0B d a (1#2 ++ n ++ lo))
  | .gcmpiEq d a imm => some (ctrlImm 12 (qField d) a imm)
  | .gcmpiLtI64 d a imm => some (ctrlImm 13 (qField d) a imm)
  | .gcmpiLtN64 d a imm => some (ctrlImm 14 (qField d) a imm)
  | .gupi d a imm => some (ctrlImm 15 d a imm)
  | .br q neg off => some (.ctrl (16#6 ++ q ++ BitVec.ofBool neg ++ off))
  | .call q neg off => some (.ctrl (17#6 ++ q ++ BitVec.ofBool neg ++ off))
  | .bloop q neg off => some (.ctrl (18#6 ++ q ++ BitVec.ofBool neg ++ off))
  | .jmp a => some (ctrl 0x14 0 a 0 0)
  | .callr a => some (ctrl 0x14 0 a 0 1)
  | .ret => some (ctrl 0x14 0 0 0 2)
  | .gld64 d a bn off => some (.ctrl (0x15#6 ++ d ++ a ++ bn ++ off))
  | .gst64 src a bn off => some (.ctrl (0x16#6 ++ src ++ a ++ bn ++ off))
  | .gatom d a bn off x => some (.pair (0x17#6 ++ d ++ a ++ bn ++ off) (0#6 ++ x.b ++ x.c ++ x.op.code ++ BitVec.ofBool x.w32 ++ x.ord.code ++ x.sc.code ++ 0#4))
  | .acq d a bn off sc => some (.pair (0x18#6 ++ d ++ a ++ bn ++ off) (0#25 ++ sc.code ++ 0#4))
  | .rel src a bn off sc => some (.pair (0x18#6 ++ src ++ a ++ bn ++ off) (0#24 ++ 1#1 ++ sc.code ++ 0#4))
  | .fence sc => some (.ctrl (0x19#6 ++ 0#23 ++ sc.code))
  | .bufld n a m => some (ctrl 0x1A (0#2 ++ n) a (0#2 ++ m) 0)
  | .bufset n a b => some (ctrl 0x1A (0#2 ++ n) a b 1)
  | .bufinv n => some (ctrl 0x1A (0#2 ++ n) 0 0 2)
  | .lrun w a => some (.ctrl (0x1B#6 ++ 0#1 ++ w.extractLsb' 14 5 ++ a ++ w.extractLsb' 0 14))
  | .lrunNr w a => some (.ctrl (0x1B#6 ++ 1#1 ++ w.extractLsb' 14 5 ++ a ++ w.extractLsb' 0 14))
  | .lres d => some (ctrl 0x1C d 0 0 0)
  | .lwait => some (ctrl 0x1C 0 0 0 1)
  | .gend => some (ctrl 0x1C 0 0 0 2)
  | .gloc d => some (ctrl 0x1C d 0 0 3)
  | .grole d => some (ctrl 0x1C d 0 0 4)
  | .glv d n => some (ctrl 0x1C d 0 0 (0x1#4 ++ n))
  | .fmtset a => some (ctrl 0x1D 0 a 0 0)
  | .fmtget d => some (ctrl 0x1D d 0 0 1)
  | .gseed a => some (ctrl 0x1D 0 a 0 2)
  | .vgive n => some (ctrl 0x1D 0 n 0 3)
  | .vclaim n => some (ctrl 0x1D 0 n 0 4)
  | .vcount d => some (ctrl 0x1D d 0 0 5)
  | .nbsync k a => some (ctrl 0x1E (0#2 ++ k) a 0 0)
  | .nbarrive k a => some (ctrl 0x1E (0#2 ++ k) a 0 1)
  | .aset d a b => some (ctrl 0x1F d a b 0)
  | .await a b => some (ctrl 0x1F 0 a b 1)
  | .aread d a => some (ctrl 0x1F d a 0 2)
  | .apost a b => some (ctrl 0x1F 0 a b 4)
  | .iqpush d k a => some (ctrl 0x20 (qField d) a 0 (0#3 ++ k))
  | .iqstat d k => some (ctrl 0x20 d 0 0 (1#3 ++ k))
  | .mma e a b z => some (eng 0x28 e a b 0 (0#3 ++ BitVec.ofBool z))
  | .mmaV e b z => some (eng 0x28 e 0 b 1 (0#3 ++ BitVec.ofBool z))
  | .mmv e v w z => some (eng 0x29 e v w 0 (0#3 ++ BitVec.ofBool z))
  | .mfence d => some (eng 0x2A d 0 0 0 0)
  | .mwait a => some (eng 0x2A a 0 0 1 0)
  | .tcopy src dst c dk sk => some (eng 0x2B src dst c (dk.code ++ sk.code) 0)
  | .tcopyT src dst c dk sk => some (eng 0x2B src dst c (dk.code ++ sk.code) 1)
  | .tmcastDeck src t c => some (eng 0x2C src t c 0 0)
  | .tmcastTower src t c => some (eng 0x2C src t c 1 0)
  | .hstreamOut src dst c => some (eng 0x2D src dst c 0 0)
  | .hstreamIn src dst c => some (eng 0x2D src dst c 1 0)
  | .qhist src h c acc => some (eng 0x2E src h c 0 (0#3 ++ BitVec.ofBool acc))
  | .qclip d h p => some (eng 0x2E d h p 1 0)
  | .pacq d n => some (ctrlImm 0x2F d 0 (0#3 ++ 0#5 ++ n))
  | .pacqTry d n => some (ctrlImm 0x2F d 0 (1#3 ++ 0#5 ++ n))
  | .pget d n => some (ctrlImm 0x2F d 0 (2#3 ++ 0#5 ++ n))
  | .pgetTry d n => some (ctrlImm 0x2F d 0 (3#3 ++ 0#5 ++ n))
  | .pcommit t h => some (ctrlImm 0x2F t h (4#3 ++ 0#11))
  | .pfree h => some (ctrlImm 0x2F 0 h (5#3 ++ 0#11))
  | .rput src o m bn => some (eng 0x30 src o m 0 bn)
  | .rputRel src o m bn => some (eng 0x30 src o m 1 bn)
  | .rseq d => some (eng 0x30 d 0 0 2 0)
  | .sysrd d r => some (sysw 0x38 d 0 r.code 0)
  | .syswr r a => some (sysw 0x38 0 a r.code 1)
  | .tret => some (sysw 0x39 0 0 0 0)
  | .tabort => some (sysw 0x39 0 0 0 1)
  | .tlbinvVa a reach => some (sysw 0x3A 0 a reach.code 0)
  | .tlbinvCtx a reach => some (sysw 0x3A 0 a reach.code 1)
  | .tlbinvAll reach => some (sysw 0x3A 0 0 reach.code 2)
  | .sysettle => some (sysw 0x3B 0 0 0 0)
  | .snapreq d a => some (sysw 0x3B d a 0 1)
  | .snapstat d => some (sysw 0x3B d 0 0 2)
  | .brk code => some (sysw 0x3C 0 0 code 0)
  | .vaddI32 h d a b => some (laneAB 1 0 h d a b)
  | .vsubI32 h d a b => some (laneAB 1 1 h d a b)
  | .vaddSatI32 h d a b => some (laneAB 1 2 h d a b)
  | .vsubSatI32 h d a b => some (laneAB 1 3 h d a b)
  | .vaddSatN32 h d a b => some (laneAB 1 4 h d a b)
  | .vsubSatN32 h d a b => some (laneAB 1 5 h d a b)
  | .vmulI32 h d a b => some (laneAB 2 0 h d a b)
  | .vmulhI32 h d a b => some (laneAB 2 1 h d a b)
  | .vmulhN32 h d a b => some (laneAB 2 2 h d a b)
  | .vmadI32 h d a bc => some (laneABC 2 3 h d a bc)
  | .vdivI32 h d a b => some (laneAB 3 0 h d a b)
  | .vdivN32 h d a b => some (laneAB 3 1 h d a b)
  | .vremI32 h d a b => some (laneAB 3 2 h d a b)
  | .vremN32 h d a b => some (laneAB 3 3 h d a b)
  | .vminI32 h d a b => some (laneAB 4 0 h d a b)
  | .vmaxI32 h d a b => some (laneAB 4 1 h d a b)
  | .vminN32 h d a b => some (laneAB 4 2 h d a b)
  | .vmaxN32 h d a b => some (laneAB 4 3 h d a b)
  | .vabsI32 h d a => some (laneR 4 4 h d a 0 0)
  | .vand h d a b => some (laneAB 5 0 h d a b)
  | .vor h d a b => some (laneAB 5 1 h d a b)
  | .vxor h d a b => some (laneAB 5 2 h d a b)
  | .vandn h d a b => some (laneAB 5 3 h d a b)
  | .vshl h d a b => some (laneAB 6 0 h d a b)
  | .vshr h d a b => some (laneAB 6 1 h d a b)
  | .vsra h d a b => some (laneAB 6 2 h d a b)
  | .vbfxN32 h d a b => some (laneAB 7 0 h d a b)
  | .vbfxI32 h d a b => some (laneAB 7 1 h d a b)
  | .vbfi h d a bc => some (laneABC 7 2 h d a bc)
  | .vclz h d a => some (laneR 7 3 h d a 0 0)
  | .vpopc h d a => some (laneR 7 4 h d a 0 0)
  | .vbrev h d a => some (laneR 7 5 h d a 0 0)
  | .vmov h d a => some (laneR 8 0 h d a 0 0)
  | .vmovi h d imm => some (.lane (encLane 8 1 (LaneF.mk h.t h.neg h.pred d 0 0 0 1 imm)))
  | .vlaneid h d => some (laneR 8 2 h d 0 0 0)
  | .vargl h d => some (laneR 8 3 h d 0 0 0)
  | .vargh h d => some (laneR 8 4 h d 0 0 0)
  | .vcmp h c d a b => some (laneAB 0x20 c.code h (pField d) a b)
  | .pand h d a b => some (laneR 0x21 0 h (pField d) (pField a) (pField b) 0)
  | .por h d a b => some (laneR 0x21 1 h (pField d) (pField a) (pField b) 0)
  | .pxor h d a b => some (laneR 0x21 2 h (pField d) (pField a) (pField b) 0)
  | .pandn h d a b => some (laneR 0x21 3 h (pField d) (pField a) (pField b) 0)
  | .pnot h d a => some (laneR 0x21 4 h (pField d) (pField a) 0 0)
  | .vfromp h d a => some (laneR 0x21 5 h d (pField a) 0 0)
  | .vsel h d a b c => some (match b with | .reg r => laneR 0x22 0 h d a r (pField c) | .imm w => .lane (encLane 0x22 0 (LaneF.mk h.t h.neg h.pred d a 0 (pField c) 1 w)))
  | .lif h off => some (.lane (encLane 0x30 0 (LaneF.mk h.t h.neg h.pred 0 0 0 0 0 (0#8 ++ 0#4 ++ off))))
  | .lelse t off => some (.lane (encLane 0x31 0 (LaneF.mk t false 0 0 0 0 0 0 (0#8 ++ 0#4 ++ off))))
  | .lendif t => some (.lane (encLane 0x32 0 (LaneF.mk t false 0 0 0 0 0 0 (0#8 ++ 0#4 ++ 0#20))))
  | .lloop t => some (.lane (encLane 0x33 0 (LaneF.mk t false 0 0 0 0 0 0 (0#8 ++ 0#4 ++ 0#20))))
  | .lloopRefill t iq d => some (.lane (encLane 0x34 0 (LaneF.mk t false 0 d 0 0 0 0 (0#3 ++ iq ++ 0#4 ++ 0#20))))
  | .lbreak h n => some (.lane (encLane 0x35 0 (LaneF.mk h.t h.neg h.pred 0 0 0 0 0 (n ++ 0#4 ++ 0#20))))
  | .lcont h n => some (.lane (encLane 0x36 0 (LaneF.mk h.t h.neg h.pred 0 0 0 0 0 (n ++ 0#4 ++ 0#20))))
  | .lendloop t off => some (.lane (encLane 0x37 0 (LaneF.mk t false 0 0 0 0 0 0 (0#8 ++ 0#4 ++ off))))
  | .lendloopRefill t iq off => some (.lane (encLane 0x37 1 (LaneF.mk t false 0 0 0 0 0 0 (0#3 ++ iq ++ 0#4 ++ off))))
  | .lend => some (.lane (encLane 0x38 0 (LaneF.mk (Sched.mk 0 false 0 0 0) false 0 0 0 0 0 0 0)))
  | .vyield h a => some (.lane (encLane 0x39 0 (LaneF.mk h.t h.neg h.pred 0 a 0 0 0 (0#8 ++ 0#4 ++ 0#20))))
  | .lcallQ h t a => some (.lane (encLane 0x3A 0 (LaneF.mk h.t h.neg h.pred 0 t a 0 0 (0#8 ++ 0#4 ++ 0#20))))
  | .vfence t sc => some (.lane (encLane 0x3B 0 (LaneF.mk t false 0 0 0 0 0 0 (0#5 ++ sc.code ++ 0#4 ++ 0#20))))
  | .vld h d sz bn a off na => some (.lane (encLane 0x40 sz.code (LaneF.mk h.t h.neg h.pred d a 0 0 (laneNa na) (bn ++ 0#3 ++ 0#2 ++ off))))
  | .vldSigned h d sz bn a off na => some (.lane (encLane 0x41 sz.code (LaneF.mk h.t h.neg h.pred d a 0 0 (laneNa na) (bn ++ 0#3 ++ 0#2 ++ off))))
  | .vst h src sz bn a off na => some (.lane (encLane 0x42 sz.code (LaneF.mk h.t h.neg h.pred 0 a src 0 (laneNa na) (bn ++ 0#3 ++ 0#2 ++ off))))
  | .sld h d sz a off => some (.lane (encLane 0x43 sz.code (LaneF.mk h.t h.neg h.pred d a 0 0 0 (0#4 ++ 0#3 ++ 0#2 ++ off))))
  | .sldSigned h d sz a off => some (.lane (encLane 0x44 sz.code (LaneF.mk h.t h.neg h.pred d a 0 0 0 (0#4 ++ 0#3 ++ 0#2 ++ off))))
  | .sst h src sz a off => some (.lane (encLane 0x45 sz.code (LaneF.mk h.t h.neg h.pred 0 a src 0 0 (0#4 ++ 0#3 ++ 0#2 ++ off))))
  | .vgath h d b sz bn a off na => some (.lane (encLane 0x46 sz.code (LaneF.mk h.t h.neg h.pred d a b 0 (laneNa na) (bn ++ 0#3 ++ 0#2 ++ off))))
  | .vscat h src b sz bn a off na => some (.lane (encLane 0x47 sz.code (LaneF.mk h.t h.neg h.pred 0 a b src (laneNa na) (bn ++ 0#3 ++ 0#2 ++ off))))
  | .vatom h op w64 ord sc d bn a off b c => some (.lane (encLane (0x48 + (0#4 ++ op.code)) (if w64 then 3 else 2) (LaneF.mk h.t h.neg h.pred d a b c 0 (bn ++ sc.code ++ ord.code ++ off))))
  | .vldf h sc d p bn a off => some (.lane (encLane 0x58 4 (LaneF.mk h.t h.neg h.pred d a 0 (pField p) 0 (bn ++ sc.code ++ 0#2 ++ off))))
  | .vldfTake h sc d p bn a off => some (.lane (encLane 0x59 4 (LaneF.mk h.t h.neg h.pred d a 0 (pField p) 0 (bn ++ sc.code ++ 0#2 ++ off))))
  | .vstf h sc src p bn a off => some (.lane (encLane 0x5A 4 (LaneF.mk h.t h.neg h.pred 0 a src (pField p) 0 (bn ++ sc.code ++ 0#2 ++ off))))
  | .vmark h d sz bn a off => some (.lane (encLane 0x5B sz.code (LaneF.mk h.t h.neg h.pred d a 0 0 0 (bn ++ 0#3 ++ 0#2 ++ off))))
  | .vcommit h src p sz bn a off => some (.lane (encLane 0x5C sz.code (LaneF.mk h.t h.neg h.pred 0 a src (pField p) 0 (bn ++ 0#3 ++ 0#2 ++ off))))
  | .vfadd h ty d a b => some (laneAB 96 ty.code h d a b)
  | .vfsub h ty d a b => some (laneAB 97 ty.code h d a b)
  | .vfmul h ty d a b => some (laneAB 98 ty.code h d a b)
  | .vffma h ty d a bc => some (laneABC 0x63 ty.code h d a bc)
  | .vfmin h ty d a b => some (laneAB 100 ty.code h d a b)
  | .vfmax h ty d a b => some (laneAB 101 ty.code h d a b)
  | .vfabs h ty d a => some (laneR 0x66 ty.code h d a 0 0)
  | .vfneg h ty d a => some (laneR 0x67 ty.code h d a 0 0)
  | .vfcmp h ty c d a b => some (laneAB (0x68 + (0#4 ++ ty.code)) c.code h (pField d) a b)
  | .vfdot2 h bf d a bc => some (laneABC 0x6C (if bf then 2 else 1) h d a bc)
  | .vrcp h d a => some (laneR 128 0 h d a 0 0)
  | .vrsqrt h d a => some (laneR 129 0 h d a 0 0)
  | .vsqrt h d a => some (laneR 130 0 h d a 0 0)
  | .vfdiv h d a b => some (laneAB 0x83 0 h d a b)
  | .vexp2 h d a => some (laneR 132 0 h d a 0 0)
  | .vlog2 h d a => some (laneR 133 0 h d a 0 0)
  | .vsinpi h d a => some (laneR 134 0 h d a 0 0)
  | .vcospi h d a => some (laneR 135 0 h d a 0 0)
  | .vtanh h d a => some (laneR 136 0 h d a 0 0)
  | .vcvt h st dt rm ss d a => some (.lane (encLane 0x90 0 (LaneF.mk h.t h.neg h.pred d a 0 0 0 (st.code ++ dt.code ++ rm.code ++ ss.code ++ 0#17))))
  | .vcvtPk h bf rm ss d a b => some (.lane (encLane 0x91 0 (LaneF.mk h.t h.neg h.pred d a b 0 0 (VType.f32.code ++ (if bf then VType.bf16x2 else VType.f16x2).code ++ rm.code ++ ss.code ++ 0#17))))
  | .vcvtPk4 h e5 rm ss d a => some (.lane (encLane 0x92 0 (LaneF.mk h.t h.neg h.pred d a 0 0 0 (VType.f32.code ++ (if e5 then VType.e5m2 else VType.e4m3).code ++ rm.code ++ ss.code ++ 0#17))))
  | .vcvtUnpk4 h e5 d a => some (.lane (encLane 0x93 0 (LaneF.mk h.t h.neg h.pred d a 0 0 0 ((if e5 then VType.e5m2 else VType.e4m3).code ++ VType.f32.code ++ 0#3 ++ 0#2 ++ 0#17))))
  | .vcvtUnpk h bf d a => some (.lane (encLane 0x94 0 (LaneF.mk h.t h.neg h.pred d a 0 0 0 ((if bf then VType.bf16x2 else VType.f16x2).code ++ VType.f32.code ++ 0#3 ++ 0#2 ++ 0#17))))
  | .vqnt h st q4 rm d a g => some (.lane (encLane 0x98 0 (LaneF.mk h.t h.neg h.pred d a g 0 0 (st.code ++ (if q4 then VType.q4 else VType.q8).code ++ rm.code ++ 0#2 ++ 0#17))))
  | .vdeq h q4 d a g => some (.lane (encLane 0x99 0 (LaneF.mk h.t h.neg h.pred d a g 0 0 ((if q4 then VType.q4 else VType.q8).code ++ VType.f32.code ++ 0#3 ++ 0#2 ++ 0#17))))
  | .vshfl h m d a b => some (laneAB 0xA0 m.code h d a b)
  | .vvoteAny h d a => some (laneR 0xA1 0 h (pField d) (pField a) 0 0)
  | .vvoteAll h d a => some (laneR 0xA1 1 h (pField d) (pField a) 0 0)
  | .vvoteUni h d a => some (laneR 0xA1 2 h (pField d) (pField a) 0 0)
  | .vballot h d a => some (laneR 0xA1 3 h d (pField a) 0 0)
  | .vred h op d a p => some (laneR 0xA2 op.code h d a 0 (pField p))
  | .vscan h op d a => some (laneR 0xA3 op.code h d a 0 0)
  | .amov h w d n => some (.lane (encLane 0xB0 w.code (LaneF.mk h.t h.neg h.pred d 0 0 0 1 (0#23 ++ n))))
  | .amovw h w src n => some (.lane (encLane 0xB1 w.code (LaneF.mk h.t h.neg h.pred 0 src 0 0 1 (0#23 ++ n))))
  | .azero h n => some (.lane (encLane 0xB1 3 (LaneF.mk h.t h.neg h.pred 0 0 0 0 1 (0#23 ++ n))))
  | .lbrk h code => some (.lane (encLane 0xB8 0 (LaneF.mk h.t h.neg h.pred 0 0 0 0 0 (code ++ 0#4 ++ 0#20))))
  | .trapEntry _ => none
  | .claimGrant _ _ => none
  | .drainGroupStart _ _ => none
  | .teamPlace _ _ _ => none
  | .teamRetire _ => none
  | .engineLanding _ _ _ => none
  | .qhistDone _ _ => none
  | .hstreamLine _ _ => none
  | .batchComplete _ => none
  | .groupword _ => none
  | .settle _ => none
  | .settleAck _ _ => none
  | .backgroundSettle _ => none
  | .homeTimeout _ _ => none
  | .reinSlot _ _ => none
  | .refill _ => none
  | .refillEnd _ => none
  | .stackWriteback _ _ _ => none
  | .prefetch _ _ _ => none
  | .translateWalk _ _ _ => none
  | .pagefault _ => none
  | .fresumeRetry _ _ => none
  | .fresumeFail _ _ => none
  | .preemptReq _ => none
  | .preemptRestore _ => none
  | .drainBound _ => none
  | .save _ => none
  | .restore _ _ => none
  | .stateError _ => none
  | .softError _ _ => none
  | .scrub _ => none
  | .snapCopyOnWrite _ _ => none
  | .snapEnd _ => none
  | .lqcfgWrite _ _ => none
  | .lqtailWrite _ _ => none
  | .depPoll _ => none
  | .launchTake _ => none
  | .hitchActivate _ => none
  | .launchComplete _ => none
  | .rangeIssue _ _ _ => none
  | .stealRequest _ _ => none
  | .landing _ _ _ => none
  | .lendAck _ _ _ => none
  | .transfer _ _ _ => none
  | .confirmation _ _ _ => none
  | .lendRefusal _ _ _ => none
  | .lendReclaim _ _ _ => none
  | .landedTimeout _ _ _ => none
  | .teamsterTick _ => none
  | .moveEnd _ => none
  | .deadlockTick _ => none
  | .donewWrite _ => none
  | .fenceDeck _ => none
  | .fqcfgWrite _ _ => none
  | .fqheadWrite _ _ => none
  | .registerWrite _ _ => none
  | .powerUp => none
  | .attest => none
  | .merge => none
  | .split => none
  | .reset => none
  | .pkgreset => none
  | .sleep => none
  | .wake => none
  | .erase => none
  | .tamperpolWrite _ => none
  | .pwrcapWrite _ => none
  | .tamperAlarm _ => none
  | .powerControl _ _ => none
  | .thermalHalt => none
  | .perstDeassert => none
  | .linkUp _ _ _ _ => none
  | .hostLinkReset => none
  | .portcfgWrite _ _ => none
  | .portUp _ _ => none
  | .portFail _ => none
  | .hostMemRead _ => none
  | .hostMemWrite _ _ => none
  | .biconflict _ => none
  | .hostSnoop _ _ => none
  | .flip _ _ => none
  | .flipComplete _ => none
  | .msixSend _ => none
  | .tile _ _ => none
  | .commit _ _ => none
  | .credit _ _ => none
  | .close _ _ => none
  | .pause _ _ => none
  | .resume _ _ => none
  | .abort _ _ => none
  | .mergeHoldExpiry _ _ => none
  | .formatComplete => none
  | .errorCompletion _ => none
  | .droppedMessage _ _ => none

/-- The bytes of a number, lowest byte first (00 R1). -/
def codeBytes : Nat → Nat → List Byte
  | 0, _ => []
  | n + 1, w => BitVec.ofNat 8 w :: codeBytes n (w / 256)

/-- The bytes of an instruction as memory holds them, the first word lowest (R1). -/
def Code.bytes : Code → List Byte
  | .ctrl w => codeBytes 4 w.toNat
  | .pair w x => codeBytes 4 w.toNat ++ codeBytes 4 x.toNat
  | .lane w => codeBytes 12 w.toNat

/-- The bits that the opcode table's numbering gives: up to 64 bits a control word and its extension word, above that a
lane word. -/
def tableCode (nbits w : Nat) : Code :=
  if nbits ≤ 64 then .pair (BitVec.ofNat 32 w) (BitVec.ofNat 32 (w >>> 32)) else .lane (BitVec.ofNat 96 w)

/-- The instruction that the decoder reads from a word numbered as the opcode table numbers it. -/
def decodeTableWord (nbits w : Nat) : Option Instr := (decode (tableCode nbits w)).toOption

end Sys2Proof
end

