-- ==== Sys2Proof/WellFormed.lean ====
section
/-! DEFINITION. Which instructions have an encoding with every field at an allowed value: the forbidden values of
07 R157 to R161 and of chapters 08 to 10. -/

namespace Sys2Proof

/-- A guard of PRED = 0 with NEG = 1 is forbidden (R159). -/
def Hdr.wf (h : Hdr) : Bool := !(h.neg && h.pred == 0#3)

/-- A branch of q = 0 with NEG = 1 is forbidden (R157). -/
def branchOk (q : QReg) (neg : Bool) : Bool := !(q == 0#3 && neg)

/-- An immediate bit field lies within 64 bits (R184). -/
def fieldOk (n lo : BitVec 6) : Bool := lo.toNat + n.toNat + 1 ≤ 64

/-- A compare register belongs to cas alone, and a plain atomic has SCOPE 0 (R191, R220). -/
def atomOk (op : AtomOp) (c0 : Bool) (ord : Ord) (sc : Scope) : Bool :=
  (op == .cas || c0) && (ord != .plain || sc == .grp)

/-- The extension word of a control atomic is allowed (R191). -/
def AtomExt.wf (x : AtomExt) : Bool := atomOk x.op (x.c == 0) x.ord x.sc

/-- The scopes of the future forms (R222). -/
def futureScope : Scope → Bool
  | .deck | .tower | .dev => true
  | .grp | .team | .core | .sys | .rein => false

/-- Every field of the instruction holds an allowed value. An event has no encoding and every operand of it is allowed. -/
def Instr.wf (i : Instr) : Bool :=
  match i with
  | .gadd _ _ _ => true
  | .gsub _ _ _ => true
  | .gand _ _ _ => true
  | .gor _ _ _ => true
  | .gxor _ _ _ => true
  | .gandn _ _ _ => true
  | .gshl _ _ _ => true
  | .gshr _ _ _ => true
  | .gsra _ _ _ => true
  | .gminI64 _ _ _ => true
  | .gmaxI64 _ _ _ => true
  | .gminN64 _ _ _ => true
  | .gmaxN64 _ _ _ => true
  | .gaddsh _ _ _ _ => true
  | .gbfx _ _ _ => true
  | .gbfxI64 _ _ _ => true
  | .gclz _ _ => true
  | .gpopc _ _ => true
  | .gcmpEq _ _ _ => true
  | .gcmpNe _ _ _ => true
  | .gcmpLtI64 _ _ _ => true
  | .gcmpLeI64 _ _ _ => true
  | .gcmpLtN64 _ _ _ => true
  | .gcmpLeN64 _ _ _ => true
  | .qand _ _ _ => true
  | .qor _ _ _ => true
  | .qxor _ _ _ => true
  | .qandn _ _ _ => true
  | .qnot _ _ => true
  | .gsetq _ _ => true
  | .gmul _ _ _ => true
  | .gmulhI64 _ _ _ => true
  | .gmulhN64 _ _ _ => true
  | .gdivI64 _ _ _ => true
  | .gdivN64 _ _ _ => true
  | .gremI64 _ _ _ => true
  | .gremN64 _ _ _ => true
  | .gaddi _ _ _ => true
  | .gandi _ _ _ => true
  | .gori _ _ _ => true
  | .gxori _ _ _ => true
  | .gshli _ _ _ => true
  | .gshri _ _ _ => true
  | .gsrai _ _ _ => true
  | .gbfxi _ _ n lo => fieldOk n lo
  | .gbfxiI64 _ _ n lo => fieldOk n lo
  | .gcmpiEq _ _ _ => true
  | .gcmpiLtI64 _ _ _ => true
  | .gcmpiLtN64 _ _ _ => true
  | .gupi _ _ _ => true
  | .br q neg _ => branchOk q neg
  | .call q neg _ => branchOk q neg
  | .bloop q neg _ => branchOk q neg
  | .jmp _ => true
  | .callr _ => true
  | .ret => true
  | .gld64 _ _ _ _ => true
  | .gst64 _ _ _ _ => true
  | .gatom _ _ _ _ x => x.wf
  | .acq _ _ _ _ _ => true
  | .rel _ _ _ _ _ => true
  | .fence _ => true
  | .bufld _ _ _ => true
  | .bufset _ _ _ => true
  | .bufinv _ => true
  | .lrun _ _ => true
  | .lrunNr _ _ => true
  | .lres _ => true
  | .lwait => true
  | .gend => true
  | .gloc _ => true
  | .grole _ => true
  | .glv _ n => n.toNat ≤ 12
  | .fmtset _ => true
  | .fmtget _ => true
  | .gseed _ => true
  | .vgive _ => true
  | .vclaim _ => true
  | .vcount _ => true
  | .nbsync _ _ => true
  | .nbarrive _ _ => true
  | .aset _ _ _ => true
  | .await _ _ => true
  | .aread _ _ => true
  | .apost _ _ => true
  | .iqpush _ _ _ => true
  | .iqstat _ _ => true
  | .mma _ _ _ _ => true
  | .mmaV _ _ _ => true
  | .mmv _ _ _ _ => true
  | .mfence _ => true
  | .mwait _ => true
  | .tcopy _ _ _ _ _ => true
  | .tcopyT _ _ _ _ _ => true
  | .tmcastDeck _ _ _ => true
  | .tmcastTower _ _ _ => true
  | .hstreamOut _ _ _ => true
  | .hstreamIn _ _ _ => true
  | .qhist _ _ _ _ => true
  | .qclip _ _ _ => true
  | .pacq _ _ => true
  | .pacqTry _ _ => true
  | .pget _ _ => true
  | .pgetTry _ _ => true
  | .pcommit _ _ => true
  | .pfree _ => true
  | .rput _ _ _ _ => true
  | .rputRel _ _ _ _ => true
  | .rseq _ => true
  | .sysrd _ _ => true
  | .syswr _ _ => true
  | .tret => true
  | .tabort => true
  | .tlbinvVa _ _ => true
  | .tlbinvCtx _ _ => true
  | .tlbinvAll _ => true
  | .sysettle => true
  | .snapreq _ _ => true
  | .snapstat _ => true
  | .brk _ => true
  | .vaddI32 h _ _ _ => h.wf
  | .vsubI32 h _ _ _ => h.wf
  | .vaddSatI32 h _ _ _ => h.wf
  | .vsubSatI32 h _ _ _ => h.wf
  | .vaddSatN32 h _ _ _ => h.wf
  | .vsubSatN32 h _ _ _ => h.wf
  | .vmulI32 h _ _ _ => h.wf
  | .vmulhI32 h _ _ _ => h.wf
  | .vmulhN32 h _ _ _ => h.wf
  | .vmadI32 h _ _ _ => h.wf
  | .vdivI32 h _ _ _ => h.wf
  | .vdivN32 h _ _ _ => h.wf
  | .vremI32 h _ _ _ => h.wf
  | .vremN32 h _ _ _ => h.wf
  | .vminI32 h _ _ _ => h.wf
  | .vmaxI32 h _ _ _ => h.wf
  | .vminN32 h _ _ _ => h.wf
  | .vmaxN32 h _ _ _ => h.wf
  | .vabsI32 h _ _ => h.wf
  | .vand h _ _ _ => h.wf
  | .vor h _ _ _ => h.wf
  | .vxor h _ _ _ => h.wf
  | .vandn h _ _ _ => h.wf
  | .vshl h _ _ _ => h.wf
  | .vshr h _ _ _ => h.wf
  | .vsra h _ _ _ => h.wf
  | .vbfxN32 h _ _ _ => h.wf
  | .vbfxI32 h _ _ _ => h.wf
  | .vbfi h _ _ _ => h.wf
  | .vclz h _ _ => h.wf
  | .vpopc h _ _ => h.wf
  | .vbrev h _ _ => h.wf
  | .vmov h _ _ => h.wf
  | .vmovi h _ _ => h.wf
  | .vlaneid h _ => h.wf
  | .vargl h _ => h.wf
  | .vargh h _ => h.wf
  | .vcmp h _ _ _ _ => h.wf
  | .pand h _ _ _ => h.wf
  | .por h _ _ _ => h.wf
  | .pxor h _ _ _ => h.wf
  | .pandn h _ _ _ => h.wf
  | .pnot h _ _ => h.wf
  | .vfromp h _ _ => h.wf
  | .vsel h _ _ _ _ => h.wf
  | .lif h off => h.wf && off != 0
  | .lelse _ off => off != 0
  | .lendif _ => true
  | .lloop _ => true
  | .lloopRefill _ _ _ => true
  | .lbreak h n => h.wf && n != 255
  | .lcont h n => h.wf && n != 255
  | .lendloop _ off => off != 0
  | .lendloopRefill _ _ off => off != 0
  | .lend => true
  | .vyield h _ => h.wf
  | .lcallQ h _ _ => h.wf
  | .vfence _ _ => true
  | .vld h _ _ _ _ _ _ => h.wf
  | .vldSigned h _ sz _ _ _ _ => h.wf && sz.signed
  | .vst h _ _ _ _ _ _ => h.wf
  | .sld h _ _ _ _ => h.wf
  | .sldSigned h _ sz _ _ => h.wf && sz.signed
  | .sst h _ _ _ _ => h.wf
  | .vgath h _ _ _ _ _ _ _ => h.wf
  | .vscat h _ _ _ _ _ _ _ => h.wf
  | .vatom h op _ ord sc _ _ _ _ _ c => h.wf && atomOk op (c == 0) ord sc
  | .vldf h sc _ _ _ _ _ => h.wf && futureScope sc
  | .vldfTake h sc _ _ _ _ _ => h.wf && futureScope sc
  | .vstf h sc _ _ _ _ _ => h.wf && futureScope sc
  | .vmark h _ _ _ _ _ => h.wf
  | .vcommit h _ _ _ _ _ _ => h.wf
  | .vfadd h _ _ _ _ => h.wf
  | .vfsub h _ _ _ _ => h.wf
  | .vfmul h _ _ _ _ => h.wf
  | .vffma h _ _ _ _ => h.wf
  | .vfmin h _ _ _ _ => h.wf
  | .vfmax h _ _ _ _ => h.wf
  | .vfabs h _ _ _ => h.wf
  | .vfneg h _ _ _ => h.wf
  | .vfcmp h _ _ _ _ _ => h.wf
  | .vfdot2 h _ _ _ _ => h.wf
  | .vrcp h _ _ => h.wf
  | .vrsqrt h _ _ => h.wf
  | .vsqrt h _ _ => h.wf
  | .vfdiv h _ _ _ => h.wf
  | .vexp2 h _ _ => h.wf
  | .vlog2 h _ _ => h.wf
  | .vsinpi h _ _ => h.wf
  | .vcospi h _ _ => h.wf
  | .vtanh h _ _ => h.wf
  | .vcvt h st dt _ _ _ _ => h.wf && st.scalar && dt.scalar && st != dt
  | .vcvtPk h _ _ _ _ _ _ => h.wf
  | .vcvtPk4 h _ _ _ _ _ => h.wf
  | .vcvtUnpk4 h _ _ _ => h.wf
  | .vcvtUnpk h _ _ _ => h.wf
  | .vqnt h st _ _ _ _ _ => h.wf && st.quantSrc
  | .vdeq h _ _ _ _ => h.wf
  | .vshfl h _ _ _ _ => h.wf
  | .vvoteAny h _ _ => h.wf
  | .vvoteAll h _ _ => h.wf
  | .vvoteUni h _ _ => h.wf
  | .vballot h _ _ => h.wf
  | .vred h _ _ _ _ => h.wf
  | .vscan h _ _ _ => h.wf
  | .amov h _ _ _ => h.wf
  | .amovw h _ _ _ => h.wf
  | .azero h _ => h.wf
  | .lbrk h _ => h.wf
  | .trapEntry _ => true
  | .claimGrant _ _ => true
  | .drainGroupStart _ _ => true
  | .teamPlace _ _ _ => true
  | .teamRetire _ => true
  | .engineLanding _ _ _ => true
  | .qhistDone _ _ => true
  | .hstreamLine _ _ => true
  | .batchComplete _ => true
  | .groupword _ => true
  | .settle _ => true
  | .settleAck _ _ => true
  | .backgroundSettle _ => true
  | .homeTimeout _ _ => true
  | .reinSlot _ _ => true
  | .refill _ => true
  | .refillEnd _ => true
  | .stackWriteback _ _ _ => true
  | .prefetch _ _ _ => true
  | .translateWalk _ _ _ => true
  | .pagefault _ => true
  | .fresumeRetry _ _ => true
  | .fresumeFail _ _ => true
  | .preemptReq _ => true
  | .preemptRestore _ => true
  | .drainBound _ => true
  | .save _ => true
  | .restore _ _ => true
  | .stateError _ => true
  | .softError _ _ => true
  | .scrub _ => true
  | .snapCopyOnWrite _ _ => true
  | .snapEnd _ => true
  | .lqcfgWrite _ _ => true
  | .lqtailWrite _ _ => true
  | .depPoll _ => true
  | .launchTake _ => true
  | .hitchActivate _ => true
  | .launchComplete _ => true
  | .rangeIssue _ _ _ => true
  | .stealRequest _ _ => true
  | .landing _ _ _ => true
  | .lendAck _ _ _ => true
  | .transfer _ _ _ => true
  | .confirmation _ _ _ => true
  | .lendRefusal _ _ _ => true
  | .lendReclaim _ _ _ => true
  | .landedTimeout _ _ _ => true
  | .teamsterTick _ => true
  | .moveEnd _ => true
  | .deadlockTick _ => true
  | .donewWrite _ => true
  | .fenceDeck _ => true
  | .fqcfgWrite _ _ => true
  | .fqheadWrite _ _ => true
  | .registerWrite _ _ => true
  | .powerUp => true
  | .attest => true
  | .merge => true
  | .split => true
  | .reset => true
  | .pkgreset => true
  | .sleep => true
  | .wake => true
  | .erase => true
  | .tamperpolWrite _ => true
  | .pwrcapWrite _ => true
  | .tamperAlarm _ => true
  | .powerControl _ _ => true
  | .thermalHalt => true
  | .perstDeassert => true
  | .linkUp _ _ _ _ => true
  | .hostLinkReset => true
  | .portcfgWrite _ _ => true
  | .portUp _ _ => true
  | .portFail _ => true
  | .hostMemRead _ => true
  | .hostMemWrite _ _ => true
  | .biconflict _ => true
  | .hostSnoop _ _ => true
  | .flip _ _ => true
  | .flipComplete _ => true
  | .msixSend _ => true
  | .tile _ m => m.bytes.length == 224
  | .commit _ m => m.bytes.length == 224
  | .credit _ m => m.bytes.length == 224
  | .close _ m => m.bytes.length == 224
  | .pause _ m => m.bytes.length == 224
  | .resume _ m => m.bytes.length == 224
  | .abort _ m => m.bytes.length == 224
  | .mergeHoldExpiry _ _ => true
  | .formatComplete => true
  | .errorCompletion _ => true
  | .droppedMessage _ m => m.bytes.length == 224

/-- The rows of the opcode table that have no encoding: events of the device. -/
def Instr.isEvent (i : Instr) : Bool :=
  match i with
  | .gadd _ _ _ => false
  | .gsub _ _ _ => false
  | .gand _ _ _ => false
  | .gor _ _ _ => false
  | .gxor _ _ _ => false
  | .gandn _ _ _ => false
  | .gshl _ _ _ => false
  | .gshr _ _ _ => false
  | .gsra _ _ _ => false
  | .gminI64 _ _ _ => false
  | .gmaxI64 _ _ _ => false
  | .gminN64 _ _ _ => false
  | .gmaxN64 _ _ _ => false
  | .gaddsh _ _ _ _ => false
  | .gbfx _ _ _ => false
  | .gbfxI64 _ _ _ => false
  | .gclz _ _ => false
  | .gpopc _ _ => false
  | .gcmpEq _ _ _ => false
  | .gcmpNe _ _ _ => false
  | .gcmpLtI64 _ _ _ => false
  | .gcmpLeI64 _ _ _ => false
  | .gcmpLtN64 _ _ _ => false
  | .gcmpLeN64 _ _ _ => false
  | .qand _ _ _ => false
  | .qor _ _ _ => false
  | .qxor _ _ _ => false
  | .qandn _ _ _ => false
  | .qnot _ _ => false
  | .gsetq _ _ => false
  | .gmul _ _ _ => false
  | .gmulhI64 _ _ _ => false
  | .gmulhN64 _ _ _ => false
  | .gdivI64 _ _ _ => false
  | .gdivN64 _ _ _ => false
  | .gremI64 _ _ _ => false
  | .gremN64 _ _ _ => false
  | .gaddi _ _ _ => false
  | .gandi _ _ _ => false
  | .gori _ _ _ => false
  | .gxori _ _ _ => false
  | .gshli _ _ _ => false
  | .gshri _ _ _ => false
  | .gsrai _ _ _ => false
  | .gbfxi _ _ _ _ => false
  | .gbfxiI64 _ _ _ _ => false
  | .gcmpiEq _ _ _ => false
  | .gcmpiLtI64 _ _ _ => false
  | .gcmpiLtN64 _ _ _ => false
  | .gupi _ _ _ => false
  | .br _ _ _ => false
  | .call _ _ _ => false
  | .bloop _ _ _ => false
  | .jmp _ => false
  | .callr _ => false
  | .ret => false
  | .gld64 _ _ _ _ => false
  | .gst64 _ _ _ _ => false
  | .gatom _ _ _ _ _ => false
  | .acq _ _ _ _ _ => false
  | .rel _ _ _ _ _ => false
  | .fence _ => false
  | .bufld _ _ _ => false
  | .bufset _ _ _ => false
  | .bufinv _ => false
  | .lrun _ _ => false
  | .lrunNr _ _ => false
  | .lres _ => false
  | .lwait => false
  | .gend => false
  | .gloc _ => false
  | .grole _ => false
  | .glv _ _ => false
  | .fmtset _ => false
  | .fmtget _ => false
  | .gseed _ => false
  | .vgive _ => false
  | .vclaim _ => false
  | .vcount _ => false
  | .nbsync _ _ => false
  | .nbarrive _ _ => false
  | .aset _ _ _ => false
  | .await _ _ => false
  | .aread _ _ => false
  | .apost _ _ => false
  | .iqpush _ _ _ => false
  | .iqstat _ _ => false
  | .mma _ _ _ _ => false
  | .mmaV _ _ _ => false
  | .mmv _ _ _ _ => false
  | .mfence _ => false
  | .mwait _ => false
  | .tcopy _ _ _ _ _ => false
  | .tcopyT _ _ _ _ _ => false
  | .tmcastDeck _ _ _ => false
  | .tmcastTower _ _ _ => false
  | .hstreamOut _ _ _ => false
  | .hstreamIn _ _ _ => false
  | .qhist _ _ _ _ => false
  | .qclip _ _ _ => false
  | .pacq _ _ => false
  | .pacqTry _ _ => false
  | .pget _ _ => false
  | .pgetTry _ _ => false
  | .pcommit _ _ => false
  | .pfree _ => false
  | .rput _ _ _ _ => false
  | .rputRel _ _ _ _ => false
  | .rseq _ => false
  | .sysrd _ _ => false
  | .syswr _ _ => false
  | .tret => false
  | .tabort => false
  | .tlbinvVa _ _ => false
  | .tlbinvCtx _ _ => false
  | .tlbinvAll _ => false
  | .sysettle => false
  | .snapreq _ _ => false
  | .snapstat _ => false
  | .brk _ => false
  | .vaddI32 _ _ _ _ => false
  | .vsubI32 _ _ _ _ => false
  | .vaddSatI32 _ _ _ _ => false
  | .vsubSatI32 _ _ _ _ => false
  | .vaddSatN32 _ _ _ _ => false
  | .vsubSatN32 _ _ _ _ => false
  | .vmulI32 _ _ _ _ => false
  | .vmulhI32 _ _ _ _ => false
  | .vmulhN32 _ _ _ _ => false
  | .vmadI32 _ _ _ _ => false
  | .vdivI32 _ _ _ _ => false
  | .vdivN32 _ _ _ _ => false
  | .vremI32 _ _ _ _ => false
  | .vremN32 _ _ _ _ => false
  | .vminI32 _ _ _ _ => false
  | .vmaxI32 _ _ _ _ => false
  | .vminN32 _ _ _ _ => false
  | .vmaxN32 _ _ _ _ => false
  | .vabsI32 _ _ _ => false
  | .vand _ _ _ _ => false
  | .vor _ _ _ _ => false
  | .vxor _ _ _ _ => false
  | .vandn _ _ _ _ => false
  | .vshl _ _ _ _ => false
  | .vshr _ _ _ _ => false
  | .vsra _ _ _ _ => false
  | .vbfxN32 _ _ _ _ => false
  | .vbfxI32 _ _ _ _ => false
  | .vbfi _ _ _ _ => false
  | .vclz _ _ _ => false
  | .vpopc _ _ _ => false
  | .vbrev _ _ _ => false
  | .vmov _ _ _ => false
  | .vmovi _ _ _ => false
  | .vlaneid _ _ => false
  | .vargl _ _ => false
  | .vargh _ _ => false
  | .vcmp _ _ _ _ _ => false
  | .pand _ _ _ _ => false
  | .por _ _ _ _ => false
  | .pxor _ _ _ _ => false
  | .pandn _ _ _ _ => false
  | .pnot _ _ _ => false
  | .vfromp _ _ _ => false
  | .vsel _ _ _ _ _ => false
  | .lif _ _ => false
  | .lelse _ _ => false
  | .lendif _ => false
  | .lloop _ => false
  | .lloopRefill _ _ _ => false
  | .lbreak _ _ => false
  | .lcont _ _ => false
  | .lendloop _ _ => false
  | .lendloopRefill _ _ _ => false
  | .lend => false
  | .vyield _ _ => false
  | .lcallQ _ _ _ => false
  | .vfence _ _ => false
  | .vld _ _ _ _ _ _ _ => false
  | .vldSigned _ _ _ _ _ _ _ => false
  | .vst _ _ _ _ _ _ _ => false
  | .sld _ _ _ _ _ => false
  | .sldSigned _ _ _ _ _ => false
  | .sst _ _ _ _ _ => false
  | .vgath _ _ _ _ _ _ _ _ => false
  | .vscat _ _ _ _ _ _ _ _ => false
  | .vatom _ _ _ _ _ _ _ _ _ _ _ => false
  | .vldf _ _ _ _ _ _ _ => false
  | .vldfTake _ _ _ _ _ _ _ => false
  | .vstf _ _ _ _ _ _ _ => false
  | .vmark _ _ _ _ _ _ => false
  | .vcommit _ _ _ _ _ _ _ => false
  | .vfadd _ _ _ _ _ => false
  | .vfsub _ _ _ _ _ => false
  | .vfmul _ _ _ _ _ => false
  | .vffma _ _ _ _ _ => false
  | .vfmin _ _ _ _ _ => false
  | .vfmax _ _ _ _ _ => false
  | .vfabs _ _ _ _ => false
  | .vfneg _ _ _ _ => false
  | .vfcmp _ _ _ _ _ _ => false
  | .vfdot2 _ _ _ _ _ => false
  | .vrcp _ _ _ => false
  | .vrsqrt _ _ _ => false
  | .vsqrt _ _ _ => false
  | .vfdiv _ _ _ _ => false
  | .vexp2 _ _ _ => false
  | .vlog2 _ _ _ => false
  | .vsinpi _ _ _ => false
  | .vcospi _ _ _ => false
  | .vtanh _ _ _ => false
  | .vcvt _ _ _ _ _ _ _ => false
  | .vcvtPk _ _ _ _ _ _ _ => false
  | .vcvtPk4 _ _ _ _ _ _ => false
  | .vcvtUnpk4 _ _ _ _ => false
  | .vcvtUnpk _ _ _ _ => false
  | .vqnt _ _ _ _ _ _ _ => false
  | .vdeq _ _ _ _ _ => false
  | .vshfl _ _ _ _ _ => false
  | .vvoteAny _ _ _ => false
  | .vvoteAll _ _ _ => false
  | .vvoteUni _ _ _ => false
  | .vballot _ _ _ => false
  | .vred _ _ _ _ _ => false
  | .vscan _ _ _ _ => false
  | .amov _ _ _ _ => false
  | .amovw _ _ _ _ => false
  | .azero _ _ => false
  | .lbrk _ _ => false
  | .trapEntry _ => true
  | .claimGrant _ _ => true
  | .drainGroupStart _ _ => true
  | .teamPlace _ _ _ => true
  | .teamRetire _ => true
  | .engineLanding _ _ _ => true
  | .qhistDone _ _ => true
  | .hstreamLine _ _ => true
  | .batchComplete _ => true
  | .groupword _ => true
  | .settle _ => true
  | .settleAck _ _ => true
  | .backgroundSettle _ => true
  | .homeTimeout _ _ => true
  | .reinSlot _ _ => true
  | .refill _ => true
  | .refillEnd _ => true
  | .stackWriteback _ _ _ => true
  | .prefetch _ _ _ => true
  | .translateWalk _ _ _ => true
  | .pagefault _ => true
  | .fresumeRetry _ _ => true
  | .fresumeFail _ _ => true
  | .preemptReq _ => true
  | .preemptRestore _ => true
  | .drainBound _ => true
  | .save _ => true
  | .restore _ _ => true
  | .stateError _ => true
  | .softError _ _ => true
  | .scrub _ => true
  | .snapCopyOnWrite _ _ => true
  | .snapEnd _ => true
  | .lqcfgWrite _ _ => true
  | .lqtailWrite _ _ => true
  | .depPoll _ => true
  | .launchTake _ => true
  | .hitchActivate _ => true
  | .launchComplete _ => true
  | .rangeIssue _ _ _ => true
  | .stealRequest _ _ => true
  | .landing _ _ _ => true
  | .lendAck _ _ _ => true
  | .transfer _ _ _ => true
  | .confirmation _ _ _ => true
  | .lendRefusal _ _ _ => true
  | .lendReclaim _ _ _ => true
  | .landedTimeout _ _ _ => true
  | .teamsterTick _ => true
  | .moveEnd _ => true
  | .deadlockTick _ => true
  | .donewWrite _ => true
  | .fenceDeck _ => true
  | .fqcfgWrite _ _ => true
  | .fqheadWrite _ _ => true
  | .registerWrite _ _ => true
  | .powerUp => true
  | .attest => true
  | .merge => true
  | .split => true
  | .reset => true
  | .pkgreset => true
  | .sleep => true
  | .wake => true
  | .erase => true
  | .tamperpolWrite _ => true
  | .pwrcapWrite _ => true
  | .tamperAlarm _ => true
  | .powerControl _ _ => true
  | .thermalHalt => true
  | .perstDeassert => true
  | .linkUp _ _ _ _ => true
  | .hostLinkReset => true
  | .portcfgWrite _ _ => true
  | .portUp _ _ => true
  | .portFail _ => true
  | .hostMemRead _ => true
  | .hostMemWrite _ _ => true
  | .biconflict _ => true
  | .hostSnoop _ _ => true
  | .flip _ _ => true
  | .flipComplete _ => true
  | .msixSend _ => true
  | .tile _ _ => true
  | .commit _ _ => true
  | .credit _ _ => true
  | .close _ _ => true
  | .pause _ _ => true
  | .resume _ _ => true
  | .abort _ _ => true
  | .mergeHoldExpiry _ _ => true
  | .formatComplete => true
  | .errorCompletion _ => true
  | .droppedMessage _ _ => true

end Sys2Proof
end

