-- ==== Sys2Proof/Machine/Ops.lean ====
section
/-! DEFINITION. Taking an exception and returning from one, as one shared operation each (15 R312 to R316); how a meaning
of a control word or a lane word becomes an outcome; the operands of the lane stream (07 R159, 09 R204). -/

namespace Sys2Proof.Machine

open Sys2Proof

/-! ## Taking an exception -/

/-- TRAPCAUSE (R312). -/
def causeWord (t : Trap) : GWord :=
  BitVec.ofNat 64 (t.code + (match t.lane with
    | some l => l * 2 ^ 8 + 2 ^ 13
    | none => 0) + t.info * 2 ^ 32)

/-- The address of the handler of a code (R314): HANDLERBASE.BASE·16384 + 64·code. -/
def handlerPc (base : GWord) (code : Nat) : GWord := BitVec.ofNat 64 (bits base.toNat 14 38 * 2 ^ 14 + 64 * code)

/-- What a group becomes when it enters the handler of a trap (R314). -/
def Group.enter (x : Group) (base : GWord) (lane : Bool) (t : Trap) : Group :=
  { x with
    cause := causeWord t, trapva := t.va, trappc := x.pc,
    traplpc := BitVec.ofNat 64 (if x.started then x.lpc else 2 ^ 20),
    laneTrap := lane, sys := true, heldDc := x.dc, heldCm := x.cm, heldArr := x.refillArr, heldPhase := x.bphase, heldPosted := x.posted,
    heldPc := x.pc, dc := [], cm := 0, bphase := none, posted := 0,
    pc := handlerPc base t.code, cwait := .none, lwait := .none, pend := none, hazards := [], ringM := 0, ringL := 0, ringF := [],
    hblock := none, hresult := [], halted := false }

/-- Enters the handler: the bank is taken with undefined contents, the mark and the early loads are lost (03 R78, log 3), a claim is withdrawn (02 R36), and
every earlier result of the lane stream is complete, a deferred future load's withdrawn (07 R174, log 25). -/
def State.enterTrap (s : State) (g : Nat) (lane : Bool) (t : Trap) : State :=
  let base := (s.core (coreOf g)).handlerBase
  let s := (((s.withdraw g).dropMark g).dropEarly g).dropClaim g
  let s := (s.onBank g (fun _ => { bankEmpty with owner := some g, id := s.freeCtr })).tick
  s.onGrp g (fun x => x.enter base lane t)

/-- A control stream that stops for the scheduler: what it has sent or taken is awaited, and an access that waits for the end of a flip;
any other wait is given up (R316, 08 R203, 16 R339). -/
def CWait.stopped (w : CWait) (r : CWait) : CWait :=
  match w with
  | .rein => .rein
  | .flip q => if q == .latency then .flip q else r
  | .settle q v len => if len == 4 then .settle q v len else r
  | .none | .stall _ | .claim | .presettle _ _ => r

/-- A lane stream that stops for the scheduler. -/
def LWait.stopped (w : LWait) (r : LWait) : LWait :=
  match w with
  | .rein n v i => .rein n v i
  | .flip => .flip
  | .none | .stall _ | .presettle _ _ => r

/-- Both streams are at an instruction boundary: neither has sent or taken what it has not completed. -/
def Group.boundary (x : Group) : Bool := x.cwait.stopped .none == .none && x.lwait.stopped .none == .none

/-- The address that a trap's record gives as the one concerned (R318): TRAPVA where it is an address or a window offset (R313). -/
def trapAddr (code : Nat) (va : GWord) : Nat :=
  if code == cALIGN || code == cRANGELOCK || code == cCHECKFAIL || code == cACCESS then va.toNat else 0

/-- trap(code) of R314: in system mode the team ends with DOUBLE; otherwise the handler is entered, at once when the bay's
bank is free. KIND of the record of a trap other than a page fault is 0: the model's choice (log 101). -/
def State.takeTrap (s : State) (g : Nat) (lane : Bool) (t : Trap) : State :=
  if (s.grp g).sys then
    match s.faultTeam (s.grp g).team t.code (trapAddr t.code t.va) 0 true 0x60 with
    | some s => s
    | none => s.onGrp g (fun x => { x with pend := some (.trap lane t.code t.info t.lane t.va) })
  else if (s.bank g).owner == none && (s.grp g).boundary then s.enterTrap g lane t
  else s.onGrp g (fun x => { x with pend := some (.trap lane t.code t.info t.lane t.va) })

/-- A page fault of the group is to be taken. -/
def Group.faulted (x : Group) : Bool := match x.pend with
  | some (.pf _ _ _ _) => true
  | some (.trap _ _ _ _ _) => false
  | none => false

/-- A wait of a stream of a group that page-faults: the access of the other stream that a flip holds is given up too (R316). -/
def CWait.faulted (w : CWait) : CWait := if w == .flip .latency then .stall .fault else w.stopped (.stall .fault)
def LWait.faulted (w : LWait) : LWait := if w == .flip then .stall .fault else w.stopped (.stall .fault)

/-- A page fault (R316): the group's streams stop, stalled FAULT, until the scheduler takes it; the team keeps which of its groups was the
first. In system mode the team ends
as for a trap. -/
def State.takePf (s : State) (g : Nat) (lane : Bool) (va : Nat) (k : AccKind) (l : Option Nat) : State :=
  if (s.grp g).sys then
    match s.faultTeam (s.grp g).team 0x10 va (kindCode k) true 0x60 with
    | some s => s
    | none => s.onGrp g (fun x => { x with pend := some (.pf lane va k l) })
  else
    let t := (s.grp g).team
    let s := if (s.team t).gids.any (fun k => (s.grp k).faulted) then s else s.onTeam t (fun y => { y with faultG := (s.grp g).gidx })
    (s.dropClaim g).onGrp g (fun x => { x with
      pend := some (.pf lane va k l), cwait := x.cwait.faulted, lwait := x.lwait.faulted })

/-- A group that has been stopped for the scheduler stands stalled FAULT, but for what it still awaits (R307, R317). -/
def State.park (s : State) (g : Nat) : State :=
  if (s.grp g).halted then
    s.onGrp g (fun x => { x with cwait := x.cwait.stopped (.stall .fault), lwait := x.lwait.stopped (.stall .fault) })
  else s

/-- The return from a handler (R315), once its block has ended: dc and cm are restored, the bank is freed, the streams resume
at TRAPPC and TRAPLPC; a word that is resumed where it was interrupted goes on from what it had done (02 R45, 08 R199, 09 R213,
log 68); a group whose team is being saved stops there (R317, R320). -/
def State.trapReturn (s : State) (g : Nat) : State :=
  let s := s.freeBank g
  (s.onGrp g (fun x =>
    let lpc := if x.traplpc.getLsbD 20 then x.lpc else x.traplpc.toNat % 2 ^ 20
    { x with
      dc := x.heldDc, cm := x.heldCm, refillArr := x.heldArr && lpc == x.lpc, posted := if lpc == x.lpc then x.heldPosted else 0,
      bphase := if x.trappc == x.heldPc then x.heldPhase else none, heldDc := [], heldCm := 0, heldArr := false, heldPhase := none,
      heldPosted := 0, heldPc := 0, hazards := [], ringM := 0, ringL := 0, ringF := [], sys := false, pc := x.trappc, cwait := .none,
      lwait := .none, lpc := lpc, hresult := [], halted := (s.team x.team).saving != 0 })).park g

/-! ## From a meaning to an outcome -/

/-- How a control word's meaning ends: a trap restores the state before it (00 R4) and enters the handler. The Farrier, in system mode, has
no page faults. -/
def runCtrl (s : State) (m : Nat → R State) : Host.Outcome State Fault Refusal :=
  let g := s.cur
  match m g with
  | .ok s' => .next s'
  | .error (.wait s') => .next s'
  | .error (.fault f) => .fault f
  | .error (.trap t keep) => if g == farrierId then .fault (.farrierTrap t.code) else .next ((keep.getD s).takeTrap g false t)
  | .error (.pf va k l) => .next (if g == farrierId then s else s.takePf g false va k l)

/-- How a lane word's meaning ends. The Farrier has no lanes. -/
def runLane (s : State) (m : Nat → R State) : Host.Outcome State Fault Refusal :=
  let g := s.cur
  if g == farrierId then .fault (.farrierTrap cILLEGAL)
  else
    match m g with
    | .ok s' => .next s'
    | .error (.wait s') => .next s'
    | .error (.fault f) => .fault f
    | .error (.trap t keep) => .next ((keep.getD s).takeTrap g true t)
    | .error (.pf va k l) => .next (s.takePf g true va k l)

/-- An event of the device happens when its condition holds; otherwise the state is unchanged (log 12). -/
def runEvent (s : State) (m : Option State) : Host.Outcome State Fault Refusal := .next (m.getD s)

/-- An event of the cores, the engines or the schedulers: none happens under a tamper halt (17 R377). -/
def runUp (s : State) (m : Option State) : Host.Outcome State Fault Refusal := runEvent s (if s.pkg.halted then none else m)

/-- A word that addresses lanes, the lane queue or a team's resources is ILLEGAL on the Farrier (07 R164, 08 R180). -/
def notFarrier (g : Nat) : R Unit := legal (g != farrierId)

/-- A system-mode form outside system mode: PRIV (07 R162). -/
def needSys (s : State) (g : Nat) : R Unit := need (s.grp g).sys cPRIV

/-! ## The lane stream's block and operands -/

/-- The block that the lane stream executes: the handler block in system mode, otherwise the started head of the queue. -/
def State.block (s : State) (g : Nat) : Option QEntry :=
  let x := s.grp g
  if x.sys then x.hblock
  else if x.started then x.laneQ.find? (fun e => !e.posted) else none

/-- The block, or an empty one. -/
def State.blk (s : State) (g : Nat) : QEntry :=
  (s.block g).getD { arg := 0, block := 0, nr := false, posted := false, fmt := 0, count := 0, result := 0 }

/-- The index of the lane word at which the stream stands. -/
def State.lpc (s : State) (g : Nat) : Nat := if (s.grp g).sys then (s.grp g).hlpc else (s.grp g).lpc

/-- The lane stream goes on at a word index, of 20 bits (R167). -/
def State.lgoto (s : State) (g w : Nat) : State :=
  s.onGrp g (fun x =>
    if x.sys then { x with hlpc := w % 2 ^ 20, lwait := .none, refillArr := false }
    else { x with lpc := w % 2 ^ 20, lwait := .none, refillArr := false })

/-- The lane stream goes on at the next word. -/
def State.ladv (s : State) (g : Nat) : State := s.lgoto g (s.lpc g + 1)

/-- A lane register field may be used: below the captured count, or in a handler block below the current count or in the
bank (R204, 15 R314). -/
def State.vOk (s : State) (g r : Nat) : Bool :=
  if (s.grp g).sys then decide (240 ≤ r) && decide (r < 256) || decide (r < (s.grp g).count) && decide (r < 240)
  else r < (s.blk g).count

/-- A lane register of one lane. -/
def State.rv (s : State) (g r l : Nat) : Word :=
  if s.inBank g && r ≥ 240 then
    let b := s.bank g
    match b.hv.find ((r - 240) * 32 + l) with
    | some x => x
    | none => Config.freeWord b.id ((r - 240) * 32 + l)
  else (s.grp g).v.get 0 (r * 32 + l)

/-- Writes a lane register of one lane. -/
def State.wv (s : State) (g r l : Nat) (w : Word) : State :=
  if s.inBank g && r ≥ 240 then s.onBank g (fun b => { b with hv := b.hv.put ((r - 240) * 32 + l) w })
  else s.onGrp g (fun x => { x with v := x.v.set 0 (r * 32 + l) w })

/-- Writes a lane register in some lanes. -/
def State.wvs (s : State) (g r : Nat) : List (Nat × Word) → State
  | [] => s
  | (l, w) :: t => (s.wv g r l w).wvs g r t

/-- A lane predicate as a mask of lanes: p0 is true in every lane. -/
def State.pmask (s : State) (g : Nat) (p : Nat) : Word := if p = 0 then BitVec.allOnes 32 else (s.grp g).p.get 0 p

/-- A lane predicate in one lane. -/
def State.rp (s : State) (g : Nat) (p : PReg) (l : Nat) : Bool := (s.pmask g p.toNat).getLsbD l

/-- Writes a lane predicate in some lanes: a write of p0 is discarded. -/
def State.wps (s : State) (g : Nat) (p : PReg) (l : List (Nat × Bool)) : State :=
  if p = 0 then s
  else
    s.onGrp g (fun x => { x with
      p := x.p.set 0 p.toNat (l.foldl (fun m e =>
        let k : Word := 1#32 <<< e.1
        if e.2 then m ||| k else m &&& ~~~k) (x.p.get 0 p.toNat)) })

/-- The depth count of a lane (02 R37). -/
def State.dcOf (s : State) (g l : Nat) : Nat := (s.grp g).dc.get 0 l

/-- active(l) of R37. -/
def State.active (s : State) (g l : Nat) : Bool := s.dcOf g l == 0

/-- The guard, or condition, of a lane word in a lane (R159). -/
def State.guard (s : State) (g : Nat) (h : Hdr) (l : Nat) : Bool := s.rp g h.pred l != h.neg

/-- The lanes that take part: active and passing the guard, rising (R204). -/
def State.taking (s : State) (g : Nat) (h : Hdr) : List Nat := indices 32 (fun l => s.active g l && s.guard g h l)

/-- A mask of lanes. -/
def laneMask (l : List Nat) : Word := l.foldl (fun m k => m ||| (1#32 <<< k)) 0

/-- The registers from r on, n of them, may be used (R204). -/
def regsOk (s : State) (g : Nat) (r : VReg) (n : Nat) : Bool :=
  (List.range n).all (fun k => s.vOk g (r.toNat + k)) && r.toNat % n == 0

/-- ILLEGAL in some lanes, reported at the lowest (15 R313). -/
def legalLanes (bad : List Nat) : R Unit :=
  match bad with
  | [] => .ok ()
  | l :: _ => .error (trapAt cILLEGAL 0 (some l) 0)

/-- Every listed register may be used, or ILLEGAL. -/
def needRegs (s : State) (g : Nat) (l : List (VReg × Nat)) : R Unit := legal (l.all (fun e => regsOk s g e.1 e.2))

/-- The fmt captured with the block: of a handler block the group's, as it stands at the `lrun` (02 R29, 15 R314, log 69). -/
def State.bfmt (s : State) (g : Nat) : Word := (s.blk g).fmt

end Sys2Proof.Machine
end

