-- ==== Sys2Proof/Machine/Flags.lean ====
section
/-! DEFINITION. The conditions that compares write to predicates, and saturation (08 R185, 09 R206, R210, 10 R230). No
instruction of the ZD8 sets flags (08 R180): group and lane predicates are what it has for them. -/

namespace Sys2Proof.Machine

open Sys2Proof

/-- An integer condition of two lane words (R210). -/
def condHolds (c : ICond) (a b : Word) : Bool :=
  match c with
  | .eq => a == b
  | .ne => a != b
  | .ltI => a.slt b
  | .leI => a.sle b
  | .ltN => a.ult b
  | .leN => a.ule b
  | .gtI => b.slt a
  | .geI => b.sle a
  | .gtN => b.ult a
  | .geN => b.ule a

/-- A floating-point condition, from how two values compare: none when one of them is a NaN (R230). -/
def fcondHolds (c : FCond) (o : Option Ordering) : Bool :=
  match c, o with
  | .eq, o => o == some .eq
  | .ne, o => o != some .eq
  | .lt, o => o == some .lt
  | .le, o => o == some .lt || o == some .eq
  | .gt, o => o == some .gt
  | .ge, o => o == some .gt || o == some .eq
  | .unord, o => o.isNone
  | .ord, o => o.isSome

/-- The nearest value of the signed 32-bit range (R206). -/
def satI32 (x : Int) : Word := w32 (max (-(2 ^ 31)) (min x (2 ^ 31 - 1)))

/-- The nearest value of the unsigned 32-bit range (R206). -/
def satN32 (x : Int) : Word := w32 (max 0 (min x (2 ^ 32 - 1)))

end Sys2Proof.Machine
end

