-- ==== Sys2Proof/Machine/Operands.lean ====
section
/-! DEFINITION. The operand forms: immediates and targets of control words, record offsets of accesses, sources of lane words,
and the shapes in which register words read and write (07 R157 to R160, 08 R189, 09 R205, R218). -/

namespace Sys2Proof.Machine

open Sys2Proof

/-! ## Control words -/

/-- IMM14, sign-extended (R157). -/
def imm14 (i : BitVec 14) : GWord := i.signExtend 64

/-- The target of a C-br word at an address (R157, R186). -/
def brTarget (pc : GWord) (off : BitVec 22) : GWord := pc + (off.signExtend 64 <<< 2)

/-- The condition of a C-br word: q[q] xor NEG. -/
def State.brTaken (s : State) (g : Nat) (q : QReg) (neg : Bool) : Bool := s.rq g q != neg

/-- The record offset of a control access of w bytes: sext(gA, 64) + w·sext(OFF10, 10) (R189). -/
def ctlOff (s : State) (g : Nat) (a : GReg) (w : Nat) (off : BitVec 10) : Int := (s.rg g a).toInt + w * off.toInt

/-- The address of the next instruction, after one of n bytes. -/
def State.pcAfter (s : State) (g n : Nat) : GWord := (s.grp g).pc + BitVec.ofNat 64 n

/-- A control word that writes a group register and goes on. -/
def ctlG (s : State) (d : GReg) (f : Nat → R GWord) : Host.Outcome State Fault Refusal :=
  runCtrl s (fun g => do
    let v ← f g
    let s ← s.wg g d v
    pure (s.adv g 4))

/-- A control word that writes a group predicate and goes on. -/
def ctlQ (s : State) (d : QReg) (f : Nat → Bool) : Host.Outcome State Fault Refusal :=
  runCtrl s (fun g => .ok ((s.wq g d (f g)).adv g 4))

/-! ## Lane words -/

/-- Source b of L-alu in a lane (R205). -/
def State.srcB (s : State) (g : Nat) (b : SrcB) (l : Nat) : Word :=
  match b with
  | .reg r => s.rv g r.toNat l
  | .imm w => w

/-- Source b of a three-operand form in a lane (R205). -/
def State.srcOfBC (s : State) (g : Nat) (x : SrcBC) (l : Nat) : Word :=
  match x with
  | .rr b _ => s.rv g b.toNat l
  | .ir w _ => w
  | .ri b _ => s.rv g b.toNat l

/-- Source c of a three-operand form in a lane (R205). -/
def State.srcCofBC (s : State) (g : Nat) (x : SrcBC) (l : Nat) : Word :=
  match x with
  | .rr _ c => s.rv g c.toNat l
  | .ir _ c => s.rv g c.toNat l
  | .ri _ w => w

/-- The registers that source b names. -/
def srcBRegs : SrcB → List (VReg × Nat)
  | .reg r => [(r, 1)]
  | .imm _ => []

/-- The registers that sources b and c name. -/
def srcBCRegs : SrcBC → List (VReg × Nat)
  | .rr b c => [(b, 1), (c, 1)]
  | .ir _ c => [(c, 1)]
  | .ri b _ => [(b, 1)]

/-- A lane word that writes one register in the lanes that take part: every lane reads its sources first. -/
def laneV (s : State) (h : Hdr) (d : VReg) (regs : List (VReg × Nat)) (f : Nat → Nat → Word) : Host.Outcome State Fault Refusal :=
  runLane s (fun g => do
    needRegs s g ((d, 1) :: regs)
    pure ((s.wvs g d.toNat ((s.taking g h).map (fun l => (l, f g l)))).ladv g))

/-- A lane word that writes one predicate in the lanes that take part. -/
def laneP (s : State) (h : Hdr) (d : PReg) (regs : List (VReg × Nat)) (f : Nat → Nat → Bool) : Host.Outcome State Fault Refusal :=
  runLane s (fun g => do
    needRegs s g regs
    pure ((s.wps g d ((s.taking g h).map (fun l => (l, f g l)))).ladv g))

/-- The L-alu form of one source (R205). -/
def laneA (s : State) (h : Hdr) (d a : VReg) (f : Word → Word) : Host.Outcome State Fault Refusal :=
  laneV s h d [(a, 1)] (fun g l => f (s.rv g a.toNat l))

/-- The L-alu form of two sources (R205). -/
def laneAB (s : State) (h : Hdr) (d a : VReg) (b : SrcB) (f : Word → Word → Word) : Host.Outcome State Fault Refusal :=
  laneV s h d ((a, 1) :: srcBRegs b) (fun g l => f (s.rv g a.toNat l) (s.srcB g b l))

/-- The L-alu form of three sources (R205). -/
def laneABC (s : State) (h : Hdr) (d a : VReg) (bc : SrcBC) (f : Word → Word → Word → Word) : Host.Outcome State Fault Refusal :=
  laneV s h d ((a, 1) :: srcBCRegs bc) (fun g l => f (s.rv g a.toNat l) (s.srcOfBC g bc l) (s.srcCofBC g bc l))

/-- A compare or predicate form that writes a predicate in the lanes that take part (R210, R211). -/
def laneQ2 (s : State) (h : Hdr) (d a b : PReg) (f : Bool → Bool → Bool) : Host.Outcome State Fault Refusal :=
  laneP s h d [] (fun g l => f (s.rp g a l) (s.rp g b l))

end Sys2Proof.Machine
end

