-- ==== Sys2Proof/Machine/CtlArith.lean ====
section
/-! DEFINITION. Control arithmetic, logic, multiply, divide, immediates, compares and predicates (08 R180 to R185). -/

namespace Sys2Proof.Machine

open Sys2Proof

/-- zext((a >> lo), n) of R182. -/
def bfxN (a : GWord) (lo n : Nat) : GWord := BitVec.ofNat 64 (bits a.toNat lo n)

/-- sext((a >> lo), n) of R182. -/
def bfxI (a : GWord) (lo n : Nat) : GWord := g64 (sextI n (a.toNat >>> lo))

/-- lo and len of a field register (R182): ILLEGAL when the field is empty or leaves the register. -/
def fieldOf (b : GWord) : R (Nat × Nat) :=
  let lo := bits b.toNat 0 6
  let n := bits b.toNat 8 7
  if n == 0 || 64 < lo + n then .error (trapOf cILLEGAL) else .ok (lo, n)

/-- A divide by zero traps ARITH (R183). -/
def divBy (b : GWord) (v : GWord) : R GWord := if b == 0 then .error (trapOf cARITH) else .ok v

/-- gadd (R182). -/
def execGadd (d a b : GReg) (s : State) : Host.Outcome State Fault Refusal := ctlG s d (fun g => .ok (s.rg g a + s.rg g b))
/-- gsub (R182). -/
def execGsub (d a b : GReg) (s : State) : Host.Outcome State Fault Refusal := ctlG s d (fun g => .ok (s.rg g a - s.rg g b))
/-- gand (R182). -/
def execGand (d a b : GReg) (s : State) : Host.Outcome State Fault Refusal := ctlG s d (fun g => .ok (s.rg g a &&& s.rg g b))
/-- gor (R182). -/
def execGor (d a b : GReg) (s : State) : Host.Outcome State Fault Refusal := ctlG s d (fun g => .ok (s.rg g a ||| s.rg g b))
/-- gxor (R182). -/
def execGxor (d a b : GReg) (s : State) : Host.Outcome State Fault Refusal := ctlG s d (fun g => .ok (s.rg g a ^^^ s.rg g b))
/-- gandn (R182). -/
def execGandn (d a b : GReg) (s : State) : Host.Outcome State Fault Refusal := ctlG s d (fun g => .ok (s.rg g a &&& ~~~(s.rg g b)))
/-- gshl (R182): by gB[5:0]. -/
def execGshl (d a b : GReg) (s : State) : Host.Outcome State Fault Refusal :=
  ctlG s d (fun g => .ok (s.rg g a <<< ((s.rg g b).toNat % 64)))
/-- gshr (R182): by gB[5:0]. -/
def execGshr (d a b : GReg) (s : State) : Host.Outcome State Fault Refusal :=
  ctlG s d (fun g => .ok (s.rg g a >>> ((s.rg g b).toNat % 64)))
/-- gsra (R182): by gB[5:0]. -/
def execGsra (d a b : GReg) (s : State) : Host.Outcome State Fault Refusal :=
  ctlG s d (fun g => .ok ((s.rg g a).sshiftRight ((s.rg g b).toNat % 64)))
/-- gmin.i64 (R182). -/
def execGminI64 (d a b : GReg) (s : State) : Host.Outcome State Fault Refusal :=
  ctlG s d (fun g => .ok (if (s.rg g a).sle (s.rg g b) then s.rg g a else s.rg g b))
/-- gmax.i64 (R182). -/
def execGmaxI64 (d a b : GReg) (s : State) : Host.Outcome State Fault Refusal :=
  ctlG s d (fun g => .ok (if (s.rg g a).sle (s.rg g b) then s.rg g b else s.rg g a))
/-- gmin.n64 (R182). -/
def execGminN64 (d a b : GReg) (s : State) : Host.Outcome State Fault Refusal :=
  ctlG s d (fun g => .ok (if (s.rg g a).ule (s.rg g b) then s.rg g a else s.rg g b))
/-- gmax.n64 (R182). -/
def execGmaxN64 (d a b : GReg) (s : State) : Host.Outcome State Fault Refusal :=
  ctlG s d (fun g => .ok (if (s.rg g a).ule (s.rg g b) then s.rg g b else s.rg g a))
/-- gaddsh (R182): k from 1 to 4, coded as k − 1. -/
def execGaddsh (d a b : GReg) (k : BitVec 2) (s : State) : Host.Outcome State Fault Refusal :=
  ctlG s d (fun g => .ok (s.rg g a + (s.rg g b <<< (k.toNat + 1))))
/-- gbfx (R182). -/
def execGbfx (d a b : GReg) (s : State) : Host.Outcome State Fault Refusal :=
  ctlG s d (fun g => do
    let (lo, n) ← fieldOf (s.rg g b)
    pure (bfxN (s.rg g a) lo n))
/-- gbfx.i64 (R182). -/
def execGbfxI64 (d a b : GReg) (s : State) : Host.Outcome State Fault Refusal :=
  ctlG s d (fun g => do
    let (lo, n) ← fieldOf (s.rg g b)
    pure (bfxI (s.rg g a) lo n))
/-- gclz (R182). -/
def execGclz (d a : GReg) (s : State) : Host.Outcome State Fault Refusal :=
  ctlG s d (fun g => .ok (BitVec.ofNat 64 (clz 64 (s.rg g a).toNat)))
/-- gpopc (R182). -/
def execGpopc (d a : GReg) (s : State) : Host.Outcome State Fault Refusal :=
  ctlG s d (fun g => .ok (BitVec.ofNat 64 (popc 64 (s.rg g a).toNat)))

/-- gcmp.eq (R185). -/
def execGcmpEq (d : QReg) (a b : GReg) (s : State) : Host.Outcome State Fault Refusal := ctlQ s d (fun g => s.rg g a == s.rg g b)
/-- gcmp.ne (R185). -/
def execGcmpNe (d : QReg) (a b : GReg) (s : State) : Host.Outcome State Fault Refusal := ctlQ s d (fun g => s.rg g a != s.rg g b)
/-- gcmp.lt.i64 (R185). -/
def execGcmpLtI64 (d : QReg) (a b : GReg) (s : State) : Host.Outcome State Fault Refusal :=
  ctlQ s d (fun g => (s.rg g a).slt (s.rg g b))
/-- gcmp.le.i64 (R185). -/
def execGcmpLeI64 (d : QReg) (a b : GReg) (s : State) : Host.Outcome State Fault Refusal :=
  ctlQ s d (fun g => (s.rg g a).sle (s.rg g b))
/-- gcmp.lt.n64 (R185). -/
def execGcmpLtN64 (d : QReg) (a b : GReg) (s : State) : Host.Outcome State Fault Refusal :=
  ctlQ s d (fun g => (s.rg g a).ult (s.rg g b))
/-- gcmp.le.n64 (R185). -/
def execGcmpLeN64 (d : QReg) (a b : GReg) (s : State) : Host.Outcome State Fault Refusal :=
  ctlQ s d (fun g => (s.rg g a).ule (s.rg g b))
/-- qand (R185). -/
def execQand (d a b : QReg) (s : State) : Host.Outcome State Fault Refusal := ctlQ s d (fun g => s.rq g a && s.rq g b)
/-- qor (R185). -/
def execQor (d a b : QReg) (s : State) : Host.Outcome State Fault Refusal := ctlQ s d (fun g => s.rq g a || s.rq g b)
/-- qxor (R185). -/
def execQxor (d a b : QReg) (s : State) : Host.Outcome State Fault Refusal := ctlQ s d (fun g => s.rq g a != s.rq g b)
/-- qandn (R185). -/
def execQandn (d a b : QReg) (s : State) : Host.Outcome State Fault Refusal := ctlQ s d (fun g => s.rq g a && !s.rq g b)
/-- qnot (R185). -/
def execQnot (d a : QReg) (s : State) : Host.Outcome State Fault Refusal := ctlQ s d (fun g => !s.rq g a)
/-- gsetq (R185). -/
def execGsetq (d : GReg) (a : QReg) (s : State) : Host.Outcome State Fault Refusal :=
  ctlG s d (fun g => .ok (if s.rq g a then 1 else 0))

/-- gmul (R183). -/
def execGmul (d a b : GReg) (s : State) : Host.Outcome State Fault Refusal := ctlG s d (fun g => .ok (s.rg g a * s.rg g b))
/-- gmulh.i64 (R183). -/
def execGmulhI64 (d a b : GReg) (s : State) : Host.Outcome State Fault Refusal :=
  ctlG s d (fun g => .ok (g64 ((s.rg g a).toInt * (s.rg g b).toInt / 2 ^ 64)))
/-- gmulh.n64 (R183). -/
def execGmulhN64 (d a b : GReg) (s : State) : Host.Outcome State Fault Refusal :=
  ctlG s d (fun g => .ok (BitVec.ofNat 64 ((s.rg g a).toNat * (s.rg g b).toNat / 2 ^ 64)))
/-- gdiv.i64 (R183): toward zero; −2^63 by −1 wraps. -/
def execGdivI64 (d a b : GReg) (s : State) : Host.Outcome State Fault Refusal :=
  ctlG s d (fun g => divBy (s.rg g b) (g64 ((s.rg g a).toInt.tdiv (s.rg g b).toInt)))
/-- gdiv.n64 (R183). -/
def execGdivN64 (d a b : GReg) (s : State) : Host.Outcome State Fault Refusal :=
  ctlG s d (fun g => divBy (s.rg g b) (BitVec.ofNat 64 ((s.rg g a).toNat / (s.rg g b).toNat)))
/-- grem.i64 (R183): with the sign of gA. -/
def execGremI64 (d a b : GReg) (s : State) : Host.Outcome State Fault Refusal :=
  ctlG s d (fun g => divBy (s.rg g b) (g64 ((s.rg g a).toInt.tmod (s.rg g b).toInt)))
/-- grem.n64 (R183). -/
def execGremN64 (d a b : GReg) (s : State) : Host.Outcome State Fault Refusal :=
  ctlG s d (fun g => divBy (s.rg g b) (BitVec.ofNat 64 ((s.rg g a).toNat % (s.rg g b).toNat)))

/-- gaddi (R184). -/
def execGaddi (d a : GReg) (i : BitVec 14) (s : State) : Host.Outcome State Fault Refusal :=
  ctlG s d (fun g => .ok (s.rg g a + imm14 i))
/-- gandi (R184). -/
def execGandi (d a : GReg) (i : BitVec 14) (s : State) : Host.Outcome State Fault Refusal :=
  ctlG s d (fun g => .ok (s.rg g a &&& imm14 i))
/-- gori (R184). -/
def execGori (d a : GReg) (i : BitVec 14) (s : State) : Host.Outcome State Fault Refusal :=
  ctlG s d (fun g => .ok (s.rg g a ||| imm14 i))
/-- gxori (R184). -/
def execGxori (d a : GReg) (i : BitVec 14) (s : State) : Host.Outcome State Fault Refusal :=
  ctlG s d (fun g => .ok (s.rg g a ^^^ imm14 i))
/-- gshli (R184). -/
def execGshli (d a : GReg) (sh : BitVec 6) (s : State) : Host.Outcome State Fault Refusal :=
  ctlG s d (fun g => .ok (s.rg g a <<< sh.toNat))
/-- gshri (R184). -/
def execGshri (d a : GReg) (sh : BitVec 6) (s : State) : Host.Outcome State Fault Refusal :=
  ctlG s d (fun g => .ok (s.rg g a >>> sh.toNat))
/-- gsrai (R184). -/
def execGsrai (d a : GReg) (sh : BitVec 6) (s : State) : Host.Outcome State Fault Refusal :=
  ctlG s d (fun g => .ok ((s.rg g a).sshiftRight sh.toNat))
/-- gbfxi (R184): len = n + 1. -/
def execGbfxi (d a : GReg) (n lo : BitVec 6) (s : State) : Host.Outcome State Fault Refusal :=
  ctlG s d (fun g => if 64 < lo.toNat + n.toNat + 1 then .error (trapOf cILLEGAL) else .ok (bfxN (s.rg g a) lo.toNat (n.toNat + 1)))
/-- gbfxi.i64 (R184). -/
def execGbfxiI64 (d a : GReg) (n lo : BitVec 6) (s : State) : Host.Outcome State Fault Refusal :=
  ctlG s d (fun g => if 64 < lo.toNat + n.toNat + 1 then .error (trapOf cILLEGAL) else .ok (bfxI (s.rg g a) lo.toNat (n.toNat + 1)))
/-- gcmpi.eq (R184). -/
def execGcmpiEq (d : QReg) (a : GReg) (i : BitVec 14) (s : State) : Host.Outcome State Fault Refusal :=
  ctlQ s d (fun g => s.rg g a == imm14 i)
/-- gcmpi.lt.i64 (R184). -/
def execGcmpiLtI64 (d : QReg) (a : GReg) (i : BitVec 14) (s : State) : Host.Outcome State Fault Refusal :=
  ctlQ s d (fun g => (s.rg g a).slt (imm14 i))
/-- gcmpi.lt.n64 (R184): the immediate is zero-extended. -/
def execGcmpiLtN64 (d : QReg) (a : GReg) (i : BitVec 14) (s : State) : Host.Outcome State Fault Refusal :=
  ctlQ s d (fun g => (s.rg g a).ult (i.zeroExtend 64))
/-- gupi (R184): the immediate is zero-extended. -/
def execGupi (d a : GReg) (i : BitVec 14) (s : State) : Host.Outcome State Fault Refusal :=
  ctlG s d (fun g => .ok ((s.rg g a <<< 14) ||| i.zeroExtend 64))

end Sys2Proof.Machine
end

