-- ==== Sys2Proof/Machine/CtlFlow.lean ====
section
/-! DEFINITION. Branches, calls, the counted loop and indirect transfers (08 R186 to R188). The link and the count are g62 and
g63, which in system mode are hg6 and hg7 of the bank (15 R314, log 11). -/

namespace Sys2Proof.Machine

open Sys2Proof

/-- An indirect transfer to an address: ALIGN unless it is a multiple of 4 (R166). -/
def State.jumpTo (s : State) (g : Nat) (t : GWord) : R State :=
  if t.toNat % 4 == 0 then .ok (s.goto g t) else .error (trapAt cALIGN 0 none t.toNat)

/-- br (R186). -/
def execBr (q : QReg) (neg : Bool) (off : BitVec 22) (s : State) : Host.Outcome State Fault Refusal :=
  runCtrl s (fun g => .ok (s.goto g (if s.brTaken g q neg then brTarget (s.grp g).pc off else s.pcAfter g 4)))

/-- call (R186). -/
def execCall (q : QReg) (neg : Bool) (off : BitVec 22) (s : State) : Host.Outcome State Fault Refusal :=
  runCtrl s (fun g => .ok (if s.brTaken g q neg then (s.putG g 62 (s.pcAfter g 4)).goto g (brTarget (s.grp g).pc off) else s.adv g 4))

/-- bloop (R187). -/
def execBloop (q : QReg) (neg : Bool) (off : BitVec 22) (s : State) : Host.Outcome State Fault Refusal :=
  runCtrl s (fun g =>
    let n := s.rg g 63 - 1
    .ok ((s.putG g 63 n).goto g (if n != 0 && s.brTaken g q neg then brTarget (s.grp g).pc off else s.pcAfter g 4)))

/-- jmp (R188). -/
def execJmp (a : GReg) (s : State) : Host.Outcome State Fault Refusal := runCtrl s (fun g => s.jumpTo g (s.rg g a))

/-- callr (R188). -/
def execCallr (a : GReg) (s : State) : Host.Outcome State Fault Refusal :=
  runCtrl s (fun g => (s.putG g 62 (s.pcAfter g 4)).jumpTo g (s.rg g a))

/-- ret (R188). -/
def execRet (s : State) : Host.Outcome State Fault Refusal := runCtrl s (fun g => s.jumpTo g (s.rg g 62))

end Sys2Proof.Machine
end

