-- ==== Sys2Proof/Machine/CtlMem.lean ====
section
/-! DEFINITION. Control loads and stores, atomics, acquires, releases and fences, and the buffer-record slots
(08 R189 to R194, 04 R85, R91 to R95, R109). -/

namespace Sys2Proof.Machine

open Sys2Proof

/-- The scope is `.deck` or wider (01 R15). -/
def wideScope : Scope → Bool
  | .grp | .team | .core => false
  | .deck | .tower | .dev | .sys | .rein => true

/-- A future load of the lane stream is deferred: it is not performed, and what the stream releases or fences after it waits, stalled FUTURE
(02 R50, 03 R74, 04 R80, R85, R91). -/
def State.unanswered (s : State) (g : Nat) : Bool := (s.grp g).ringF.any (fun e => e.2 != 0)

/-- The order has acquire. -/
def ordAcq : Ord → Bool
  | .acq | .ar => true
  | .plain | .rel => false

/-- The order has release. -/
def ordRel : Ord → Bool
  | .rel | .ar => true
  | .plain | .acq => false

/-- The checks of the one access of w bytes of a control word (R58, R59). -/
def ctlCheck (s : State) (g : Nat) (a : GReg) (bn : Slot) (off : BitVec 10) (w : Nat) (k : AccKind) (bad : State → Acc → Bool) :
    R (State × Acc) := do
  let (s, l) ← checkGlobal s g bn k (fun q => q.n) bad [{ lane := none, off := ctlOff s g a w off, n := w }]
  match l with
  | x :: _ => pure (s, x)
  | [] => .error (trapOf cILLEGAL)

/-- The record in a slot says NOALLOC. -/
def State.noallocOf (s : State) (g : Nat) (bn : Slot) : Bool :=
  match s.slotRec g bn with
  | some b => b.noalloc
  | none => false

/-- A window access waits as latency: the replica is being refilled, or an own write of it is not applied (04 R108, R111). -/
def State.reinWait (s : State) (g : Nat) (t : Tr) (n : Nat) : Bool := t.rein && (s.reinStale g || s.reinPending g t.pa n)

/-- A plain control access goes through its bay's stack cache: to the stack region, of a page that caches may hold (02 R49, 03 R61,
16 R335). -/
def State.stackPath (s : State) (g : Nat) (x : Acc) : Bool := s.inStack g x.va && viaL1 s (coreOf g) x.tr

/-- The bytes that a plain control load returns. -/
def ctlLoad (s : State) (g : Nat) (bn : Slot) (x : Acc) : R (State × List Byte) :=
  if s.reinWait g x.tr x.n then waitC s g .latency
  else if x.tr.rein then
    if s.replicaBad (deckOf g) x.tr.pa x.n then .error (trapAt cCHECKFAIL 0 none x.va) else .ok (s, s.replica (deckOf g) x.tr.pa x.n)
  else
    let (s, b, bad) := if s.stackPath g x then s.stackLoad (coreOf g) (bayOf g) x.tr.pa x.n
      else s.loadAt (coreOf g) (s.noallocOf g bn) x.tr x.n
    if bad then .error (trapAt cCHECKFAIL 0 none x.va) else .ok (s, b)

/-- Queues a window write of a control word, which waits as latency while the queue is full (04 R110). -/
def ctlSendRein (s : State) (g : Nat) (w : RWrite) : R State :=
  match s.sendRein (deckOf g) w with
  | some s => .ok s
  | none => waitC s g .latency

/-- A plain control store. -/
def ctlStore (s : State) (g : Nat) (bn : Slot) (x : Acc) (bs : List Byte) : R State :=
  if x.tr.rein then
    if s.reinStale g then waitC s g .latency
    else
      let (data, mask) := lineWords (x.tr.pa % 128) bs
      ctlSendRein s g (reinWrite s g false x.tr.pa 1 0 mask data .none)
  else if s.stackPath g x then .ok (s.stackStore (coreOf g) (bayOf g) x.tr.pa bs)
  else .ok (s.storeAt (coreOf g) (s.noallocOf g bn) x.tr bs)

/-- The group's stack-cache copy of a line is written back and given up before an access that bypasses it. -/
def State.stackDrop (s : State) (g : Nat) (x : Acc) : State :=
  if s.inStack g x.va then
    let key := stackKey (bayOf g) (x.tr.pa / 128)
    (s.stackWb (coreOf g) key).stackDel (coreOf g) key
  else s

/-- Writes a register after an access that is kept when the write fails the test of 02 R48. -/
def State.wgKeep (s : State) (g : Nat) (r : GReg) (v : GWord) : R State :=
  if s.stackBad g r v then .error (.trap { code := cSTACKLIMIT, info := 0, lane := none, va := 0 } (some s)) else .ok (s.putG g r v)

/-- The record of a window line that names another core, in the deck's replica (R109). -/
def State.reinRec (s : State) (d c pa : Nat) : Option Rec :=
  match (s.deck d).recs.find (pa % 2 ^ 18 / 128) with
  | some r => if r.core == c then none else some r
  | none => none

/-- The window line's record names this core. -/
def State.reinOwn (s : State) (d c pa : Nat) : Bool :=
  match (s.deck d).recs.find (pa % 2 ^ 18 / 128) with
  | some r => r.core == c
  | none => false

/-- The foreign record at a variable. -/
def State.varRec (s : State) (g : Nat) (t : Tr) : Option Rec :=
  if t.rein then s.reinRec (deckOf g) (coreOf g) t.pa else s.foreignRec (coreOf g) t.pa

/-- The record at a variable is this core's own. -/
def State.varOwn (s : State) (g : Nat) (t : Tr) : Bool :=
  if t.rein then s.reinOwn (deckOf g) (coreOf g) t.pa else s.ownRec (coreOf g) t.pa

/-- gld.64 (R189). -/
def execGld64 (d a : GReg) (bn : Slot) (off : BitVec 10) (s : State) : Host.Outcome State Fault Refusal :=
  runCtrl s (fun g => do
    let (s, x) ← ctlCheck s g a bn off 8 .load anyPage
    let (s, b) ← ctlLoad s g bn x
    let s ← s.wgKeep g d (BitVec.ofNat 64 (ofBytes b))
    pure (s.adv g 4))

/-- gst.64 (R189). -/
def execGst64 (src a : GReg) (bn : Slot) (off : BitVec 10) (s : State) : Host.Outcome State Fault Refusal :=
  runCtrl s (fun g => do
    let (s, x) ← ctlCheck s g a bn off 8 .store anyPage
    let s ← ctlStore s g bn x (toBytes 8 (s.rg g src).toNat)
    pure (s.adv g 4))

/-- The point of coherence of `.sys` for host memory is that memory (01 R15, R91, R92): the device's L2 copy goes there. -/
def State.sysPush (s : State) (sc : Scope) (pa : Nat) : State := if sc == .sys && isHost pa then s.hostPush (pa / 128) else s

/-- The release store of bytes at `.deck` or wider (R91, R109): the stream's earlier window writes are applied, then the
record and the value. -/
def relStore (s : State) (g : Nat) (x : Acc) (sc : Scope) (bs : List Byte) : R State :=
  let c := coreOf g
  if s.reinEarlier g false || ((x.tr.rein || sc == .rein) && s.reinStale g) then waitC s g .latency
  else if x.tr.rein then
    let (data, mask) := lineWords (x.tr.pa % 128) bs
    let (m, t) := s.markStep c
    match t.sendRein (deckOf g) { reinWrite t g false x.tr.pa 2 0 mask data .none with mark := m } with
    | some t => .ok t
    | none => waitC s g .latency
  else
    let s := (((s.stackDrop g x).l2For (s.codeOfCore c) x.tr).snoopHost x.tr.pa true).releaseSteps c x.tr.pa (sc == .sys)
    .ok (((s.homeStore x.tr.pa bs).hostOnly x.tr).sysPush sc x.tr.pa)

/-- rel (R192). -/
def execRel (src a : GReg) (bn : Slot) (off : BitVec 10) (sc : Scope) (s : State) : Host.Outcome State Fault Refusal :=
  runCtrl s (fun g => do
    let (s, x) ← ctlCheck s g a bn off 8 .store anyPage
    let bs := toBytes 8 (s.rg g src).toNat
    let s ← if wideScope sc then relStore s g x sc bs else ctlStore s g bn x bs
    pure (s.adv g 8))

/-- acq (R192): at `.deck` or wider the value is read at the home, or in the replica, and the core keeps no copy of its line, which could be
older (04 R80, R92); a record of another core is settled while the value is held. -/
def execAcq (d a : GReg) (bn : Slot) (off : BitVec 10) (sc : Scope) (s : State) : Host.Outcome State Fault Refusal :=
  runCtrl s (fun g => do
    let (s, x) ← ctlCheck s g a bn off 8 .load anyPage
    if !wideScope sc then do
      let (s, b) ← ctlLoad s g bn x
      let s ← s.wgKeep g d (BitVec.ofNat 64 (ofBytes b))
      pure (s.adv g 8)
    else if s.reinWait g x.tr 8 || (sc == .rein && s.reinStale g) then waitC s g .latency
    else do
      let c := coreOf g
      let s := if x.tr.rein then s
        else ((((((s.stackDrop g x).flushLine c (x.tr.pa / 128)).hostOnly x.tr).sysPush sc x.tr.pa).l2For (s.codeOfCore c) x.tr).snoopHost x.tr.pa false)
      if (if x.tr.rein then s.replicaBad (deckOf g) x.tr.pa 8 else s.poisonedIn (s.codeOfCore c) x.tr.pa 8) then .error (trapAt cCHECKFAIL 0 none x.va)
      else do
        let v := BitVec.ofNat 64 (ofBytes (if x.tr.rein then s.replica (deckOf g) x.tr.pa 8 else s.homeBytes x.tr.pa 8))
        match s.varRec g x.tr with
        | some r => .error (.wait ((s.requestSettle c r (some (g, false))).onGrp g (fun y => { y with cwait := .settle r [(d.toNat, v)] 8, acqVa := g64 x.va })))
        | none =>
          let s := if s.varOwn g x.tr then s else s.invShared c
          let s ← s.wgKeep g d v
          pure (s.adv g 8))

/-- The stream's acquire of a record has been answered. -/
def CWait.acked : CWait → Bool
  | .presettle _ a => a
  | .none | .stall _ | .claim | .settle _ _ _ | .rein | .flip _ => false

/-- The scope at which an atomic's acquire and release steps are performed: `.sys` for one that the host performs (16 R341). -/
def Tr.atomScope (t : Tr) (sc : Scope) : Scope := if pteApl t.e == 2 then .sys else sc

/-- gatom (R191). An acquire that meets another core's record has it settled before the atomic is performed (log 14). -/
def execGatom (d a : GReg) (bn : Slot) (off : BitVec 10) (x : AtomExt) (s : State) : Host.Outcome State Fault Refusal :=
  runCtrl s (fun g => do
    let w := if x.w32 then 4 else 8
    let c := coreOf g
    let (s, y) ← ctlCheck s g a bn off w .atomic (fun s y => atomBad s c x.op w (wideScope x.sc && x.ord != .plain) y.tr)
    let b := (s.rg g x.b).toNat % 2 ^ (8 * w)
    let cmp := (s.rg g x.c).toNat % 2 ^ (8 * w)
    let sc := y.tr.atomScope x.sc
    let rel := ordRel x.ord && wideScope sc
    let acq := ordAcq x.ord && wideScope sc
    if (rel && s.reinEarlier g false) || ((y.tr.rein || (sc == .rein && x.ord != .plain)) && s.reinStale g) then waitC s g .latency
    else if y.tr.rein then
      let (m, t) := if rel then s.markStep c else (0, s)
      let o := y.tr.pa % 128 / 4
      let wr := { reinWrite t g false y.tr.pa (if rel then 4 else 3) x.op.code.toNat (1#32 <<< o)
                    ((List.range 32).map (fun k => if k == o then BitVec.ofNat 32 b else 0)) (.g d.toNat) with mark := m, acq := acq }
      match t.sendRein (deckOf g) wr with
      | some t => .error (.wait (t.onGrp g (fun z => { z with cwait := .rein })))
      | none => waitC s g .latency
    else if atomPoisoned s c w y.tr then .error (trapAt cCHECKFAIL 0 none y.va)
    else
      match if acq && !(s.grp g).cwait.acked then s.varRec g y.tr else none with
      | some r => .error (.wait ((s.requestSettle c r (some (g, false))).onGrp g (fun z => { z with cwait := .presettle r false, acqVa := g64 y.va })))
      | none => do
        let s := s.stackDrop g y
        let own := s.varOwn g y.tr
        let s := match if acq then s.varRec g y.tr else none with
          | some r => s.settle r.core r.mark
          | none => s
        let s := if rel then s.releaseSteps c y.tr.pa (sc == .sys) else s
        let (s, old) := s.atomAt c (s.noallocOf g bn) x.op w b cmp y.tr
        let s := if rel then s.sysPush sc y.tr.pa else s
        let s := if acq && !own then s.invShared c else s
        let s ← s.wgKeep g d (BitVec.ofNat 64 old)
        pure (s.adv g 8))

/-- The effect of a fence at `.deck` or wider once the stream's earlier accesses are performed (R85). -/
def State.fenceWide (s : State) (c : Nat) : State := (s.fullSettle c).invShared c

/-- fence (R193). The Farrier has performed no access and has no core: its fence only goes on. -/
def execFence (sc : Scope) (s : State) : Host.Outcome State Fault Refusal :=
  runCtrl s (fun g =>
    if g == farrierId then .ok (s.adv g 4)
    else if !wideScope sc then .ok ((s.stackSync g).adv g 4)
    else if s.reinEarlier g false || (sc == .rein && s.reinStale g) then waitC s g .latency
    else .ok (((s.stackSync g).fenceWide (coreOf g)).adv g 4))

/-! ## Buffer-record slots (R194) -/

/-- Every block enqueued before has executed `lend`: a handler block, and in a handler those of the frozen queue too (log 67). -/
def State.blocksEnded (s : State) (g : Nat) : Bool := (s.grp g).hblock.isNone && (s.grp g).laneQ.all (fun e => e.posted)

/-- Waits with LANEQ until the blocks have ended (02 R33, R34). -/
def afterBlocks (s : State) (g : Nat) : R Unit := if s.blocksEnded g then .ok () else waitC s g .laneq

/-- Fills a slot with a record that R57 accepts. -/
def fillSlot (s : State) (g : Nat) (n : Slot) (b : Option BufRec) : R State :=
  match b with
  | some b => if b.accept then .ok (s.setSlot g n b) else .error (trapOf cILLEGAL)
  | none => .error (trapOf cILLEGAL)

/-- bufld (R194): 32 bytes, read as one access. -/
def execBufld (n : Slot) (a : GReg) (m : Slot) (s : State) : Host.Outcome State Fault Refusal :=
  runCtrl s (fun g => do
    afterBlocks s g
    let (s, l) ← checkGlobal s g m .load (fun _ => 32) anyPage [{ lane := none, off := (s.rg g a).toInt, n := 32 }]
    match l with
    | [] => .error (trapOf cILLEGAL)
    | x :: _ =>
      let (s, bs) ← ctlLoad s g m x
      let s ← fillSlot s g n (BufRec.ofNat (ofBytes bs))
      pure (s.adv g 4))

/-- The record that bufset builds from gA, gB and g(B+1); none when a source bit that must be zero is not. -/
def bufsetRec (a b c : GWord) : Option BufRec :=
  let w := b.toNat
  if bits w 43 1 == 0 && bits w 52 12 == 0 && bits c.toNat 32 32 == 0 then
    some { base := a, extent := BitVec.ofNat 40 w, stride := BitVec.ofNat 32 c.toNat, esize := BitVec.ofNat 3 (bits w 40 3),
           swz := BitVec.ofNat 4 (bits w 44 4), rdok := bit w 48, wrok := bit w 49, noalloc := bit w 50, idem := bit w 51 }
  else none

/-- bufset (R194). -/
def execBufset (n : Slot) (a b : GReg) (s : State) : Host.Outcome State Fault Refusal :=
  runCtrl s (fun g => do
    legal (b.toNat % 2 == 0)
    afterBlocks s g
    let s ← fillSlot s g n (bufsetRec (s.rg g a) (s.rg g b) (s.rgN g (b.toNat + 1)))
    pure (s.adv g 4))

/-- bufinv (R194). -/
def execBufinv (n : Slot) (s : State) : Host.Outcome State Fault Refusal :=
  runCtrl s (fun g => do
    afterBlocks s g
    pure ((s.clearSlot g n).adv g 4))

end Sys2Proof.Machine
end

