-- ==== Sys2Proof/Machine/Hazard.lean ====
section
/-! DEFINITION. What each lane word reads and writes, its latency class, and the rules for undersized counts, completion
rings and locked registers (07 R169 to R172, 11 R252). -/

namespace Sys2Proof.Machine

open Sys2Proof

/-- The latency class of a lane word (R170, R171). -/
inductive LaneClass where
  | none
  | fixed (l : Nat)
  | ring (r : Ring)
  deriving DecidableEq, Repr

/-- What a lane word reads and writes: (true, n) is predicate n, (false, n) register n; its class and its timing fields. -/
structure LaneUse where
  src : List (Bool × Nat)
  dst : List (Bool × Nat)
  cls : LaneClass
  t   : Sched
  h   : Option Hdr
  deriving DecidableEq, Repr

/-- n registers from r. -/
def vr (r : VReg) (n : Nat) : List (Bool × Nat) := (List.range n).map (fun k => (false, r.toNat + k))

/-- A predicate; p0 is constant. -/
def pr (p : PReg) : List (Bool × Nat) := if p = 0 then [] else [(true, p.toNat)]

/-- Source b. -/
def vb : SrcB → List (Bool × Nat)
  | .reg r => vr r 1
  | .imm _ => []

/-- Sources b and c. -/
def vbc : SrcBC → List (Bool × Nat)
  | .rr b c => vr b 1 ++ vr c 1
  | .ir _ c => vr c 1
  | .ri b _ => vr b 1

/-- Registers of an access size: a pair for 8 bytes, a quad for 16 (09 R218). -/
def sizeRegs : Size → Nat
  | .s1 | .s2 | .s4 => 1
  | .s8 => 2
  | .s16 => 4

/-- Registers of a scalar type: a pair for 64 bits (10 R234). -/
def typeRegs : VType → Nat
  | .i64 | .n64 => 2
  | .i8 | .i16 | .i32 | .n8 | .n16 | .n32 | .f32 | .f16 | .bf16 | .e4m3 | .e5m2 | .q8 | .q4 | .f16x2 | .bf16x2 => 1

/-- Registers of a tile form (10 R242). -/
def tileRegs : TileW → Nat
  | .w32 => 8
  | .bf16x2 | .f16x2 => 4

/-- No timing. -/
def schedZero : Sched := { gap := 0, cede := false, wm := 0, wl := 0, wf := 0 }

/-- The uses of a guarded word. -/
def hu (h : Hdr) (src dst : List (Bool × Nat)) (cls : LaneClass) : LaneUse := LaneUse.mk (pr h.pred ++ src) dst cls h.t (some h)

/-- The uses of an unguarded word. -/
def tu (t : Sched) (src dst : List (Bool × Nat)) (cls : LaneClass) : LaneUse := LaneUse.mk src dst cls t none

/-- Nothing. -/
def nu : LaneUse := LaneUse.mk [] [] .none schedZero none

/-- The uses of an instruction; control words and events use no lane register. -/
def laneUse (i : Instr) : LaneUse :=
  match i with
  | .gadd _ _ _ => nu
  | .gsub _ _ _ => nu
  | .gand _ _ _ => nu
  | .gor _ _ _ => nu
  | .gxor _ _ _ => nu
  | .gandn _ _ _ => nu
  | .gshl _ _ _ => nu
  | .gshr _ _ _ => nu
  | .gsra _ _ _ => nu
  | .gminI64 _ _ _ => nu
  | .gmaxI64 _ _ _ => nu
  | .gminN64 _ _ _ => nu
  | .gmaxN64 _ _ _ => nu
  | .gaddsh _ _ _ _ => nu
  | .gbfx _ _ _ => nu
  | .gbfxI64 _ _ _ => nu
  | .gclz _ _ => nu
  | .gpopc _ _ => nu
  | .gcmpEq _ _ _ => nu
  | .gcmpNe _ _ _ => nu
  | .gcmpLtI64 _ _ _ => nu
  | .gcmpLeI64 _ _ _ => nu
  | .gcmpLtN64 _ _ _ => nu
  | .gcmpLeN64 _ _ _ => nu
  | .qand _ _ _ => nu
  | .qor _ _ _ => nu
  | .qxor _ _ _ => nu
  | .qandn _ _ _ => nu
  | .qnot _ _ => nu
  | .gsetq _ _ => nu
  | .gmul _ _ _ => nu
  | .gmulhI64 _ _ _ => nu
  | .gmulhN64 _ _ _ => nu
  | .gdivI64 _ _ _ => nu
  | .gdivN64 _ _ _ => nu
  | .gremI64 _ _ _ => nu
  | .gremN64 _ _ _ => nu
  | .gaddi _ _ _ => nu
  | .gandi _ _ _ => nu
  | .gori _ _ _ => nu
  | .gxori _ _ _ => nu
  | .gshli _ _ _ => nu
  | .gshri _ _ _ => nu
  | .gsrai _ _ _ => nu
  | .gbfxi _ _ _ _ => nu
  | .gbfxiI64 _ _ _ _ => nu
  | .gcmpiEq _ _ _ => nu
  | .gcmpiLtI64 _ _ _ => nu
  | .gcmpiLtN64 _ _ _ => nu
  | .gupi _ _ _ => nu
  | .br _ _ _ => nu
  | .call _ _ _ => nu
  | .bloop _ _ _ => nu
  | .jmp _ => nu
  | .callr _ => nu
  | .ret => nu
  | .gld64 _ _ _ _ => nu
  | .gst64 _ _ _ _ => nu
  | .gatom _ _ _ _ _ => nu
  | .acq _ _ _ _ _ => nu
  | .rel _ _ _ _ _ => nu
  | .fence _ => nu
  | .bufld _ _ _ => nu
  | .bufset _ _ _ => nu
  | .bufinv _ => nu
  | .lrun _ _ => nu
  | .lrunNr _ _ => nu
  | .lres _ => nu
  | .lwait => nu
  | .gend => nu
  | .gloc _ => nu
  | .grole _ => nu
  | .glv _ _ => nu
  | .fmtset _ => nu
  | .fmtget _ => nu
  | .gseed _ => nu
  | .vgive _ => nu
  | .vclaim _ => nu
  | .vcount _ => nu
  | .nbsync _ _ => nu
  | .nbarrive _ _ => nu
  | .aset _ _ _ => nu
  | .await _ _ => nu
  | .aread _ _ => nu
  | .apost _ _ => nu
  | .iqpush _ _ _ => nu
  | .iqstat _ _ => nu
  | .mma _ _ _ _ => nu
  | .mmaV _ _ _ => nu
  | .mmv _ _ _ _ => nu
  | .mfence _ => nu
  | .mwait _ => nu
  | .tcopy _ _ _ _ _ => nu
  | .tcopyT _ _ _ _ _ => nu
  | .tmcastDeck _ _ _ => nu
  | .tmcastTower _ _ _ => nu
  | .hstreamOut _ _ _ => nu
  | .hstreamIn _ _ _ => nu
  | .qhist _ _ _ _ => nu
  | .qclip _ _ _ => nu
  | .pacq _ _ => nu
  | .pacqTry _ _ => nu
  | .pget _ _ => nu
  | .pgetTry _ _ => nu
  | .pcommit _ _ => nu
  | .pfree _ => nu
  | .rput _ _ _ _ => nu
  | .rputRel _ _ _ _ => nu
  | .rseq _ => nu
  | .sysrd _ _ => nu
  | .syswr _ _ => nu
  | .tret => nu
  | .tabort => nu
  | .tlbinvVa _ _ => nu
  | .tlbinvCtx _ _ => nu
  | .tlbinvAll _ => nu
  | .sysettle => nu
  | .snapreq _ _ => nu
  | .snapstat _ => nu
  | .brk _ => nu
  | .vaddI32 h d a b => hu h (vr a 1 ++ vb b) (vr d 1) (.fixed 4)
  | .vsubI32 h d a b => hu h (vr a 1 ++ vb b) (vr d 1) (.fixed 4)
  | .vaddSatI32 h d a b => hu h (vr a 1 ++ vb b) (vr d 1) (.fixed 4)
  | .vsubSatI32 h d a b => hu h (vr a 1 ++ vb b) (vr d 1) (.fixed 4)
  | .vaddSatN32 h d a b => hu h (vr a 1 ++ vb b) (vr d 1) (.fixed 4)
  | .vsubSatN32 h d a b => hu h (vr a 1 ++ vb b) (vr d 1) (.fixed 4)
  | .vmulI32 h d a b => hu h (vr a 1 ++ vb b) (vr d 1) (.fixed 6)
  | .vmulhI32 h d a b => hu h (vr a 1 ++ vb b) (vr d 1) (.fixed 6)
  | .vmulhN32 h d a b => hu h (vr a 1 ++ vb b) (vr d 1) (.fixed 6)
  | .vmadI32 h d a bc => hu h (vr a 1 ++ vbc bc) (vr d 1) (.fixed 6)
  | .vdivI32 h d a b => hu h (vr a 1 ++ vb b) (vr d 1) (.ring .L)
  | .vdivN32 h d a b => hu h (vr a 1 ++ vb b) (vr d 1) (.ring .L)
  | .vremI32 h d a b => hu h (vr a 1 ++ vb b) (vr d 1) (.ring .L)
  | .vremN32 h d a b => hu h (vr a 1 ++ vb b) (vr d 1) (.ring .L)
  | .vminI32 h d a b => hu h (vr a 1 ++ vb b) (vr d 1) (.fixed 4)
  | .vmaxI32 h d a b => hu h (vr a 1 ++ vb b) (vr d 1) (.fixed 4)
  | .vminN32 h d a b => hu h (vr a 1 ++ vb b) (vr d 1) (.fixed 4)
  | .vmaxN32 h d a b => hu h (vr a 1 ++ vb b) (vr d 1) (.fixed 4)
  | .vabsI32 h d a => hu h (vr a 1) (vr d 1) (.fixed 4)
  | .vand h d a b => hu h (vr a 1 ++ vb b) (vr d 1) (.fixed 4)
  | .vor h d a b => hu h (vr a 1 ++ vb b) (vr d 1) (.fixed 4)
  | .vxor h d a b => hu h (vr a 1 ++ vb b) (vr d 1) (.fixed 4)
  | .vandn h d a b => hu h (vr a 1 ++ vb b) (vr d 1) (.fixed 4)
  | .vshl h d a b => hu h (vr a 1 ++ vb b) (vr d 1) (.fixed 4)
  | .vshr h d a b => hu h (vr a 1 ++ vb b) (vr d 1) (.fixed 4)
  | .vsra h d a b => hu h (vr a 1 ++ vb b) (vr d 1) (.fixed 4)
  | .vbfxN32 h d a b => hu h (vr a 1 ++ vb b) (vr d 1) (.fixed 4)
  | .vbfxI32 h d a b => hu h (vr a 1 ++ vb b) (vr d 1) (.fixed 4)
  | .vbfi h d a bc => hu h (vr a 1 ++ vbc bc) (vr d 1) (.fixed 4)
  | .vclz h d a => hu h (vr a 1) (vr d 1) (.fixed 4)
  | .vpopc h d a => hu h (vr a 1) (vr d 1) (.fixed 4)
  | .vbrev h d a => hu h (vr a 1) (vr d 1) (.fixed 4)
  | .vmov h d a => hu h (vr a 1) (vr d 1) (.fixed 4)
  | .vmovi h d _ => hu h ([]) (vr d 1) (.fixed 4)
  | .vlaneid h d => hu h ([]) (vr d 1) (.fixed 4)
  | .vargl h d => hu h ([]) (vr d 1) (.fixed 4)
  | .vargh h d => hu h ([]) (vr d 1) (.fixed 4)
  | .vcmp h _ d a b => hu h (vr a 1 ++ vb b) (pr d) (.fixed 4)
  | .pand h d a b => hu h (pr a ++ pr b) (pr d) (.fixed 4)
  | .por h d a b => hu h (pr a ++ pr b) (pr d) (.fixed 4)
  | .pxor h d a b => hu h (pr a ++ pr b) (pr d) (.fixed 4)
  | .pandn h d a b => hu h (pr a ++ pr b) (pr d) (.fixed 4)
  | .pnot h d a => hu h (pr a) (pr d) (.fixed 4)
  | .vfromp h d a => hu h (pr a) (vr d 1) (.fixed 4)
  | .vsel h d a b c => hu h (vr a 1 ++ vb b ++ pr c) (vr d 1) (.fixed 4)
  | .lif h _ => hu h ([]) ([]) .none
  | .lelse t _ => tu t ([]) ([]) .none
  | .lendif t => tu t ([]) ([]) .none
  | .lloop t => tu t ([]) ([]) .none
  | .lloopRefill t _ d => tu t ([]) (vr d 2) (.ring .M)
  | .lbreak h _ => hu h ([]) ([]) .none
  | .lcont h _ => hu h ([]) ([]) .none
  | .lendloop t _ => tu t ([]) ([]) .none
  | .lendloopRefill t _ _ => tu t ([]) ([]) .none
  | .lend => nu
  | .vyield h a => hu h (vr a 1) ([]) .none
  | .lcallQ h t a => hu h (vr t 1 ++ vr a 2) ([]) .none
  | .vfence t _ => tu t ([]) ([]) .none
  | .vld h d sz _ a _ _ => hu h (vr a 1) (vr d (sizeRegs sz)) (.ring .M)
  | .vldSigned h d _ _ a _ _ => hu h (vr a 1) (vr d 1) (.ring .M)
  | .vst h src sz _ a _ _ => hu h (vr a 1 ++ vr src (sizeRegs sz)) ([]) .none
  | .sld h d sz a _ => hu h (vr a 1) (vr d (sizeRegs sz)) (.ring .M)
  | .sldSigned h d _ a _ => hu h (vr a 1) (vr d 1) (.ring .M)
  | .sst h src sz a _ => hu h (vr a 1 ++ vr src (sizeRegs sz)) ([]) .none
  | .vgath h d b sz _ a _ _ => hu h (vr a 1 ++ vr b 1) (vr d (sizeRegs sz)) (.ring .M)
  | .vscat h src b sz _ a _ _ => hu h (vr a 1 ++ vr b 1 ++ vr src (sizeRegs sz)) ([]) .none
  | .vatom h op w64 _ _ d _ a _ b c => hu h (vr a 1 ++ vr b (if w64 then 2 else 1) ++ (if op == .cas then vr c (if w64 then 2 else 1) else [])) (vr d (if w64 then 2 else 1)) (.ring .M)
  | .vldf h _ d p _ a _ => hu h (vr a 1) (vr d 4 ++ pr p) (.ring .F)
  | .vldfTake h _ d p _ a _ => hu h (vr a 1) (vr d 4 ++ pr p) (.ring .F)
  | .vstf h _ src p _ a _ => hu h (vr a 1 ++ vr src 4) (pr p) (.ring .F)
  | .vmark h d sz _ a _ => hu h (vr a 1) (vr d (sizeRegs sz)) (.ring .M)
  | .vcommit h src p sz _ a _ => hu h (vr a 1 ++ vr src (sizeRegs sz)) (pr p) (.ring .M)
  | .vfadd h _ d a b => hu h (vr a 1 ++ vb b) (vr d 1) (.fixed 6)
  | .vfsub h _ d a b => hu h (vr a 1 ++ vb b) (vr d 1) (.fixed 6)
  | .vfmul h _ d a b => hu h (vr a 1 ++ vb b) (vr d 1) (.fixed 6)
  | .vffma h _ d a bc => hu h (vr a 1 ++ vbc bc) (vr d 1) (.fixed 6)
  | .vfmin h _ d a b => hu h (vr a 1 ++ vb b) (vr d 1) (.fixed 6)
  | .vfmax h _ d a b => hu h (vr a 1 ++ vb b) (vr d 1) (.fixed 6)
  | .vfabs h _ d a => hu h (vr a 1) (vr d 1) (.fixed 6)
  | .vfneg h _ d a => hu h (vr a 1) (vr d 1) (.fixed 6)
  | .vfcmp h _ _ d a b => hu h (vr a 1 ++ vb b) (pr d) (.fixed 4)
  | .vfdot2 h _ d a bc => hu h (vr a 1 ++ vbc bc) (vr d 1) (.fixed 6)
  | .vrcp h d a => hu h (vr a 1) (vr d 1) (.ring .L)
  | .vrsqrt h d a => hu h (vr a 1) (vr d 1) (.ring .L)
  | .vsqrt h d a => hu h (vr a 1) (vr d 1) (.ring .L)
  | .vfdiv h d a b => hu h (vr a 1 ++ vb b) (vr d 1) (.ring .L)
  | .vexp2 h d a => hu h (vr a 1) (vr d 1) (.ring .L)
  | .vlog2 h d a => hu h (vr a 1) (vr d 1) (.ring .L)
  | .vsinpi h d a => hu h (vr a 1) (vr d 1) (.ring .L)
  | .vcospi h d a => hu h (vr a 1) (vr d 1) (.ring .L)
  | .vtanh h d a => hu h (vr a 1) (vr d 1) (.ring .L)
  | .vcvt h st dt _ _ d a => hu h (vr a (typeRegs st)) (vr d (typeRegs dt)) (.fixed 6)
  | .vcvtPk h _ _ _ d a b => hu h (vr a 1 ++ vr b 1) (vr d 1) (.fixed 6)
  | .vcvtPk4 h _ _ _ d a => hu h (vr a 4) (vr d 1) (.fixed 6)
  | .vcvtUnpk4 h _ d a => hu h (vr a 1) (vr d 4) (.fixed 6)
  | .vcvtUnpk h _ d a => hu h (vr a 1) (vr d 2) (.fixed 6)
  | .vqnt h _ _ _ d a g => hu h (vr a 1 ++ vr g 1) (vr d 1) (.fixed 8)
  | .vdeq h _ d a g => hu h (vr a 1 ++ vr g 1) (vr d 1) (.fixed 8)
  | .vshfl h _ d a b => hu h (vr a 1 ++ vb b) (vr d 1) (.fixed 8)
  | .vvoteAny h d a => hu h (pr a) (pr d) (.fixed 8)
  | .vvoteAll h d a => hu h (pr a) (pr d) (.fixed 8)
  | .vvoteUni h d a => hu h (pr a) (pr d) (.fixed 8)
  | .vballot h d a => hu h (pr a) (vr d 1) (.fixed 8)
  | .vred h _ d a p => hu h (vr a 1 ++ pr p) (vr d 1) (.ring .L)
  | .vscan h _ d a => hu h (vr a 1) (vr d 1) (.ring .L)
  | .amov h w d _ => hu h ([]) (vr d (tileRegs w)) (.ring .L)
  | .amovw h w src _ => hu h (vr src (tileRegs w)) ([]) .none
  | .azero h _ => hu h ([]) ([]) .none
  | .lbrk h _ => hu h ([]) ([]) .none
  | .trapEntry _ => nu
  | .claimGrant _ _ => nu
  | .drainGroupStart _ _ => nu
  | .teamPlace _ _ _ => nu
  | .teamRetire _ => nu
  | .engineLanding _ _ _ => nu
  | .qhistDone _ _ => nu
  | .hstreamLine _ _ => nu
  | .batchComplete _ => nu
  | .groupword _ => nu
  | .settle _ => nu
  | .settleAck _ _ => nu
  | .backgroundSettle _ => nu
  | .homeTimeout _ _ => nu
  | .reinSlot _ _ => nu
  | .refill _ => nu
  | .refillEnd _ => nu
  | .stackWriteback _ _ _ => nu
  | .prefetch _ _ _ => nu
  | .translateWalk _ _ _ => nu
  | .pagefault _ => nu
  | .fresumeRetry _ _ => nu
  | .fresumeFail _ _ => nu
  | .preemptReq _ => nu
  | .preemptRestore _ => nu
  | .drainBound _ => nu
  | .save _ => nu
  | .restore _ _ => nu
  | .stateError _ => nu
  | .softError _ _ => nu
  | .scrub _ => nu
  | .snapCopyOnWrite _ _ => nu
  | .snapEnd _ => nu
  | .lqcfgWrite _ _ => nu
  | .lqtailWrite _ _ => nu
  | .depPoll _ => nu
  | .launchTake _ => nu
  | .hitchActivate _ => nu
  | .launchComplete _ => nu
  | .rangeIssue _ _ _ => nu
  | .stealRequest _ _ => nu
  | .landing _ _ _ => nu
  | .lendAck _ _ _ => nu
  | .transfer _ _ _ => nu
  | .confirmation _ _ _ => nu
  | .lendRefusal _ _ _ => nu
  | .lendReclaim _ _ _ => nu
  | .landedTimeout _ _ _ => nu
  | .teamsterTick _ => nu
  | .moveEnd _ => nu
  | .deadlockTick _ => nu
  | .donewWrite _ => nu
  | .fenceDeck _ => nu
  | .fqcfgWrite _ _ => nu
  | .fqheadWrite _ _ => nu
  | .registerWrite _ _ => nu
  | .powerUp => nu
  | .attest => nu
  | .merge => nu
  | .split => nu
  | .reset => nu
  | .pkgreset => nu
  | .sleep => nu
  | .wake => nu
  | .erase => nu
  | .tamperpolWrite _ => nu
  | .pwrcapWrite _ => nu
  | .tamperAlarm _ => nu
  | .powerControl _ _ => nu
  | .thermalHalt => nu
  | .perstDeassert => nu
  | .linkUp _ _ _ _ => nu
  | .hostLinkReset => nu
  | .portcfgWrite _ _ => nu
  | .portUp _ _ => nu
  | .portFail _ => nu
  | .hostMemRead _ => nu
  | .hostMemWrite _ _ => nu
  | .biconflict _ => nu
  | .hostSnoop _ _ => nu
  | .flip _ _ => nu
  | .flipComplete _ => nu
  | .msixSend _ => nu
  | .tile _ _ => nu
  | .commit _ _ => nu
  | .credit _ _ => nu
  | .close _ _ => nu
  | .pause _ _ => nu
  | .resume _ _ => nu
  | .abort _ _ => nu
  | .mergeHoldExpiry _ _ => nu
  | .formatComplete => nu
  | .errorCompletion _ => nu
  | .droppedMessage _ _ => nu

/-! ## Locked registers (R252) -/

/-- Bits of an element of a format code (05 R117, 11 R250). -/
def fmtBits (f : Nat) : Nat :=
  match f with
  | 0 => 32
  | 1 | 2 => 16
  | 7 => 4
  | _ => 8

/-- The lane registers of A of an `mma.v`: first and count. -/
def MatOp.aRegs (m : MatOp) : Nat × Nat :=
  (bits m.region.toNat 23 8, bits m.region.toNat 14 9 * fmtBits (m.fmt.toNat % 16) / 32)

/-- The register is locked by a matrix operation of the group that has not run. -/
def State.locked (s : State) (g r : Nat) : Bool :=
  (s.core (coreOf g)).matq.any (fun m => m.kind == .mmaV && m.gid == g && !m.ran && decide (m.aRegs.1 ≤ r) && decide (r < m.aRegs.1 + m.aRegs.2))

/-! ## Completion rings (R171) -/

/-- Capacity of a ring. -/
def Ring.cap : Ring → Nat
  | .M => 15
  | .L => 7
  | .F => 3

/-- The wait field of a ring. -/
def schedWait (t : Sched) : Ring → Nat
  | .M => t.wm.toNat
  | .L => t.wl.toNat
  | .F => t.wf.toNat

/-- Drops the oldest words of ring F whose lanes are all answered. -/
def retireF : Tab Word → Tab Word
  | [] => []
  | (k, m) :: t => if m == 0 then retireF t else (k, m) :: t

/-- The rings after the words that a wait or a full ring lets pass have retired; none while a deferred future load holds the
word back. -/
def ringWait (x : Group) (t : Sched) (c : LaneClass) : Option Group :=
  let lim (r : Ring) : Nat := min (if schedWait t r == 0 then r.cap else schedWait t r - 1) (if c == .ring r then r.cap - 1 else r.cap)
  let f := retireF x.ringF
  if f.length ≤ lim .F then some { x with ringM := min x.ringM (lim .M), ringL := min x.ringL (lim .L), ringF := f } else none

/-- A word of ring M or L joins it. -/
def ringJoin (x : Group) (c : LaneClass) : Group :=
  match c with
  | .ring .M => { x with ringM := x.ringM + 1 }
  | .ring .L => { x with ringL := x.ringL + 1 }
  | _ => x

/-! ## Counts (R170 to R172) -/

/-- The consumer's count of a producer is undersized (R172). `left` is the latency left of a fixed producer, or the number of
the ring's words issued since. -/
def Hazard.under (z : Hazard) (t : Sched) : Bool :=
  match z.ring with
  | none => 0 < z.left
  | some r => !(r.cap ≤ z.left || (schedWait t r != 0 && schedWait t r - 1 ≤ z.left))

/-- The value of a register or predicate in the 32 lanes (a predicate as its mask). -/
def State.hazVal (s : State) (g : Nat) (e : Bool × Nat) : List Word :=
  if e.1 then [s.pmask g e.2] else (List.range 32).map (fun l => s.rv g e.2 l)

/-- Puts a value back. -/
def State.setHaz (s : State) (g : Nat) (e : Bool × Nat) (v : List Word) : State :=
  if e.1 then s.onGrp g (fun x => { x with p := x.p.set 0 e.2 (v.getD 0 0) })
  else s.wvs g e.2 ((List.range 32).map (fun l => (l, v.getD l 0)))

/-- Puts a value back into the group's own register, whatever its mode. -/
def State.setOwn (s : State) (g : Nat) (e : Bool × Nat) (v : List Word) : State :=
  s.onGrp g (fun x =>
    if e.1 then { x with p := x.p.set 0 e.2 (v.getD 0 0) }
    else { x with v := (List.range 32).foldl (fun t l => t.set 0 (e.2 * 32 + l) (v.getD l 0)) x.v })

/-- Lane by lane one of two values, freely (R172, log 7). -/
def mixVal (id : Nat) (e : Bool × Nat) (old new : List Word) : List Word :=
  let pick (l : Nat) : Bool := Config.pickOld id (64 * e.2 + (if e.1 then 32 else 0) + l)
  if e.1 then
    let m := laneMask (indices 32 pick)
    [(old.getD 0 0 &&& m) ||| (new.getD 0 0 &&& ~~~m)]
  else (List.range 32).map (fun l => if pick l then old.getD l 0 else new.getD l 0)

/-- The hazards of the word's registers whose count is undersized. -/
def undersized (x : Group) (u : LaneUse) : List Hazard :=
  x.hazards.filter (fun z => (u.src.contains (z.pred, z.reg) || u.dst.contains (z.pred, z.reg)) && z.under u.t)

/-- A hazard that CHECKMODE traps on (R172, R173). -/
def Hazard.checked (z : Hazard) (mode : GWord) : Bool :=
  match z.ring with
  | none => mode.getLsbD 0
  | some _ => mode.getLsbD 1

/-- The state that the word executes in: every undersized register that it reads holds, lane by lane, its old or its new value. -/
def mixIn (s : State) (g : Nat) (u : LaneUse) (zs : List Hazard) : State :=
  (zs.filter (fun z => u.src.contains (z.pred, z.reg))).foldl (fun t z => t.setHaz g (z.pred, z.reg) (mixVal s.freeCtr (z.pred, z.reg) z.old (s.hazVal g (z.pred, z.reg)))) s.tick

/-- The word may leave its destination alone in a lane that takes part: a future load that is deferred or refused, and a refill with no
item. -/
def mayRefuse (i : Instr) : Bool :=
  match i with
  | .vldf _ _ _ _ _ _ _ | .vldfTake _ _ _ _ _ _ _ | .lloopRefill _ _ _ => true
  | _ => false

/-- After the word, which executed in state m: a register that it only read holds its new value; one that it wrote holds either value in
the lanes that it wrote, and the producer's in the others. -/
def mixOut (s m : State) (g : Nat) (i : Instr) (u : LaneUse) (zs : List Hazard) (s' : State) : State :=
  let took := match u.h with
    | some h => laneMask (m.taking g h)
    | none => BitVec.allOnes 32
  zs.foldl (fun t z =>
    let e := (z.pred, z.reg)
    let new := s.hazVal g e
    let pre := m.hazVal g e
    let post := t.hazVal g e
    let v := mixVal (s.freeCtr + 1) e new post
    if !u.dst.contains e then t.setHaz g e new
    else if !u.src.contains e then t.setHaz g e v
    else if z.pred then
      let k := if mayRefuse i then took &&& (pre.getD 0 0 ^^^ post.getD 0 0) else took
      t.setHaz g e [(v.getD 0 0 &&& k) ||| (new.getD 0 0 &&& ~~~k)]
    else
      t.setHaz g e ((List.range 32).map (fun l =>
        if took.getLsbD l && !(mayRefuse i && pre.getD l 0 == post.getD l 0) then v.getD l 0 else new.getD l 0))) s'.tick

/-- The lanes of a predicate that a trap's withdrawal of deferred future loads has refused (03 R75). -/
def refusedLanes (s s' : State) (g p : Nat) : Word :=
  (s.deferred.filter (fun d => d.gid == g && d.p == p && !s'.deferred.contains d)).foldl (fun m d => m ||| d.lanes) 0

/-- After a word that waits, traps or is to fault: it has written nothing, and every register holds its producer's value (R172, R174).
A team that has ended has none; a handler that has been entered leaves them in the group. -/
def unmix (s : State) (g : Nat) (zs : List Hazard) (s' : State) : State :=
  if !s'.occupied g then s'
  else
    zs.foldl (fun t z =>
      let e := (z.pred, z.reg)
      let v := s.hazVal g e
      let v := if z.pred then v.map (fun w => w &&& ~~~(refusedLanes s s' g z.reg)) else v
      if (s'.grp g).sys == (s.grp g).sys then t.setHaz g e v else t.setOwn g e v) s'

/-- The hazards after a word has issued: counts advance, and its own results are pending. -/
def nextHazards (s : State) (g : Nat) (u : LaneUse) : List Hazard :=
  let gap := max 1 u.t.gap.toNat
  let aged := (s.grp g).hazards.filterMap (fun z =>
    if u.dst.contains (z.pred, z.reg) then none
    else
      match z.ring with
      | none => if z.left ≤ gap then none else some { z with left := z.left - gap }
      | some r =>
        let n := if u.cls == .ring r then z.left + 1 else z.left
        if r.cap ≤ n then none else some { z with left := n })
  match u.cls with
  | .none => aged
  | .fixed l => aged ++ (u.dst.map (fun e => { pred := e.1, reg := e.2, ring := none, left := l - gap, old := s.hazVal g e })).filter (fun z => 0 < z.left)
  | .ring r => aged ++ u.dst.map (fun e => { pred := e.1, reg := e.2, ring := some r, left := 0, old := s.hazVal g e })

/-- The lane word completed: the stream neither waits nor has trapped. -/
def completed (s s' : State) (g : Nat) : Bool :=
  (s'.grp g).lwait == .none && (s'.grp g).pend == none && (s'.grp g).sys == (s.grp g).sys

/-- Issues a lane word around its own effect `ex` (R169 to R172): locked destinations and rings first, then the counts, then the
word's own checks (log 70). -/
def issueLane (i : Instr) (ex : State → Host.Outcome State Fault Refusal) (s : State) : Host.Outcome State Fault Refusal :=
  let g := s.cur
  let u := laneUse i
  let zs := undersized (s.grp g) u
  let mode := (s.core (coreOf g)).checkmode
  if u.dst.any (fun e => !e.1 && s.locked g e.2) then .next (s.stallL g .latency)
  else
    match ringWait (s.grp g) u.t u.cls with
    | none => .next (s.stallL g (if u.t.wf != 0 && u.t.wf.toNat ≤ (retireF (s.grp g).ringF).length then .future else .latency))
    | some x =>
      let s := s.setGrp g x
      if zs.any (fun z => z.checked mode) then .next (s.takeTrap g true { code := cSTALLCOUNT, info := 0, lane := none, va := 0 })
      else
        let m := if zs.isEmpty then s else mixIn s g u zs
        match ex m with
        | .next s' =>
          if completed s s' g then
            let s' := if zs.isEmpty then s' else mixOut s m g i u zs s'
            .next (s'.onGrp g (fun y => ringJoin { y with hazards := nextHazards s g u } u.cls))
          else .next (unmix s g zs s')
        | .fault f => .fault f
        | .refused r => .refused r

end Sys2Proof.Machine
end

