-- ==== Sys2Proof/Machine/CtlGroup.lean ====
section
/-! DEFINITION. The lane queue, the end of a group, placement values, the format register, register claims, team barriers,
arrival words and item queues, as the control stream works them (02 R25 to R36, R42, 08 R195 to R203, 03 R69 to R71). -/

namespace Sys2Proof.Machine

open Sys2Proof

/-! ## The lane queue (02 R29 to R32) -/

/-- The effect of lrun and lrun.nr (R29, R195); in system mode they enqueue a handler block (15 R314). -/
def lrunAny (s : State) (g w : Nat) (a : GReg) (nr : Bool) : R State := do
  notFarrier g
  legal (w < (s.teamOf g).lcn)
  let x := s.grp g
  let e : QEntry := { arg := s.rg g a, block := w, nr := nr, posted := false, fmt := x.fmt, count := x.count, result := 0 }
  if x.sys then
    if x.hblock.isSome then waitC s g .laneq
    else
      pure ((s.onGrp g (fun x => { x with hblock := some e, hlpc := w, dc := [], cm := 0, hazards := [], refillArr := false })).adv g 4)
  else if x.laneQ.length ≥ 8 then waitC s g .laneq
  else pure ((s.onGrp g (fun x => { x with laneQ := x.laneQ ++ [e] })).adv g 4)

/-- lrun (R195). -/
def execLrun (w : BitVec 19) (a : GReg) (s : State) : Host.Outcome State Fault Refusal := runCtrl s (fun g => lrunAny s g w.toNat a false)

/-- lrun.nr (R195). -/
def execLrunNr (w : BitVec 19) (a : GReg) (s : State) : Host.Outcome State Fault Refusal := runCtrl s (fun g => lrunAny s g w.toNat a true)

/-- lres (R31); in system mode it acts on handler blocks (15 R314). -/
def execLres (d : GReg) (s : State) : Host.Outcome State Fault Refusal :=
  runCtrl s (fun g => do
    notFarrier g
    let x := s.grp g
    if x.sys then
      match x.hresult with
      | w :: t => do
        let s ← (s.onGrp g (fun x => { x with hresult := t })).wg g d (w.zeroExtend 64)
        pure (s.adv g 4)
      | [] =>
        match x.hblock with
        | some e => if e.nr then .error (trapOf cILLEGAL) else waitC s g .laneq
        | none => .error (trapOf cILLEGAL)
    else
      match x.laneQ.find? (fun e => !e.nr) with
      | none => .error (trapOf cILLEGAL)
      | some e =>
        if e.posted then do
          let s ← (s.onGrp g (fun x => { x with laneQ := x.laneQ.eraseP (fun e => !e.nr) })).wg g d (e.result.zeroExtend 64)
          pure (s.adv g 4)
        else waitC s g .laneq)

/-- lwait (R32); in system mode it acts on handler blocks only (15 R314). The lane stream's accesses are then ordered before what the
control stream does next (04 R81). -/
def execLwait (s : State) : Host.Outcome State Fault Refusal :=
  runCtrl s (fun g => do
    notFarrier g
    if if (s.grp g).sys then (s.grp g).hblock.isNone else s.blocksEnded g then pure (((s.syncLane g).stackSync g).adv g 4)
    else waitC s g .laneq)

/-! ## Claims (02 R34 to R36) -/

/-- The occupied groups of a team in a bay. -/
def Team.bayGids (t : Team) (bay : Nat) : List Nat := t.gids.filter (fun g => bayOf g == bay)

/-- The first claim of a bay's sub-pool. -/
def Team.headClaim (t : Team) (bay : Nat) : Option Claim := t.claims.find? (fun c => c.bay == bay)

/-- The claim lock of R36: the head claim cannot be met and every occupied group of the bay waits in `vclaim`. -/
def State.claimLocked (s : State) (tid bay : Nat) : Bool :=
  let t := s.team tid
  match t.headClaim bay with
  | none => false
  | some c =>
    t.free.get 0 bay < c.n
      && (t.bayGids bay).all (fun g => !(s.grp g).sys && (s.grp g).cwait == .claim && t.claims.any (fun c => c.gid == g))

/-- Traps CLAIMLOCK in every group of a locked bay, its claim withdrawn (R36). -/
def State.claimTest (s : State) (tid bay : Nat) : State :=
  if s.claimLocked tid bay then
    ((s.team tid).bayGids bay).foldl (fun s g =>
      ((s.dropClaim g).onGrp g (fun x => { x with cwait := .none })).takeTrap g false
        { code := cCLAIMLOCK, info := 0, lane := none, va := 0 }) s
  else s

/-- The registers from lo up to hi become zero in every lane. -/
def Group.zeroRegs (x : Group) (lo hi : Nat) : Group := { x with v := x.v.dropIf (fun k _ => 32 * lo ≤ k && k < 32 * hi) }

/-- Grants n registers to a group, which goes on after its `vclaim`. -/
def State.grantClaim (s : State) (g n : Nat) : State :=
  let s := s.onTeam (s.grp g).team (fun t => { t with free := t.free.set 0 (bayOf g) (t.free.get 0 (bayOf g) - n) })
  (s.onGrp g (fun x => { x.zeroRegs x.count (x.count + n) with count := x.count + n })).adv g 4

/-- vgive (R34, R198): the field holds n / 8. -/
def execVgive (n : BitVec 6) (s : State) : Host.Outcome State Fault Refusal :=
  runCtrl s (fun g => do
    notFarrier g
    let k := 8 * n.toNat
    let c := (s.grp g).count
    legal (n.toNat != 0 && n.toNat ≤ 32 && k + 8 ≤ c)
    afterBlocks s g
    if (List.range k).any (fun j => s.locked g (c - k + j)) then waitC s g .latency
    else
      let s := s.onTeam (s.grp g).team (fun t => { t with free := t.free.set 0 (bayOf g) (t.free.get 0 (bayOf g) + k) })
      pure ((s.onGrp g (fun x => { x.zeroRegs (c - k) c with count := c - k })).adv g 4))

/-- vclaim (R34 to R36, R198). -/
def execVclaim (n : BitVec 6) (s : State) : Host.Outcome State Fault Refusal :=
  runCtrl s (fun g => do
    notFarrier g
    let k := 8 * n.toNat
    let x := s.grp g
    legal (n.toNat != 0 && n.toNat ≤ 32 && x.count + k ≤ 256)
    let t := s.teamOf g
    if (t.headClaim (bayOf g)).isNone && k ≤ t.free.get 0 (bayOf g) then pure (s.grantClaim g k)
    else
      let s := s.onTeam x.team (fun t => { t with claims := t.claims ++ [{ bay := bayOf g, gid := g, n := k }] })
      let s := s.onGrp g (fun y => { y with cwait := .claim })
      pure (s.claimTest x.team (bayOf g)))

/-- vcount (R198). -/
def execVcount (d : GReg) (s : State) : Host.Outcome State Fault Refusal :=
  ctlG s d (fun g => do
    notFarrier g
    pure (BitVec.ofNat 64 (s.grp g).count))

/-! ## Team barriers (R199) -/

/-- Arrivals that a phase needs. -/
def Team.barNeed (t : Team) (b : Barrier) : Nat := if 0 < b.expect then b.expect else t.gids.length

/-- A barrier that no group has arrived at. -/
def barEmpty : Barrier := { arrived := 0, expect := 0, phase := 0 }

/-- test(k) of R199: a complete phase ends and the next one begins. -/
def Team.barTest (t : Team) (k : Nat) : Team :=
  let b := t.bars.get barEmpty k
  if 0 < b.arrived && t.barNeed b ≤ b.arrived then { t with bars := t.bars.put k { b with arrived := 0, phase := b.phase + 1 } } else t

/-- test of every barrier, at a `gend`. -/
def Team.barTestAll (t : Team) : Team := (List.range 16).foldl Team.barTest t

/-- arrive(k, cnt) of R199: the state, and the phase arrived in. -/
def arrive (s : State) (g k : Nat) (cnt : GWord) : R (State × Nat) :=
  let tid := (s.grp g).team
  let b := (s.team tid).bars.get barEmpty k
  if 16 < cnt.toNat || (b.arrived != 0 && cnt.toNat != b.expect) then .error (trapOf cILLEGAL)
  else
    let b' := { b with arrived := b.arrived + 1, expect := if b.arrived = 0 then cnt.toNat else b.expect }
    .ok (s.onTeam tid (fun t => Team.barTest { t with bars := t.bars.put k b' } k), b.phase)

/-- nbsync (R199): a wait holds the phase that it has arrived in. -/
def execNbsync (k : BitVec 4) (a : GReg) (s : State) : Host.Outcome State Fault Refusal :=
  runCtrl s (fun g => do
    notFarrier g
    let phase (s : State) (j : Nat) : Nat := ((s.teamOf g).bars.get barEmpty j).phase
    match (s.grp g).bphase with
    | some (j, ph) =>
      if phase s j == ph then waitC s g .barrier else pure ((s.onGrp g (fun x => { x with bphase := none })).adv g 4)
    | none => do
      let (s, ph) ← arrive s g k.toNat (s.rg g a)
      if phase s k.toNat == ph then waitC (s.onGrp g (fun x => { x with bphase := some (k.toNat, ph) })) g .barrier
      else pure (s.adv g 4))

/-- nbarrive (R199). -/
def execNbarrive (k : BitVec 4) (a : GReg) (s : State) : Host.Outcome State Fault Refusal :=
  runCtrl s (fun g => do
    notFarrier g
    let (s, _) ← arrive s g k.toNat (s.rg g a)
    pure (s.adv g 4))

/-! ## The end of a group (02 R25) -/

/-- The number under which the matrix operations of an ended group of a slot stay in the queue. -/
def endedGid (g : Nat) : Nat := g + 2 ^ 32

/-- Empties the group's slot: its registers return, its barriers and its bay's claims are tested. Its open batch is closed, and its window
writes that its deck has accepted go on without it (04 R110). -/
def State.endGroup (s : State) (g : Nat) : State :=
  let x := s.grp g
  let s := ((((s.withdraw g).dropMark g).dropEarly g).freeBank g).dropClaim g
  let s := s.onDeck (deckOf g) (fun d => { d with sendQ := d.sendQ.map (RWrite.orphan [g]), own := d.own.map (RWrite.orphan [g]) })
  let s := s.onTeam x.team (fun t =>
    Team.barTestAll { t with
      free := t.free.set 0 (bayOf g) (t.free.get 0 (bayOf g) + x.count),
      slots := t.slots.map (fun h => if h.slot == slotOf g && h.occ then { h with occ := false } else h) })
  let s := s.onCore (coreOf g) (fun k => { k with matq := k.matq.map (fun m => if m.gid == g then { m with gid := endedGid g } else m) })
  let s := { s with groups := s.groups.del g }
  s.claimTest x.team (bayOf g)

/-- A matrix operation of the group has not read its lane registers. -/
def State.mmaVPending (s : State) (g : Nat) : Bool := (s.core (coreOf g)).matq.any (fun m => m.gid == g && m.kind == .mmaV && !m.ran)

/-- gend (R25): after its blocks and its own accesses; a matrix operation reads its lane registers before they return (log 17). -/
def execGend (s : State) : Host.Outcome State Fault Refusal :=
  runCtrl s (fun g => do
    notFarrier g
    if !((s.grp g).laneQ.all (fun e => e.posted) && (s.grp g).hblock.isNone) then waitC s g .laneq
    else if s.mmaVPending g then waitC s g .latency
    else pure (s.endGroup g))

/-! ## Placement values and the format register (R196 to R198) -/

/-- gloc: the location word (01 R11). -/
def execGloc (d : GReg) (s : State) : Host.Outcome State Fault Refusal :=
  ctlG s d (fun g => do
    notFarrier g
    pure (BitVec.ofNat 64 (s.codeOf g * 2 ^ 29 + deckOf g * 2 ^ 26 + coreOf g * 2 ^ 17 + slotOf g * 2 ^ 11)))

/-- grole (R27). -/
def execGrole (d : GReg) (s : State) : Host.Outcome State Fault Refusal :=
  ctlG s d (fun g => do
    notFarrier g
    pure ((s.grp g).role.zeroExtend 64))

/-- The launch value of a number (R197). -/
def LaunchVals.value (v : LaunchVals) (n : Nat) : Option GWord :=
  let w (x : Word) : Option GWord := some (x.zeroExtend 64)
  match n with
  | 0 => w v.x | 1 => w v.y | 2 => w v.z | 3 => w v.gx | 4 => w v.gy | 5 => w v.gz
  | 6 => w (v.shape.getD 0 0) | 7 => w (v.shape.getD 1 0) | 8 => w (v.shape.getD 2 0) | 9 => w (v.shape.getD 3 0)
  | 10 => some (BitVec.ofNat 64 v.bucket) | 11 => some v.args | 12 => some (BitVec.ofNat 64 v.stage) | _ => none

/-- glv (R197). -/
def execGlv (d : GReg) (n : BitVec 4) (s : State) : Host.Outcome State Fault Refusal :=
  ctlG s d (fun g => do
    notFarrier g
    match (s.teamOf g).lv.value n.toNat with
    | some v => pure v
    | none => .error (trapOf cILLEGAL))

/-- A value for fmt is well formed (05 R120). -/
def fmtOk (w : Nat) : Bool :=
  w / 2 ^ 17 == 0 && !bit w 8 && bits w 0 4 ≤ 7 && bits w 4 4 ≤ 7 && bits w 10 2 ≤ 2 && bits w 12 3 ≤ 4

/-- fmtset (R198). -/
def execFmtset (a : GReg) (s : State) : Host.Outcome State Fault Refusal :=
  runCtrl s (fun g => do
    notFarrier g
    let w := s.rg g a
    legal (fmtOk w.toNat)
    pure ((s.onGrp g (fun x => { x with fmt := w.setWidth 32 })).adv g 4))

/-- fmtget (R198). -/
def execFmtget (d : GReg) (s : State) : Host.Outcome State Fault Refusal :=
  ctlG s d (fun g => do
    notFarrier g
    pure ((s.grp g).fmt.zeroExtend 64))

/-- gseed (R198, 05 R123). -/
def execGseed (a : GReg) (s : State) : Host.Outcome State Fault Refusal :=
  runCtrl s (fun g => do
    notFarrier g
    afterBlocks s g
    pure ((s.onGrp g (fun x => { x with gen := (List.range 32).map (fun l => (l, seedLane (s.rg g a) l)) })).adv g 4))

/-! ## Arrival words (R201) -/

/-- The offset of an arrival word, for an access that writes it or not: BOUNDS, ALIGN, RANGELOCK (04 R99), and CHECKFAIL of a
poisoned sector (17 R370). -/
def arrivalWord (s : State) (g : Nat) (a : GReg) (write : Bool) : R Nat :=
  let o := (s.rg g a).toNat
  if (s.teamOf g).scratch < o + 16 then .error (trapAt cBOUNDS 16 none o)
  else if o % 16 != 0 then .error (trapAt cALIGN 0 none o)
  else
    match lockHit (s.core (coreOf g)).locks false (s.grp g).team o (o + 16) write with
    | some e => .error (trapAt cRANGELOCK e none o)
    | none => if (s.teamOf g).winBad o 16 then .error (trapAt cCHECKFAIL 0 none o) else .ok o

/-- aset (R201). -/
def execAset (d a b : GReg) (s : State) : Host.Outcome State Fault Refusal :=
  runCtrl s (fun g => do
    notFarrier g
    legal ((s.rg g b).toNat < 2 ^ 32)
    let o ← arrivalWord s g a true
    let t := s.teamOf g
    let v := (t.winW (o + 8)).zeroExtend 64
    let f := t.winW (o + 12) &&& ~~~7#32
    let target := (s.rg g b).setWidth 32
    let s ← s.wg g d v
    let s := s.onTeam (s.grp g).team (fun t => (((t.winSetW o target).winSetW (o + 4) 0).winSetW (o + 12) f))
    pure (s.adv g 4))

/-- Generation n of a word is reached (R71). -/
def reached (gen n : Word) : Bool := (gen - n).toNat < 2 ^ 31

/-- await (R201, R71). -/
def execAwait (a b : GReg) (s : State) : Host.Outcome State Fault Refusal :=
  runCtrl s (fun g => do
    notFarrier g
    let o ← arrivalWord s g a false
    if reached ((s.teamOf g).winW (o + 8)) ((s.rg g b).setWidth 32) then pure (s.adv g 4) else waitC s g .arrival)

/-- aread (R201). -/
def execAread (d a : GReg) (s : State) : Host.Outcome State Fault Refusal :=
  ctlG s d (fun g => do
    notFarrier g
    let o ← arrivalWord s g a false
    let t := s.teamOf g
    pure (BitVec.ofNat 64 ((t.winW (o + 8)).toNat + (t.winW (o + 12)).toNat % 8 * 2 ^ 32)))

/-- apost (R201, R70). -/
def execApost (a b : GReg) (s : State) : Host.Outcome State Fault Refusal :=
  runCtrl s (fun g => do
    notFarrier g
    let o ← arrivalWord s g a true
    pure ((s.post (s.grp g).team o ((s.rg g b).toNat % 2 ^ 32) 0).adv g 4))

/-! ## Item queues (R202) -/

/-- The entries of an item queue. -/
def Team.queue (t : Team) (k : Nat) : List GWord := t.iqs.get [] k

/-- Replaces an item queue. -/
def Team.setQueue (t : Team) (k : Nat) (l : List GWord) : Team := { t with iqs := t.iqs.set [] k l }

/-- The queue is bound (02 R46). -/
def Team.boundQ (t : Team) (k : Nat) : Bool :=
  match t.binds[k]? with
  | some b => b.bound
  | none => false

/-- iqpush (R202). -/
def execIqpush (d : QReg) (k : BitVec 5) (a : GReg) (s : State) : Host.Outcome State Fault Refusal :=
  runCtrl s (fun g => do
    notFarrier g
    let t := s.teamOf g
    legal (k.toNat < t.niq)
    let l := t.queue k.toNat
    if l.length < 256 then
      pure (((s.onTeam (s.grp g).team (fun t => t.setQueue k.toNat (l ++ [s.rg g a]))).wq g d true).adv g 4)
    else pure ((s.wq g d false).adv g 4))

/-- iqstat (R202). -/
def execIqstat (d : GReg) (k : BitVec 5) (s : State) : Host.Outcome State Fault Refusal :=
  ctlG s d (fun g => do
    notFarrier g
    let t := s.teamOf g
    legal (k.toNat < t.niq)
    pure (BitVec.ofNat 64 ((t.queue k.toNat).length + b2n (t.boundQ k.toNat) * 2 ^ 9)))

end Sys2Proof.Machine
end

