-- ==== Sys2Proof/Machine/Engine.lean ====
section
/-! DEFINITION. Engine commands at their issue: operands, the seven steps of 11 R248, matrix operations and batches, copies,
multicasts, host streams and the histogram unit (11 R247 to R262, 03 R67, R68, 04 R96 to R101, 06 R145, R146, R151). -/

namespace Sys2Proof.Machine

open Sys2Proof

/-! ## Scratchpad operands (03 R67, R68) -/

/-- A scratchpad operand: offset, ROWPITCH, TILEPITCH, ROT. -/
structure Scr where
  off   : Nat
  rowp  : Nat
  tilep : Nat
  rot   : Nat
  deriving DecidableEq, Repr

/-- The operand of an offset register and a descriptor register, with the ILLEGAL checks of R68. -/
def scrOf (o d : GWord) : R Scr :=
  let x : Scr := { off := o.toNat, rowp := bits d.toNat 0 16, tilep := bits d.toNat 16 23, rot := bits d.toNat 39 6 }
  if o.toNat < 2 ^ 23 && d.toNat < 2 ^ 45 && x.off % 16 == 0 && x.rowp % 16 == 0 && x.tilep % 128 == 0
      && (x.rot == 0 || x.rowp % 128 == 0) then .ok x
  else .error (trapOf cILLEGAL)

/-- The window offset of byte b of row i of tile j: the row lies from its rotated start on, and a rotated row stays in the aligned 8 KiB
block (R68, log 15). -/
def Scr.byteAt (x : Scr) (j i b : Nat) : Nat :=
  let o := x.off + j * x.tilep + i * x.rowp
  if x.rot == 0 then o + b else o / 8192 * 8192 + ((bits o 7 6 + i * x.rot) % 64 * 128 + o % 128 + b) % 8192

/-- One past the last byte of rows of n bytes of tile j, without rotation. -/
def Scr.endOf (x : Scr) (j rows n : Nat) : Nat := x.off + j * x.tilep + (rows - 1) * x.rowp + n

/-- BOUNDS: a row of tile j at or beyond the window; TRAPVA is the operand's offset (R68, 15 R313, log 60). -/
def Scr.check (x : Scr) (scratch j rows n : Nat) : R Unit :=
  if (List.range rows).any (fun i => decide (scratch < x.off + j * x.tilep + i * x.rowp + n)) then
    .error (trapAt cBOUNDS 16 none x.off)
  else .ok ()

/-- The range that is registered: widened to aligned 8 KiB blocks under rotation (R248). -/
def Scr.range (x : Scr) (hi : Nat) : Nat × Nat :=
  if x.rot == 0 then (x.off, hi) else (x.off / 8192 * 8192, (hi + 8191) / 8192 * 8192)

/-- An arrival word that a command names: BOUNDS (R69). -/
def awBounds (scratch o : Nat) : R Unit := if scratch < o + 16 then .error (trapAt cBOUNDS 16 none o) else .ok ()
/-- An arrival word that a command names: ALIGN (R69). -/
def awAlign (o : Nat) : R Unit := if o % 16 != 0 then .error (trapAt cALIGN 0 none o) else .ok ()

/-! ## Global operands -/

/-- Rows of a buffer record: record offset of row 0, pitch, number and length. -/
structure Glob where
  slot : Nat
  rcd  : BufRec
  off  : Int
  pitch : Nat
  rows : Nat
  n    : Nat
  deriving DecidableEq, Repr

/-- The record offset of row i. -/
def Glob.row (x : Glob) (i : Nat) : Int := x.off + (i * x.pitch : Nat)

/-- BOUNDS: the first row outside the record, or not permitted (R58). -/
def Glob.check (x : Glob) (k : AccKind) : R Unit :=
  match (List.range x.rows).find? (fun i => !(x.rcd.inBounds (x.row i) x.n && x.rcd.permits k)) with
  | some i => .error (trapAt cBOUNDS x.slot none (x.row i))
  | none => .ok ()

/-- ALIGN: the first row whose address is not a multiple of m. -/
def Glob.align (x : Glob) (m : Nat) : R Unit :=
  match (List.range x.rows).find? (fun i => (x.rcd.address (x.row i)).toNat % m != 0) with
  | some i => .error (trapAt cALIGN 0 none (x.rcd.address (x.row i)))
  | none => .ok ()

/-- The virtual lines of the rows: the swizzle keeps a row's chunks in their lines. -/
def Glob.lines (x : Glob) : List Nat :=
  (List.range x.rows).flatMap (fun i =>
    let a := (x.rcd.base.toNat + (x.row i)).toNat
    (List.range ((a % 128 + x.n + 127) / 128)).map (fun k => (a / 128 + k) * 128))

/-- The virtual address of byte b of row i. -/
def Glob.byteVa (x : Glob) (i b : Nat) : Nat := (x.rcd.address (x.row i + b)).toNat

/-- The parts of row i that lie in one swizzle chunk of 16 bytes each: first byte and length (03 R58). -/
def Glob.chunks (x : Glob) (i : Nat) : List (Nat × Nat) :=
  let a := (x.row i % 16).toNat
  ((List.range ((a + x.n + 15) / 16)).map (fun c => (16 * c - a, min x.n (16 * (c + 1) - a) - (16 * c - a)))).filter (fun e => e.2 != 0)

/-- The smallest range that holds every byte of the rows (R248). -/
def Glob.range (x : Glob) : Nat × Nat :=
  match (List.range x.rows).flatMap (fun i => (x.chunks i).map (fun e => (x.byteVa i e.1, x.byteVa i e.1 + e.2))) with
  | [] => (0, 0)
  | (l, h) :: t => t.foldl (fun a e => (min a.1 e.1, max a.2 e.2)) (l, h)

/-- The record in a slot for a command, or BOUNDS when the slot is invalid (R58). -/
def globOf (s : State) (g slot : Nat) (off : Int) (pitch : BufRec → Nat) (rows n : Nat) : R Glob :=
  match s.slotRec g (BitVec.ofNat 4 slot) with
  | some b => .ok { slot := slot, rcd := b, off := off, pitch := pitch b, rows := rows, n := n }
  | none => .error (trapAt cBOUNDS slot none off)

/-! ## Steps 5 to 7 (R248) -/

/-- Accesses of lines as step 5 translates them. -/
def lineReqs (l : List Nat) : List (Option Nat × Nat × Nat) := l.map (fun va => (none, va, 128))

/-- Puts back a partition's flip. -/
def State.setFlip (s : State) (p : Nat) (f : Option (Nat × Bool)) : State := s.onPart p (fun x => { x with flip := f })

/-- Translates the lines of the source and of the destination: an ACCESS on any line comes before a PAGEFAULT on any (step 5). A
page that is being flipped holds the command at step 7 only (16 R339). -/
def translateLines (s : State) (g : Nat) (src dst : List Nat) : R (State × List Acc × List Acc) :=
  let c := coreOf g
  let ctx := s.ctxOf g
  let p := s.codeOf g
  let back (t : State) : State := t.setFlip p (s.part p).flip
  let s0 := s.setFlip p none
  match translateAll s0 c ctx .engRead anyPage (lineReqs src) with
  | .ok (s, a) =>
    match translateAll s c ctx .engWrite anyPage (lineReqs dst) with
    | .ok (s, b) => .ok (back s, a, b)
    | .error (.wait s) => .error (.wait (back s))
    | .error e => .error e
  | .error (.trap t k) => .error (.trap t k)
  | .error e =>
    match translateAll s0 c ctx .engWrite anyPage (lineReqs dst) with
    | .error (.trap t k) => .error (.trap t k)
    | _ =>
      match e with
      | .wait s => .error (.wait (back s))
      | e => .error e

/-- The page that is being flipped in a partition is mapped by a page of some ranges of a context (16 R338). -/
def State.flipTouches (s : State) (p ctx : Nat) (l : List (Nat × Nat)) : Bool :=
  match (s.part p).flip with
  | none => false
  | some (pg, _) => l.any (fun r => rangeMaps s p ctx r (pg * 4096) 4096)

/-- Step 7 waits, stalled BATCH, while a page that the command's ranges touch is being flipped (16 R339). -/
def flipOrWait (s : State) (g : Nat) (l : List (Nat × Nat)) : R Unit :=
  if s.flipTouches (s.codeOf g) (s.ctxOf g) l then .error (.wait (s.onGrp g (fun x => { x with cwait := .flip .batch }))) else .ok ()

/-- The line map of translated lines. -/
def lineMap (l : List Acc) : List (Nat × Nat) := l.map (fun a => (a.va / 128, a.tr.pa / 128))

/-- The lines of a core's L1 that a range of virtual addresses of a context maps to. -/
def State.l1InRange (s : State) (c ctx : Nat) (r : Nat × Nat) : List Nat :=
  ((s.core c).l1.map Prod.fst).filter (fun l => rangeMaps s (s.codeOfCore c) ctx r (l * 128) 128)

/-- Step 6: dirty lines that overlap a range are written back, those of a destination are invalidated (R96). The lines of a range are
the ones that step 5 translated and those between them, as the page tables map them (log 80). -/
def engineL1 (s : State) (g : Nat) (src dst : List Acc) (srcR dstR : List (Nat × Nat)) : State :=
  let c := coreOf g
  let gap (s : State) (r : List (Nat × Nat)) : List Nat := r.flatMap (s.l1InRange c (s.ctxOf g))
  let l1 : List Nat := src.map (fun (a : Acc) => a.tr.pa / 128)
  let l2 : List Nat := dst.map (fun (a : Acc) => a.tr.pa / 128)
  let s : State := (l1 ++ gap s srcR).foldl (fun (s : State) l => s.wbLine c l) s
  (l2 ++ gap s dstR).foldl (fun (s : State) l => s.flushLine c l) s

/-- Registers entries in the tables of cores, in one step; none when they do not all fit (R100). -/
def State.registerLocks (s : State) (l : List (Nat × LockE)) : Option State :=
  let fits := l.all (fun e => (s.core e.1).locks.length + (l.filter (fun f => f.1 == e.1)).length ≤ 64)
  if fits then
    some (l.foldl (fun s e => s.onCore e.1 (fun k => { k with locks := k.locks.put (k.locks.fresh 64 0) e.2 })) s)
  else none

/-- A source or destination entry of a scratchpad range. -/
def scrLock (tid : Nat) (r : Nat × Nat) (dst : Bool) (cmd : Nat) : LockE :=
  { glob := false, owner := tid, lo := r.1, hi := r.2, dst := dst, cmd := cmd }
/-- A source or destination entry of a global range. -/
def globLock (ctx : Nat) (r : Nat × Nat) (dst : Bool) (cmd : Nat) : LockE :=
  { glob := true, owner := ctx, lo := r.1, hi := r.2, dst := dst, cmd := cmd }

/-- Waits with BATCH while the entries do not fit; otherwise registers them. -/
def lockOrWait (s : State) (g : Nat) (l : List (Nat × LockE)) : R State :=
  match s.registerLocks l with
  | some s => .ok s
  | none => waitC s g .batch

/-- A command word of an engine: not on the Farrier, which has no team (log 16). -/
def runEngine (s : State) (m : Nat → R State) : Host.Outcome State Fault Refusal :=
  runCtrl s (fun g => do
    notFarrier g
    m g)

/-- The field names a pair. -/
def pairOk (r : GReg) : R Unit := legal (r.toNat % 2 == 0)

/-- The second register of a pair. -/
def State.rg2 (s : State) (g : Nat) (r : GReg) : GWord := s.rgN g (r.toNat + 1)

/-! ## Matrix operations (R249 to R255) -/

/-- Bits of an A or B element of a pair of formats, chunk width W, and whether the pair is quantised, when R121 accepts it. -/
def pairFmt (w : Nat) : Option (Nat × Nat × Bool) :=
  let a := bits w 0 4
  let b := bits w 4 4
  let acc := bits w 9 1
  if a == 2 && b == 2 && acc == 0 then some (16, 8, false)
  else if a == 1 && b == 1 && acc == 0 then some (16, 8, false)
  else if (a == 3 || a == 4) && (b == 3 || b == 4) && acc == 0 then some (8, 16, false)
  else if a == 5 && b == 5 then some (8, 16, false)
  else if a == 6 && b == 6 && acc == 0 then some (8, 16, true)
  else if a == 7 && b == 7 && acc == 0 then some (4, 32, true)
  else none

/-- Tiles of a region register of `mma` (R249). -/
def regionM (e : Nat) : Nat := 16 * (bits e 9 2 + 1)
def regionN (e : Nat) : Nat := 16 * (bits e 11 3 + 1)
def regionK (e : Nat) : Nat := bits e 14 9

/-- First tile and number of tiles of an operation. -/
def MatOp.tiles (m : MatOp) : Nat × Nat :=
  let e := m.region.toNat
  match m.kind with
  | .mma | .mmaV => (bits e 0 9, regionM e / 16 * (regionN e / 16))
  | .mmv => (bits e 0 9, bits e 9 6 + 1)

/-- The tile of a team is named by an operation that is not complete (10 R244). -/
def State.tileBusy (s : State) (tid n : Nat) : Bool :=
  (s.core (tid / 16)).matq.any (fun m => m.team == tid && m.tiles.1 ≤ n && n < m.tiles.1 + m.tiles.2)

/-- The checks of K and of the formats (R121, R249). -/
def matK (fmt : Nat) (k kmax : Nat) : R (Nat × Nat × Bool) :=
  match pairFmt fmt with
  | none => .error (trapOf cILLEGAL)
  | some (eb, w, q) =>
    if 1 ≤ k && k ≤ kmax && k % w == 0 && !(q && k % fmtG (BitVec.ofNat 32 fmt) != 0) then .ok (eb, w, q) else .error (trapOf cILLEGAL)

/-- The bytes of K group words of a row, or 0 for a pair that is not quantised. -/
def gwBytes (fmt k : Nat) (q : Bool) : Nat := if q then 4 * (k / fmtG (BitVec.ofNat 32 fmt)) else 0

/-- One past the last byte of a matrix operand of rows of n bytes, group words included. -/
def matEnd (x : Scr) (rows n gw : Nat) : Nat := max (x.endOf 0 rows n) (if gw == 0 then 0 else x.endOf 1 rows gw)

/-- BOUNDS of a matrix operand, group words included. -/
def matBounds (x : Scr) (scratch rows n gw : Nat) : R Unit := do
  x.check scratch 0 rows n
  if gw == 0 then pure () else x.check scratch 1 rows gw

/-- Joins the open batch of the group and the core's matrix queue, registering entries (step 7). -/
def matIssue (s : State) (g : Nat) (m : MatOp) (locks : List LockE) : R State :=
  let c := coreOf g
  if 64 ≤ (s.core c).matq.length then waitC s g .batch
  else do
    let s ← lockOrWait s g (locks.map (fun e => (c, e)))
    pure ((s.tick.onCore c (fun k => { k with matq := k.matq ++ [m] })).adv g 4)

/-- A matrix operation of a group, as it joins its open batch. -/
def newMat (s : State) (g : Nat) (kind : MatKind) (region : GWord) (regs : List GWord) (zero : Bool) : MatOp :=
  { id := s.freeCtr, kind := kind, gid := g, team := (s.grp g).team, batch := (s.grp g).bc + 1, region := region, regs := regs,
    rcd := none, tr := [], fmt := (s.grp g).fmt, zero := zero, chunks := 0, ran := false, bad := false,
    pre := [] }

/-- mma (R251). -/
def execMma (e a b : GReg) (z : Bool) (s : State) : Host.Outcome State Fault Refusal :=
  runEngine s (fun g => do
    pairOk a
    pairOk b
    let r := (s.rg g e).toNat
    let fmt := (s.grp g).fmt.toNat
    let k := regionK r
    legal (r < 2 ^ 31 && bits r 23 8 == 0)
    let (eb, _, q) ← matK fmt k 256
    let m := newMat s g .mma (s.rg g e) [s.rg g a, s.rg2 g a, s.rg g b, s.rg2 g b] z
    legal (m.tiles.1 + m.tiles.2 ≤ (s.teamOf g).acc)
    let xa ← scrOf (s.rg g a) (s.rg2 g a)
    let xb ← scrOf (s.rg g b) (s.rg2 g b)
    let gw := gwBytes fmt k q
    let n := k * eb / 8
    matBounds xa (s.teamOf g).scratch (regionM r) n gw
    matBounds xb (s.teamOf g).scratch (regionN r) n gw
    let tid := (s.grp g).team
    matIssue s g m [scrLock tid (xa.range (matEnd xa (regionM r) n gw)) false (2 * m.id),
                    scrLock tid (xb.range (matEnd xb (regionN r) n gw)) false (2 * m.id)])

/-- mma.v (R252): A from lane registers, once the blocks have ended. -/
def execMmaV (e b : GReg) (z : Bool) (s : State) : Host.Outcome State Fault Refusal :=
  runEngine s (fun g => do
    pairOk b
    let r := (s.rg g e).toNat
    let fmt := (s.grp g).fmt.toNat
    let k := regionK r
    let va := bits r 23 8
    legal (r < 2 ^ 31 && regionM r ≤ 32)
    let (eb, _, q) ← matK fmt k 256
    legal (!q && va % 4 == 0 && va + k * eb / 32 ≤ (s.grp g).count)
    let m := newMat s g .mmaV (s.rg g e) [0, 0, s.rg g b, s.rg2 g b] z
    legal (m.tiles.1 + m.tiles.2 ≤ (s.teamOf g).acc)
    let xb ← scrOf (s.rg g b) (s.rg2 g b)
    afterBlocks s g
    let n := k * eb / 8
    matBounds xb (s.teamOf g).scratch (regionN r) n 0
    matIssue s g m [scrLock (s.grp g).team (xb.range (matEnd xb (regionN r) n 0)) false (2 * m.id)])

/-- mmv (R253): resident vectors by weights that stream from global memory. The ALIGN of gW+1 reports that offset (log 95). -/
def execMmv (e v w : GReg) (z : Bool) (s : State) : Host.Outcome State Fault Refusal :=
  runEngine s (fun g => do
    pairOk v
    pairOk w
    let r := (s.rg g e).toNat
    let fmt := (s.grp g).fmt.toNat
    let k := bits r 18 14
    let nv := bits r 15 3 + 1
    let nn := 16 * (bits r 9 6 + 1)
    let slot := bits r 32 4
    legal (r < 2 ^ 36)
    let (eb, _, q) ← matK fmt k 8192
    let m := newMat s g .mmv (s.rg g e) [s.rg g v, s.rg2 g v, s.rg g w, s.rg2 g w] z
    legal (m.tiles.1 + m.tiles.2 ≤ (s.teamOf g).acc && (q || s.rg2 g w == 0))
    let xv ← scrOf (s.rg g v) (s.rg2 g v)
    let gw := gwBytes fmt k q
    let n := k * eb / 8
    matBounds xv (s.teamOf g).scratch nv n gw
    let wt ← globOf s g slot (s.rg g w).toInt (fun b => b.stride.toNat) nn n
    wt.check .engRead
    let ws ← globOf s g slot (s.rg2 g w).toInt (fun _ => gw) (if q then nn else 0) gw
    ws.check .engRead
    wt.align 16
    if q && (s.rg2 g w).toNat % 4 != 0 then .error (trapAt cALIGN 0 none (s.rg2 g w).toInt)
    else do
      let (s, l, _) ← translateLines s g (wt.lines ++ ws.lines) []
      let rng := if q then [wt.range, ws.range] else [wt.range]
      let s := engineL1 s g l [] rng []
      flipOrWait s g rng
      let ctx := s.ctxOf g
      let m := { m with rcd := some wt.rcd, tr := lineMap l }
      matIssue s g m ([scrLock (s.grp g).team (xv.range (matEnd xv nv n gw)) false (2 * m.id), globLock ctx wt.range false (2 * m.id)]
        ++ (if q then [globLock ctx ws.range false (2 * m.id)] else [])))

/-- mfence (R255). -/
def execMfence (d : GReg) (s : State) : Host.Outcome State Fault Refusal :=
  runEngine s (fun g => do
    let n := (s.grp g).bc + 1
    let s ← s.wg g d (n.zeroExtend 64)
    pure ((s.onGrp g (fun x => { x with bc := n })).adv g 4))

/-- mwait (R255): a failed batch that it covers traps ILLEGAL with INFO 1, once, and is complete from then on (15 R319). -/
def execMwait (a : GReg) (s : State) : Host.Outcome State Fault Refusal :=
  runEngine s (fun g => do
    let x := s.grp g
    let n : Word := (s.rg g a).setWidth 32
    legal (!(1 ≤ (n - x.bc).toNat && (n - x.bc).toNat < 2 ^ 31))
    if x.failed.any (fun b => markLe b n) then
      .error (.trap { code := cILLEGAL, info := 1, lane := none, va := 0 }
        (some (s.onGrp g (fun x => { x with
          failed := x.failed.filter (fun b => !markLe b n), reported := x.reported ++ x.failed.filter (fun b => markLe b n) }))))
    else if markLe n x.lastDone || x.reported.contains n then pure (s.adv g 4)
    else waitC s g .batch)

/-! ## Copies (R256, R257) -/

/-- A tile that a team holds by a handle of a KIND: its pipe and itself (06 R139, R145). -/
def State.handleTile (s : State) (g : Nat) (h : GWord) (kind : Nat) : Option (Nat × Tile) :=
  let w := h.toNat
  let t := s.teamOf g
  if w / 2 ^ 48 != 0 || bit w 12 || bits w 14 2 != kind then none
  else
    let k := 64 * t.launch + bits w 6 6
    match s.pipe k with
    | none => none
    | some p =>
      match p.tiles.find? (fun x => x.seq.toNat == bits w 16 32 && x.team == (t.stage, t.lin)
          && x.st == (if kind == 1 then .held else .taken)) with
      | none => none
      | some x => if x.spill == bit w 13 && (if x.spill then 0 else x.slot) == bits w 0 6 then some (k, x) else none

/-- A location of a copy as step 1 reads it. -/
inductive CopyLoc where
  | glob (slot : Nat) (off : Int)
  | scr (x : Scr)
  | slot (h : GWord) (off : Nat)
  deriving DecidableEq, Repr

/-- Reads a location pair (R256). -/
def copyLoc (s : State) (g : Nat) (k : Loc) (r : GReg) (slot : Nat) : R CopyLoc :=
  match k with
  | .glob => do
    legal (s.rg2 g r == 0)
    pure (.glob slot (s.rg g r).toInt)
  | .scratch => do
    legal (slot == 0)
    let x ← scrOf (s.rg g r) (s.rg2 g r)
    pure (.scr x)
  | .slot => do
    legal (slot == 0)
    pure (.slot (s.rg g r) (s.rg2 g r).toNat)

/-- Step 2 of a location: the handle checks (06 R145), and IDEM of a global destination of a rerunnable team (06 R151). -/
def copyPipe (s : State) (g : Nat) (dst : Bool) : CopyLoc → R Unit
  | .glob slot _ =>
    match s.slotRec g (BitVec.ofNat 4 slot) with
    | some b => need (!(dst && (s.teamOf g).rerun && !b.idem)) cPIPEFAULT
    | none => .ok ()
  | .scr _ => .ok ()
  | .slot h _ => need (s.handleTile g h (if dst then 1 else 2)).isSome cPIPEFAULT

/-- Step 3 of a location of rows of n bytes. -/
def copyBounds (s : State) (g : Nat) (dst : Bool) (rows n : Nat) : CopyLoc → R Unit
  | .glob slot off => do
    let x ← globOf s g slot off (fun b => b.stride.toNat) rows n
    x.check (if dst then .engWrite else .engRead)
  | .scr x => x.check (s.teamOf g).scratch 0 rows n
  | .slot h off =>
    match s.handleTile g h (if dst then 1 else 2) with
    | none => .error (trapOf cPIPEFAULT)
    | some (k, _) =>
      match s.pipe k with
      | none => .error (trapOf cPIPEFAULT)
      | some p =>
        if off + (rows - 1) * p.rowBytes + n ≤ p.rows * p.rowBytes then .ok () else .error (trapAt cBOUNDS 0 none off)

/-- Step 4 of a location. -/
def copyAlign (s : State) (g : Nat) (rows n : Nat) : CopyLoc → R Unit
  | .glob slot off => do
    let x ← globOf s g slot off (fun b => b.stride.toNat) rows n
    x.align 16
  | .scr _ => .ok ()
  | .slot _ off => if off % 16 == 0 then .ok () else .error (trapAt cALIGN 0 none off)

/-- The rows of a global location. -/
def copyGlob (s : State) (g rows n : Nat) : CopyLoc → Option Glob
  | .glob slot off => (globOf s g slot off (fun b => b.stride.toNat) rows n).toOption
  | .scr _ => none
  | .slot _ _ => none

/-- The place of a location, as the command keeps it. -/
def copyPlace (s : State) (g : Nat) (dst : Bool) : CopyLoc → Place
  | .glob slot off =>
    match s.slotRec g (BitVec.ofNat 4 slot) with
    | some b => .glob b off
    | none => .scr 0 0 0 0 0
  | .scr x => .scr (s.grp g).team x.off x.rowp x.tilep x.rot
  | .slot h off =>
    match s.handleTile g h (if dst then 1 else 2) with
    | some (k, _) => .slot k h off
    | none => .scr 0 0 0 0 0

/-- The range entries of a location. -/
def copyLocks (s : State) (g : Nat) (dst : Bool) (rows n cmd : Nat) (l : CopyLoc) : List LockE :=
  match l with
  | .glob _ _ =>
    match copyGlob s g rows n l with
    | some x => [globLock (s.ctxOf g) x.range dst cmd]
    | none => []
  | .scr x => [scrLock (s.grp g).team (x.range (x.endOf 0 rows n)) dst cmd]
  | .slot _ _ => []

/-- An empty command of a group. -/
def newCmd (s : State) (g : Nat) (kind : CmdKind) (src dst : Place) : Cmd :=
  { kind := kind, team := (s.grp g).team, gid := g, src := src, dst := dst, rows := 0, rowb := 0, esz := 0, trans := false, aw := 0,
    fmt := 0, acc := false, len := 0, pos := 0, st := 0, done := [], recvs := [], tr := [], ar := 0, staged := 0, pre := [], wrote := [], never := [] }

/-- The physical lines of host memory that accesses translate to pages that are never cached (03 R61). -/
def neverLines (l : List Acc) : List Nat := (l.filter (fun a => pteHome a.tr.e == 3 && isHost a.tr.pa)).map (fun a => a.tr.pa / 128)

/-- Makes a command outstanding. -/
def addCmd (s : State) (g : Nat) (x : Cmd) : State :=
  (s.tick.onCore (coreOf g) (fun k => { k with cmds := k.cmds.put s.freeCtr x })).adv g 4

/-- tcopy and tcopy.t (R256, R257). -/
def copyAny (s : State) (g : Nat) (src dst c : GReg) (dk sk : Loc) (trans : Bool) : R State := do
  pairOk src
  pairOk dst
  let w := (s.rg g c).toNat
  let rows := bits w 0 11
  let rowb := bits w 11 14
  let esz := bits w 25 2
  let aw := bits w 35 23
  legal (w < 2 ^ 58 && 1 ≤ rows && rows ≤ 1024 && 16 ≤ rowb && rowb ≤ 8192 && rowb % 16 == 0)
  legal (if trans then esz != 3 && dk != .glob else esz == 0)
  let es := 2 ^ esz
  let (drows, dn) := if trans then (rowb / es, rows * es) else (rows, rowb)
  legal (!trans || (dn % 16 == 0 && dn ≤ 8192 && drows ≤ 1024))
  let ls ← copyLoc s g sk src (bits w 27 4)
  let ld ← copyLoc s g dk dst (bits w 31 4)
  copyPipe s g false ls
  copyPipe s g true ld
  copyBounds s g false rows rowb ls
  copyBounds s g true drows dn ld
  awBounds (s.teamOf g).scratch aw
  copyAlign s g rows rowb ls
  copyAlign s g drows dn ld
  awAlign aw
  let lines (r n : Nat) (l : CopyLoc) : List Nat := match copyGlob s g r n l with
    | some x => x.lines
    | none => []
  let (s, la, lb) ← translateLines s g (lines rows rowb ls) (lines drows dn ld)
  let range (r n : Nat) (l : CopyLoc) : List (Nat × Nat) := (copyGlob s g r n l).toList.map Glob.range
  let s := engineL1 s g la lb (range rows rowb ls) (range drows dn ld)
  flipOrWait s g (range rows rowb ls ++ range drows dn ld)
  let cmd := 2 * s.freeCtr + 1
  let s ← lockOrWait s g ((copyLocks s g false rows rowb cmd ls ++ copyLocks s g true drows dn cmd ld).map (fun e => (coreOf g, e)))
  pure (addCmd s g { newCmd s g .copy (copyPlace s g false ls) (copyPlace s g true ld) with
    rows := rows, rowb := rowb, esz := es, trans := trans, aw := aw, len := rows * rowb, tr := lineMap (la ++ lb), never := neverLines (la ++ lb) })

/-- tcopy (R256). -/
def execTcopy (src dst c : GReg) (dk sk : Loc) (s : State) : Host.Outcome State Fault Refusal :=
  runEngine s (fun g => copyAny s g src dst c dk sk false)

/-- tcopy.t (R257). -/
def execTcopyT (src dst c : GReg) (dk sk : Loc) (s : State) : Host.Outcome State Fault Refusal :=
  runEngine s (fun g => copyAny s g src dst c dk sk true)

/-! ## Multicast (R258, R259) -/

/-- The team of a grid that is placed on a core. -/
def State.teamOn (s : State) (t : Team) (c : Nat) : Option Nat :=
  (s.teams.find? (fun e => e.2.core == c && e.2.launch == t.launch && e.2.stage == t.stage && e.2.part == t.part)).map Prod.fst

/-- The cores that a target mask selects: of the issuing deck, or of the decks of its tower that bits [51:48] select (R258). -/
def mcastCores (g mask : Nat) (tower : Bool) : List Nat :=
  let decks := if tower then (indices 4 (fun d => bit mask (48 + d))).map (fun d => 4 * towerOf g + d) else [deckOf g]
  decks.flatMap (fun d => (indices 48 (fun c => bit mask c)).map (fun c => 48 * d + c))

/-- tmcast.deck and tmcast.tower (R258, R259). A staging range beyond the window traps BOUNDS with INFO 0, and that and ACCESS of a split Rein
report ST, which is no address (log 95). -/
def mcastAny (s : State) (g : Nat) (src t c : GReg) (tower : Bool) : R State := do
  pairOk src
  legal (c.toNat % 4 == 0)
  let mask := (s.rg g t).toNat
  let w0 := (s.rg g c).toNat
  let w1 := (s.rgN g (c.toNat + 1)).toNat
  let rows := bits w0 0 11
  let rowb := bits w0 11 14
  let aw := bits w0 25 23
  let ar := bits w1 0 23
  let st := bits w1 23 18
  let tm := s.teamOf g
  let cores := mcastCores g mask tower
  legal (mask < 2 ^ 52 && (tower || bits mask 48 4 == 0) && !cores.isEmpty)
  legal (cores.all (fun k => s.codeOfCore k == s.codeOf g))
  legal (w0 < 2 ^ 48 && 1 ≤ rows && rows ≤ 1024 && 16 ≤ rowb && rowb ≤ 8192 && rowb % 16 == 0)
  legal (w1 < 2 ^ 41 && (if tower then st % 128 == 0 else st == 0) && (s.rgN g (c.toNat + 2)).toNat < 2 ^ 23)
  legal tm.mcast
  let xs ← scrOf (s.rg g src) (s.rg2 g src)
  let xd ← scrOf (s.rgN g (c.toNat + 2)) (s.rgN g (c.toNat + 3))
  need (!tm.rerun) cPIPEFAULT
  xs.check tm.scratch 0 rows rowb
  xd.check tm.scratch 0 rows rowb
  awBounds tm.scratch aw
  awBounds tm.scratch ar
  if tower && 2 ^ 18 < st + rows * rowb then .error (trapAt cBOUNDS 0 none st) else pure ()
  awAlign aw
  awAlign ar
  let lines := List.range ((st % 128 + rows * rowb + 127) / 128)
  if tower && lines.any (fun k => !s.reinLineOk (deckOf g) (st / 128 + k)) then .error (trapAt cACCESS 4 none st) else pure ()
  let cmd := 2 * s.freeCtr + 1
  let recvs := cores.map (fun k =>
    let r := s.teamOn tm k
    { core := k, team := r, uid := match r with
        | some tid => (s.team tid).uid
        | none => 0, done := [] })
  let hi := xd.endOf 0 rows rowb
  let locks := (coreOf g, scrLock (s.grp g).team (xs.range (xs.endOf 0 rows rowb)) false cmd)
    :: (if tower then [(coreOf g, globLock (stageOwner (towerOf g)) (st, st + rows * rowb) true cmd)] else [])
    ++ recvs.filterMap (fun r => r.team.map (fun tid => (r.core, scrLock tid (xd.range hi) true cmd)))
  let s ← lockOrWait s g locks
  pure (addCmd s g { newCmd s g (if tower then .mcastTower else .mcastDeck) (.scr (s.grp g).team xs.off xs.rowp xs.tilep xs.rot)
      (.scr 0 xd.off xd.rowp xd.tilep xd.rot) with
    rows := rows, rowb := rowb, aw := aw, ar := ar, st := st, len := rows * rowb * cores.length, recvs := recvs })

/-- tmcast.deck (R258). -/
def execTmcastDeck (src t c : GReg) (s : State) : Host.Outcome State Fault Refusal := runEngine s (fun g => mcastAny s g src t c false)

/-- tmcast.tower (R259). -/
def execTmcastTower (src t c : GReg) (s : State) : Host.Outcome State Fault Refusal := runEngine s (fun g => mcastAny s g src t c true)

/-! ## Host streaming (R260) -/

/-- hstream.out and hstream.in (R260): nothing is translated at issue. -/
def hstreamAny (s : State) (g : Nat) (src dst c : GReg) (out : Bool) : R State := do
  pairOk c
  let w := (s.rg g c).toNat
  let w1 := (s.rg2 g c).toNat
  let len := bits w 0 40
  let aw := bits w1 0 23
  legal (w < 2 ^ 48 && w1 < 2 ^ 23 && 128 ≤ len && len % 128 == 0)
  need (!(s.teamOf g).rerun) cPIPEFAULT
  let xs ← globOf s g (bits w 40 4) (s.rg g src).toInt (fun _ => 0) 1 len
  xs.check .engRead
  let xd ← globOf s g (bits w 44 4) (s.rg g dst).toInt (fun _ => 0) 1 len
  xd.check .engWrite
  awBounds (s.teamOf g).scratch aw
  xs.align 128
  xd.align 128
  awAlign aw
  let ctx := s.ctxOf g
  let rng (x : Glob) : Nat × Nat :=
    let a := (x.rcd.address x.off).toNat
    (a, a + len)
  let s := engineL1 s g [] [] [rng xs] [rng xd]
  flipOrWait s g [rng xs, rng xd]
  let cmd := 2 * s.freeCtr + 1
  let s ← lockOrWait s g [(coreOf g, globLock ctx (rng xs) false cmd), (coreOf g, globLock ctx (rng xd) true cmd)]
  pure (addCmd s g { newCmd s g (if out then .hostOut else .hostIn) (.glob xs.rcd xs.off) (.glob xd.rcd xd.off) with
    rows := 1, rowb := len, aw := aw, len := len })

/-- hstream.out (R260). -/
def execHstreamOut (src dst c : GReg) (s : State) : Host.Outcome State Fault Refusal := runEngine s (fun g => hstreamAny s g src dst c true)

/-- hstream.in (R260). -/
def execHstreamIn (src dst c : GReg) (s : State) : Host.Outcome State Fault Refusal := runEngine s (fun g => hstreamAny s g src dst c false)

/-! ## The histogram unit (R261, R262) -/

/-- qhist (R261). -/
def execQhist (src h c : GReg) (acc : Bool) (s : State) : Host.Outcome State Fault Refusal :=
  runEngine s (fun g => do
    pairOk src
    let w := (s.rg g c).toNat
    let rows := bits w 0 11
    let rowb := bits w 11 14
    let fmt := bits w 25 4
    let aw := bits w 29 23
    let gh := (s.rg g h).toNat
    legal (w < 2 ^ 52 && 1 ≤ rows && rows ≤ 1024 && 16 ≤ rowb && rowb ≤ 8192 && rowb % 16 == 0 && fmt ≤ 2)
    let x ← scrOf (s.rg g src) (s.rg2 g src)
    let t := s.teamOf g
    x.check t.scratch 0 rows rowb
    if t.scratch < gh + 528 then .error (trapAt cBOUNDS 16 none gh) else pure ()
    awBounds t.scratch aw
    if gh % 16 != 0 then .error (trapAt cALIGN 0 none gh) else pure ()
    awAlign aw
    let cmd := 2 * s.freeCtr + 1
    let tid := (s.grp g).team
    let s ← lockOrWait s g [(coreOf g, scrLock tid (x.range (x.endOf 0 rows rowb)) false cmd),
                            (coreOf g, scrLock tid (gh, gh + 528) true cmd)]
    pure (addCmd s g { newCmd s g .hist (.scr tid x.off x.rowp x.tilep x.rot) (.scr tid gh 0 0 0) with
      rows := rows, rowb := rowb, fmt := fmt, acc := acc, aw := aw, len := rows * rowb }))

/-- The smallest b with the sum of the counts above it at most t (05 R131). -/
def clipBin (h : List Nat) (t : Nat) : Nat :=
  ((List.range 64).find? (fun b => (h.drop (b + 1)).sum ≤ t)).getD 63

/-- clip of 05 R131: the group word of a histogram's POS and NEG counts. -/
def clipWord (pos neg : List Nat) (p : Nat) (q4 : Bool) : Nat :=
  let qm := qmaxOf q4
  let t := (pos.sum + neg.sum) * p / 2 ^ 16
  let hi : Nat := if pos.sum == 0 then 0 else 2 ^ (clipBin pos t + 1)
  let lo : Nat := if neg.sum == 0 then 0 else 2 ^ (clipBin neg t + 1)
  if hi == 0 && lo == 0 then 0x3C00
  else
    let s := fFP16.round true .rup 0 (.fin false (hi + lo) (qm * 2 ^ 40))
    let z := (roundInt .rne 0 (FV.div (.fin false lo (-40)) (fFP16.decode s))).sat 0 qm
    z.toNat * 2 ^ 16 + s

/-- qclip (R262): it reads the histogram as a load of the window, CHECKFAIL of a poisoned sector included (17 R370), whose address is a multiple
of 16 as for qhist (log 95). -/
def execQclip (d h p : GReg) (s : State) : Host.Outcome State Fault Refusal :=
  runEngine s (fun g => do
    let gp := (s.rg g p).toNat
    let gh := (s.rg g h).toNat
    let t := s.teamOf g
    legal (gp < 2 ^ 17)
    if t.scratch < gh + 528 then .error (trapAt cBOUNDS 16 none gh) else pure ()
    if gh % 16 != 0 then .error (trapAt cALIGN 0 none gh) else pure ()
    match lockHit (s.core (coreOf g)).locks false (s.grp g).team gh (gh + 528) false with
    | some e => .error (trapAt cRANGELOCK e none gh)
    | none => do
      if t.winBad gh 528 then .error (trapAt cCHECKFAIL 0 none gh) else pure ()
      let counts (o : Nat) : List Nat := (List.range 64).map (fun b => (t.winW (gh + o + 4 * b)).toNat)
      let s ← s.wg g d (BitVec.ofNat 64 (clipWord (counts 0) (counts 256) (gp % 2 ^ 16) (bit gp 16)))
      pure (s.adv g 4))

end Sys2Proof.Machine
end

