-- ==== Sys2Proof/Machine/EngineRun.lean ====
section
/-! DEFINITION. The engines at work: landings of copies and multicasts, the histogram, host streams, matrix operations and the
completion of batches (11 R254 to R262, 05 R130 to R134, 03 R70, 04 R104, 15 R319). -/

namespace Sys2Proof.Machine

open Sys2Proof

/-! ## Landings -/

/-- The rows and row length of a copy's destination (R257). -/
def Cmd.dstRows (x : Cmd) : Nat × Nat := if x.trans then (x.rowb / x.esz, x.rows * x.esz) else (x.rows, x.rowb)

/-- The address, window offset or slot offset at which destination row i starts, as far as its lines go. -/
def State.rowStart (s : State) (p : Place) (i : Nat) : Nat :=
  match p with
  | .glob r off => (r.base.toNat + off + (i * r.stride.toNat : Nat)).toNat
  | .scr _ off rowp _ _ => off + i * rowp
  | .slot k _ off =>
    match s.pipe k with
    | some x => off + i * x.rowBytes
    | none => off

/-- The pieces of a destination: row, first byte and length of each part of a row that lies in one line. -/
def segments (rows n : Nat) (start : Nat → Nat) : List (Nat × Nat × Nat) :=
  (List.range rows).flatMap (fun i =>
    let a := start i % 128
    (List.range ((a + n + 127) / 128)).map (fun k =>
      let lo := 128 * k - a
      let hi := min n (128 * (k + 1) - a)
      (i, lo, hi - lo)))

/-- The line of a destination in which byte b of row i lies: virtual, of the window, or of the tile. -/
def State.placeLine (s : State) (p : Place) (i b : Nat) : Nat :=
  match p with
  | .glob _ _ => (s.rowStart p i + b) / 128
  | .scr _ off rowp tilep rot => ({ off := off, rowp := rowp, tilep := tilep, rot := rot } : Scr).byteAt 0 i b / 128
  | .slot _ _ _ => (s.rowStart p i + b) / 128

/-- The piece that part j of a destination belongs to, the parts of all rows that share its line, each with its number: one piece for each
landed line (R70). -/
def State.pieceOf (s : State) (p : Place) (segs : List (Nat × Nat × Nat)) (j : Nat) : List (Nat × Nat × Nat × Nat) :=
  match segs[j]? with
  | none => []
  | some e => ((List.range segs.length).zip segs).filter (fun x => s.placeLine p x.2.1 x.2.2.1 == s.placeLine p e.1 e.2.1)

/-- The bytes that the parts of a piece have. -/
def pieceLen (l : List (Nat × Nat × Nat × Nat)) : Nat := (l.map (fun x => x.2.2.2)).sum

/-- The physical address of a virtual address that a command translated at issue. -/
def trLookup (t : List (Nat × Nat)) (va : Nat) : Nat :=
  match t.find? (fun e => e.1 == va / 128) with
  | some e => e.2 * 128 + va % 128
  | none => 0

/-- A byte of home memory or of the replica of a deck, and whether its sector is poisoned, or out of the reach of the host link (16 R329,
log 99). -/
def State.engByte (s : State) (c pa : Nat) : Byte × Bool :=
  if isRein pa then ((s.replica (deckOfCore c) pa 1).getD 0 0, s.replicaBad (deckOfCore c) pa 1) 
  else (s.homeByte pa, s.poisoned (s.codeOfCore c) pa || (isHost pa && !s.cxlUp))

/-- A byte of memory as an engine that may have read it before reads it (04 R103). -/
def State.engPre (s : State) (c : Nat) (pre : Tab Byte) (pa : Nat) : Byte × Bool :=
  match pre.find pa with
  | some b => (b, (s.engByte c pa).2)
  | none => s.engByte c pa

/-- A command or a matrix operation of a core reads a byte of memory before the piece or the chunk that it belongs to. The bytes of a
window have one value for all readers (04 R87), and a line that the host may hold is read when it has been had back. -/
def State.engRead (s : State) (c id pa : Nat) : State :=
  if isRein pa || s.snoop.contains (pa / 128) then s
  else
    let b := (s.engByte c pa).1
    s.onCore c (fun k => { k with
      cmds := k.cmds.map (fun e => (e.1, if e.1 == id then { e.2 with pre := e.2.pre.put pa b } else e.2)),
      matq := k.matq.map (fun m => if m.id == id then { m with pre := m.pre.put pa b } else m) })

/-- An engine of a core reads a line at its home: the slice brings it in where it may keep it, and the host gives it back first (01 R13,
03 R61, 16 R335). -/
def State.engSee (s : State) (c line : Nat) (never : Bool) : State :=
  if isRein (line * 128) then s
  else
    (if never then s.hostPush line
     else if s.hostBias (s.codeOfCore c) (line * 128) then s
     else s.l2Touch (s.codeOfCore c) line).snoopLine line false

/-- The tile that a handle names. -/
def State.tileOf (s : State) (k : Nat) (h : GWord) : Option Tile :=
  match s.pipe k with
  | some x => x.tiles.find? (fun t => t.seq.toNat == bits h.toNat 16 32)
  | none => none

/-- A byte of a tile: free until written (log 6). -/
def Tile.byte (t : Tile) (o : Nat) : Byte :=
  match t.data.find o with
  | some b => b
  | none => Config.freeByte t.uid o

/-- The physical address of byte o of a spilled tile of pipe k, in its entry of the spill area (06 R146, 14 R384). -/
def State.spillPa (s : State) (k : Nat) (t : Tile) (o : Nat) : Option Nat :=
  match s.launch (k / 64) with
  | none => none
  | some x =>
    (x.spills.find? (fun e => e.2.pipe == k % 64 && e.2.seq == t.seq)).bind (fun e =>
      (s.devTr x.part x.ctx (x.spillBase.toNat + x.spillE * e.1 + 128 + o) false).map (fun q => q.pa))

/-- The byte at row i, column b of a command's source, and whether its sector failed its check. -/
def State.srcByte (s : State) (c : Nat) (x : Cmd) (i b : Nat) : Byte × Bool :=
  match x.src with
  | .glob r off => s.engPre c x.pre (trLookup x.tr (r.address (off + (i * r.stride.toNat + b : Nat))).toNat)
  | .scr t off rowp tilep rot =>
    let q : Scr := { off := off, rowp := rowp, tilep := tilep, rot := rot }
    ((s.team t).winByte (q.byteAt 0 i b), (s.team t).bad.contains (q.byteAt 0 i b / 32))
  | .slot k h off =>
    match s.pipe k, s.tileOf k h with
    | some p, some t =>
      let o := off + i * p.rowBytes + b
      if t.spill then
        match s.spillPa k t o with
        | some pa => s.engByte c pa
        | none => (0, true)
      else (t.byte o, t.bad.contains (o / 32))
    | _, _ => (0, true)

/-- The physical address of a byte of a command's source in memory; 0 in the scratchpad or in a slot. -/
def State.srcPa (s : State) (x : Cmd) (i b : Nat) : Nat :=
  match x.src with
  | .glob r off => trLookup x.tr (r.address (off + (i * r.stride.toNat + b : Nat))).toNat
  | .scr _ _ _ _ _ => 0
  | .slot k h off =>
    match s.pipe k, s.tileOf k h with
    | some p, some t => if t.spill then (s.spillPa k t (off + i * p.rowBytes + b)).getD 0 else 0
    | _, _ => 0

/-- The row and the column of the source from which byte b of destination row i comes. -/
def Cmd.from_ (x : Cmd) (i b : Nat) : Nat × Nat := if x.trans then (b / x.esz, i * x.esz + b % x.esz) else (i, b)

/-- The source is a tile with an abort mark (16 R348). -/
def State.srcAborted (s : State) (x : Cmd) : Bool :=
  match x.src with
  | .slot k h _ =>
    match s.tileOf k h with
    | some t => t.abort
    | none => false
  | .glob _ _ | .scr _ _ _ _ _ => false

/-- The bytes of a piece, each with its check. -/
def State.pieceBytes (s : State) (c : Nat) (x : Cmd) (row lo n : Nat) : List (Byte × Bool) :=
  (List.range n).map (fun k =>
    let e := x.from_ row (lo + k)
    s.srcByte c x e.1 e.2)

/-- The rows and columns of the source that a piece reads. -/
def Cmd.pieceSrc (x : Cmd) (l : List (Nat × Nat × Nat × Nat)) : List (Nat × Nat) :=
  l.flatMap (fun e => (List.range e.2.2.2).map (fun k => x.from_ e.2.1 (e.2.2.1 + k)))

/-- Record 0x70 with the sector of the first of some bytes of the source that fails its check (17 R370, R372). -/
def State.checkAt (s : State) (c : Nat) (x : Cmd) (l : List (Nat × Nat)) : State :=
  match l.find? (fun e => (s.srcByte c x e.1 e.2).2) with
  | some e => s.tryPost (s.codeOfCore c) (eventRec s (s.codeOfCore c) (s.srcPa x e.1 e.2 / 32 * 32) c 0 0x70)
  | none => s

/-- The same of a piece. -/
def State.checkRec (s : State) (c : Nat) (x : Cmd) (l : List (Nat × Nat × Nat × Nat)) : State := s.checkAt c x (x.pieceSrc l)

/-- The lines of memory, and of the windows, that a piece reads. -/
def State.pieceLines (s : State) (x : Cmd) (l : List (Nat × Nat × Nat × Nat)) : List Nat :=
  (((x.pieceSrc l).map (fun e => s.srcPa x e.1 e.2)).filter (· != 0)).map (· / 128) |>.eraseDups

/-- A piece reads a window word that an earlier write of the command's group has still to write at its own deck (04 R81, R108). -/
def State.pieceUnapplied (s : State) (c : Nat) (x : Cmd) (l : List (Nat × Nat × Nat × Nat)) : Bool :=
  (s.unapplied (deckOfCore c)).any (fun w => w.cmd.isNone && w.gid % 2 ^ 32 == x.gid % 2 ^ 32 && (x.pieceSrc l).any (fun e =>
    let pa := s.srcPa x e.1 e.2
    isRein pa && w.line == pa % 2 ^ 18 / 128 && w.mask.getLsbD (pa % 128 / 4)))

/-- Writes bytes of one physical line, given as (offset in the line, byte), and in the issuing core's copy of it, so that what lands is
visible there (03 R71, log 81); a line of a never-cached page of host memory is written in that memory (03 R61), and a packet that leaves
NETBOUND is dropped (17 R358), and what the host link does not reach is lost (log 99); none when a window write finds the send queue full. A window write posts `n` bytes with flags when its own
deck applies it. -/
def State.engStore (s : State) (c id line n flags : Nat) (l : List (Nat × Byte)) : Option State :=
  let data := (List.range 128).map (fun k => ((l.find? (fun e => e.1 == k)).map Prod.snd).getD 0)
  let mask := l.foldl (fun m e => m ||| (1#128 <<< e.1)) 0#128
  if l.isEmpty then some s
  else if isRein (line * 128) then
    let words := (List.range 32).map (fun w => BitVec.ofNat 32 (ofBytes ((data.drop (4 * w)).take 4)))
    let wm := laneMask (indices 32 (fun w => (mask >>> (4 * w)).toNat % 16 == 15))
    let t := s.team ((s.core c).cmds.find id |>.map (fun y => y.team) |>.getD 0)
    s.sendRein (deckOfCore c) { gid := 0, lane := false, core := c, line := line % 2048, kind := 1, aop := 0, mask := wm, mark := 0,
                                data := words, launch := t.launch, stage := t.stage, cmd := some id, dest := .none, acq := false,
                                synced := false, bytes := n, flags := flags }
  else if !s.homeOk (s.codeOfCore c) (deckOfCore c) (line * 128) then some (s.bumpCore c 0xB0 1)
  else if isHost (line * 128) && !s.cxlUp then some s
  else
    let never := ((s.core c).cmds.find id).any (fun y => y.never.contains line)
    some (l.foldl (fun s e => s.l1Patch c line e.1 [e.2]) ((s.engSee c line never |>.snoopLine line true).homeMerge line data mask))

/-- The good bytes of a piece: row, column and byte. -/
def State.goodBytes (s : State) (c : Nat) (x : Cmd) (l : List (Nat × Nat × Nat × Nat)) : List (Nat × Nat × Byte) :=
  l.flatMap (fun e => ((List.range e.2.2.2).zip (s.pieceBytes c x e.2.1 e.2.2.1 e.2.2.2)).filterMap (fun b =>
    if b.2.2 then none else some (e.2.1, e.2.2.1 + b.1, b.2.1)))

/-- The line of a copy's piece is one of a Rein window. -/
def Cmd.landsInRein (x : Cmd) (row lo : Nat) : Bool :=
  match x.dst with
  | .glob r off => isRein (trLookup x.tr (r.address (off + (row * r.stride.toNat + lo : Nat))).toNat)
  | .scr _ _ _ _ _ => false
  | .slot _ _ _ => false

/-- The command reads or writes a Rein-window page. -/
def Cmd.usesRein (x : Cmd) : Bool := x.tr.any (fun e => isRein (e.2 * 128))

/-- A byte of a command's destination as it stands, at row i and column b of the destination or of a receiver's window. -/
def State.dstNow (s : State) (x : Cmd) (tid : Option Nat) (i b : Nat) : Byte :=
  match x.dst with
  | .glob r off => s.homeByte (trLookup x.tr (r.address (off + (i * r.stride.toNat + b : Nat))).toNat)
  | .scr t off rowp tilep rot =>
    (s.team (tid.getD t)).winByte (({ off := off, rowp := rowp, tilep := tilep, rot := rot } : Scr).byteAt 0 i b)
  | .slot k h off =>
    match s.pipe k, s.tileOf k h with
    | some p, some t => t.byte (off + i * p.rowBytes + b)
    | _, _ => 0

/-- Bytes that are to land: those that the command has written before stay as they are (04 R103). -/
def State.landing (s : State) (x : Cmd) (recv : Nat) (tid : Option Nat) (l : List (Nat × Nat × Byte)) : List (Nat × Nat × Byte) :=
  if x.wrote.isEmpty then l
  else l.map (fun e => if x.wrote.contains (recv, e.1, e.2.1) then (e.1, e.2.1, s.dstNow x tid e.1 e.2.1) else e)

/-- Writes the good bytes of a piece to a copy's destination. -/
def State.landBytes (s : State) (c id : Nat) (x : Cmd) (n flags : Nat) (good : List (Nat × Nat × Byte)) : Option State :=
  match x.dst with
  | .glob r off =>
    let at_ := good.map (fun e => (trLookup x.tr (r.address (off + (e.1 * r.stride.toNat + e.2.1 : Nat))).toNat, e.2.2))
    match at_ with
    | [] => some s
    | (a, _) :: _ => s.engStore c id (a / 128) n flags (at_.map (fun e => (e.1 % 128, e.2)))
  | .scr t off rowp tilep rot =>
    let q : Scr := { off := off, rowp := rowp, tilep := tilep, rot := rot }
    some (s.onTeam t (fun y => y.winStore (good.map (fun e => (q.byteAt 0 e.1 e.2.1, [e.2.2])))))
  | .slot k h off =>
    some (s.onPipe k (fun p => { p with tiles := p.tiles.map (fun t =>
      if t.seq.toNat == bits h.toNat 16 32 then
        { t with data := good.foldl (fun d e => d.put (off + e.1 * p.rowBytes + e.2.1) e.2.2) t.data }
      else t) }))

/-- Notes the parts of a command that are landed or on their way. -/
def State.noteDone (s : State) (c id : Nat) (x : Cmd) (l : List Nat) : State :=
  s.onCore c (fun k => { k with cmds := k.cmds.put id { x with done := l ++ x.done } })

/-- Posts n bytes of a command with flags, and ends the command with its last piece (R101). -/
def State.postPiece (s : State) (c id : Nat) (x : Cmd) (done : List Nat) (n flags : Nat) : State :=
  let s := s.post x.team x.aw n flags
  if x.len ≤ x.pos + n then (s.clearLocks (2 * id + 1)).onCore c (fun k => { k with cmds := k.cmds.del id })
  else s.noteDone c id { x with pos := x.pos + n } done

/-- One piece of a copy lands (R257), with every part of its line. A piece in the Rein window is posted when its write is applied; while the
deck's replica is being refilled, or a window word that it reads is to be written by its group, it waits (04 R108, R111). A packet that
leaves NETBOUND is dropped (17 R358). -/
def State.copyPiece (s : State) (c id : Nat) (x : Cmd) (piece : Nat) : Option State :=
  let (rows, n) := x.dstRows
  let l := s.pieceOf x.dst (segments rows n (s.rowStart x.dst)) piece
  let js := l.map Prod.fst
  let len := pieceLen l
  let lines := s.pieceLines x l
  if l.isEmpty || x.done.contains piece || (x.usesRein && (s.deck (deckOfCore c)).stale) || s.pieceUnapplied c x l then none
  else if s.srcAborted x then some (s.postPiece c id x js len 3)
  else if lines.any (fun k => !isRein (k * 128) && !s.homeOk (s.codeOfCore c) (deckOfCore c) (k * 128)) then some (s.bumpCore c 0xB0 1)
  else
    let s := lines.foldl (fun s k => s.engSee c k (x.never.contains k)) s
    let good := s.goodBytes c x l
    let flags := if good.length < len then 2 else 0
    (s.landBytes c id x len flags (s.landing x 0 none good)).map (fun t =>
      let t := if flags == 2 then t.checkRec c x l else t
      if !good.isEmpty && l.any (fun e => x.landsInRein e.2.1 e.2.2.1) then t.noteDone c id x js else t.postPiece c id x js len flags)

/-- The window lines of a tower multicast's staging range. -/
def Cmd.stageLines (x : Cmd) : Nat := (x.st % 128 + x.rows * x.rowb + 127) / 128

/-- Sends the next staging line of a tower multicast as a window write (R259), without the sectors that fail their check (17 R370); it waits
while the deck's replica is being refilled (04 R111). -/
def State.stageLine (s : State) (c id : Nat) (x : Cmd) : Option State :=
  let base := (x.st / 128 + x.staged) * 128
  let bytes := (List.range 128).filterMap (fun k =>
    let o := base + k
    if x.st ≤ o && o < x.st + x.rows * x.rowb then some (k, (o - x.st) / x.rowb, (o - x.st) % x.rowb) else none)
  let l := bytes.filterMap (fun e =>
    let b := s.srcByte c x e.2.1 e.2.2
    if b.2 then none else some (e.1, b.1))
  let tower := towerOfDeck (deckOfCore c)
  if (s.deck (deckOfCore c)).stale then none
  else
    ((s.checkAt c x (bytes.map (fun e => e.2))).engStore c id ((2 ^ 52 - 2 ^ 19 + tower * 2 ^ 18 + base) / 128) 0 0 l).map
      (fun s => s.onCore c (fun k => { k with cmds := k.cmds.put id { x with staged := x.staged + 1 } }))

/-- The receiver's team is still the one that was placed at issue. -/
def State.recvTeam (s : State) (r : Recv) : Option Nat :=
  match r.team with
  | some t => if (s.teams.find t).isSome && (s.team t).uid == r.uid then some t else none
  | none => none

/-- The bytes of a piece of a multicast for a receiver on a core, with their checks: of a tower's, those of its deck's replica, but for
the sectors that were not sent (R259, 17 R370). -/
def State.mcastBytes (s : State) (c : Nat) (x : Cmd) (core : Nat) (l : List (Nat × Nat × Nat × Nat)) : List (Nat × Nat × Byte × Bool) :=
  l.flatMap (fun e => (List.range e.2.2.2).map (fun k =>
    let b := s.srcByte c x e.2.1 (e.2.2.1 + k)
    let o := x.st + e.2.1 * x.rowb + e.2.2.1 + k
    if x.kind == .mcastTower then
      (e.2.1, e.2.2.1 + k, (s.replica (deckOfCore core) o 1).getD 0 0, b.2 || s.replicaBad (deckOfCore core) o 1)
    else (e.2.1, e.2.2.1 + k, b.1, b.2)))

/-- A tower's multicast has sent its lines and its deck has applied them (R259). -/
def State.mcastStaged (s : State) (c id : Nat) (x : Cmd) : Bool :=
  x.kind != .mcastTower || (x.stageLines ≤ x.staged && (s.unapplied (deckOfCore c)).all (fun w => w.cmd != some id))

/-- One piece of a multicast lands at a receiver, or is discarded there as an orphan (R258, 04 R104). A sector of the source that fails its
check is not written, and both words are posted with PARTIAL (17 R370, log 90). -/
def State.mcastPiece (s : State) (c id : Nat) (x : Cmd) (piece : Nat) : Option State :=
  let tower := x.kind == .mcastTower
  let segs := segments x.rows x.rowb (s.rowStart x.dst)
  let total := x.rows * x.rowb
  if tower && x.staged < x.stageLines then s.stageLine c id x
  else if !s.mcastStaged c id x then none
  else
    let l := s.pieceOf x.dst segs (piece % segs.length)
    match x.recvs[piece / segs.length]? with
    | some r =>
      if l.isEmpty || r.done.contains (piece % segs.length) then none
      else
        let n := pieceLen l
        let setRecv (d : List Nat) : Cmd :=
          { x with recvs := x.recvs.mapIdx (fun i y => if i == piece / segs.length then { y with done := d } else y) }
        match s.recvTeam r with
        | none =>
          let landed := (r.done.map (fun k => (segs.getD k (0, 0, 0)).2.2)).sum
          let s := (s.bumpCore r.core 0xA8 1).onCore r.core (fun k => { k with locks := k.locks.dropIf (fun _ e => e.cmd == 2 * id + 1 && e.dst) })
          some (s.postPiece c id (setRecv (List.range segs.length)) [] (total - landed) 6)
        | some tid =>
          if tower && (s.deck (deckOfCore r.core)).stale then none
          else
            let bytes := s.mcastBytes c x r.core l
            let good := (bytes.filter (fun e => !e.2.2.2)).map (fun e => (e.1, e.2.1, e.2.2.1))
            let good := s.landing x (piece / segs.length) (some tid) good
            let flags := if good.length < bytes.length then 2 else 0
            match x.dst with
            | .scr _ off rowp tilep rot =>
              let q : Scr := { off := off, rowp := rowp, tilep := tilep, rot := rot }
              let s := if tower then s else s.checkRec c x l
              let s := s.onTeam tid (fun t => (t.winStore (good.map (fun e => (q.byteAt 0 e.1 e.2.1, [e.2.2])))).post x.ar n flags)
              let s := if r.done.length + l.length == segs.length then
                  s.onCore r.core (fun k => { k with locks := k.locks.dropIf (fun _ e => e.cmd == 2 * id + 1 && e.dst && !e.glob && e.owner == tid) })
                else s
              some (s.postPiece c id (setRecv (l.map Prod.fst ++ r.done)) [] n flags)
            | .glob _ _ | .slot _ _ _ => none
    | none => none

/-- ENGINE_LANDING (R70). -/
def execEngineLanding (core cmd piece : Nat) (s : State) : Host.Outcome State Fault Refusal :=
  runUp s (match (s.core core).cmds.find cmd with
    | none => none
    | some x =>
      match x.kind with
      | .copy => s.copyPiece core cmd x piece
      | .mcastDeck | .mcastTower => s.mcastPiece core cmd x piece
      | .hostOut | .hostIn | .hist => none)

/-! ## The histogram (05 R130, 11 R261) -/

/-- Where a value falls: word index in the histogram. -/
def histSlot (v : FV) : Nat :=
  match v with
  | .nan => 129
  | .inf _ => 129
  | .fin s m e => if m == 0 then 128 else (max 0 (min ((ilog2 m : Int) + e + 40) 63)).toNat + (if s then 64 else 0)

/-- The element values of a histogram's tile. -/
def State.histElems (s : State) (c : Nat) (x : Cmd) : List FV :=
  let f := if x.fmt == 0 then fFP32 else if x.fmt == 1 then fBF16 else fFP16
  let n := f.width / 8
  (List.range x.rows).flatMap (fun i => (List.range (x.rowb / n)).map (fun k =>
    f.decode (ofBytes ((List.range n).map (fun j =>
      let b := s.srcByte c x i (n * k + j)
      if b.2 then Config.freeByte (2 ^ 69 + i) (n * k + j) else b.1)))))

/-- The parts of a histogram's source, each row one. -/
def Cmd.histRows (x : Cmd) : List (Nat × Nat × Nat × Nat) := (List.range x.rows).map (fun i => (i, i, 0, x.rowb))

/-- The 528 bytes of the histogram that a command writes. -/
def State.histBytes (s : State) (c : Nat) (x : Cmd) : List Byte :=
  match x.dst with
  | .scr t gh _ _ _ =>
    let slots := (s.histElems c x).map histSlot
    let count (k : Nat) : Word :=
      let old := if x.acc then ((s.team t).winW (gh + 4 * k)).toNat else 0
      BitVec.ofNat 32 (min (old + (slots.filter (· == k)).length) 0xFFFFFFFF)
    ((List.range 130).map count).flatMap (fun w => toBytes 4 w.toNat) ++ List.replicate 8 0
  | .glob _ _ | .slot _ _ _ => []

/-- QHIST_DONE (R261): every count is written, and the whole count is posted in one piece; with PARTIAL, and record 0x70, where it read a
poisoned sector (17 R370, log 90). -/
def execQhistDone (core cmd : Nat) (s : State) : Host.Outcome State Fault Refusal :=
  runUp s (match (s.core core).cmds.find cmd with
    | none => none
    | some x =>
      match x.kind, x.dst with
      | .hist, .scr t gh _ _ _ =>
        let vals := ((List.range 528).zip (s.histBytes core x)).map (fun e =>
          if x.wrote.contains (0, 0, e.1) then (s.team t).winByte (gh + e.1) else e.2)
        let s := s.onTeam t (fun y => y.winStore [(gh, vals)])
        let bad := x.histRows.any (fun e => (s.pieceBytes core x e.2.1 0 e.2.2.2).any Prod.snd)
        some ((if bad then s.checkRec core x x.histRows else s).postPiece core cmd x [] x.len (if bad then 2 else 0))
      | _, _ => none)

/-! ## Host streams (R260) -/

/-- Abandons the rest of a stream: a STREAMFAULT record, and the remaining bytes with PARTIAL; waits while the record cannot be
posted (15 R307). -/
def State.streamFault (s : State) (c id : Nat) (x : Cmd) (va : Nat) : Option State :=
  let p := s.codeOfCore c
  match s.postRec p (faultRec s p va 0xFFFFFFFF (s.team x.team).ctx c 0 6 false (s.team x.team).stage 0x63) with
  | some s => some (s.postPiece c id x [] (x.len - x.pos) 2)
  | none => none

/-- A stream ends with the link (16 R332): its record is kept when it cannot be posted now. -/
def State.streamDown (s : State) (c id : Nat) (x : Cmd) (va : Nat) : State :=
  let p := s.codeOfCore c
  (s.tryPost p (faultRec s p va 0xFFFFFFFF (s.team x.team).ctx c 0 6 false (s.team x.team).stage 0x63)).postPiece c id x [] (x.len - x.pos) 2

/-- The translations of the next line of a stream (R260): no value where a packet is dropped, and the address at which the stream ends where a
line does not translate or lies on the wrong side. -/
def State.streamTr (s : State) (c : Nat) (x : Cmd) : Except (Option Nat) (State × Tr × Tr) :=
  match x.src, x.dst with
  | .glob rs os, .glob rd od =>
    let ctx := (s.team x.team).ctx
    let out := x.kind == .hostOut
    let sva := (rs.address os).toNat + x.pos
    let dva := (rd.address od).toNat + x.pos
    match s.translateOn c ctx sva .engRead with
    | .error .dropped => .error none
    | .error _ => .error (some sva)
    | .ok (s1, ts) =>
      match s1.translateOn c ctx dva .engWrite with
      | .error .dropped => .error none
      | .error _ => .error (some dva)
      | .ok (s2, td) =>
        if isHost ts.pa == out || isRein ts.pa then .error (some sva)
        else if isHost td.pa != out || isRein td.pa then .error (some dva)
        else .ok (s2, ts, td)
  | _, _ => .error none

/-- A stream reads a line at its home, past any copy of the issuing core's L1 and of the host (04 R96, 16 R335). -/
def State.streamSee (s : State) (c : Nat) (ts td : Tr) : State :=
  ((((s.wbLine c (ts.pa / 128)).flushLine c (td.pa / 128)).hostOnly ts).l2For (s.codeOfCore c) ts).snoopHost ts.pa false

/-- A stream writes bytes of a line of its destination: offset and byte. -/
def State.streamPut (s : State) (c : Nat) (out : Bool) (td : Tr) (l : List (Nat × Byte)) : State :=
  if out then
    let s := s.hostPush (td.pa / 128)
    { s with hostMem := l.foldl (fun t e => t.put (td.pa + e.1) e.2) s.hostMem }
  else
    ((s.l2For (s.codeOfCore c) td).snoopHost td.pa true).homeMerge (td.pa / 128)
      ((List.range 128).map (fun k => ((l.find? (fun e => e.1 == k)).map Prod.snd).getD 0))
      (l.foldl (fun m e => m ||| (1#128 <<< e.1)) 0#128)

/-- HSTREAM_LINE (R260): the next line is translated and moved. Bytes that the stream has written before stay (04 R103). -/
def execHstreamLine (core cmd : Nat) (s : State) : Host.Outcome State Fault Refusal :=
  runUp s (match (s.core core).cmds.find cmd with
    | none => none
    | some x =>
      if x.kind != .hostOut && x.kind != .hostIn then none
      else
        match s.streamTr core x with
        | .error none => some (s.bumpCore core 0xB0 1)
        | .error (some va) => s.streamFault core cmd x va
        | .ok (s2, ts, td) =>
          let s := s2.streamSee core ts td
          let good := (List.range 128).filterMap (fun k =>
            let b := s.engPre core x.pre (ts.pa + k)
            if b.2 then none else some (k, if x.wrote.contains (0, 0, x.pos + k) then s.homeByte (td.pa + k) else b.1))
          let s := s.streamPut core (x.kind == .hostOut) td good
          let bad := decide (good.length < 128)
          let at_ := ((List.range 4).find? (fun q => s.poisoned (s.codeOfCore core) (ts.pa + 32 * q))).getD 0
          let s := if bad then s.tryPost (s.codeOfCore core) (eventRec s (s.codeOfCore core) (ts.pa + 32 * at_) core 0 0x70) else s
          some (s.postPiece core cmd x [] 128 (if bad then 2 else 0)))

/-! ## Bytes that an engine writes before the others (04 R103) -/

/-- Notes that a command has written a byte of its destination. -/
def State.noteWrote (s : State) (c id : Nat) (x : Cmd) (e : Nat × Nat × Nat) : State :=
  s.onCore c (fun k => { k with cmds := k.cmds.put id { x with wrote := e :: x.wrote } })

/-- A part of a destination that holds a byte and has not landed. -/
def openPart (segs : List (Nat × Nat × Nat)) (done : List Nat) (i b : Nat) : Bool :=
  ((List.range segs.length).zip segs).any (fun e => e.2.1 == i && e.2.2.1 ≤ b && b < e.2.2.1 + e.2.2.2 && !done.contains e.1)

/-- A command writes one byte of its destination, at row i and column b, at receiver r of a multicast, before the rest of its piece: of a
window of a Rein it does not, since a slot is applied whole (04 R103, R107). -/
def State.engWrite (s : State) (c id r i b : Nat) : State :=
  match (s.core c).cmds.find id with
  | none => s
  | some x =>
    match x.kind with
    | .copy =>
      let (rows, n) := x.dstRows
      let e := x.from_ i b
      let l := [(0, i, b, 1)]
      let s := (s.pieceLines x l).foldl (fun s k => s.engSee c k (x.never.contains k)) s
      let v := s.srcByte c x e.1 e.2
      if r != 0 || v.2 || x.usesRein || s.srcAborted x || !openPart (segments rows n (s.rowStart x.dst)) x.done i b then s
      else ((s.landBytes c id x 0 0 [(i, b, v.1)]).getD s).noteWrote c id x (0, i, b)
    | .mcastDeck | .mcastTower =>
      match x.recvs[r]?, x.dst with
      | some y, .scr _ off rowp tilep rot =>
        match s.recvTeam y, (s.mcastBytes c x y.core [(0, i, b, 1)]).head? with
        | some tid, some v =>
          if v.2.2.2 || !s.mcastStaged c id x || (x.kind == .mcastTower && (s.deck (deckOfCore y.core)).stale)
              || !openPart (segments x.rows x.rowb (s.rowStart x.dst)) y.done i b then s
          else
            let q : Scr := { off := off, rowp := rowp, tilep := tilep, rot := rot }
            (s.onTeam tid (fun t => t.winStore [(q.byteAt 0 i b, [v.2.2.1])])).noteWrote c id x (r, i, b)
        | _, _ => s
      | _, _ => s
    | .hist =>
      match x.dst with
      | .scr t gh _ _ _ =>
        if x.acc || i != 0 || 528 ≤ b || r != 0 then s
        else (s.onTeam t (fun y => y.winStore [(gh + b, [(s.histBytes c x).getD b 0])])).noteWrote c id x (0, 0, b)
      | .glob _ _ | .slot _ _ _ => s
    | .hostOut | .hostIn =>
      match s.streamTr c x with
      | .error _ => s
      | .ok (s2, ts, td) =>
        if i != 0 || r != 0 || b < x.pos || x.pos + 128 ≤ b then s
        else
          let t := s2.streamSee c ts td
          let v := t.engPre c x.pre (ts.pa + (b - x.pos))
          if v.2 then s else (t.streamPut c (x.kind == .hostOut) td [(b - x.pos, v.1)]).noteWrote c id x (0, 0, b)

/-! ## Matrix operations (05 R132 to R134, 11 R250 to R253) -/

/-- An element of a tile of a team: free until written (log 6). -/
def Team.tileElem (t : Team) (a r c : Nat) : Word :=
  match t.tiles.find (256 * a + 16 * r + c) with
  | some w => w
  | none => Config.freeWord t.uid (2 ^ 24 + 256 * a + 16 * r + c)

/-- Writes an element of a tile. -/
def Team.setTile (t : Team) (a r c : Nat) (w : Word) : Team := { t with tiles := t.tiles.put (256 * a + 16 * r + c) w }

/-- Element k of a row of bytes, of eb bits. -/
def rowElem (eb : Nat) (byte : Nat → Byte) (k : Nat) : Nat :=
  if eb == 16 then (byte (2 * k)).toNat + 256 * (byte (2 * k + 1)).toNat
  else if eb == 8 then (byte k).toNat
  else (byte (k / 2)).toNat / 16 ^ (k % 2) % 16

/-- The scratchpad operand of two registers that passed their checks. -/
def scrRaw (o d : GWord) : Scr := { off := o.toNat, rowp := bits d.toNat 0 16, tilep := bits d.toNat 16 23, rot := bits d.toNat 39 6 }

/-- A byte of a team's window as an engine reads it: of a poisoned sector no rule gives the value (17 R370, log 90). -/
def Team.engWin (t : Team) (o : Nat) : Byte := if t.bad.contains (o / 32) then Config.freeByte (2 ^ 67 + t.uid) o else t.winByte o

/-- Byte b of row i of A: scratchpad, or lane registers of `mma.v` (R250, R252). -/
def State.matA (s : State) (m : MatOp) (tile i b : Nat) : Byte :=
  match m.kind with
  | .mmaV => BitVec.ofNat 8 (((s.grp m.gid).v.get 0 ((m.aRegs.1 + b / 4) * 32 + i)).toNat / 2 ^ (8 * (b % 4)))
  | .mma | .mmv => (s.team m.team).engWin ((scrRaw (m.regs.getD 0 0) (m.regs.getD 1 0)).byteAt tile i b)

/-- Byte b of row j of B, that is of column j: scratchpad, or weights (R250, R253). Tile 1 holds the group words. -/
def State.matB (s : State) (m : MatOp) (gw tile j b : Nat) : Byte :=
  match m.kind with
  | .mma | .mmaV => (s.team m.team).engWin ((scrRaw (m.regs.getD 2 0) (m.regs.getD 3 0)).byteAt tile j b)
  | .mmv =>
    match m.rcd with
    | none => 0
    | some r =>
      let o : Int := if tile == 0 then (m.regs.getD 2 0).toInt + (j * r.stride.toNat + b : Nat) else (m.regs.getD 3 0).toInt + (j * gw + b : Nat)
      let pa := trLookup m.tr (r.address o).toNat
      let x := s.engPre (m.team / 16) m.pre pa
      if x.2 then Config.freeByte (2 ^ 68) pa else x.1

/-- A poisoned sector of the weights, or of the window, that an operation reads, by its address (17 R370). -/
def State.matPoison (s : State) (m : MatOp) : Option Nat :=
  let c := m.team / 16
  let weights := m.tr.findSome? (fun e => (List.range 4).findSome? (fun q =>
    if (s.engByte c (e.2 * 128 + 32 * q)).2 then some (e.2 * 128 + 32 * q) else none))
  let e := m.region.toNat
  let rows : List (Nat × Nat) := match m.kind with
    | .mma => [(0, regionM e), (2, regionN e)]
    | .mmaV => [(2, regionN e)]
    | .mmv => [(0, bits e 15 3 + 1)]
  let n := (match m.kind with | .mma | .mmaV => regionK e | .mmv => bits e 18 14) / 2
  let win := rows.findSome? (fun r => (List.range r.2).findSome? (fun i => (List.range n).findSome? (fun b =>
    let o := (scrRaw (m.regs.getD r.1 0) (m.regs.getD (r.1 + 1) 0)).byteAt 0 i b
    if (s.team m.team).bad.contains (o / 32) then some (o / 32 * 32) else none)))
  match weights with
  | some a => some a
  | none => if (s.team m.team).bad.isEmpty then none else win

/-- Rows of A, rows of B, and K of an operation. -/
def MatOp.dims (m : MatOp) : Nat × Nat × Nat :=
  let e := m.region.toNat
  match m.kind with
  | .mma | .mmaV => (regionM e, regionN e, regionK e)
  | .mmv => (bits e 15 3 + 1, 16 * (bits e 9 6 + 1), bits e 18 14)

/-- The group words of a row. -/
def groupWords (n : Nat) (byte : Nat → Byte) : List Word :=
  (List.range n).map (fun k => BitVec.ofNat 32 (ofBytes ((List.range 4).map (fun j => byte (4 * k + j)))))

/-- Some group word that the operation reads breaks R128. -/
def State.matBad (s : State) (m : MatOp) : Bool :=
  let (rm, rn, k) := m.dims
  match pairFmt m.fmt.toNat with
  | some (eb, _, true) =>
    let n := k / fmtG m.fmt
    let bad (f : Nat → Byte) : Bool := (groupWords n f).any (fun w => !groupWordOk (eb == 4) w)
    (List.range rm).any (fun i => bad (s.matA m 1 i)) || (List.range rn).any (fun j => bad (s.matB m (4 * n) 1 j))
  | _ => false

/-- The float format of an AFMT or BFMT code. -/
def matFmt (c : Nat) : FFmt :=
  match c with
  | 1 => fBF16
  | 2 => fFP16
  | 3 => fE4M3
  | 4 => fE5M2
  | _ => fFP32

/-- A float value, a subnormal as a zero of its sign under FTZIN (R127). -/
def FFmt.decodeFtz (f : FFmt) (ftz : Bool) (w : Nat) : FV :=
  match f.decode w with
  | .fin s m e => if ftz && m < 2 ^ f.mb then .fin s 0 0 else .fin s m e
  | .nan => .nan
  | .inf s => .inf s

/-- A chunk sum of integer terms under two scales; a zero is +0, since no integer term is −0 (R133, R134, log 59). -/
def scaleSum (sa sb : FV) (x : Int) : FV :=
  match sa, sb with
  | .nan, _ => .nan
  | _, .nan => .nan
  | .inf s, b => if x = 0 then .nan else .inf ((s != b.isNeg) != decide (x < 0))
  | .fin s _ _, .inf t => if x = 0 then .nan else .inf ((s != t) != decide (x < 0))
  | .fin s m e, .fin t n k => if x = 0 || m = 0 || n = 0 then .fin false 0 0 else FV.mul (FV.mul (.fin s m e) (.fin t n k)) (FV.ofInt x)

/-- One chunk added to an accumulator element (R133). -/
def matChunk (s : State) (m : MatOp) (eb w : Nat) (q : Bool) (i j c : Nat) (acc : Word) : Word :=
  let f := m.fmt.toNat
  let af := bits f 0 4
  let ftz := bit f 16
  let gk := fmtG m.fmt
  let ks := (List.range w).map (fun k => c * w + k)
  let ea := rowElem eb (s.matA m 0 i)
  let eB := rowElem eb (s.matB m (4 * (m.dims.2.2 / gk)) 0 j)
  let mode := detMode (fmtMode m.fmt)
  let accf (x : FV) : Word :=
    BitVec.ofNat 32 (fFP32.round (bit f 15) mode 0 (FV.add (modeDn mode) (fFP32.decode acc.toNat) x).toR)
  if q then
    let n := m.dims.2.2 / gk
    let wa := (groupWords n (s.matA m 1 i)).getD (c * w / gk) 0
    let wb := (groupWords n (s.matB m (4 * n) 1 j)).getD (c * w / gk) 0
    let z (x : Word) : Int := bits x.toNat 16 8
    let sc (x : Word) : FV := fFP16.decodeFtz ftz (bits x.toNat 0 16)
    let sum := (ks.map (fun k => ((ea k : Int) - z wa) * ((eB k : Int) - z wb))).sum
    accf (scaleSum (sc wa) (sc wb) sum)
  else if af == 5 then
    let sum := (ks.map (fun k => sextI 8 (ea k) * sextI 8 (eB k))).sum
    if bit f 9 then
      let x := acc.toInt + sum
      if bit f 15 then w32 (max (-(2 ^ 31)) (min x (2 ^ 31 - 1))) else w32 x
    else accf (FV.ofInt sum)
  else accf (sumFV (ks.map (fun k => FV.mul ((matFmt af).decodeFtz ftz (ea k)) ((matFmt (bits f 4 4)).decodeFtz ftz (eB k)))))

/-- Runs n more chunks of an operation: every region element accumulates its chunks in increasing k (R133, R251, R253). -/
def State.runMat (s : State) (m : MatOp) (n : Nat) : State :=
  let (rm, rn, k) := m.dims
  match pairFmt m.fmt.toNat with
  | none => s
  | some (eb, w, q) =>
    let cols := rn / 16
    let tile (i j : Nat) : Nat := m.tiles.1 + (if m.kind == .mmv then j / 16 else i / 16 * cols + j / 16)
    let t0 := s.team m.team
    let t1 := if m.zero && m.chunks == 0 then
        (List.range rm).foldl (fun t i => (List.range rn).foldl (fun t j => t.setTile (tile i j) (i % 16) (j % 16) 0) t) t0
      else t0
    let t2 := (List.range rm).foldl (fun t i => (List.range rn).foldl (fun t j =>
      let old := t1.tileElem (tile i j) (i % 16) (j % 16)
      t.setTile (tile i j) (i % 16) (j % 16) ((List.range (min n (k / w - m.chunks))).foldl (fun acc c => matChunk s m eb w q i j (m.chunks + c) acc) old)) t) t1
    { s with teams := s.teams.put m.team t2 }

/-- The oldest operation of a core that has not run. -/
def State.nextMat (s : State) (c : Nat) : Option MatOp := (s.core c).matq.find? (fun m => !m.ran)

/-- The chunks of an operation (R133). -/
def MatOp.total (m : MatOp) : Nat :=
  match pairFmt m.fmt.toNat with
  | some (_, w, _) => m.dims.2.2 / w
  | none => 0

/-- Notes that an operation has done some chunks in all; it has run when none is left. -/
def State.matDid (s : State) (c : Nat) (m : MatOp) (n : Nat) : State :=
  s.onCore c (fun k => { k with matq := k.matq.map (fun x => if x.id == m.id then { x with ran := m.total ≤ n, chunks := n } else x) })

/-- Ends an operation with a bad group word. -/
def State.matFail (s : State) (c : Nat) (m : MatOp) : State :=
  s.onCore c (fun k => { k with matq := k.matq.map (fun x => if x.id == m.id then { x with ran := true, bad := true } else x) })

/-- The lines from which an operation reads the weights of its n next chunks (R253). -/
def MatOp.lines (m : MatOp) (n : Nat) : List Nat :=
  match m.kind, m.rcd, pairFmt m.fmt.toNat with
  | .mmv, some r, some (eb, w, q) =>
    let gk := fmtG m.fmt
    let lo := m.chunks * w
    let hi := (m.chunks + n) * w
    let line (o : Int) : Nat := trLookup m.tr (r.address o).toNat / 128
    ((List.range m.dims.2.1).flatMap (fun j =>
      ((List.range (hi * eb / 8 - lo * eb / 8)).map (fun b => line ((m.regs.getD 2 0).toInt + (j * r.stride.toNat + lo * eb / 8 + b : Nat))))
      ++ (if q then (List.range (4 * ((hi + gk - 1) / gk - lo / gk))).map (fun b =>
            line ((m.regs.getD 3 0).toInt + (j * (4 * (m.dims.2.2 / gk)) + 4 * (lo / gk) + b : Nat))) else []))).eraseDups
  | _, _, _ => []

/-- The matrix unit runs n chunks of the oldest operation of a core, or with 0 all that are left; one with a bad group word waits for
GROUPWORD, and one of a team that is being saved has stopped at its chunk boundary (15 R320). A poisoned sector that it reads is reported
(17 R370, log 90). -/
def State.matrixMove (s : State) (c n : Nat) : State :=
  match s.nextMat c with
  | none => s
  | some m =>
    let n := if n == 0 then m.total - m.chunks else min n (m.total - m.chunks)
    if s.matBad m || (s.team m.team).saving != 0 then s
    else
      let t := match (if m.chunks == 0 then s.matPoison m else none) with
        | some a => s.tryPost (s.codeOfCore c) (eventRec s (s.codeOfCore c) a c 0 0x70)
        | none => s
      let t := (m.lines n).foldl (fun t k => if isHost (k * 128) then t else t.engSee c k false) t
      (t.runMat m n).matDid c m (m.chunks + n)

/-- GROUPWORD (15 R319): the operation ends, its batch has failed, its tiles are undefined. -/
def execGroupword (core : Nat) (s : State) : Host.Outcome State Fault Refusal :=
  runUp s (match s.nextMat core with
    | none => none
    | some m =>
      if !s.matBad m then none
      else
        let p := s.codeOfCore core
        let t := s.team m.team
        match s.postRec p (faultRec s p 0 0xFFFFFFFF t.ctx core 0 0 false t.stage 0x62) with
        | none => none
        | some s =>
          let id := s.freeCtr
          let s := s.tick.onTeam m.team (fun t => (List.range (256 * m.tiles.2)).foldl (fun t k =>
            { t with tiles := t.tiles.put (256 * m.tiles.1 + k) (Config.freeWord id k) }) t)
          let s := if (s.groups.find m.gid).isSome then s.onGrp m.gid (fun x => { x with failed := x.failed ++ [m.batch] }) else s
          some (s.matFail core m))

/-- BATCH_COMPLETE (R254): the group's oldest closed batch completes once its operations have run; of ended groups, the oldest batch that is
left in the queue. -/
def execBatchComplete (g : Nat) (s : State) : Host.Outcome State Fault Refusal :=
  runUp s (
    let c := coreOf (g % 2 ^ 32)
    let ended := decide (2 ^ 32 ≤ g)
    let x := s.grp g
    let n := x.lastDone + 1
    let q := (s.core c).matq.filter (fun m => m.gid == g)
    let ops := if ended then q.takeWhile (fun m => some m.batch == (q.head?.map (fun m => m.batch))) else q.filter (fun m => m.batch == n)
    let s := ops.foldl (fun s m => s.clearLocks (2 * m.id)) s
    let s := s.onCore c (fun k => { k with matq := k.matq.filter (fun m => ops.all (fun o => o.id != m.id)) })
    if ops.any (fun m => !m.ran) then none
    else if ended then (if ops.isEmpty then none else some s)
    else if !s.occupied g || x.lastDone == x.bc then none
    else some (s.onGrp g (fun x => { x with lastDone := n, reported := x.reported.filter (· != n) })))

end Sys2Proof.Machine
end

