-- ==== Sys2Proof/Machine/Pipes.lean ====
section
/-! DEFINITION. The pipe instructions and the Rein instructions (06 R141 to R145, R153, 11 R263 to R265). -/

namespace Sys2Proof.Machine

open Sys2Proof

/-! ## Pipes (R141 to R145) -/

/-- Pipe n of the group's launch, bound to its stage as producer or as consumer: PIPEFAULT otherwise (R145). -/
def pipeBound (s : State) (g n : Nat) (prod : Bool) : R Pipe :=
  let t := s.teamOf g
  match s.pipe (64 * t.launch + n) with
  | none => .error (trapOf cPIPEFAULT)
  | some x =>
    if (if prod then x.prods.contains t.stage && x.xlink != 2 else x.cons == t.stage && x.xlink != 1) then .ok x
    else .error (trapOf cPIPEFAULT)

/-- The stage and linear index of the group's team, as pipes name a holder. -/
def State.holder (s : State) (g : Nat) : Nat × Nat := ((s.teamOf g).stage, (s.teamOf g).lin)

/-- The handles that a team holds, over all its pipes: tiles that are HELD or TAKEN (R141, log 20). -/
def State.teamHandles (s : State) (g : Nat) : Nat :=
  ((s.pipesOf (s.teamOf g).launch).map (fun k =>
    match s.pipe k with
    | some x => (x.tiles.filter (fun t => t.team == s.holder g && (t.st == .held || t.st == .taken))).length
    | none => 0)).sum

/-- A rerunnable team's slots of one pipe: HELD or PENDING (R141, log 20). -/
def Pipe.depthHeld (x : Pipe) (who : Nat × Nat) : Nat :=
  (x.tiles.filter (fun t => t.team == who && (t.st == .held || t.st == .pending))).length

/-- The port of a pipe is up for a partition (16 R331). -/
def State.pipeUp (s : State) (p : Nat) (x : Pipe) : Bool :=
  (s.pkg.ports.get Port.empty x.xport).state == 2 && s.codeOfQuarter (x.xport / 4) == p

/-- The FREE slots of a pipe: for a producer whose consumer is far, none without a credit or while the port is not up (R153). -/
def State.freeSlots (s : State) (p : Nat) (x : Pipe) : List Nat :=
  if x.xlink == 1 && (x.credits == 0 || !s.pipeUp p x) then [] else indices x.depth (fun k => !x.tiles.any (fun t => t.slot == k && !t.spill))

/-- The waiters of a list that still wait, other than the group and those behind it. -/
def State.ahead (s : State) (g : Nat) (r : Stall) (l : List Nat) : List Nat :=
  (l.takeWhile (· != g)).filter (fun w => s.occupied w && (s.grp w).cwait == .stall r)

/-- The group leaves the waiters of every pipe of its launch. -/
def State.unwait (s : State) (g : Nat) : State :=
  (s.pipesOf (s.teamOf g).launch).foldl (fun s k => s.onPipe k (fun p => { p with
    acqWait := p.acqWait.filter (· != g), getWait := p.getWait.filter (· != g) })) s

/-- Joins the end of a list of waiters, once. -/
def joinWait (l : List Nat) (g : Nat) : List Nat := if l.contains g then l else l ++ [g]

/-- The handle of a tile (R139). -/
def handleOf (seq : Word) (kind : Nat) (spill : Bool) (pipe slot : Nat) : GWord :=
  BitVec.ofNat 64 (seq.toNat * 2 ^ 16 + kind * 2 ^ 14 + b2n spill * 2 ^ 13 + pipe * 2 ^ 6 + (if spill then 0 else slot))

/-- A slot as `pacq` takes it. -/
def newTile (s : State) (g : Nat) (seq : Word) (slot : Nat) : Tile :=
  { st := .held, slot := slot, spill := false, seq := seq, tag := 0, rcd := none, team := s.holder g, order := 0, data := [],
    uid := s.freeCtr, bad := [], abort := false, from_ := [] }

/-- pacq and pacq.try (R141). -/
def pacqAny (s : State) (g : Nat) (d : GReg) (n : Nat) (try_ : Bool) : R State := do
  legal (1 ≤ d.toNat && d.toNat ≤ 60)
  let x ← pipeBound s g n true
  let k := 64 * (s.teamOf g).launch + n
  need (s.teamHandles g < 64) cPIPEFAULT
  need (!((s.teamOf g).rerun && x.depth ≤ x.depthHeld (s.holder g))) cPIPEFAULT
  let ahead := s.ahead g .pipeFull x.acqWait
  match s.freeSlots (s.teamOf g).part x with
  | slot :: rest =>
    if ahead.isEmpty then
      let s := (s.unwait g).onPipe k (fun p => { p with
        seq := p.seq + 1, credits := if p.xlink == 1 then p.credits - 1 else p.credits, tiles := p.tiles ++ [newTile s g x.seq slot] })
      pure ((s.tick.putG g d (handleOf x.seq 1 false n slot)).adv g 4)
    else if !try_ then waitC ((s.unwait g).onPipe k (fun p => { p with acqWait := joinWait x.acqWait g })) g .pipeFull
    else if rest.length < ahead.length then pure ((s.putG g d 0).adv g 4)
    else waitC s g .latency
  | [] =>
    if try_ then pure ((s.putG g d 0).adv g 4)
    else waitC ((s.unwait g).onPipe k (fun p => { p with acqWait := joinWait x.acqWait g })) g .pipeFull

/-- pacq (R141). -/
def execPacq (d : GReg) (n : BitVec 6) (s : State) : Host.Outcome State Fault Refusal := runEngine s (fun g => pacqAny s g d n.toNat false)

/-- pacq.try (R141). -/
def execPacqTry (d : GReg) (n : BitVec 6) (s : State) : Host.Outcome State Fault Refusal := runEngine s (fun g => pacqAny s g d n.toNat true)

/-- The tile that a `pget` of a team takes: the oldest RETURNED to it, otherwise the oldest of the queue (R143). -/
def Pipe.nextTile (x : Pipe) (who : Nat × Nat) : Option Tile :=
  let oldest (l : List Tile) : Option Tile := l.find? (fun t => l.all (fun u => t.order ≤ u.order))
  match oldest (x.tiles.filter (fun t => t.st == .returned && t.team == who)) with
  | some t => some t
  | none => oldest (x.tiles.filter (fun t => t.st == .committed))

/-- The pipe delivers nothing: its far end's port is not up (16 R331). -/
def State.pipeDown (s : State) (g : Nat) (x : Pipe) : Bool := x.xlink == 2 && !s.pipeUp (s.teamOf g).part x

/-- The tile that a team's pget takes; of a pipe whose port is down, only one of its own RETURNED tiles. -/
def State.tileFor (s : State) (g : Nat) (x : Pipe) : Option Tile :=
  (x.nextTile (s.holder g)).filter (fun t => t.st == .returned || !s.pipeDown g x)

/-- pget and pget.try (R143): the tile is taken, and its release acquired (04 R92); one with no record invalidates. A tile of a far
producer acquires nothing (R153). -/
def pgetAny (s : State) (g : Nat) (d : GReg) (n : Nat) (try_ : Bool) : R State := do
  legal (d.toNat % 2 == 0 && 2 ≤ d.toNat && d.toNat ≤ 58)
  let x ← pipeBound s g n false
  let k := 64 * (s.teamOf g).launch + n
  let d1 : GReg := d + 1
  need (s.teamHandles g < 64) cPIPEFAULT
  let ahead := s.ahead g .pipeEmpty x.getWait
  match s.tileFor g x with
  | some t =>
    if !ahead.isEmpty && t.st != .returned then
      (if !try_ then waitC ((s.unwait g).onPipe k (fun p => { p with getWait := joinWait x.getWait g })) g .pipeEmpty
       else if (x.tiles.filter (fun t => t.st == .committed)).length ≤ ahead.length then pure (((s.putG g d 0).putG g d1 0).adv g 4)
       else waitC s g .latency)
    else
      let s := (s.unwait g).onPipe k (fun p => { p with
        tiles := p.tiles.map (fun u => if u.seq == t.seq then { u with st := .taken, team := s.holder g } else u) })
      let h := handleOf t.seq 2 t.spill n t.slot
      match t.rcd with
      | none =>
        let s := if x.xlink == 2 then s else s.invShared (coreOf g)
        pure (((s.putG g d h).putG g d1 t.tag).adv g 4)
      | some r =>
        if r.core == coreOf g then pure (((s.putG g d h).putG g d1 t.tag).adv g 4)
        else
          .error (.wait ((s.requestSettle (coreOf g) r (some (g, false))).onGrp g (fun y =>
            { y with cwait := .settle r [(d.toNat, h), (d1.toNat, t.tag)] 4, acqVa := 0 })))
  | none =>
    if (x.closed && !s.pipeDown g x) || try_ then pure ((((s.unwait g).putG g d 0).putG g d1 0).adv g 4)
    else waitC ((s.unwait g).onPipe k (fun p => { p with getWait := joinWait x.getWait g })) g .pipeEmpty

/-- pget (R143). -/
def execPget (d : GReg) (n : BitVec 6) (s : State) : Host.Outcome State Fault Refusal := runEngine s (fun g => pgetAny s g d n.toNat false)

/-- pget.try (R143). -/
def execPgetTry (d : GReg) (n : BitVec 6) (s : State) : Host.Outcome State Fault Refusal := runEngine s (fun g => pgetAny s g d n.toNat true)

/-- The place is the tile of a sequence number of a pipe. -/
def Place.isTile (p : Place) (k : Nat) (q : Word) : Bool :=
  match p with
  | .slot j h _ => j == k && bits h.toNat 16 32 == q.toNat
  | .glob _ _ | .scr _ _ _ _ _ => false

/-- A copy that names a tile is outstanding (R142, R144). -/
def State.tileInUse (s : State) (g k : Nat) (q : Word) : Bool :=
  (s.core (coreOf g)).cmds.any (fun e => e.2.src.isTile k q || e.2.dst.isTile k q)

/-- The tile of a handle that `pcommit` or `pfree` may end: PIPEFAULT otherwise (R145). -/
def pipeHeld (s : State) (g : Nat) (h : GWord) (kind : Nat) : R (Nat × Tile) :=
  match s.handleTile g h kind with
  | none => .error (trapOf cPIPEFAULT)
  | some (k, t) => if s.tileInUse g k t.seq then .error (trapOf cPIPEFAULT) else .ok (k, t)

/-- pcommit (R142): of a rerunnable stage the tile becomes the last PENDING one of its team. That the commit reaches the first home slice, and
the tile the queue, in the very step of the instruction is the model's choice: a `pget.try` of another group after it returns no null
handle for it, as R147 would allow (log 100). -/
def execPcommit (tg h : GReg) (s : State) : Host.Outcome State Fault Refusal :=
  runEngine s (fun g => do
    let (k, t) ← pipeHeld s g (s.rg g h) 1
    if s.reinEarlier g false then waitC s g .latency
    else
      let c := coreOf g
      let tag := s.rg g tg
      let (m, s) := s.markStep c
      let rerun := (s.teamOf g).rerun
      let u : Tile := { t with tag := tag, rcd := some { core := c, mark := m }, st := if rerun then .pending else .held }
      let s := s.onPipe k (fun p => { p with tiles := p.tiles.filter (fun x => x.seq != t.seq) ++ [u] })
      let s := if rerun then s else s.commitTile (s.teamOf g).part k t.seq
      pure (s.adv g 4))

/-- pfree (R144). -/
def execPfree (h : GReg) (s : State) : Host.Outcome State Fault Refusal :=
  runEngine s (fun g => do
    let (k, t) ← pipeHeld s g (s.rg g h) 2
    let s := if (s.teamOf g).rerun then
        s.onPipe k (fun p => { p with tiles := p.tiles.map (fun u => if u.seq == t.seq then { u with st := .done } else u) })
      else s.freeTaken k t
    pure (s.adv g 4))

/-! ## The Rein (R264, R265) -/

/-- The page is not a Rein-window page. -/
def notRein (_ : State) (a : Acc) : Bool := !a.tr.rein

/-- rput and rput.rel (R264): 128 bytes of the window in one slot, read as a load of the control stream. -/
def rputAny (s : State) (g : Nat) (src o m : GReg) (bn : Slot) (rel : Bool) : R State := do
  let mask := s.rg g m
  let from_ := (s.rg g src).toNat
  let q : Req := { lane := none, off := (s.rg g o).toInt, n := 128 }
  legal (mask != 0 && mask.toNat < 2 ^ 32)
  let b ← checkBounds (s.slotRec g bn) bn.toNat .store [q]
  if (s.teamOf g).scratch < from_ + 128 then .error (trapAt cBOUNDS 16 none from_) else pure ()
  checkAlign b (fun _ => 128) [q]
  if from_ % 16 != 0 then .error (trapAt cALIGN 0 none from_) else pure ()
  let (s, l) ← checkGlobal s g bn .store (fun _ => 128) notRein [q]
  match lockHit (s.core (coreOf g)).locks false (s.grp g).team from_ (from_ + 128) false, l with
  | some e, _ => .error (trapAt cRANGELOCK e none from_)
  | none, [] => .error (trapOf cILLEGAL)
  | none, x :: _ =>
    if (s.teamOf g).winBad from_ 128 then .error (trapAt cCHECKFAIL 0 none from_)
    else if s.reinStale g || (rel && s.reinEarlier g false) then waitC s g .latency
    else do
      let data := (List.range 32).map (fun k => (s.teamOf g).winW (from_ + 4 * k))
      let (mk, t) := if rel then s.markStep (coreOf g) else (0, s)
      let w := { reinWrite t g false x.tr.pa (if rel then 2 else 1) 0 (mask.setWidth 32) data .none with mark := mk }
      match t.sendRein (deckOf g) w with
      | some t => pure (t.adv g 4)
      | none => waitC s g .latency

/-- rput (R264). -/
def execRput (src o m : GReg) (bn : Slot) (s : State) : Host.Outcome State Fault Refusal := runEngine s (fun g => rputAny s g src o m bn false)

/-- rput.rel (R264). -/
def execRputRel (src o m : GReg) (bn : Slot) (s : State) : Host.Outcome State Fault Refusal := runEngine s (fun g => rputAny s g src o m bn true)

/-- rseq (R265): it waits while the deck refills. -/
def execRseq (d : GReg) (s : State) : Host.Outcome State Fault Refusal :=
  runEngine s (fun g => do
    if s.reinStale g then waitC s g .latency
    else do
      let s ← s.wg g d (BitVec.ofNat 64 (s.deck (deckOf g)).lastQ)
      pure (s.adv g 4))

end Sys2Proof.Machine
end

