-- ==== Sys2Proof/Machine/System.lean ====
section
/-! DEFINITION. System registers, the handler exits, translation invalidation, the full settle, snapshots and the break
(11 R266 to R270, 15 R312, R315, R324, R325, 17 R356 to R359, R362). -/

namespace Sys2Proof.Machine

open Sys2Proof

/-! ## Quiesced partitions (17 R362) -/

/-- The first reason, 2 to 6, for which a partition is not quiesced; 0 when it is. -/
def State.unquiet (s : State) (p : Nat) : Nat :=
  let x := s.part p
  if s.queues.any (fun e => e.2.cfg.getLsbD 0 && bits e.2.cfg.toNat 2 3 == p) then 2
  else if s.launches.any (fun e => e.2.part == p) then 3
  else if x.preState != 0 || !x.saved.isEmpty || x.snap.running then 4
  else if x.flipState == 1 then 5
  else if s.pkg.ports.any (fun e => e.2.en && s.codeOfQuarter (e.1 / 4) == p) then 6
  else 0

/-- PARTMAP (R356). -/
def State.partmap (s : State) : GWord :=
  BitVec.ofNat 64 (((List.range 4).map (fun q => s.codeOfQuarter q * 2 ^ (3 * q))).sum
    + ((List.range 4).map (fun q => b2n (s.unquiet (s.codeOfQuarter q) == 0) * 2 ^ (12 + q))).sum
    + ((List.range 8).map (fun d => b2n (s.deck d).live * 2 ^ (16 + d))).sum
    + ((List.range 8).map (fun d => b2n (s.deck d).awake * 2 ^ (24 + d))).sum)

/-- The quarter codes form a layout (R355). -/
def layoutOk (c : List Nat) : Bool :=
  [[0, 0, 0, 0], [1, 1, 2, 2], [1, 1, 5, 6], [3, 4, 2, 2], [3, 4, 5, 6]].contains c

/-- The quarter codes in PARTMAP's low bits. -/
def codesOf (w : Nat) : List Nat := (List.range 4).map (fun q => bits w (3 * q) 3)

/-! ## System registers (R266) -/

/-- HBMIL with NSTK as its STACKS give it (R357). -/
def hbmilOf (w : Nat) : GWord := BitVec.ofNat 64 (bits w 38 14 * 2 ^ 38 + popc 12 w * 2 ^ 12 + bits w 0 12)

/-- The stacks of a partition, rising. -/
def Part.stacks (x : Part) : List Nat := indices 12 (fun k => x.hbmil.getLsbD k)

/-- hbm_locate (R357): the stack and the offset in it of an address of the partition. -/
def Part.locate (x : Part) (pa : Nat) : Option (Nat × Nat) :=
  if !x.inHbm pa then none
  else
    let i := (pa - x.hbmBase) / 4096
    some (x.stacks.getD (i % x.nstk) 0, i / x.nstk * 4096 + pa % 4096)

/-- The address of the partition that hbm_locate takes to a place. -/
def Part.addrOf (x : Part) (st off : Nat) : Option Nat :=
  if x.stacks.contains st && off / 4096 < 15625000 then
    some (x.hbmBase + (off / 4096 * x.nstk + x.stacks.idxOf st) * 4096 + off % 4096)
  else none

/-- The key of a place of a stack that no address reaches. -/
def parked (st off : Nat) : Nat := 2 ^ 53 + st * 2 ^ 36 + off

/-- Where the byte kept under an address stands after HBMIL of a partition changes from x to y: each stack keeps its bytes (R357). -/
def relocated (x y : Part) (pa : Nat) : Nat :=
  let place (l : Nat × Nat) : Nat := (y.addrOf l.1 l.2).getD (parked l.1 l.2)
  if 2 ^ 53 ≤ pa then place ((pa - 2 ^ 53) / 2 ^ 36, pa % 2 ^ 36)
  else match x.locate pa with
    | some l => place l
    | none => pa

/-- HBMIL of a partition changes: its bytes, with their poison and mirror copies, are reached where the new interleave puts them. -/
def State.setHbmil (s : State) (p : Nat) (v : GWord) : State :=
  let x := s.part p
  let y := { x with hbmil := v }
  if x.hbmil == v then s
  else
    { s with
      mem := s.mem.foldl (fun (m : Memory) (e : Host.Cell) => m.write (relocated x y e.1) e.2) [],
      poison := s.poison.map (fun q => relocated x y (32 * q) / 32),
      mirror := s.mirror.map (fun l => relocated x y (128 * l) / 128) }.onPart p (fun _ => y)

/-- Reached from a handler. -/
def handlerReg (r : SysReg) : Bool :=
  match r with
  | .status | .trapcause | .trappc | .traplpc | .trapva | .handlerbase | .stacklimit | .checkmode | .cmark | .settledmark => true
  | .stablebase | .partmap | .hbmil | .netbound | .reinsplit => false

/-- Reached from the Farrier, its own STATUS among them (R266). -/
def farrierReg (r : SysReg) : Bool :=
  match r with
  | .status | .handlerbase | .checkmode | .stablebase | .partmap | .hbmil | .netbound | .reinsplit => true
  | .trapcause | .trappc | .traplpc | .trapva | .stacklimit | .cmark | .settledmark => false

/-- The core whose instance a register names: the issuer's own, or the one in the Farrier's STATUS; where that number names no core, a free
one (log 19). -/
def State.sysCore (s : State) (g : Nat) : Nat :=
  if g != farrierId then coreOf g
  else if (s.grp g).tcore < 384 then (s.grp g).tcore
  else Config.freeNat s.freeCtr % 384

/-- The free core of a STATUS that names none is another one each time (log 6). -/
def State.sysTick (s : State) (g : Nat) : State := if g == farrierId && 384 ≤ (s.grp g).tcore then s.tick else s

/-- PRIV outside system mode, and for a register that its row does not reach from the issuer. -/
def sysReach (s : State) (g : Nat) (r : SysReg) : R Unit := do
  needSys s g
  need (if g == farrierId then farrierReg r else handlerReg r) cPRIV

/-- STATUS (15 R312). -/
def State.statusWord (s : State) (g : Nat) : GWord :=
  let x := s.grp g
  BitVec.ofNat 64 (b2n x.sys + 2 * b2n x.laneTrap + (if g == farrierId then x.tcore else coreOf g) * 2 ^ 32)

/-- The value of a system register. -/
def State.readSys (s : State) (g : Nat) (r : SysReg) : GWord :=
  let x := s.grp g
  let c := s.sysCore g
  let k := s.core c
  let p := s.part (s.codeOfCore c)
  match r with
  | .status => s.statusWord g
  | .trapcause => x.cause
  | .trappc => x.trappc
  | .traplpc => x.traplpc
  | .trapva => x.trapva
  | .stacklimit => x.stackLim
  | .handlerbase => k.handlerBase
  | .checkmode => k.checkmode
  | .cmark => k.cm.zeroExtend 64
  | .settledmark => k.settled.zeroExtend 64
  | .stablebase => p.stable
  | .hbmil => p.hbmil
  | .netbound => p.netbound
  | .partmap => s.partmap
  | .reinsplit => (s.tower (towerOfDeck (deckOfCore c))).reinSplit

/-- Writes a system register, field by field as its access codes give (00 R3). -/
def State.writeSys (s : State) (g : Nat) (r : SysReg) (v : GWord) : R State :=
  let c := s.sysCore g
  let p := s.codeOfCore c
  let w := v.toNat
  match r with
  | .status => .ok (if g == farrierId then s.onGrp g (fun x => { x with tcore := bits w 32 9 }) else s)
  | .trapcause | .trapva => .ok s
  | .trappc => .ok (s.onGrp g (fun x => { x with trappc := v }))
  | .traplpc => .ok (s.onGrp g (fun x => { x with traplpc := BitVec.ofNat 64 (x.traplpc.toNat / 2 ^ 20 * 2 ^ 20 + w % 2 ^ 20) }))
  | .stacklimit => .ok (s.onGrp g (fun x => { x with stackLim := BitVec.ofNat 64 (w / 16 * 16 + w % 2) }))
  | .handlerbase => .ok (s.onCore c (fun k => { k with handlerBase := BitVec.ofNat 64 (bits w 14 38 * 2 ^ 14) }))
  | .checkmode => .ok (s.onCore c (fun k => { k with checkmode := BitVec.ofNat 64 (w % 4) }))
  | .cmark | .settledmark => .error (trapOf cILLEGAL)
  | .stablebase => .ok (s.onPart p (fun x => { x with stable := BitVec.ofNat 64 (bits w 21 31 * 2 ^ 21 + w % 2 ^ 13) }))
  | .hbmil => .ok (s.setHbmil p (hbmilOf w))
  | .netbound => .ok (s.onPart p (fun x => { x with netbound := BitVec.ofNat 64 (bits w 16 16 * 2 ^ 16 + w % 2 ^ 9) }))
  | .reinsplit => .ok (s.onTower (towerOfDeck (deckOfCore c)) (fun t => { t with reinSplit := BitVec.ofNat 64 (w % 2) }))
  | .partmap =>
    if layoutOk (codesOf w) && (List.range 4).all (fun q =>
        (codesOf w).getD q 0 == s.codeOfQuarter q || s.unquiet (s.codeOfQuarter q) == 0) then
      .ok { s with pkg := { s.pkg with codes := codesOf w } }
    else .error (trapOf cILLEGAL)

/-- sysrd (R266). -/
def execSysrd (d : GReg) (r : SysReg) (s : State) : Host.Outcome State Fault Refusal :=
  runCtrl s (fun g => do
    sysReach s g r
    let s ← (s.sysTick g).wg g d (s.readSys g r)
    pure (s.adv g 4))

/-- syswr (R266). -/
def execSyswr (r : SysReg) (a : GReg) (s : State) : Host.Outcome State Fault Refusal :=
  runCtrl s (fun g => do
    sysReach s g r
    let s ← s.writeSys g r (s.rg g a)
    pure ((s.sysTick g).adv g 4))

/-! ## Handler exits (R267, 15 R315) -/

/-- A free address of an instruction. -/
def freePc (n : Nat) : GWord := BitVec.ofNat 64 (Config.freeNat n * 4)

/-- tret (15 R315): to a TRAPPC that is no multiple of 4 it traps ALIGN (07 R166). The Farrier has taken no trap and has no TRAPPC: it goes
on at a free address (log 62). -/
def execTret (s : State) : Host.Outcome State Fault Refusal :=
  runCtrl s (fun g => do
    needSys s g
    if g == farrierId then pure (s.tick.goto g (freePc s.freeCtr))
    else if (s.grp g).hblock.isSome then waitC s g .laneq
    else if (s.grp g).trappc.toNat % 4 != 0 then .error (trapAt cALIGN 0 none (s.grp g).trappc.toNat)
    else pure (s.trapReturn g))

/-- tabort (R267): it waits, stalled FAULT, while its record cannot be posted (15 R307). The Farrier has no team to end: it goes on
(log 62). -/
def execTabort (s : State) : Host.Outcome State Fault Refusal :=
  runCtrl s (fun g => do
    needSys s g
    if g == farrierId then pure (s.adv g 4)
    else match s.faultTeam (s.grp g).team ((s.grp g).cause.toNat % 256) (trapAddr ((s.grp g).cause.toNat % 256) (s.grp g).trapva) 0 false 0x60 with
    | some s => pure s
    | none => waitC s g .fault)

/-! ## Translation invalidation (R268) -/

/-- The cores that a reach covers, from a core. -/
def State.reachCores (s : State) (c : Nat) (r : Reach) : List Nat :=
  match r with
  | .core => [c]
  | .deck => (List.range 48).map (fun k => 48 * deckOfCore c + k)
  | .part => s.coresOf (s.codeOfCore c)

/-- The pin's page is mapped as a pinned one still. -/
def State.stillPinned (s : State) (p : Nat) (line : Nat) (x : Pin) : Bool :=
  match walk s p x.ctx (x.va + line * 128 % x.size) with
  | .ok t => t.pa / 128 == line && (pteHome t.e == 2 || (pteHome t.e == 1 && pinSlice (pteOwner t.e) t.pa == x.slice))
  | .error _ => false

/-- The pinned lines of a page of a context that its entry pins no longer give up their ways, the full/empty state of their future words and
the entries deferred on them (03 R64; log 87). -/
def State.unpin (s : State) (p ctx va : Nat) : State :=
  let gone := (s.pinned.filter (fun e => e.2.ctx == ctx && e.2.va ≤ va && va < e.2.va + e.2.size
    && s.keyPart e.1 == p && !s.stillPinned p e.1 e.2)).map Prod.fst
  let s := s.withdrawIf (fun d => gone.contains (d.pa / 128))
  let s := gone.foldl State.killMarks s
  { s with pinned := s.pinned.dropIf (fun l _ => gone.contains l), fullWords := s.fullWords.filter (fun w => !gone.contains (w / 8)) }

/-- Drops the translations for which f holds within a reach. On the Farrier the issuing core is the one that its STATUS names
(log 19). -/
def tlbinvAny (s : State) (g : Nat) (r : Reach) (f : TlbE → Bool) : R State := do
  needSys s g
  pure (((s.reachCores (s.sysCore g) r).foldl (fun s c => s.tlbDrop c f) (s.sysTick g)).adv g 4)

/-- The issuer's context: of the Farrier, for which no rule gives one, a free one (log 62). -/
def State.sysCtx (s : State) (g : Nat) : Nat := if g == farrierId then Config.freeNat (s.freeCtr + 1) % 2 ^ 16 else s.ctxOf g

/-- tlbinv.va (R268): the page that holds the address, in the issuer's context; with partition reach it unpins the page's lines (03 R64). An
address that is not canonical is in no page. -/
def execTlbinvVa (a : GReg) (reach : Reach) (s : State) : Host.Outcome State Fault Refusal :=
  runCtrl s (fun g => do
    needSys s g
    let va := (s.rg g a).toNat
    let ctx := s.sysCtx g
    let t ← tlbinvAny s g reach (fun e => e.ctx == ctx && decide (e.va ≤ va) && decide (va < e.va + e.size))
    let t := if g == farrierId then t.tick.tick else t
    pure (if reach == .part then t.unpin (t.codeOfCore (s.sysCore g)) ctx va else t))

/-- tlbinv.ctx (R268). -/
def execTlbinvCtx (a : GReg) (reach : Reach) (s : State) : Host.Outcome State Fault Refusal :=
  runCtrl s (fun g => do
    needSys s g
    legal ((s.rg g a).toNat < 2 ^ 16)
    tlbinvAny s g reach (fun e => e.ctx == (s.rg g a).toNat))

/-- tlbinv.all (R268). -/
def execTlbinvAll (reach : Reach) (s : State) : Host.Outcome State Fault Refusal := runCtrl s (fun g => tlbinvAny s g reach (fun _ => true))

/-! ## Settles and snapshots (R269, 15 R324, R325) -/

/-- sysettle (R269): on the Farrier, of the core that its STATUS names (log 19). -/
def execSysettle (s : State) : Host.Outcome State Fault Refusal :=
  runCtrl s (fun g => do
    needSys s g
    pure (((s.fullSettle (s.sysCore g)).sysTick g).adv g 4))

/-- The SNAP pages that a table of a level maps, from a virtual base: virtual and physical address, and the size code (R324). -/
def snapPages (s : State) (p : Nat) : Nat → Nat → Nat → Nat → List (Nat × Nat × Nat)
  | 0, _, _, _ => []
  | fuel + 1, lvl, t, va =>
    (List.range (if lvl == 0 then 2 ^ 17 else 512)).flatMap (fun i =>
      let ptea := t * 4096 + 8 * i
      let e := s.homeNat ptea 8
      let v := va + i * lvlSize lvl + (if lvl == 0 && 2 ^ 16 ≤ i then 2 ^ 64 - 2 ^ 56 else 0)
      if !s.tableIn p ptea || !pteV e then []
      else if pteT e && lvl < 3 then snapPages s p fuel (lvl + 1) (ptePfn e) v
      else
        match leafOk s lvl v ptea e with
        | .ok x => if pteSnap e && (!pteCont e || i % 16 == 0) then
            [(v, x.pa, if pteCont e then 1 else if lvl == 3 then 0 else if lvl == 2 then 2 else 3)] else []
        | .error _ => [])

/-- The SNAP pages of a context. -/
def ctxSnapPages (s : State) (p ctx : Nat) : List (Nat × Nat × Nat) :=
  let c := s.homeNat (s.ctxAt p ctx) 8
  if !s.tableIn p (s.ctxAt p ctx) || !bit c 0 || c % 2 ^ 20 / 2 != 0 || c / 2 ^ 52 != 0 then [] else snapPages s p 4 0 (bits c 20 32 * 256) 0

/-- A snapshot record is well formed (R324). -/
def snapRecOk (s : State) (p w : Nat) : Bool :=
  bits w 208 304 == 0 && bits w 128 32 == 0 && bits w 160 32 != 0 && bits w 64 64 % 4096 == 0 && bits w 0 64 % 4096 == 0
    && (s.part p).inHbm (bits w 0 64) && (bits w 64 64 == 0 || (s.part p).inHbm (bits w 0 64 + bits w 64 64 - 1))

/-- The point of a snapshot: a full settle of every core of the partition, then copy-on-write is armed (R325). The area's counts
start at 0. -/
def State.startSnap (s : State) (p w : Nat) : State :=
  let s := (s.coresOf p).foldl State.fullSettle s
  let pages := (ctxSnapPages s p (bits w 192 16)).map (fun e => (e.1, e.2.1, e.2.2, 0))
  let s := s.areaNat p (bits w 0 64) 16 0
  s.onPart p (fun x => { x with snap := { running := true, abandoned := false, ctx := bits w 192 16, ndir := bits w 160 32,
                                          asize := bits w 64 64, area := bits w 0 64, used := 0, next := 0, pages := pages, copied := [] } })

/-- snapreq (R269, R324, R325): in the partition of the issuing core, on the Farrier of the core that its STATUS names (log 19). -/
def execSnapreq (d a : GReg) (s : State) : Host.Outcome State Fault Refusal :=
  runCtrl s (fun g => do
    needSys s g
    let p := s.codeOfCore (s.sysCore g)
    let w := s.homeNat (s.rg g a).toNat 64
    let go := !(s.part p).snap.running && snapRecOk s p w
    let s ← (s.sysTick g).wg g d (BitVec.ofNat 64 (b2n go))
    pure ((if go then s.startSnap p w else s).adv g 4))

/-- snapstat (R269). -/
def execSnapstat (d : GReg) (s : State) : Host.Outcome State Fault Refusal :=
  runCtrl s (fun g => do
    needSys s g
    let n := (s.part (s.codeOfCore (s.sysCore g))).snap
    let s ← (s.sysTick g).wg g d (BitVec.ofNat 64 (b2n n.running + 2 * b2n n.abandoned))
    pure (s.adv g 4))

/-! ## The break (R270) -/

/-- brk: BREAK with its code. -/
def execBrk (code : BitVec 10) (s : State) : Host.Outcome State Fault Refusal := runCtrl s (fun _ => .error (trapAt cBREAK code.toNat none 0))

end Sys2Proof.Machine
end

