-- ==== Sys2Proof/Machine/EvCore.lean ====
section
/-! DEFINITION. Events of the cores: a trap's entry when the bank comes free, claims and drain groups, the placement and the
retirement of teams, settles, stack write-backs, prefetches and walks (02 R21 to R26, R35, R46, R49, 04 R92 to R97, 14 R289,
R299, 15 R309, R314, 17 R379). -/

namespace Sys2Proof.Machine

open Sys2Proof

/-! ## Traps -/

/-- TRAP_ENTRY (R314): a waiting trap enters its handler once the bay's bank is free and the other stream is at an instruction
boundary; one in system mode ends the team once its record can be posted. -/
def execTrapEntry (g : Nat) (s : State) : Host.Outcome State Fault Refusal :=
  runUp s (
    if !s.occupied g then none
    else
      match (s.grp g).pend with
      | some (.trap lane code info l va) =>
        if (s.grp g).sys then s.faultTeam (s.grp g).team code (trapAddr code va) 0 true 0x60
        else if (s.bank g).owner == none && (s.grp g).boundary then
          some (s.enterTrap g lane { code := code, info := info, lane := l, va := va })
        else none
      | some (.pf _ va k _) => if (s.grp g).sys then s.faultTeam (s.grp g).team 0x10 va (kindCode k) true 0x60 else none
      | none => none)

/-! ## Claims and drain groups (02 R35, R46) -/

/-- CLAIM_GRANT (R35): the sub-pool's oldest claim is met whole. -/
def execClaimGrant (team bay : Nat) (s : State) : Host.Outcome State Fault Refusal :=
  runUp s (
    match (s.team team).headClaim bay with
    | none => none
    | some c =>
      if c.n ≤ (s.team team).free.get 0 bay && (s.grp c.gid).cwait == .claim then
        some (((s.dropClaim c.gid).grantClaim c.gid c.n).claimTest team bay)
      else none)

/-- The fullest bound queue of a team that holds items, the lowest on a tie (R46). -/
def Team.fullest (t : Team) : Option Nat :=
  let qs := indices t.niq (fun k => t.boundQ k && !(t.queue k).isEmpty)
  qs.find? (fun k => qs.all (fun j => (t.queue j).length ≤ (t.queue k).length))

/-- DRAIN_GROUP_START (R46): in an emptied slot, once the bay's waiting claims are granted (R35); at the `gend`, or later, when items
or registers have come (log 46). -/
def execDrainGroupStart (team slot : Nat) (s : State) : Host.Outcome State Fault Refusal :=
  runUp s (
    let t := s.team team
    let g := 64 * t.core + slot
    let bay := bayOf g
    let free := t.free.get 0 bay
    match t.slots.find? (fun h => h.slot == slot && !h.occ), t.fullest with
    | some h, some q =>
      match t.binds[q]? with
      | none => none
      | some b =>
        if (t.headClaim bay).isNone && t.vregs ≤ free && !(s.part t.part).halting && t.saving == 0 then
          let s := s.onTeam team (fun t => { t with
            free := t.free.set 0 bay (free - t.vregs),
            slots := t.slots.map (fun x => if x.slot == slot then { x with occ := true } else x) })
          some (s.setGrp g (startGroup team t h.gidx b.entry b.role))
        else none
    | _, _ => none)

/-! ## Placement (02 R21, R22, 14 R289, R299) -/

/-- The teams on a core. -/
def State.teamsOn (s : State) (c : Nat) : List Team := (s.teams.filter (fun e => e.2.core == c)).map Prod.snd

/-- The group slots of a core that no team holds. -/
def State.slotsFree (s : State) (c : Nat) : List Nat := indices 64 (fun k => (s.teamsOn c).all (fun t => t.slots.all (fun h => h.slot != k)))

/-- The lane registers of a bay that no team holds: what a team's sub-pool has free and what its groups hold count as held. -/
def State.bayRegs (s : State) (c b : Nat) : Nat :=
  2048 - ((s.teamsOn c).map (fun t => t.free.get 0 b + (((t.gids.filter (fun g => bayOf g == b)).map (fun g => (s.grp g).count)).sum))).sum

/-- The slots of groups that need these registers, in order of group index: each in the bay with a free slot and the most free
registers (R22). -/
def assignSlots : List Nat → List Nat → List Nat → Option (List Nat)
  | [], _, _ => some []
  | n :: ns, slots, regs =>
    let bays := indices 4 (fun b => slots.any (fun k => k / 16 == b))
    match bays.find? (fun b => bays.all (fun a => regs.getD a 0 ≤ regs.getD b 0)) with
    | none => none
    | some b =>
      if regs.getD b 0 < n then none
      else
        match slots.find? (fun k => k / 16 == b) with
        | none => none
        | some k => (assignSlots ns (slots.filter (· != k)) (regs.set b (regs.getD b 0 - n))).map (k :: ·)

/-- The slots that a team would take on a core that has its whole budget free (R21, R22); none when the core has not. -/
def State.fits (s : State) (c : Nat) (need : List Nat) (acc scratch niq : Nat) : Option (List Nat) :=
  let ts := s.teamsOn c
  if ts.length < 16 && (ts.map (fun t => t.acc)).sum + acc ≤ 512 && (ts.map (fun t => t.scratch)).sum + scratch ≤ 2 ^ 23
      && (ts.map (fun t => t.niq)).sum + niq ≤ 32 then
    assignSlots need (s.slotsFree c) ((List.range 4).map (s.bayRegs c))
  else none

/-- The core may place teams of a stage of a launch: its deck is up, its partition runs, and a hitch's stage, or no hitch, holds
it (R296, R303); a launch whose halt waits places none (15 R307). -/
def State.mayPlace (s : State) (x : Launch) (l k c : Nat) (mcast : Bool) : Bool :=
  let d := s.deck (deckOfCore c)
  let held := (s.core c).heldBy
  s.codeOfCore c == x.part && x.active && !s.isDoomed l && d.live && d.awake && !d.sleeping && !(s.part x.part).halting && !s.pkg.halted
    && (if x.hitch then held == some (l, k) && !(s.core c).moving else held == none)
    && (!mcast || (s.teamsOn c).all (fun t => !(t.launch == l && t.stage == k)))

/-- The lowest unstarted index of a deck's pool of a stage. -/
def Stage.lowest (g : Stage) (d : Nat) : Option Nat :=
  let l := (g.pools.filter (fun r => r.deck == d)).map (fun r => r.lo)
  l.find? (fun a => l.all (fun b => a ≤ b))

/-- The stack area that a team of a grid would take: none when every area is in use (R289). -/
def Stage.area (g : Stage) : Option (Option Nat) :=
  if g.grid.stackSize == 0 then some none
  else ((List.range g.grid.areas).find? (fun a => !g.areasUsed.contains a)).map some

/-- The slots that the next team of a stage would take on a core of a deck. -/
def State.canPlace (s : State) (l : Nat) (x : Launch) (k : Nat) (g : Stage) (c : Nat) : Option (List Nat) :=
  if s.mayPlace x l k c g.grid.mcast && (g.lowest (deckOfCore c)).isSome && g.area.isSome then
    s.fits c (List.replicate g.grid.groups g.grid.vregs) g.grid.acc g.grid.scratch g.grid.binds.length
  else none

/-- Another launch of a higher priority, or of the same and older, could place a team on the core (R299). -/
def State.outranked (s : State) (l : Nat) (x : Launch) (c : Nat) : Bool :=
  s.launches.any (fun e => e.1 != l && e.2.part == x.part && (x.prio < e.2.prio || (x.prio == e.2.prio && e.1 < l))
    && ((List.range e.2.stages.length).zip e.2.stages).any (fun y => (s.canPlace e.1 e.2 y.1 y.2 c).isSome))

/-- Takes the indices lo to hi out of ranges. -/
def cutRange (lo hi : Nat) (l : List Range) : List Range :=
  l.flatMap (fun r =>
    if r.hi < lo || hi < r.lo then [r]
    else (if r.lo < lo then [{ r with hi := lo - 1 }] else []) ++ (if hi < r.hi then [{ r with lo := hi + 1 }] else []))

/-- The shadow names deck d as the holder of the indices lo to hi (R298). -/
def Stage.holdBy (g : Stage) (lo hi d : Nat) : Stage := { g with shadow := cutRange lo hi g.shadow ++ [{ lo := lo, hi := hi, deck := d }] }

/-- The record of a team of a stage at its placement (R23, R289). -/
def newTeam (s : State) (l : Nat) (x : Launch) (k : Nat) (g : Stage) (lin c : Nat) (area : Option Nat) (slots : List Nat) : Team :=
  let d := g.grid
  { Team.empty with
    core := c, part := x.part, launch := l, stage := k, lin := lin, ctx := x.ctx,
    lv := { x := BitVec.ofNat 32 (lin % d.gx), y := BitVec.ofNat 32 (lin / d.gx % d.gy), z := BitVec.ofNat 32 (lin / (d.gx * d.gy)),
            gx := BitVec.ofNat 32 d.gx, gy := BitVec.ofNat 32 d.gy, gz := BitVec.ofNat 32 d.gz, shape := x.shape, bucket := d.bucket,
            args := x.args, stage := k },
    groups := d.groups, vregs := d.vregs, acc := d.acc, scratch := d.scratch, niq := d.binds.length, binds := d.binds,
    slots := ((List.range slots.length).zip slots).map (fun e => { slot := e.2, gidx := e.1, occ := true }),
    area := area, mcast := d.mcast, rerun := g.rerun, uid := s.freeCtr, lcb := d.lcb, lcn := d.lcn, fmt0 := d.fmt, seed := d.seed,
    stackLo := match area with
      | some a => d.stackBase + BitVec.ofNat 64 (d.stackSize * 16 * a)
      | none => 0,
    stackSz := d.stackSize }

/-- Puts a team on a core with its groups started (R21 to R24). -/
def State.placeTeam (s : State) (t : Team) (entry : GWord) (roleMap : GWord) : State :=
  let tid := (List.range 16).foldr (fun k a => if (s.teams.find (16 * t.core + k)).isSome then a else 16 * t.core + k) (16 * t.core)
  let s := { s with teams := s.teams.put tid t }
  t.slots.foldl (fun s h => s.setGrp (64 * t.core + h.slot) (startGroup tid t h.gidx entry (bits roleMap.toNat (4 * h.gidx) 4))) s

/-- TEAM_PLACE (R21, R299): the lowest unstarted index of the deck's pool, on the lowest core that can take it. -/
def execTeamPlace (launch stage deck : Nat) (s : State) : Host.Outcome State Fault Refusal :=
  runUp s (
    match s.launch launch, s.stage launch stage with
    | some x, some g =>
      match g.lowest deck, g.area with
      | some lin, some area =>
        match (indices 384 (fun c => deckOfCore c == deck && (s.canPlace launch x stage g c).isSome && !s.outranked launch x c)) with
        | c :: _ =>
          match s.canPlace launch x stage g c with
          | none => none
          | some slots =>
            let t := newTeam s launch x stage g lin c area slots
            let s := (s.placeTeam t g.grid.entry g.grid.roleMap).tick
            some (s.onLaunch launch (fun y => { y with stages := y.stages.modify stage (fun z => { z with
              pools := cutRange lin lin z.pools,
              areasUsed := match area with
                | some a => a :: z.areasUsed
                | none => z.areasUsed }) }))
        | [] => none
      | _, _ => none
    | _, _ => none)

/-- TEAM_RETIRE (R26): its slots are empty, its bound queues too, and its commands and batches complete. -/
def execTeamRetire (team : Nat) (s : State) : Host.Outcome State Fault Refusal :=
  runUp s (
    match s.teams.find team with
    | none => none
    | some t =>
      let k := s.core t.core
      if t.gids.isEmpty && t.fullest.isNone && k.matq.all (fun m => m.team != team) && k.cmds.all (fun e => e.2.team != team) then
        some (((s.onTiles t.launch (t.stage, t.lin) (fun s k u => s.retireTile t.part k u)).freeTeam team).retireIndex t false)
      else none)

/-! ## Settles (04 R92 to R97) -/

/-- SETTLE (R93): the core serves its oldest settle request, and every other that the settle covers. -/
def execSettle (core : Nat) (s : State) : Host.Outcome State Fault Refusal :=
  runUp s (
    match (s.core core).settleReqs with
    | [] => none
    | q :: _ =>
      let s := s.settle core q.mark
      some (s.onCore core (fun k => { k with settleReqs := k.settleReqs.filter (fun r => !markLe r.mark k.settled) })))

/-- The settle that a record asks for is done. -/
def State.settledRec (s : State) (r : Rec) : Bool := markLe r.mark (s.core r.core).settled

/-- Ends a control stream's acquire: the clean lines of shared pages are invalidated, and the values are written (R92). A group that was
stopped meanwhile then stands stalled (15 R307). -/
def State.endAcquire (s : State) (g : Nat) (vals : List (Nat × GWord)) (len : Nat) : State :=
  let s := s.invShared (coreOf g)
  match vals.find? (fun e => s.stackBad g (BitVec.ofNat 6 e.1) e.2) with
  | some _ => (s.onGrp g (fun x => { x with cwait := .none })).takeTrap g false { code := cSTACKLIMIT, info := 0, lane := none, va := 0 }
  | none => ((vals.foldl (fun s e => s.putG g (BitVec.ofNat 6 e.1) e.2) s).adv g len).park g

/-- SETTLE_ACK (R92): the acknowledgement reaches a stalled acquire. -/
def execSettleAck (g : Nat) (lane : Bool) (s : State) : Host.Outcome State Fault Refusal :=
  runUp s (
    if !s.occupied g then none
    else if lane then
      match (s.grp g).lwait with
      | .presettle r false => if s.settledRec r then some (s.onGrp g (fun x => { x with lwait := .presettle r true })) else none
      | .none | .stall _ | .presettle _ true | .rein _ _ _ | .flip => none
    else
      match (s.grp g).cwait with
      | .settle r vals len => if s.settledRec r then some (s.endAcquire g vals len) else none
      | .presettle r false => if s.settledRec r then some (s.onGrp g (fun x => { x with cwait := .presettle r true })) else none
      | .none | .stall _ | .claim | .presettle _ true | .rein | .flip _ => none)

/-- BACKGROUND_SETTLE (R94): settle(self, CM - 1) once CM has passed a multiple of 2^20. -/
def execBackgroundSettle (core : Nat) (s : State) : Host.Outcome State Fault Refusal :=
  runUp s (
    let k := s.core core
    if k.cm >>> 20 != (k.settled + 1) >>> 20 then some (s.settle core (k.cm - 1)) else none)

/-- An acquire that cannot be completed traps ACCESS in its stream, with no INFO that the manual names (R97, log 22). -/
def State.failAcquire (s : State) (g : Nat) (lane : Bool) : State :=
  let x := s.grp g
  let t : Trap := { code := cACCESS, info := Config.freeNat s.freeCtr % 2 ^ 32, lane := if lane then some x.acqLane else none, va := x.acqVa }
  (s.tick.onGrp g (fun y => if lane then { y with lwait := .none } else { y with cwait := .none })).takeTrap g lane t

/-- The record that a stream's acquire waits for. -/
def State.acquiring (s : State) (g : Nat) (lane : Bool) : Option Rec :=
  if lane then
    match (s.grp g).lwait with
    | .presettle r false => some r
    | .none | .stall _ | .presettle _ true | .rein _ _ _ | .flip => none
  else
    match (s.grp g).cwait with
    | .settle r _ _ => some r
    | .presettle r false => some r
    | .none | .stall _ | .claim | .presettle _ true | .rein | .flip _ => none

/-- HOME_TIMEOUT (R97): a home slice does not answer during the settle that an acquire waits for. In a mirrored partition the
buddy accepts the write-backs; otherwise the settle fails, the acquire traps ACCESS, and an error record is posted, whose code
the manual does not name (log 22). -/
def execHomeTimeout (g : Nat) (lane : Bool) (s : State) : Host.Outcome State Fault Refusal :=
  runUp s (
    if !s.occupied g then none
    else
      match s.acquiring g lane with
      | none => none
      | some r =>
        let p := s.codeOf g
        if (s.part p).intcfg.getLsbD 0 then some (s.settle r.core r.mark)
        else
          let code := Config.freeNat s.freeCtr % 256
          some ((s.tick.tryPost p (eventRec s p 0 (coreOf g) 0 code)).failAcquire g lane))

/-! ## Background activity -/

/-- The dirty line of a bay's stack cache that was used longest ago. -/
def oldestDirty (k : Core) (bay : Nat) : Option Nat :=
  let l := (stackLines k bay).filter (fun e => e.2.dirty != 0)
  (l.find? (fun e => l.all (fun x => e.2.stamp.toNat ≤ x.2.stamp.toNat))).map Prod.fst

/-- STACK_WRITEBACK (02 R49): of the bay's dirty lines, the least recently used one first. -/
def execStackWriteback (core bay line : Nat) (s : State) : Host.Outcome State Fault Refusal :=
  runUp s (if oldestDirty (s.core core) bay == some (stackKey bay line) then some (s.stackWb core (stackKey bay line)) else none)

/-- PREFETCH (17 R379): a line of a buffer record of a placed group, whose translation the TLB holds; a record that keeps its accesses out of
the L1 has none (03 R56). -/
def execPrefetch (g bn off : Nat) (s : State) : Host.Outcome State Fault Refusal :=
  runUp s (
    let c := coreOf g
    let p := s.codeOf g
    if !s.occupied g || (s.ctr.get 0 (0x800000 + 0x200 * c + 0xF0)).getLsbD 1 then none
    else
      match s.slotRec g (BitVec.ofNat 4 bn) with
      | none => none
      | some b =>
        let va := (b.address off).toNat / 128 * 128
        if !(b.inBounds off 1 && b.permits .load) || b.noalloc then none
        else
          match tlbFind (s.core c).tlb (s.ctxOf g) va with
          | none => none
          | some e =>
            let t := e.tr va
            let home := pteHome t.e
            let ok := pteR t.e && (home == 0 || home == 2) && (home == 2 || pteCls t.e || pteOwner t.e == c) && viaL1 s c t
              && (s.homeBad c p t).isNone && !s.flipping p t.pa && (home == 0 || (s.pinned.find (t.pa / 128)).isSome)
              && !s.poisonedIn p t.pa 128 && s.inBound c t .load
            if ok && !s.inL1 c (t.pa / 128) then
              (s.l1Room c).map (fun u => ((u.l2Touch p (t.pa / 128)).bumpCore c 0xC8 1).onCore c (fun k => { k with
                l1 := k.l1.put (t.pa / 128) (s.freshLine (t.pa / 128) (t.privTo c) .flying) }))
            else none)

/-- TRANSLATE_WALK (15 R309): a walk for a line that a group needs, with what its translation does to classes and pins. -/
def execTranslateWalk (g va : Nat) (k : AccKind) (s : State) : Host.Outcome State Fault Refusal :=
  runUp s (
    if !s.occupied g || (tlbFind (s.core (coreOf g)).tlb (s.ctxOf g) va).isSome then none
    else
      match s.translate (coreOf g) (s.ctxOf g) va k with
      | .ok (s, _) => some s
      | .error _ => none)

end Sys2Proof.Machine
end

