-- ==== Sys2Proof/Machine/EvContext.lean ====
section
/-! DEFINITION. Saving and restoring teams: page faults, pre-emption, the Stable frame, and what ends a team by an error; soft
errors and the end of a snapshot (15 R316 to R325, 04 R104, 06 R154, 16 R348, 17 R371). -/

namespace Sys2Proof.Machine

open Sys2Proof

/-! ## When a team is blocked (14 R304) -/

/-- A pipe still holds back a group that waits at it: its slots are all in use, or its queue is empty and it is open (06 R141, R143). -/
def Pipe.full (x : Pipe) : Bool := x.depth ≤ (x.tiles.filter (fun t => !t.spill)).length
def Pipe.bare (x : Pipe) : Bool := !x.closed && x.tiles.all (fun t => t.st != .committed)

/-- The pipe of the package at which a stalled group waits, and whether it waits to produce (a far pipe is never full and never
empty for the monitor, 06 R153, log 28). A group whose pipe has come to have a free slot, or a tile, is no longer stalled, be it that it has
not issued again (06 R155). -/
def State.stallPipe (s : State) (l g : Nat) : Option (Nat × Bool) :=
  let find (f : Pipe → List Nat) (held : Pipe → Bool) : Option Nat := (s.pipesOf l).find? (fun k => match s.pipe k with
    | some p => p.xlink == 0 && (f p).contains g && held p
    | none => false)
  match (s.grp g).cwait with
  | .stall .pipeFull => (find (fun p => p.acqWait) Pipe.full).map (fun k => (k, true))
  | .stall .pipeEmpty => (find (fun p => p.getWait) Pipe.bare).map (fun k => (k, false))
  | .stall _ | .none | .claim | .settle _ _ _ | .presettle _ _ | .rein | .flip _ => none

/-- The stalls of a blocked team; none when the team is not blocked. Of a team that stops they are as it stood then. -/
def State.teamStalls (s : State) (t : Team) : Option (List (Nat × Bool)) :=
  let stalls := t.gids.filterMap (s.stallPipe t.launch)
  let ok (g : Nat) : Bool :=
    let x := s.grp g
    ((s.stallPipe t.launch g).isSome || x.cwait == .stall .barrier) && !x.sys && x.laneQ.all (fun e => e.posted)
  if t.saving != 0 then t.blocked
  else if t.gids.all ok && !stalls.isEmpty then some stalls else none

/-! ## Stopping a team (R316, R320) -/

/-- A group stops at its next instruction boundary, stalled FAULT (R307): its waits are given up, its claim withdrawn; what it has sent or
taken it awaits. One in a handler, or about to enter one, stops at its return. -/
def State.stopGroup (s : State) (g : Nat) : State :=
  let x := s.grp g
  let trap := match x.pend with
    | some (.trap _ _ _ _ _) => true
    | some (.pf _ _ _ _) => false
    | none => false
  if x.sys || trap then s
  else (s.dropClaim g).onGrp g (fun y => { y with
    halted := true, cwait := y.cwait.stopped (.stall .fault), lwait := y.lwait.stopped (.stall .fault) })

/-- A team stops to be saved: 1 for a pre-emption, 2 for a page fault. -/
def State.stopTeam (s : State) (t reason : Nat) : State :=
  let b := s.teamStalls (s.team t)
  let s := s.onTeam t (fun x => { x with saving := reason, blocked := b })
  (s.team t).gids.foldl State.stopGroup s

/-! ## The Stable and its frames (R317, R321, R322) -/

/-- The physical address of a frame. -/
def Part.frameBase (p : Part) (n : Nat) : Nat := bits p.stable.toNat 21 31 * 2 ^ 21 + 2 ^ 21 + 65536 * n

/-- The chunks of 64 KiB that the Stable holds beside the saved launch state. -/
def Part.chunks (p : Part) : Nat := 32 * (bits p.stable.toNat 0 13 - 1)

/-- The lowest run of n free chunks. -/
def Part.alloc (p : Part) (n : Nat) : Option Nat :=
  (List.range p.chunks).find? (fun f => f + n ≤ p.chunks && p.saved.all (fun v => f + n ≤ v.frame || v.frame + v.chunks ≤ f))

/-- Rounds up to a multiple of m. -/
def roundUp (m n : Nat) : Nat := (n + m - 1) / m * m

/-- The areas of a frame: offsets of the lane area of each group of the team in order, of the accumulators, the window and the
team area, and the frame's size. -/
structure Layout where
  lane : List Nat
  acc  : Nat
  win  : Nat
  team : Nat
  size : Nat
  deriving DecidableEq, Repr

/-- The layout of a frame of groups with these register counts. -/
def layoutOf (counts : List Nat) (acc scratch niq : Nat) : Layout :=
  let lane := counts.foldl (fun l c => l ++ [l.getLast?.getD 0xA000 + 128 * c + 512]) [0xA000]
  let a := roundUp 4096 (lane.getLast?.getD 0xA000)
  let w := roundUp 4096 (a + 1024 * acc)
  let t := roundUp 4096 (w + scratch)
  { lane := lane, acc := a, win := w, team := t, size := roundUp 65536 (t + 256 + 2056 * niq) }

/-- LANEPOS of a group (R322). -/
def Group.lanePos (x : Group) : Nat :=
  let k := (x.laneQ.takeWhile (fun e => e.posted)).length
  (if x.started then x.lpc % 2 ^ 20 + 2 ^ 20 + k * 2 ^ 28 else 0) + x.laneQ.length * 2 ^ 24

/-- The fields of a group record: offset, size and value (R322). -/
def Group.fields (x : Group) : List (Nat × Nat × Nat) :=
  let k := (x.laneQ.takeWhile (fun e => e.posted)).length
  [(0, 8, x.pc.toNat), (8, 4, x.lanePos)]
    ++ (List.range 64).map (fun r => (0x10 + 8 * r, 8, if r == 0 then 0 else (x.g.get 0 r).toNat))
    ++ [(0x210, 4, x.q.toNat / 2 * 2 + 1), (0x214, 4, x.fmt.toNat), (0x218, 4, x.role.toNat), (0x21C, 4, x.count),
        (0x220, 4, x.bc.toNat), (0x224, 4, (x.bphase.map Prod.snd).getD 0), (0x228, 8, x.stackLim.toNat),
        (0x230, 2, ((List.range 16).map (fun b => if (x.buf.find b).isSome then 2 ^ b else 0)).sum)]
    ++ (List.range 16).filterMap (fun b => (x.buf.find b).map (fun r => (0x240 + 32 * b, 32, r.toNat)))
    ++ ((List.range x.laneQ.length).zip x.laneQ).flatMap (fun e =>
      let o := 0x440 + 32 * e.1
      [(o, 8, e.2.arg.toNat),
       (o + 8, 4, e.2.block + b2n e.2.nr * 2 ^ 20 + b2n e.2.posted * 2 ^ 21 + b2n (x.started && e.1 == k) * 2 ^ 22),
       (o + 12, 4, e.2.fmt.toNat), (o + 16, 4, e.2.count), (o + 20, 4, e.2.result.toNat)])

/-- The fields of a group's lane area (R321). -/
def Group.laneFields (x : Group) : List (Nat × Nat × Nat) :=
  let o := 128 * x.count
  (List.range x.count).flatMap (fun r => (List.range 32).map (fun l => (128 * r + 4 * l, 4, (x.v.get 0 (32 * r + l)).toNat)))
    ++ (List.range 7).map (fun k => (o + 4 * k, 4, (x.p.get 0 (k + 1)).toNat))
    ++ (List.range 32).map (fun l => (o + 32 + l, 1, x.dc.get 0 l)) ++ [(o + 64, 4, x.cm.toNat)]
    ++ (List.range 32).map (fun l => (o + 128 + 4 * l, 4, (x.gen.get 0 l).toNat))

/-- The kind number of a matrix operation in its record (log 26). -/
def MatKind.num : MatKind → Nat
  | .mma => 0
  | .mmaV => 1
  | .mmv => 2

/-- The fields of a matrix record (R321; the places in the record are the model's, log 26). -/
def MatOp.fields (m : MatOp) (gidx : Nat) : List (Nat × Nat × Nat) :=
  [(0, 1, m.kind.num), (1, 1, gidx), (2, 1, b2n m.zero), (4, 4, m.batch.toNat), (8, 8, m.region.toNat)]
    ++ ((List.range 4).map (fun k => (16 + 8 * k, 8, (m.regs.getD k 0).toNat))) ++ [(48, 4, m.fmt.toNat), (52, 4, m.chunks)]

/-- Writes fields at a base address, for a partition. -/
def State.putFields (s : State) (p base : Nat) (l : List (Nat × Nat × Nat)) : State :=
  l.foldl (fun s e => s.physSet p (base + e.1) e.2.1 e.2.2) s

/-- Writes bytes at a physical address for a partition, line by line: what lies outside the partition, or past its NETBOUND, is not reached
(17 R355, R358). -/
def State.physStore (s : State) (p pa : Nat) (bs : List Byte) : State :=
  (linePieces pa bs.length).foldl (fun s e =>
    if s.inPart p e.1 && s.homeOk p (s.masterDeck p) e.1 then s.homeWrite e.1 ((bs.drop (e.1 - pa)).take e.2) else s.dropPacket p) s

/-- The group index of a slot of a team. -/
def Team.gidxOf (t : Team) (g : Nat) : Nat := ((t.slots.find? (fun h => h.slot == g % 64)).map (fun h => h.gidx)).getD 0

/-- Writes a team's frame (R321, R322). -/
def State.writeFrame (s : State) (base : Nat) (t : Team) (groups : List (Nat × Group)) (mats : List MatOp) (reason va kind : Nat) : State :=
  let counts := (List.range t.groups).map (fun k => ((groups.find? (fun e => e.1 == k)).map (fun e => e.2.count)).getD 0)
  let y := layoutOf counts t.acc t.scratch t.niq
  let s := s.physStore t.part base (List.replicate y.size 0)
  let x := s.launch t.launch
  let s := s.putFields t.part base
    ([(0, 8, reason), (8, 8, t.lin), (16, 4, (x.map (fun l => l.queue)).getD 0), (20, 4, (x.map (fun l => l.index)).getD 0), (24, 8, t.stage),
      (32, 2, t.groups), (34, 2, t.vregs), (36, 4, t.acc), (40, 4, t.scratch), (44, 4, t.niq), (48, 8, t.area.getD 0),
      (56, 8, y.acc), (64, 8, y.win), (72, 8, y.team), (80, 8, va), (88, 8, kind)])
  let s := ((List.range mats.length).zip mats).foldl (fun s e => s.putFields t.part (base + 0x1000 + 64 * e.1) (e.2.fields (t.gidxOf (e.2.gid % 2 ^ 32)))) s
  let s := groups.foldl (fun s e =>
    (s.putFields t.part (base + 0x2000 + 2048 * e.1) e.2.fields).putFields t.part (base + y.lane.getD e.1 0) e.2.laneFields) s
  let s := s.putFields t.part (base + y.acc) ((List.range (256 * t.acc)).map (fun i => (4 * i, 4, (t.tileElem (i / 256) (i / 16 % 16) (i % 16)).toNat)))
  let s := s.physStore t.part (base + y.win) (t.winBytes 0 t.scratch)
  let bars := (List.range 16).flatMap (fun k =>
    let b := t.bars.get barEmpty k
    [(16 * k, 4, b.arrived), (16 * k + 4, 4, b.expect), (16 * k + 8, 4, b.phase)])
  let qs := (List.range t.niq).flatMap (fun k =>
    let q := t.queue k
    (256 + 2056 * k, 8, q.length) :: ((List.range q.length).zip q).map (fun e => (256 + 2056 * k + 8 + 8 * e.1, 8, e.2.toNat)))
  s.putFields t.part (base + y.team) (bars ++ qs)

/-! ## Pauses of a far consumer (16 R344) -/

/-- Tells the far consumers of a launch's pipes when every placed producer team is saved, and when one runs again. -/
def State.pauseTest (s : State) (l : Nat) : State :=
  match s.launch l with
  | none => s
  | some x =>
    (s.pipesOf l).foldl (fun s k =>
      match s.pipe k with
      | none => s
      | some p =>
        if p.xlink != 1 then s
        else
          let placed := s.teams.any (fun e => e.2.launch == l && p.prods.contains e.2.stage)
          let saved := (s.part x.part).saved.any (fun v => v.team.launch == l && p.prods.contains v.team.stage)
          if saved && !placed && p.paused.isEmpty then (s.sendPipe k 5 p.sent).onPipe k (fun q => { q with paused := [0] })
          else if placed && !p.paused.isEmpty then (s.sendPipe k 6 p.sent).onPipe k (fun q => { q with paused := [] })
          else s) s

/-! ## Saving (R104, R316, R320, R322) -/

/-- An engine has registered an inbound landing for the team at its core. -/
def State.inbound (s : State) (tid : Nat) : Bool :=
  let k := s.core (tid / 16)
  k.locks.any (fun e => !e.2.glob && e.2.owner == tid && e.2.cmd % 2 == 1)

/-- Every group of a stopping team is at a boundary, and its commands and inbound landings are done. -/
def State.drained (s : State) (tid : Nat) : Bool :=
  let t := s.team tid
  let k := s.core t.core
  t.gids.all (fun g =>
    let x := s.grp g
    let stopped := match x.pend with
      | some (.pf _ _ _ _) => true
      | some (.trap _ _ _ _ _) => false
      | none => true
    !x.sys && x.boundary && stopped && !s.reinEarlier g false && !s.reinEarlier g true)
    && k.cmds.all (fun e => e.2.team != tid) && !s.inbound tid

/-- Saves a team that has stopped and drained; none while it has not, while the Stable has no room, or while the record of its
page fault cannot be posted (R307). What its core has written and not sent home is written back, as the team may go on at another core
(04 R80, log 96). -/
def State.saveTeam (s : State) (tid : Nat) : Option State :=
  match s.teams.find tid with
  | none => none
  | some t0 =>
    let p := s.part t0.part
    if t0.saving == 0 || !s.drained tid then none
    else
      let stalls := s.teamStalls t0
      let s := ((t0.gids.foldl (fun s g => (s.withdraw g).dropMark g) s).flushStack t0.core).writeBackIf t0.core (fun _ _ => true)
      let t := s.team tid
      let k := s.core t.core
      let groups := (t.slots.filter (fun h => h.occ)).map (fun h => (h.gidx, s.grp (64 * t.core + h.slot)))
      let groups := (List.range 16).filterMap (fun i => groups.find? (fun e => e.1 == i))
      let mats := k.matq.filter (fun m => m.team == tid)
      let locks := (k.locks.filter (fun e => e.2.cmd % 2 == 0 && mats.any (fun m => 2 * m.id == e.2.cmd))).map Prod.snd
      let counts := (List.range t.groups).map (fun i => ((groups.find? (fun e => e.1 == i)).map (fun e => e.2.count)).getD 0)
      let size := (layoutOf counts t.acc t.scratch t.niq).size
      match p.alloc (size / 65536) with
      | none => none
      | some f =>
        let (va, kind) := match (groups.find? (fun e => e.1 == t.faultG)).bind (fun e => e.2.pend) with
          | some (.pf _ va k _) => (va, kindCode k)
          | some (.trap _ _ _ _ _) => (0, 0)
          | none => (0, 0)
        let s := s.writeFrame (p.frameBase f) t groups (mats.filter (fun m => !m.ran)) t.saving (if t.saving == 2 then va else 0) (if t.saving == 2 then kind else 0)
        let v : Saved := { frame := f, chunks := size / 65536, team := t, gids := groups, mats := mats, locks := locks, reason := t.saving,
                           ready := t.saving == 1, fail := false, stalls := stalls }
        let s := s.freeTeam tid
        let s := s.onPart t.part (fun x => { x with saved := x.saved ++ [v] })
        let s := s.pauseTest t.launch
        if t.saving == 2 then
          s.postRec t.part (faultRec s t.part va f t.ctx t.core 0 kind false t.stage 0x10)
        else some s

/-- PAGEFAULT (R316): the scheduler stops the team of a faulting group, saves it once it has drained, and posts the record. -/
def execPagefault (g : Nat) (s : State) : Host.Outcome State Fault Refusal :=
  runUp s (
    let tid := (s.grp g).team
    if !s.occupied g || (s.grp g).sys then none
    else
      match (s.grp g).pend with
      | some (.pf _ _ _ _) =>
        let s := if (s.team tid).saving == 0 then s.stopTeam tid 2 else s
        some ((s.saveTeam tid).getD s)
      | some (.trap _ _ _ _ _) => none
      | none => none)

/-- SAVE (R322). -/
def execSave (team : Nat) (s : State) : Host.Outcome State Fault Refusal := runUp s (s.saveTeam team)

/-- DRAIN_BOUND (R104, R320): what is outstanding at the bound is abandoned, and inbound landings will be orphans. -/
def execDrainBound (team : Nat) (s : State) : Host.Outcome State Fault Refusal :=
  runUp s (
    match s.teams.find team with
    | none => none
    | some t =>
      if t.saving == 0 then none
      else
        let s := s.abandonTeam team
        some (s.onCore t.core (fun k => { k with locks := k.locks.dropIf (fun _ e => !e.glob && e.owner == team && e.cmd % 2 == 1) })))

/-- PREEMPT_REQ (R306, R320): writing REQ 1, in state 0, stops every team of the partition; in another state only REQ is written. -/
def execPreemptReq (part : Nat) (s : State) : Host.Outcome State Fault Refusal :=
  runEvent s (
    if !s.answers part then none
    else if (s.part part).preState != 0 then some (s.onPart part (fun x => { x with preReq := true }))
    else
      let s := s.onPart part (fun x => { x with preReq := true, preState := 1, halting := true })
      let ts := (s.teams.filter (fun e => e.2.part == part && e.2.saving == 0)).map Prod.fst
      some ((ts.foldl (fun s t => s.stopTeam t 1) s).preemptTest part))

/-! ## Restoring (R316, R322) -/

/-- A partition whose saved teams that are ready have all been restored runs again (R320). -/
def State.restoredTest (s : State) (p : Nat) : State :=
  let x := s.part p
  if x.preState == 3 && x.saved.all (fun v => !v.ready) then (s.onPart p (fun y => { y with preState := 0 })).cause p 3 else s

/-- PREEMPT_RESTORE (R306, R320): writing REQ 0, in state 2, restores; in another state only REQ is written. -/
def execPreemptRestore (part : Nat) (s : State) : Host.Outcome State Fault Refusal :=
  runEvent s (
    if !s.answers part then none
    else if (s.part part).preState != 2 then some (s.onPart part (fun x => { x with preReq := false }))
    else some ((s.onPart part (fun x => { x with preReq := false, preState := 3, halting := false })).restoredTest part))

/-- Reads an n-byte number of a frame. -/
def State.rd (s : State) (a n : Nat) : Nat := s.homeNat a n

/-- A group read back from its record and its lane area (R321, R322). What the record does not hold is what the device keeps. -/
def State.readGroup (s : State) (r lane : Nat) (x : Group) : Group :=
  let lp := s.rd (r + 8) 4
  let c := s.rd (r + 0x21C) 4
  let o := lane + 128 * c
  let valid := s.rd (r + 0x230) 2
  let tab {α : Type} [DecidableEq α] (d : α) (n : Nat) (f : Nat → α) : Tab α := (List.range n).foldl (fun t i => t.set d i (f i)) []
  { x with
    pc := BitVec.ofNat 64 (s.rd r 8),
    started := bit lp 20,
    lpc := if bit lp 20 then lp % 2 ^ 20 else x.lpc,
    g := tab 0 64 (fun i => if i == 0 then 0 else BitVec.ofNat 64 (s.rd (r + 0x10 + 8 * i) 8)),
    q := BitVec.ofNat 8 (s.rd (r + 0x210) 4 / 2 * 2),
    fmt := BitVec.ofNat 32 (s.rd (r + 0x214) 4),
    role := BitVec.ofNat 32 (s.rd (r + 0x218) 4),
    count := c,
    bc := BitVec.ofNat 32 (s.rd (r + 0x220) 4),
    bphase := x.bphase.map (fun b => (b.1, s.rd (r + 0x224) 4)),
    stackLim := BitVec.ofNat 64 (s.rd (r + 0x228) 8),
    buf := (List.range 16).foldl (fun t b =>
      match if bit valid b then BufRec.ofNat (s.rd (r + 0x240 + 32 * b) 32) else none with
      | some y => t.put b y
      | none => t) [],
    laneQ := (List.range (bits lp 24 4)).map (fun k =>
      let e := r + 0x440 + 32 * k
      let w := s.rd (e + 8) 4
      { arg := BitVec.ofNat 64 (s.rd e 8), block := w % 2 ^ 20, nr := bit w 20, posted := bit w 21, fmt := BitVec.ofNat 32 (s.rd (e + 12) 4),
        count := s.rd (e + 16) 4, result := BitVec.ofNat 32 (s.rd (e + 20) 4) }),
    v := tab 0 (32 * c) (fun i => BitVec.ofNat 32 (s.rd (lane + 4 * i) 4)),
    p := tab 0 8 (fun k => if k == 0 then 0 else BitVec.ofNat 32 (s.rd (o + 4 * (k - 1)) 4)),
    dc := tab 0 32 (fun l => s.rd (o + 32 + l) 1),
    cm := BitVec.ofNat 32 (s.rd (o + 64) 4),
    gen := tab 0 32 (fun l => BitVec.ofNat 32 (s.rd (o + 128 + 4 * l) 4)),
    hazards := [], ringM := 0, ringL := 0, ringF := [], cwait := .none, lwait := .none, pend := none, halted := false }

/-- The team's tiles, window, barriers and queues read back. -/
def State.readTeam (s : State) (base : Nat) (y : Layout) (t : Team) : Team :=
  { t with
    tiles := (List.range (256 * t.acc)).map (fun i => (i, BitVec.ofNat 32 (s.rd (base + y.acc + 4 * i) 4))),
    win := (List.range t.scratch).map (fun i => (i, s.homeByte (base + y.win + i))),
    bars := (List.range 16).foldl (fun b k =>
      let a := base + y.team + 16 * k
      b.set barEmpty k { arrived := s.rd a 4, expect := s.rd (a + 4) 4, phase := s.rd (a + 8) 4 }) [],
    iqs := (List.range t.niq).foldl (fun q k =>
      let a := base + y.team + 256 + 2056 * k
      q.set [] k ((List.range (s.rd a 8)).map (fun i => BitVec.ofNat 64 (s.rd (a + 8 + 8 * i) 8)))) [] }

/-- The k-th matrix operation of a frame read back (R321, log 26); what its record does not hold is what the device keeps. -/
def State.readMat (s : State) (base k : Nat) (m : MatOp) : MatOp :=
  let a := base + 0x1000 + 64 * k
  { m with
    kind := match s.rd a 1 with | 0 => .mma | 1 => .mmaV | _ => .mmv,
    zero := bit (s.rd (a + 2) 1) 0, batch := BitVec.ofNat 32 (s.rd (a + 4) 4), region := BitVec.ofNat 64 (s.rd (a + 8) 8),
    regs := (List.range m.regs.length).map (fun j => BitVec.ofNat 64 (s.rd (a + 16 + 8 * j) 8)),
    fmt := BitVec.ofNat 32 (s.rd (a + 48) 4), chunks := s.rd (a + 52) 4 }

/-- The matrix operations of a saved team: those with a record read back, in its order, and those that have run. -/
def State.readMats (s : State) (base : Nat) (l : List MatOp) : List MatOp :=
  let run := l.filter (fun m => !m.ran)
  l.filter (fun m => m.ran) ++ ((List.range run.length).zip run).map (fun e => s.readMat base e.1 e.2)

/-- The registers that each group of a saved team needs when it is placed again (log 27). -/
def Saved.needs (v : Saved) : List Nat :=
  (List.range v.team.groups).map (fun k => max v.team.vregs (((v.gids.find? (fun e => e.1 == k)).map (fun e => e.2.count)).getD 0))

/-- The slots that a saved team would take on a core (R322). -/
def State.canRestore (s : State) (v : Saved) (c : Nat) : Option (List Nat) :=
  match s.launch v.team.launch with
  | none => none
  | some x =>
    if s.mayPlace x v.team.launch v.team.stage c v.team.mcast && (s.core c).locks.length + v.locks.length ≤ 64 then
      s.fits c v.needs v.team.acc v.team.scratch v.team.niq
    else none

/-- The device's accesses to a partition's frames reach every deck of it (17 R358). -/
def State.framesOk (s : State) (p : Nat) : Bool := (s.decksOf p).all (fun d => s.netOk p (s.masterDeck p) d)

/-- RESTORE (R322): a saved team that is ready is placed and read back. Which core takes it, of those that can, is open
(log 27). Lines that this core holds of shared pages may be older than what the team has seen: they are invalidated (04 R80, log 96). -/
def execRestore (part frame : Nat) (s : State) : Host.Outcome State Fault Refusal :=
  runUp s (
    match (s.part part).saved.find? (fun v => v.frame == frame) with
    | none => none
    | some v =>
      let cores := (s.coresOf part).filter (fun c => (s.canRestore v c).isSome)
      match (if v.ready && s.framesOk part then cores[Config.freeNat s.freeCtr % cores.length]? else none) with
      | none => none
      | some c =>
        match s.canRestore v c with
        | none => none
        | some slots =>
          let base := (s.part part).frameBase frame
          let counts := (List.range v.team.groups).map (fun i => ((v.gids.find? (fun e => e.1 == i)).map (fun e => e.2.count)).getD 0)
          let y := layoutOf counts v.team.acc v.team.scratch v.team.niq
          let tid := (List.range 16).foldr (fun k a => if (s.teams.find (16 * c + k)).isSome then a else 16 * c + k) (16 * c)
          let hold (k : Nat) : SlotHold := { slot := slots.getD k 0, gidx := k, occ := v.gids.any (fun e => e.1 == k) }
          let free := (List.range 4).foldl (fun (t : Tab Nat) b => t.set 0 b
            (((List.range v.team.groups).map (fun k => if slots.getD k 0 / 16 == b then v.needs.getD k 0 - counts.getD k 0 else 0)).sum)) ([] : Tab Nat)
          let t := { s.readTeam base y v.team with
            core := c, slots := (List.range v.team.groups).map hold, free := free, claims := [], uid := s.freeCtr, saving := 0, faultG := 0, blocked := none }
          let s := { s.tick with teams := s.teams.put tid t }
          let gidOf (k : Nat) : Nat := 64 * c + slots.getD k 0
          let s := v.gids.foldl (fun s e =>
            let x := s.readGroup (base + 0x2000 + 2048 * e.1) (base + y.lane.getD e.1 0) e.2
            let x := { x with team := tid, tcore := c, pend := match e.2.pend with
              | some (.pf lane va _ l) => if v.fail && e.1 == v.team.faultG then some (.trap lane cACCESS 6 l (BitVec.ofNat 64 va)) else none
              | some (.trap _ _ _ _ _) => none
              | none => none }
            s.setGrp (gidOf e.1) x) s
          let mats := (s.readMats base v.mats).map (fun m => { m with
            team := tid, gid := if 2 ^ 32 ≤ m.gid then endedGid (gidOf (v.team.gidxOf (m.gid % 2 ^ 32))) else gidOf (v.team.gidxOf m.gid) })
          let s := s.onCore c (fun k => { k with matq := k.matq ++ mats })
          let s := v.locks.foldl (fun s e =>
            s.onCore c (fun k => { k with locks := k.locks.put (k.locks.fresh 64 0) (if e.glob then e else { e with owner := tid }) })) s
          let s := s.onPart part (fun p => { p with saved := p.saved.filter (fun w => w.frame != frame) })
          let s := s.onLaunch v.team.launch (fun x => { x with
            stages := x.stages.modify v.team.stage (fun z => z.holdBy v.team.lin v.team.lin (deckOfCore c)) })
          some (((s.invShared c).pauseTest v.team.launch).restoredTest part))

/-- FRESUME (R306, R316): the driver's answer to a page fault, ACT 1 or 2. -/
def State.fresume (s : State) (part frame act : Nat) : Option State :=
  if !s.answers part then none
  else
    some (s.onPart part (fun p => { p with
      fresume := BitVec.ofNat 64 (act * 2 ^ 32 + frame % 2 ^ 32),
      saved := p.saved.map (fun v => if v.frame == frame && v.reason == 2 && !v.ready then { v with ready := true, fail := act == 2 } else v) }))

/-- FRESUME_RETRY (R316). -/
def execFresumeRetry (part frame : Nat) (s : State) : Host.Outcome State Fault Refusal := runEvent s (s.fresume part frame 1)

/-- FRESUME_FAIL (R316): the faulting instruction will trap ACCESS with INFO 6. -/
def execFresumeFail (part frame : Nat) (s : State) : Host.Outcome State Fault Refusal := runEvent s (s.fresume part frame 2)

/-! ## Errors (17 R371) -/

/-- A state error ends a team as `tabort` does, with record 0x73, be it discarded for a rerun (R371, 11 R267). -/
def State.stateErr (s : State) (t : Nat) : Option State :=
  let x := s.team t
  if x.rerun then
    (s.postRec x.part (faultRec s x.part 0 0xFFFFFFFF x.ctx x.core 0 0 false x.stage 0x73)).bind (fun u => u.discardTeam t)
  else s.faultTeam t 0 0 0 false 0x73

/-- STATE_ERROR (R371): the team ends as by `tabort`, with record 0x73. -/
def execStateError (team : Nat) (s : State) : Host.Outcome State Fault Refusal :=
  runUp s (if (s.teams.find team).isSome then s.stateErr team else none)

/-- A core's caches lose the line of an address, what is dirty of it written back. -/
def State.dropCached (s : State) (c pa : Nat) : State :=
  let ks := (s.core c).stackc.keys.filter (fun k => k % 2 ^ 46 == pa / 128)
  ks.foldl (fun s k => (s.stackWb c k).stackDel c k) (s.flushLine c (pa / 128))

/-- A sector of a deck's replica is poisoned. -/
def State.poisonReplica (s : State) (d pa : Nat) : State :=
  s.onDeck d (fun x => { x with bad := (pa % 2 ^ 18 / 32) :: x.bad.filter (· != pa % 2 ^ 18 / 32) })

/-- A sector of a team's window is poisoned. -/
def State.poisonWindow (s : State) (t o : Nat) : State := s.onTeam t (fun y => { y with bad := (o / 32) :: y.bad.filter (· != o / 32) })

/-- A sector of a tile in a pipe's slot is poisoned. -/
def State.poisonTile (s : State) (k : Nat) (q : Word) (o : Nat) : State :=
  s.onPipe k (fun x => { x with tiles := x.tiles.map (fun t =>
    if t.seq == q then { t with bad := (o / 32) :: t.bad.filter (· != o / 32) } else t) })

/-- The slot of a pipe holds a byte of a tile there. -/
def State.slotHas (s : State) (k : Nat) (q : Word) (o : Nat) : Bool :=
  match s.pipe k with
  | some x => o < x.rows * x.rowBytes && x.tiles.any (fun t => t.seq == q && !t.spill)
  | none => false

/-- The home slice of a pipe's tile. -/
def State.slotSlice (s : State) (k : Nat) (q : Word) : Nat :=
  match s.pipe k with
  | some x => x.homes.getD (((x.tiles.find? (fun t => t.seq == q)).map (fun t => t.slot)).getD 0 % x.homes.length) 0
  | none => 0

/-- A soft error of a site that holds something: the state after a corrected one, which is counted at the core or the deck, and after
another. Data stored by address is poisoned, with record 0x72; private state ends its team; a directory entry is rebuilt by discovery
(R371, R375, log 89). None where the site holds nothing, or the record cannot be posted. -/
def State.softError (s : State) (site : ErrSite) (corrected : Bool) : Option State :=
  let record (p c pa : Nat) (bad : State) : Option State := bad.postRec p (eventRec s p (pa / 32 * 32) c 0 0x72)
  let deck (d : Nat) (bad : State → Option State) : Option State :=
    if corrected then some (s.bumpDeck d 0x20 1) else bad (s.bumpDeck d 0x28 1)
  let private_ (t : Nat) (has : Team → Bool) : Option State :=
    (s.teams.find t).bind (fun x => if !has x then none else if corrected then some (s.bumpCore x.core 0xE8 1) else s.stateErr t)
  match site with
  | .home pa => (s.partAt pa).bind (fun p => deck (s.lineSlice p pa / 96) (fun u => record p 0 pa (u.poisonHome pa)))
  | .replica d pa =>
    if 8 ≤ d || !isRein pa || reinTower pa != towerOfDeck d then none
    else deck d (fun u => record (s.codeOfDeck d) 0 pa (u.poisonReplica d pa))
  | .cache c pa =>
    if (s.core c).l1.keys.contains (pa / 128) || (s.core c).stackc.keys.any (fun k => k % 2 ^ 46 == pa / 128) then
      if corrected then some (s.bumpCore c 0xE8 1) else record (s.codeOfCore c) c pa ((s.dropCached c pa).poisonHome pa)
    else none
  | .window t o => (s.teams.find t).bind (fun x => if x.scratch ≤ o then none
      else if corrected then some (s.bumpCore x.core 0xE8 1) else record x.part x.core o (s.poisonWindow t o))
  | .slot k q o => if !s.slotHas k q o then none
      else deck (s.slotSlice k q / 96) (fun u => record (s.codeOfDeck (s.slotSlice k q / 96)) 0 o (u.poisonTile k q o))
  | .acc t => private_ t (fun x => x.acc != 0)
  | .items t => private_ t (fun x => x.niq != 0)
  | .locks t => private_ t (fun x => (s.core x.core).cmds.any (fun e => e.2.team == t) || (s.core x.core).matq.any (fun m => m.team == t)
      || (s.core x.core).locks.any (fun e => !e.2.glob && e.2.owner == t))
  | .directory sl => if 768 ≤ sl then none
      else if corrected then some (s.bumpDeck (sl / 96) 0x20 1) else some (s.bumpDeck (sl / 96) 0x38 1)

/-- SOFT_ERROR (R371). -/
def execSoftError (site : ErrSite) (corrected : Bool) (s : State) : Host.Outcome State Fault Refusal := runUp s (s.softError site corrected)

/-- SCRUB (R371): with INTCFG.SCRUB = 1 a line is read and corrected, which changes nothing that software sees. -/
def execScrub (pa : Nat) (s : State) : Host.Outcome State Fault Refusal :=
  runUp s (
    match s.partAt pa with
    | none => none
    | some p => if (s.part p).intcfg.getLsbD 1 then some s else none)

/-! ## Snapshots (R325) -/

/-- SNAP_COPY_ON_WRITE (R325): the old line goes to the page's data. -/
def execSnapCopyOnWrite (part pa : Nat) (s : State) : Host.Outcome State Fault Refusal :=
  runUp s (if (s.part part).snap.running then some (s.snapCopy part (pa / 128)) else none)

/-- SNAP_END (R325): the engine copies every line not yet copied, and the snapshot is done, or is abandoned. -/
def execSnapEnd (part : Nat) (s : State) : Host.Outcome State Fault Refusal :=
  runUp s (
    let sn := (s.part part).snap
    if !sn.running then none
    else
      let s := sn.pages.foldl (fun s e =>
        (List.range (snapSize e.2.2.1 / 128)).foldl (fun s k => s.snapCopy part (e.2.1 / 128 + k)) s) s
      let sn := (s.part part).snap
      if sn.running then
        some (((s.areaNat part (sn.area + 8) 8 1).onPart part (fun x => { x with snap := { x.snap with running := false } })).cause part 3)
      else some s)

end Sys2Proof.Machine
end

