-- ==== Sys2Proof/Machine/EvLaunch.lean ====
section
/-! DEFINITION. Launch queues, the checks of a launch record and of its descriptors, taking a record, the activation and the
completion of a launch (14 R280 to R297, 06 R137, R138, 17 R359). -/

namespace Sys2Proof.Machine

open Sys2Proof

/-! ## Launch queues (R280, R281) -/

def State.queue (s : State) (q : Nat) : LQueue := s.queues.get LQueue.empty q
def State.onQueue (s : State) (q : Nat) (f : LQueue → LQueue) : State := { s with queues := s.queues.set LQueue.empty q (f (s.queue q)) }

def LQueue.en (x : LQueue) : Bool := x.cfg.getLsbD 0
def LQueue.base (x : LQueue) : Nat := bits x.cfg.toNat 12 40 * 4096
def LQueue.log2n (x : LQueue) : Nat := bits x.cfg.toNat 8 4
def LQueue.prio (x : LQueue) : Nat := bits x.cfg.toNat 5 3
def LQueue.part (x : LQueue) : Nat := bits x.cfg.toNat 2 3

/-- A queue after a write of v to its LQCFG (R280). -/
def LQueue.write (x : LQueue) (v : GWord) (live : Nat → Bool) : LQueue :=
  let w := v.toNat
  if x.en then { x with cfg := BitVec.ofNat 64 (x.cfg.toNat / 2 * 2 + w % 2) }
  else
    let ok := bit w 0 && 4 ≤ bits w 8 4 && bits w 2 3 != 7 && live (bits w 2 3)
    let cfg := BitVec.ofNat 64 (bits w 12 40 * 2 ^ 12 + bits w 2 10 * 2 ^ 2 + b2n ok)
    if ok then { cfg := cfg, tail := 0, head := 0, rcd := none } else { x with cfg := cfg }

/-- Where the head record of a queue lies. -/
def LQueue.headAt (x : LQueue) : Nat := x.base + 64 * (x.head.toNat % 2 ^ x.log2n)

/-- The device reads a record once, when it becomes its queue's head (R281), from memory that the partition reaches. -/
def State.latch (s : State) (q : Nat) : State :=
  let x := s.queue q
  if x.en && x.tail != x.head && x.rcd.isNone && s.inPart x.part x.headAt then s.onQueue q (fun y => { y with rcd := some (s.homeNat x.headAt 64) })
  else s

/-- LQCFG_WRITE (R280): ignored where it is of a queue of a partition that a format changes, or would make it one (17 R364). -/
def execLqcfgWrite (q : Nat) (v : GWord) (s : State) : Host.Outcome State Fault Refusal :=
  runEvent s (
    let x := s.queue q
    if q < 64 && s.mgmt && !s.formatting (if x.en then x.part else bits v.toNat 2 3) then some (s.onQueue q (fun x => x.write v s.liveCode)) else none)

/-- LQTAIL_WRITE (R281): a TAIL that runs back, or too far ahead, is refused with TAILERR. -/
def execLqtailWrite (q : Nat) (v : GWord) (s : State) : Host.Outcome State Fault Refusal :=
  runEvent s (
    let x := s.queue q
    let tail : Word := v.setWidth 32
    if 64 ≤ q || !x.en || !s.answers x.part then none
    else if 2 ^ x.log2n < (tail - x.head).toNat || !markLe x.tail tail then
      some (s.tryPost x.part (launchRec s x.part 0 0xFFFFFFFF x.head.toNat q 0xFF 0xFF 0x48))
    else some ((s.onQueue q (fun y => { y with tail := tail })).latch q))

/-! ## Heads of queues (R282, R283) -/

/-- The head record of a queue, as it was read. -/
def State.headRec (s : State) (q : Nat) : Nat := (s.queue q).rcd.getD 0

/-- A record's dependence is met (R282): no DEPADDR, one that cannot be translated, or a word of at least DEPTARGET. -/
def State.depMet (s : State) (p w : Nat) : Bool :=
  if bits w 256 64 == 0 then true
  else
    match s.devTr p (bits w 384 16) (bits w 256 64) false with
    | some t => bits w 320 64 ≤ s.homeNat t.pa 8
    | none => true

/-- A launch of the queue waits for cores, and later records behind it (R296). -/
def State.queueBlocked (s : State) (q : Nat) : Bool := s.launches.any (fun e => e.2.queue == q && !e.2.active)

/-- The queue of a partition has a record at its head that is ready. -/
def State.headReady (s : State) (p q : Nat) : Bool :=
  let x := s.queue q
  x.en && x.part == p && x.tail != x.head && !s.queueBlocked q && x.rcd.isSome && s.depMet p (s.headRec q)

/-- The queue to take from: the highest PRIO, and in turn by number from the one after the queue taken last (R283). -/
def State.pickQueue (s : State) (p : Nat) : Option Nat :=
  let n := (s.part p).nextQueue
  let qs := ((List.range 64).map (fun k => (n + k) % 64)).filter (s.headReady p)
  qs.find? (fun q => qs.all (fun r => (s.queue r).prio ≤ (s.queue q).prio))

/-- DEP_POLL (R282): the test of a head is made again. It is made of the word as it stands whenever a record is taken; here a head that
could not be read when it became one is read (log 82). -/
def execDepPoll (q : Nat) (s : State) : Host.Outcome State Fault Refusal := runUp s (some (s.latch q))

/-! ## Grid descriptors (R285 to R288, 02 R19, R20, 05 R120, 07 R167) -/

/-- The reserved bits lo to lo + n - 1 are zero. -/
def rsv (w lo n : Nat) : Bool := bits w lo n == 0

/-- The ranges of a descriptor's header. -/
def gridHeaderOk (w : Nat) : Bool :=
  rsv w 528 496 && rsv w 390 58 && rsv w 358 26 && rsv w 84 12
    && bits w 384 6 ≤ 32 && bits w 448 64 % 16 == 0 && (bits w 384 6 != 0 || bits w 448 64 == 0)
    && 1 ≤ bits w 352 4 && bits w 352 4 ≤ 8
    && bits w 320 32 % 128 == 0 && (bits w 320 32 == 0) == (bits w 512 16 == 0)
    && (bits w 320 32 == 0 || bits w 256 64 % 128 == 0)
    && fmtOk (bits w 96 32) && 1 ≤ bits w 64 20 && bits w 0 64 % 128 == 0

/-- The ranges of a bucket. -/
def bucketOk (w : Nat) : Bool :=
  let x := bits w 320 32
  let y := bits w 352 32
  let z := bits w 384 32
  rsv w 441 71 && bits w 434 7 ≤ 64 && bits w 427 7 ≤ 64 && 1 ≤ bits w 421 6 && bits w 421 6 ≤ 32 && 1 ≤ bits w 416 5 && bits w 416 5 ≤ 16
    && 1 ≤ x && x ≤ 2 ^ 31 && 1 ≤ y && y ≤ 2 ^ 31 && 1 ≤ z && z ≤ 2 ^ 31 && x * y * z ≤ 2 ^ 31 && bits w 256 64 % 4 == 0

/-- The ranges of an entry of a binding table. -/
def bindOk (w : Nat) : Bool := rsv w 69 59 && bits w 0 64 % 4 == 0 && (bit w 68 || bits w 0 64 == 0)

/-- A descriptor as read: header, buckets and binding table; none when the launch is refused with BADDESC (R290). -/
def State.readGrid (s : State) (p ctx va : Nat) : Option (Nat × List Nat × List Nat) :=
  match s.ctxRead p ctx va 128 with
  | none => none
  | some h =>
    let w := ofBytes h
    if !gridHeaderOk w then none
    else
      let nb := bits w 352 4
      let nq := bits w 384 6
      match s.ctxRead p ctx (va + 128) (64 * nb), s.ctxRead p ctx (bits w 448 64) (16 * nq) with
      | some b, some q =>
        let bs := (List.range nb).map (fun k => ofBytes ((b.drop (64 * k)).take 64))
        let qs := (List.range nq).map (fun k => ofBytes ((q.drop (16 * k)).take 16))
        if bs.all bucketOk && qs.all bindOk then some (w, bs, qs) else none
      | _, _ => none

/-- The first bucket that accepts the shapes (R288). -/
def pickBucket (bs : List Nat) (shape : List Word) : Option Nat :=
  (List.range bs.length).find? (fun k =>
    (List.range 4).all (fun i =>
      let v := (shape.getD i 0).toNat
      bits (bs.getD k 0) (64 * i) 32 ≤ v && v ≤ bits (bs.getD k 0) (64 * i + 32) 32))

/-- The grid of a descriptor with bucket k. -/
def gridOf (d : Nat × List Nat × List Nat) (k : Nat) : Grid :=
  let (w, bs, qs) := d
  let b := bs.getD k 0
  { lcb := BitVec.ofNat 64 (bits w 0 64), lcn := bits w 64 20, fmt := BitVec.ofNat 32 (bits w 96 32), seed := BitVec.ofNat 64 (bits w 128 64),
    roleMap := BitVec.ofNat 64 (bits w 192 64), stackBase := BitVec.ofNat 64 (bits w 256 64), stackSize := bits w 320 32,
    areas := bits w 512 16,
    binds := qs.map (fun q => { bound := bit q 68, role := bits q 64 4, entry := BitVec.ofNat 64 (bits q 0 64) }),
    mcast := bit w 356, migr := bit w 357, bucket := k, entry := BitVec.ofNat 64 (bits b 256 64), groups := bits b 416 5,
    vregs := 8 * bits b 421 6, acc := 8 * bits b 427 7, scratch := 131072 * bits b 434 7,
    gx := bits b 320 32, gy := bits b 352 32, gz := bits b 384 32 }

/-! ## Hitch records (R292 to R295, 06 R137, R138, 17 R359) -/

/-- The header's ranges. -/
def hitchHeaderOk (w : Nat) : Bool :=
  rsv w 128 384 && rsv w 117 3 && 1 ≤ bits w 112 5 && bits w 112 5 ≤ 16 && bits w 120 7 ≤ 64 && bits w 96 16 ≤ 1000 && bits w 0 64 % 128 == 0

/-- A stage entry's ranges. -/
def stageOk (w : Nat) : Bool :=
  rsv w 224 288 && rsv w 154 6 && rsv w 138 6 && rsv w 104 24 && rsv w 98 2 && rsv w 89 7 && rsv w 73 7
    && 1 ≤ bits w 64 9 && bits w 64 9 ≤ 384 && bits w 64 9 ≤ bits w 80 9 && bits w 144 10 ≤ 896
    && (if bits w 144 10 == 0 then bits w 128 10 == 0 else 64 ≤ bits w 128 10)

/-- A tile type's limits (R138). -/
def tileTypeOk (w : Nat) : Bool :=
  rsv w 36 28 && bits w 32 4 < 8 && 1 ≤ bits w 16 16 && bits w 16 16 ≤ 1024 && 16 ≤ bits w 0 16 && bits w 0 16 ≤ 8192 && bits w 0 16 % 16 == 0
    && bits w 0 16 * bits w 16 16 ≤ 65536

/-- The entry declares a pipe. -/
def pipeDeclared (w : Nat) : Bool := bits w 92 4 != 0

/-- The home slices of a pipe entry. -/
def pipeHomes (w : Nat) : List Nat := (List.range (bits w 92 4)).map (fun k => bits w (96 + 10 * k) 10)

/-- The producer stages of a pipe entry. -/
def pipeProds (w : Nat) : List Nat := indices 16 (fun k => bit w (72 + k))

/-- A pipe entry's ranges, in a hitch of n stages whose partition holds the decks. -/
def pipeOk (n : Nat) (decks : List Nat) (w : Nat) : Bool :=
  !pipeDeclared w ||
    (rsv w 188 68 && rsv w 71 1 && bits w 176 2 != 3 && bits w 92 4 ≤ 8 && 1 ≤ bits w 64 7 && bits w 64 7 ≤ 64 && tileTypeOk (bits w 0 64)
      && (pipeHomes w).all (fun h => decks.contains (h / 96))
      && (if bits w 176 2 == 2 then (pipeProds w).isEmpty else !(pipeProds w).isEmpty && (pipeProds w).all (· < n))
      && (bits w 176 2 == 1 || (bits w 88 4 < n && !(pipeProds w).contains (bits w 88 4))))

/-- The bytes of a tile type. -/
def tileBytes (w : Nat) : Nat := bits w 0 16 * bits w 16 16

/-- The bytes of a spill entry (R292). -/
def spillEntry (pipes : List Nat) : Nat := 128 + roundUp 128 (((pipes.filter pipeDeclared).map tileBytes).foldl max 0)

/-- n pages from an address are mapped to the partition's HBM4E. -/
def State.hbmPages (s : State) (p ctx : Nat) : Nat → Nat → Bool
  | _, 0 => true
  | va, n + 1 =>
    (match (if canonical va then walk s p ctx va else .error (.access 1)) with
     | .ok t => (s.part p).inHbm t.pa && (s.homeBad 0 p t).isNone
     | .error _ => false) && s.hbmPages p ctx (va + 4096) n

/-- The spill area is canonical and wholly in the partition's HBM4E. -/
def State.spillOk (s : State) (p ctx base len : Nat) : Bool :=
  len == 0 || (canonical base && canonical (base + len - 1) && base / 2 ^ 55 == (base + len - 1) / 2 ^ 55
    && s.hbmPages p ctx (base / 4096 * 4096) ((base % 4096 + len + 4095) / 4096))

/-- The reservations (first slot, slots) of the launches of a partition. -/
def State.reservations (s : State) (p : Nat) : List (Nat × Nat) :=
  (s.launches.filter (fun e => e.2.part == p)).flatMap (fun e => (e.2.stages.filter (fun g => g.rslotN != 0)).map (fun g => (g.rslot, g.rslotN)))

/-- No two of the ranges overlap. -/
def disjoint : List (Nat × Nat) → Bool
  | [] => true
  | r :: rs => rs.all (fun q => r.1 + r.2 ≤ q.1 || q.1 + q.2 ≤ r.1) && disjoint rs

/-- The new reservations meet the limits of R295, and of R359 in a tower that is split. -/
def State.reservesOk (s : State) (p : Nat) (new : List (Nat × Nat)) : Bool :=
  let all := new ++ s.reservations p
  new.isEmpty || (disjoint all && (s.decksOf p).all (fun d =>
    let (lo, hi, most) := if !(s.tower (towerOfDeck d)).reinSplit.getLsbD 0 then (64, 1024, 896)
      else if d % 4 < 2 then (64, 544, 416) else (544, 1024, 416)
    new.all (fun r => lo ≤ r.1 && r.1 + r.2 ≤ hi) && (all.map Prod.snd).sum ≤ most))

/-! ## Taking a record (R283, R284, R290) -/

/-- A launch as checked: the launch, and its pipes by number. -/
abbrev Checked := Launch × List (Nat × Pipe)

/-- The stage that a stage entry gives, with its grid. -/
def stageOf (w : Nat) (g : Grid) : Stage :=
  { grid := g, ckstart := bits w 160 32, rerun := bit w 96, retry := bits w 100 4, shareMin := bits w 64 9, shareMax := bits w 80 9,
    rslot := bits w 128 10, rslotN := bits w 144 10, movePre := bit w 97, next := bits w 160 32, returned := [], pools := [], shadow := [],
    retired := [], ended := [], discards := [], areasUsed := [] }

/-- The pipe that a pipe entry gives; a package that produces for a far consumer starts with DEPTH credits (16 R344). -/
def pipeOf (w : Nat) : Pipe :=
  { rows := bits w 16 16, rowBytes := bits w 0 16, fmt := bits w 32 4, depth := bits w 64 7, prods := pipeProds w, cons := bits w 88 4,
    homes := pipeHomes w, xlink := bits w 176 2, xport := bits w 178 4, xpipe := bits w 182 6, seq := 0, order := 0, tiles := [], acqWait := [],
    getWait := [], closed := false, credits := bits w 64 7, sent := 0, inTiles := [], passed := [], merged := 0, abandoned := [],
    timers := [], paused := [], closedBy := [], senders := [] }

/-- The shape registers of a record. -/
def recShape (w : Nat) : List Word := (List.range 4).map (fun i => BitVec.ofNat 32 (bits w (128 + 32 * i) 32))

/-- The launch of a record of queue q, its stages not yet known. -/
def launchOf (s : State) (p q w : Nat) : Launch :=
  { part := p, queue := q, index := (s.queue q).head.toNat, prio := (s.queue q).prio, hitch := bits w 416 4 == 2, active := false,
    desc := BitVec.ofNat 64 (bits w 0 64), ctx := bits w 384 16, args := BitVec.ofNat 64 (bits w 64 64), shape := recShape w,
    status := BitVec.ofNat 64 (bits w 448 64), stages := [], faulted := false, tms := false, hold := 20, spillN := 0, spillBase := 0, spillE := 128,
    spills := [], since := none, lastD := [], seenCommits := 0, move := none, lastDone := s.us, lends := [] }

/-- An empty core can hold a team of the grid (R22). -/
def gridFits (g : Grid) : Bool := (assignSlots (List.replicate g.groups g.vregs) (List.range 64) [2048, 2048, 2048, 2048]).isSome

/-- Every element is there. -/
def allSome {α : Type} : List (Option α) → Option (List α)
  | [] => some []
  | x :: xs => x.bind (fun a => (allSome xs).map (a :: ·))

/-- The cores of a partition on decks that are not fenced. -/
def State.liveCores (s : State) (p : Nat) : List Nat := (s.coresOf p).filter (fun c => (s.deck (deckOfCore c)).live)

/-- The checks of R290 in the order of their codes: the launch, or the lowest code that applies. -/
def State.checkRecord (s : State) (p q w : Nat) : Except Nat Checked := do
  let x := launchOf s p q w
  let ctx := x.ctx
  let desc := x.desc.toNat
  let hitch := x.hitch
  if !rsv w 420 28 || !rsv w 400 16 || (bits w 416 4 != 1 && bits w 416 4 != 2) || bits w 448 64 % 8 != 0 || bits w 256 64 % 8 != 0
      || desc % 128 != 0 then throw 0x40
  else
    let h ← if hitch then (match s.ctxRead p ctx desc 3136 with | some b => pure b | none => throw 0x41) else pure []
    let hw := ofBytes (h.take 64)
    let ns := if hitch then min 16 (bits hw 112 5) else 1
    let sw := (List.range ns).map (fun k => if hitch then ofBytes ((h.drop (64 + 64 * k)).take 64) else desc)
    let pw := if hitch then (List.range (min 64 (bits hw 120 7))).map (fun k => ofBytes ((h.drop (1088 + 32 * k)).take 32)) else []
    let ds ← match allSome (sw.map (fun e => s.readGrid p ctx (bits e 0 64))) with | some l => pure l | none => throw 0x41
    let bs ← match allSome (ds.map (fun d => pickBucket d.2.1 x.shape)) with | some l => pure l | none => throw 0x42
    let gs := (ds.zip bs).map (fun e => gridOf e.1 e.2)
    let cores := (s.liveCores p).length
    if cores == 0 || !gs.all gridFits || (hitch && cores < (sw.map (fun e => bits e 64 9)).sum) then throw 0x43
    else if hitch && !(hitchHeaderOk hw && sw.all stageOk && pw.all (pipeOk ns (s.decksOf p))) then throw 0x44
    else
      let e := spillEntry pw
      if hitch && !s.spillOk p ctx (bits hw 0 64) (bits hw 64 32 * e) then throw 0x45
      else
        let res := if hitch then (sw.filter (fun e => bits e 144 10 != 0)).map (fun e => (bits e 128 10, bits e 144 10)) else []
        if !s.reservesOk p res then throw 0x46
        else if bits w 256 64 != 0 && (s.devTr p ctx (bits w 256 64) false).isNone then throw 0x47
        else if hitch then
          pure ({ x with
            stages := (sw.zip gs).map (fun e => stageOf e.1 e.2), tms := bit hw 127, hold := if bits hw 96 16 == 0 then 20 else bits hw 96 16,
            spillN := bits hw 64 32, spillBase := BitVec.ofNat 64 (bits hw 0 64), spillE := e },
            ((List.range pw.length).zip pw).filterMap (fun e => if pipeDeclared e.2 then some (e.1, pipeOf e.2) else none))
        else pure ({ x with active := true, stages := gs.map (stageOf 0) }, [])

/-! ## Activation of a hitch (R296) -/

/-- The cores of a partition that a hitch may take: those that no running hitch holds. -/
def State.freeCores (s : State) (p : Nat) : List Nat := (s.liveCores p).filter (fun c => (s.core c).heldBy == none)

/-- Gives SHAREMIN cores to each stage in turn: (core, stage), and the cores left. -/
def dealMin : Nat → List Nat → List Nat → List (Nat × Nat) × List Nat
  | _, [], free => ([], free)
  | k, m :: ms, free =>
    let (l, rest) := dealMin (k + 1) ms (free.drop m)
    ((free.take m).map (fun c => (c, k)) ++ l, rest)

/-- One round: one more core for each stage that has fewer than its most. -/
def dealRound : List Nat → List (Nat × Nat × Nat) → List (Nat × Nat) × List (Nat × Nat × Nat) × List Nat
  | free, [] => ([], [], free)
  | [], sh => ([], sh, [])
  | c :: cs, (k, n, most) :: sh =>
    if n < most then
      let (l, sh, free) := dealRound cs sh
      ((c, k) :: l, (k, n + 1, most) :: sh, free)
    else
      let (l, sh, free) := dealRound (c :: cs) sh
      (l, (k, n, most) :: sh, free)

/-- Rounds until no core is left or no stage takes one. -/
def dealMore : Nat → List Nat → List (Nat × Nat × Nat) → List (Nat × Nat)
  | 0, _, _ => []
  | n + 1, free, sh =>
    match dealRound free sh with
    | ([], _, _) => []
    | (l, sh, free) => l ++ dealMore n free sh

/-- The cores that a hitch takes, each with its stage. -/
def deal (free : List Nat) (stages : List Stage) (most : Nat) : List (Nat × Nat) :=
  let (l, rest) := dealMin 0 (stages.map (fun g => g.shareMin)) free
  l ++ dealMore rest.length rest
    (((List.range stages.length).zip stages).map (fun e => (e.1, e.2.shareMin, min e.2.shareMax most)))

/-- A waiting hitch becomes active when its SHAREMIN values fit among the free cores. -/
def State.activate (s : State) (l : Nat) : Option State :=
  match s.launch l with
  | none => none
  | some x =>
    let free := s.freeCores x.part
    if x.active || s.isDoomed l || free.length < (x.stages.map (fun g => g.shareMin)).sum then none
    else
      let s := (deal free x.stages (s.liveCores x.part).length).foldl (fun s e => s.onCore e.1 (fun k => { k with heldBy := some (l, e.2), moving := false })) s
      some ((s.onLaunch l (fun y => { y with active := true, lastDone := s.us })).closePipes l)

/-- HITCH_ACTIVATE (R296): a waiting hitch of the partition that fits. Of several that fit the oldest becomes active, whatever its PRIO,
which is the model's choice (log 98). -/
def execHitchActivate (part : Nat) (s : State) : Host.Outcome State Fault Refusal :=
  runUp s (if s.pkg.halted then none else s.launches.keys.findSome? (fun l =>
    match s.launch l with
    | some x => if x.part == part then s.activate l else none
    | none => none))

/-- LAUNCH_TAKE (R283, R290): the record of the highest PRIO is taken, and is launched, waits for cores, or is refused once its
record can be posted (15 R307). A hitch that fits becomes active at once. -/
def execLaunchTake (part : Nat) (s : State) : Host.Outcome State Fault Refusal :=
  runUp s (
    if !s.liveCode part || s.pkg.halted || (s.part part).halting || 256 ≤ (s.launches.filter (fun e => e.2.part == part)).length then none
    else
      match s.pickQueue part with
      | none => none
      | some q =>
        let w := s.headRec q
        let taken (s : State) : State := ((s.onQueue q (fun x => { x with head := x.head + 1, rcd := none })).latch q).onPart part (fun x => { x with nextQueue := (q + 1) % 64 })
        match s.checkRecord part q w with
        | .error code =>
          if s.canPost part then
            let x := s.queue q
            let s := s.putStatus part (bits w 384 16) (bits w 448 64) code
            (s.postRec part (launchRec s part (bits w 0 64) 0xFFFFFFFF x.head.toNat q 0xFF 0xFF code)).map taken
          else none
        | .ok (x, pipes) =>
          let l := s.nextLaunch
          let s := { taken s with launches := s.launches.put l x, nextLaunch := l + 1 }
          let s := pipes.foldl (fun s e => { s with pipes := s.pipes.put (64 * l + e.1) e.2 }) s
          some ((s.activate l).getD s))

/-- LAUNCH_COMPLETE (R284, R297): every team of every stage has retired or has been ended, and no halt of the launch waits. -/
def execLaunchComplete (launch : Nat) (s : State) : Host.Outcome State Fault Refusal :=
  runUp s (
    match s.launch launch with
    | none => none
    | some x =>
      if x.active && !s.isDoomed launch && x.stages.all Stage.isDone then
        some (((s.writeDonew launch).writeStatus launch (if x.faulted then 0x60 else 1)).dropLaunch launch)
      else none)

end Sys2Proof.Machine
end

