-- ==== Sys2Proof/Machine/EvSched.lean ====
section
/-! DEFINITION. The distributors, the Teamster, the deadlock monitor and the fencing of a deck (14 R297 to R305, R384,
06 R154 to R156, 17 R375, 04 R97). -/

namespace Sys2Proof.Machine

open Sys2Proof

/-! ## Issuing ranges (R298, R299) -/

/-- The indices of a range. -/
def Range.size (r : Range) : Nat := r.hi + 1 - r.lo

/-- The teams of a launch in a deck's pool. -/
def Launch.poolSize (x : Launch) (d : Nat) : Nat := ((x.stages.flatMap (fun g => g.pools.filter (fun r => r.deck == d))).map Range.size).sum

/-- The teams of a stage. -/
def Stage.total (g : Stage) : Nat := g.grid.gx * g.grid.gy * g.grid.gz

/-- The deck holds a core that is able to run the stage. -/
def State.ableDeck (s : State) (x : Launch) (l k d : Nat) : Bool :=
  let t := s.deck d
  s.codeOfDeck d == x.part && t.live && t.awake && !t.sleeping
    && (List.range 48).any (fun i =>
      let h := (s.core (48 * d + i)).heldBy
      if x.hitch then h == some (l, k) else h == none)

/-- The next range that the master issues of a stage: one that has come back, or up to 64 indices in order. That those that have come back
go first, in the order in which they came, is the model's choice (log 98). -/
def Stage.nextRange (g : Stage) : Option (Nat × Nat × Stage) :=
  match g.returned with
  | r :: rs => some (r.lo, r.hi, { g with returned := rs })
  | [] => if g.next < g.total then some (g.next, min (g.next + 63) (g.total - 1), { g with next := min (g.next + 64) g.total }) else none

/-- RANGE_ISSUE (R299): to a deck whose pool for the launch holds fewer than 16 teams. -/
def execRangeIssue (launch stage deck : Nat) (s : State) : Host.Outcome State Fault Refusal :=
  runUp s (
    match s.launch launch, s.stage launch stage with
    | some x, some g =>
      if x.active && !s.isDoomed launch && !(s.part x.part).halting && s.ableDeck x launch stage deck && x.poolSize deck < 16 then
        match g.nextRange with
        | none => none
        | some (lo, hi, g) =>
          let h := { g.holdBy lo hi deck with pools := g.pools ++ [{ lo := lo, hi := hi, deck := deck }] }
          some (s.onLaunch launch (fun y => { y with stages := y.stages.set stage h }))
      else none
    | _, _ => none)

/-- DONEW_WRITE (R297): at most once in 10 microseconds. -/
def execDonewWrite (launch : Nat) (s : State) : Host.Outcome State Fault Refusal :=
  runUp s (
    match s.launch launch with
    | some x =>
      if x.hitch && x.active && x.lastDone + 10 ≤ s.us then some ((s.writeDonew launch).onLaunch launch (fun y => { y with lastDone := s.us }))
      else none
    | none => none)

/-! ## The Teamster (R303) -/

/-- A fraction: numerator and positive denominator. -/
abbrev Frac := Int × Nat

def Frac.add (a b : Frac) : Frac := (a.1 * b.2 + b.1 * a.2, a.2 * b.2)
def Frac.sub (a b : Frac) : Frac := (a.1 * b.2 - b.1 * a.2, a.2 * b.2)
def Frac.le (a b : Frac) : Bool := a.1 * b.2 ≤ b.1 * a.2

/-- The mean of fractions, or a value when there are none. -/
def Frac.mean (l : List Frac) (d : Frac) : Frac :=
  if l.isEmpty then d
  else
    let t := l.foldl Frac.add (0, 1)
    (t.1, t.2 * l.length)

/-- The committed tiles of a pipe, spilled ones included. -/
def Pipe.committed (x : Pipe) : List Tile := x.tiles.filter (fun t => t.st == .committed)

/-- occ of a pipe. -/
def Pipe.occ (x : Pipe) : Frac := (min x.committed.length x.depth, x.depth)

/-- The pipes of a launch that stay in the package: key and pipe. -/
def State.ownPipes (s : State) (l : Nat) : List (Nat × Pipe) := s.pipes.filter (fun e => e.1 / 64 == l && e.2.xlink == 0)

/-- need of a stage. The mean of no pipes, of a stage whose pipes are all UALink pipes, is that of a stage with none: the model's choice
(log 98). -/
def State.need (s : State) (l k : Nat) : Frac :=
  let ps := s.ownPipes l
  Frac.sub (Frac.mean ((ps.filter (fun e => e.2.cons == k)).map (fun e => e.2.occ)) (1, 1))
    (Frac.mean ((ps.filter (fun e => e.2.prods.contains k)).map (fun e => e.2.occ)) (0, 1))

/-- The cores that a stage holds. -/
def State.stageCores (s : State) (l k : Nat) : List Nat := indices 384 (fun c => (s.core c).heldBy == some (l, k))

/-- The placed teams of a stage on a core. -/
def State.stageTeamsOn (s : State) (l k c : Nat) : List Nat :=
  (s.teams.filter (fun e => e.2.core == c && e.2.launch == l && e.2.stage == k)).map Prod.fst

/-- The move that the Teamster starts: core, old stage and new stage. -/
def State.moveOf (s : State) (l : Nat) (x : Launch) : Option (Nat × Nat × Nat) :=
  let ks := List.range x.stages.length
  let n (k : Nat) : Nat := (s.stageCores l k).length
  let give := ks.filter (fun k => match x.stages[k]? with | some g => g.shareMin < n k | none => false)
  let take := ks.filter (fun k => match x.stages[k]? with | some g => n k < min g.shareMax (s.liveCores x.part).length | none => false)
  match give.find? (fun k => give.all (fun j => (s.need l k).le (s.need l j))), take.find? (fun k => take.all (fun j => (s.need l j).le (s.need l k))) with
  | some dn, some vn =>
    if dn != vn && Frac.le (1, 4) (Frac.sub (s.need l vn) (s.need l dn)) then
      let cs := s.stageCores l dn
      (cs.find? (fun c => cs.all (fun d => (s.stageTeamsOn l dn c).length ≤ (s.stageTeamsOn l dn d).length))).map (fun c => (c, dn, vn))
    else none
  | _, _ => none

/-- TEAMSTER_TICK (R303): one core at most begins to move. -/
def execTeamsterTick (launch : Nat) (s : State) : Host.Outcome State Fault Refusal :=
  runUp s (
    match s.launch launch with
    | some x =>
      if !x.active || s.isDoomed launch || !x.tms || x.move.isSome then none
      else
        match s.moveOf launch x with
        | none => none
        | some (c, dn, vn) =>
          let s := (s.onCore c (fun k => { k with moving := true })).onLaunch launch (fun y => { y with move := some (c, dn, vn) })
          let pre := match x.stages[dn]? with | some g => g.movePre | none => false
          some (if pre then (s.stageTeamsOn launch dn c).foldl (fun s t => if (s.team t).saving == 0 then s.stopTeam t 1 else s) s else s)
    | none => none)

/-- MOVE_END (R303): no team of the old stage remains on the core, and the new stage holds it. -/
def execMoveEnd (launch : Nat) (s : State) : Host.Outcome State Fault Refusal :=
  runUp s (
    match (s.launch launch).bind (fun x => x.move) with
    | none => none
    | some (c, dn, vn) =>
      if (s.stageTeamsOn launch dn c).isEmpty then
        some ((s.onCore c (fun k => { k with heldBy := some (launch, vn), moving := false })).onLaunch launch (fun y => { y with move := none }))
      else none)

/-! ## The deadlock monitor (R304, R384) -/

/-- The stalls of every placed or saved team of a stage: none for a team that is not blocked. -/
def State.stageStalls (s : State) (l : Nat) (x : Launch) (k : Nat) : List (Option (List (Nat × Bool))) :=
  (s.teams.filter (fun e => e.2.launch == l && e.2.stage == k)).map (fun e => s.teamStalls e.2)
    ++ ((s.part x.part).saved.filter (fun v => v.team.launch == l && v.team.stage == k)).map (fun v => v.stalls)

/-- The stage is blocked. -/
def State.stageBlocked (s : State) (l : Nat) (x : Launch) (k : Nat) : Bool :=
  let t := s.stageStalls l x k
  !t.isEmpty && t.all Option.isSome

/-- The stalls of the teams of a stage: pipe key, and whether the team produces. -/
def State.stallsOf (s : State) (l : Nat) (x : Launch) (k : Nat) : List (Nat × Bool) := (s.stageStalls l x k).flatMap (fun t => t.getD [])

/-- The stages on which a stage waits. -/
def State.waits (s : State) (l : Nat) (x : Launch) (k : Nat) : List Nat :=
  (s.stallsOf l x k).flatMap (fun e => match s.pipe e.1 with
    | some p => if e.2 then [p.cons] else p.prods
    | none => [])

/-- The largest subset of a list of stages whose waits lie within it. -/
def State.closedIn (s : State) (l : Nat) (x : Launch) : Nat → List Nat → List Nat
  | 0, d => d
  | n + 1, d => s.closedIn l x n (d.filter (fun k => (s.waits l x k).all (fun j => d.contains j)))

/-- D of R304. -/
def State.deadSet (s : State) (l : Nat) (x : Launch) : List Nat :=
  s.closedIn l x x.stages.length ((List.range x.stages.length).filter (s.stageBlocked l x))

/-- The tiles committed so far to the pipes with an endpoint in a set of stages, those to a far consumer among them. -/
def State.commitsAt (s : State) (l : Nat) (d : List Nat) : Nat :=
  ((s.pipes.filter (fun e => e.1 / 64 == l && ((e.2.xlink != 1 && d.contains e.2.cons) || e.2.prods.any (fun k => d.contains k)))).map
    (fun e => e.2.order)).sum

/-- The oldest committed tile that a slot of the pipe holds. -/
def Pipe.spillable (x : Pipe) : Option Tile :=
  let ts := x.committed.filter (fun t => !t.spill)
  ts.find? (fun t => ts.all (fun u => t.order ≤ u.order))

/-- The pipes of F, by key: a team of D stalls in `pacq` on them, and they hold a committed tile in a slot. -/
def State.spillPipes (s : State) (l : Nat) (x : Launch) (d : List Nat) : List Nat :=
  let st := d.flatMap (s.stallsOf l x)
  (s.ownPipes l).filterMap (fun e => if st.contains (e.1, true) && e.2.spillable.isSome then some e.1 else none)

/-- The bytes of a spill entry (R384). -/
def spillBytes (k e : Nat) (p : Pipe) (t : Tile) : List Byte :=
  let (c, m) := match t.rcd with
    | some r => (r.core, r.mark.toNat)
    | none => (0, 0)
  let tile := (List.range (p.rows * p.rowBytes)).map (fun i => match t.data.find i with
    | some b => b
    | none => Config.freeByte t.uid i)
  let head := toBytes 8 t.tag.toNat ++ toBytes 4 t.seq.toNat ++ toBytes 4 m ++ toBytes 2 c ++ toBytes 1 (k % 64) ++ toBytes 1 1
  let all := head ++ List.replicate 108 0 ++ tile
  all ++ List.replicate (e - all.length) 0

/-- Poisons a byte's sector of a launch's memory at its home, with record 0x70 (17 R370). -/
def State.spillBad (s : State) (p ctx va : Nat) : State :=
  match s.devTr p ctx va true with
  | some q => (s.poisonHome q.pa).tryPost p (eventRec s p (q.pa / 32 * 32) 0 0 0x70)
  | none => s

/-- Spills a tile of pipe k into entry n: its slot is FREE, and the tile keeps its place (R140, R155). Its bad sectors are stored with a
poison mark (17 R370). -/
def State.spillTile (s : State) (l : Nat) (x : Launch) (k n : Nat) (p : Pipe) (t : Tile) : State :=
  let at_ := x.spillBase.toNat + x.spillE * n
  let s := s.ctxStore x.part x.ctx at_ (spillBytes k x.spillE p t)
  let s := t.bad.foldl (fun s q => s.spillBad x.part x.ctx (at_ + 128 + 32 * q)) s
  let s := s.onPipe k (fun y => { y with
    seq := y.seq + 1, tiles := y.tiles.map (fun u => if u.seq == t.seq then { u with spill := true, slot := 0 } else u) })
  let s := s.onLaunch l (fun y => { y with spills := y.spills.put n { pipe := k % 64, seq := t.seq }, since := some s.us })
  s.bumpPipe x.part (k % 64) 8

/-- DEADLOCK_TICK (R304). -/
def execDeadlockTick (launch : Nat) (s : State) : Host.Outcome State Fault Refusal :=
  runUp s (
    match s.launch launch with
    | none => none
    | some x =>
      if !x.hitch || !x.active || s.isDoomed launch then none
      else
        let d := s.deadSet launch x
        let n := s.commitsAt launch d
        let note (t : Option Nat) : State := s.onLaunch launch (fun y => { y with since := t, lastD := d, seenCommits := n })
        match d with
        | [] => some (note none)
        | k :: _ =>
          let since := match x.since with
            | some t => if d == x.lastD && n == x.seenCommits then t else s.us
            | none => s.us
          let t := note (some since)
          if s.us < since + x.hold then some t
          else
            match s.spillPipes launch x d with
            | [] => t.haltHitch launch 0x50 k 0xFF 0xFFFFFFFF
            | p :: _ =>
              let e := x.spills.fresh x.spillN 0
              if x.spillN ≤ e then t.haltHitch launch 0x51 0xFF (p % 64) 0xFFFFFFFF
              else
                match s.pipe p with
                | none => none
                | some y => y.spillable.map (t.spillTile launch x p e y))

/-! ## Fencing a deck (R298, R300, R302, 17 R375, 04 R97) -/

/-- Runs f over a list while every step can be made. -/
def State.each {α : Type} (f : State → α → Option State) : List α → State → Option State
  | [], s => some s
  | a :: l, s => (f s a).bind (State.each f l)

/-- What a fence does to a placed team of the deck (R300). A hitch whose halt cannot be recorded yet keeps its state (15 R307). -/
def State.loseTeam (s : State) (t : Nat) : State :=
  match s.teams.find t with
  | none => s
  | some x =>
    if x.rerun then (s.discardTeam t).getD (s.haltOr { launch := x.launch, code := 0x52, stage := x.stage, pipe := 0xFF, team := x.lin })
    else if (match s.launch x.launch with | some l => l.hitch | none => false) then
      s.haltOr { launch := x.launch, code := 0x53, stage := x.stage, pipe := 0xFF, team := x.lin }
    else ((s.abandonTeam t).freeTeam t).onLaunch x.launch (fun l => { l with stages := l.stages.modify x.stage (fun g => { g with
      areasUsed := match x.area with
        | some a => g.areasUsed.filter (· != a)
        | none => g.areasUsed }) })

/-- The deck that the shadow names as the holder of a team index. -/
def Stage.holder (g : Stage) (n : Nat) : Option Nat := (g.shadow.find? (fun r => r.lo ≤ n && n ≤ r.hi)).map (fun r => r.deck)

/-- What a fence does to a saved team whose index the deck holds (R300): its frame is given up. -/
def State.loseSaved (s : State) (p : Nat) (v : Saved) : State :=
  let x := v.team
  match s.launch x.launch, s.stage x.launch x.stage with
  | some l, some g =>
    if l.hitch && !x.rerun then s.haltOr { launch := x.launch, code := 0x53, stage := x.stage, pipe := 0xFF, team := x.lin }
    else
      let s := s.onPart p (fun y => { y with saved := y.saved.filter (fun w => w.frame != v.frame) })
      if x.rerun then
        (if g.discards.get 0 x.lin ≥ g.retry then s.haltOr { launch := x.launch, code := 0x52, stage := x.stage, pipe := 0xFF, team := x.lin }
         else (s.onTiles x.launch (x.stage, x.lin) State.discardTile).returnIndex x)
      else s.onLaunch x.launch (fun l => { l with stages := l.stages.modify x.stage (fun g => { g with
        areasUsed := match x.area with
          | some a => g.areasUsed.filter (· != a)
          | none => g.areasUsed }) })
  | _, _ => s

/-- The runs of the indices from lo, n of them, for which f holds. -/
def runsOf (f : Nat → Bool) (d : Nat) : Nat → Nat → List Range
  | _, 0 => []
  | lo, n + 1 =>
    let rest := runsOf f d (lo + 1) n
    if !f lo then rest
    else
      match rest with
      | r :: rs => if r.lo == lo + 1 then { r with lo := lo } :: rs else { lo := lo, hi := lo, deck := d } :: rest
      | [] => [{ lo := lo, hi := lo, deck := d }]

/-- A stage after the loss of a deck: its ranges there that have not retired come back to the master. -/
def Stage.loseDeck (g : Stage) (d : Nat) : Stage :=
  let mine := g.shadow.filter (fun r => r.deck == d)
  let back (n : Nat) : Bool := !g.retired.contains n && !g.ended.contains n && g.returned.all (fun r => n < r.lo || r.hi < n)
  { g with
    returned := g.returned ++ mine.flatMap (fun r => runsOf back d r.lo r.size),
    pools := g.pools.filter (fun r => r.deck != d),
    shadow := g.shadow.filter (fun r => r.deck != d) }

/-- A lend after the loss of a deck. A transfer that the deck had sent has reached the master before. -/
def Lend.loseDeck (e : Lend) (d : Nat) : Lend :=
  let e := if e.victim == d then { e with lent := false, mAck := false } else e
  if e.thief == d then { e with landed := none, mLanding := false, mConfirm := false, mRefuse := false } else e

/-- The master records a transfer (R302). -/
def Launch.transfer (x : Launch) (e : Lend) : Launch :=
  { x with
    stages := x.stages.modify e.stage (fun g => g.holdBy e.lo e.hi e.thief),
    lends := x.lends.map (fun f => if f.victim == e.victim && f.seq == e.seq then { f with mTransfer := false, mConfirm := true, named := true } else f) }

/-- A launch after the loss of a deck. -/
def Launch.loseDeck (x : Launch) (d : Nat) : Launch :=
  let x := (x.lends.filter (fun e => e.mTransfer && e.victim == d)).foldl Launch.transfer x
  { x with
    stages := x.stages.map (fun g => g.loseDeck d),
    lends := x.lends.map (fun e => e.loseDeck d),
    move := match x.move with
      | some (c, a, b) => if deckOfCore c == d then none else some (c, a, b)
      | none => none }

/-- Drops the records that name the cores of a deck, of variables and of tiles, and fails the acquires that wait on them (R97). -/
def State.loseRecords (s : State) (d : Nat) : State :=
  let gone (r : Rec) : Bool := deckOfCore r.core == d
  let waiting (lane : Bool) : List Nat := s.groups.keys.filter (fun g => match s.acquiring g lane with
    | some r => gone r
    | none => false)
  let s := (waiting true).foldl (fun s g => s.failAcquire g true) ((waiting false).foldl (fun s g => s.failAcquire g false) s)
  { s with
    recs := s.recs.dropIf (fun _ r => gone r),
    decks := s.decks.map (fun e => (e.1, { e.2 with recs := e.2.recs.dropIf (fun _ r => gone r) })),
    pipes := s.pipes.map (fun e => (e.1, { e.2 with tiles := e.2.tiles.map (fun t => { t with rcd := match t.rcd with
      | some r => if gone r then none else some r
      | none => none }) })) }

/-- The cores of a deck are lost with what they held: their commands are abandoned everywhere. -/
def State.loseCores (s : State) (d : Nat) : State :=
  (List.range 48).foldl (fun s i =>
    let c := 48 * d + i
    let s := (s.core c).cmds.foldl (fun s e => s.clearLocks (2 * e.1 + 1)) s
    s.setCore c Core.empty) s

/-- Without a mirror what was homed at the deck is lost: its lines, those of host memory among them, and those of a buddy that was lost
before it, are poisoned, its records and what its slices held dropped, and the tiles in slots there are bad. -/
def State.loseHomes (s : State) (p d : Nat) : State :=
  let gone (line : Nat) : Bool := s.linePart line == some p && s.lineSlice p (line * 128) / 96 == d
  let recs := s.recs.dropIf (fun k _ => s.keyPart k == p && s.lineSlice p (keyPa k) / 96 == d)
  let pipes := s.pipes.map (fun e => (e.1, { e.2 with tiles := e.2.tiles.map (fun t =>
    if !t.spill && e.2.homes.getD (t.slot % e.2.homes.length) 0 / 96 == d then { t with bad := List.range ((e.2.rows * e.2.rowBytes + 31) / 32) } else t) }))
  ({ s with recs := recs, pipes := pipes, hostL2 := s.hostL2.dropIf (fun a _ => gone (a / 128)), l2 := s.l2.dropIf (fun k _ => gone k) }).onPart p (fun x => { x with poisoned := (if (s.deck (d ^^^ 1)).live then [d] else [d, d ^^^ 1]) ++ x.poisoned })

/-- The record of a fence: while a format changes the partition it is kept (17 R364), otherwise the fence waits for it. -/
def State.fenceRec (s : State) (p w : Nat) : Option State := if s.formatting p then some (s.tryPost p w) else s.postRec p w

/-- A deck goes down: what is homed there is the buddy's own, when it is live and mirrors, and is poisoned otherwise (log 57); no copy of
either deck is left; the fence is reported (17 R375). -/
def State.downDeck (s : State) (p d : Nat) : Option State :=
  let mirror := (s.part p).intcfg.getLsbD 0 && (s.deck (d ^^^ 1)).live
  let s := { s with mirror := s.mirror.filter (fun k => !(s.linePart k == some p && [d, d ^^^ 1].contains (s.lineSlice p (k * 128) / 96))) }
  let s := (if mirror then s else s.loseHomes p d).loseRecords d
  let s := s.onDeck d (fun x => { x with live := false, sendQ := [], own := [] })
  (s.fenceRec p (eventRec s p 0 (48 * d) 0 0x75)).bind (fun s => if mirror then s.fenceRec p (eventRec s p 0 (48 * d) 0 0x74) else some s)

/-- The master handles the teams, placed and saved, and the pools of a deck that is lost (R300). -/
def State.loseTeams (s : State) (p d : Nat) : State :=
  let teams := (s.teams.filter (fun e => deckOfCore e.2.core == d)).map Prod.fst
  let s := teams.foldl State.loseTeam s
  let saved := (s.part p).saved.filter (fun v => match s.stage v.team.launch v.team.stage with
    | some g => g.holder v.team.lin == some d
    | none => false)
  let s := saved.foldl (fun s v => s.loseSaved p v) s
  (s.launches.filter (fun e => e.2.part == p && !s.isDoomed e.1)).foldl (fun s e => s.onLaunch e.1 (fun x => x.loseDeck d)) s

/-- The live decks of a partition, rising: the first is its master, the second its deputy (R298). -/
def State.upDecks (s : State) (p : Nat) : List Nat := (s.decksOf p).filter (fun d => (s.deck d).live)

/-- FENCE_DECK (17 R375): decks of a partition that fail together are fenced off, their records are posted, and the master handles their
teams; a partition that loses its last live deck, or its master and its deputy together, halts its launches with MASTERLOST (R298). It
waits while a record of its own cannot be posted; each launch that it halts waits for that launch's record (15 R307). -/
def execFenceDeck (decks : List Nat) (s : State) : Host.Outcome State Fault Refusal :=
  runUp s (
    let p := s.codeOfDeck (decks.headD 8)
    let up := s.upDecks p
    let ds := up.filter (fun d => decks.contains d)
    if ds.isEmpty then none
    else
      (State.each (fun s d => s.downDeck p d) ds s).map (fun s =>
        let s := if (up.take 2).all (fun d => ds.contains d) then
            ((s.launches.filter (fun e => e.2.part == p)).map Prod.fst).foldl (fun s l =>
              s.haltOr { launch := l, code := 0x54, stage := 0xFF, pipe := 0xFF, team := 0xFFFFFFFF }) s
          else ds.foldl (fun s d => s.loseTeams p d) s
        ds.foldl State.loseCores s))

end Sys2Proof.Machine
end

