-- ==== Sys2Proof/Machine/EvLend.lean ====
section
/-! DEFINITION. Work donation: steals and the messages of a lend (14 R301, R302). -/

namespace Sys2Proof.Machine

open Sys2Proof

/-- Something of the lend is still to happen. -/
def Lend.pending (e : Lend) : Bool := e.lent || e.landed.isSome || e.mLanding || e.mAck || e.mTransfer || e.mConfirm || e.mRefuse

/-- The lend of a victim's number, if it is known. -/
def State.lend (s : State) (l victim seq : Nat) : Option Lend :=
  (s.launch l).bind (fun x => x.lends.find? (fun e => e.victim == victim && e.seq == seq))

/-- Changes a lend, and forgets it once nothing of it is to happen. -/
def State.onLend (s : State) (l : Nat) (e : Lend) (f : Lend → Lend) : State :=
  s.onLaunch l (fun x => { x with
    lends := (x.lends.map (fun y => if y.victim == e.victim && y.seq == e.seq then f y else y)).filter Lend.pending })

/-- Puts a range of a stage into a deck's pool. -/
def State.addPool (s : State) (l k lo hi d : Nat) : State :=
  s.onLaunch l (fun x => { x with stages := x.stages.modify k (fun g => { g with pools := g.pools ++ [{ lo := lo, hi := hi, deck := d }] }) })

/-- Puts a range into a list that rises. -/
def insertRange (r : Range) : List Range → List Range
  | [] => [r]
  | q :: l => if r.lo ≤ q.lo then r :: q :: l else q :: insertRange r l

/-- Joins adjacent ranges of a rising list. -/
def joinRanges : List Range → List Range
  | [] => []
  | r :: l =>
    match joinRanges l with
    | q :: rest => if r.hi + 1 == q.lo then { r with hi := q.hi } :: rest else r :: q :: rest
    | [] => [r]

/-- The runs of unstarted indices of a stage in a deck's pool (R301). -/
def Stage.unstarted (g : Stage) (d : Nat) : List Range := joinRanges ((g.pools.filter (fun r => r.deck == d)).foldr insertRange [])

/-- The largest unstarted run of a launch in a deck's pool, with its stage; of equals the one with the higher indices. A deck of
the other tower gives only teams of a grid with MIGR = 1. -/
def Launch.largest (x : Launch) (d : Nat) (migr : Bool) : Option (Nat × Range) :=
  let l := ((List.range x.stages.length).zip x.stages).flatMap (fun e =>
    if migr && !e.2.grid.migr then [] else (e.2.unstarted d).map (fun r => (e.1, r)))
  l.find? (fun e => l.all (fun f => f.2.size < e.2.size || (f.2.size == e.2.size && f.2.lo ≤ e.2.lo)))

/-- The victims of a thief, each with whether it lies in the other tower, in the order in which they are tried (R301). -/
def State.victims (s : State) (p thief : Nat) : List (Nat × Bool) :=
  let dist (d : Nat) : Nat := max (d % 4) (thief % 4) - min (d % 4) (thief % 4)
  let near (t : Nat) : List Nat := (List.range 4).flatMap (fun n => (List.range 4).filterMap (fun k => if dist k == n then some (4 * t + k) else none))
  let t := towerOfDeck thief
  (((near t).filter (fun d => d != thief && s.codeOfDeck d == p)).map (fun d => (d, false)))
    ++ (((near (1 - t)).filter (fun d => s.codeOfDeck d == p)).map (fun d => (d, true)))

/-- A core of the deck could place a team of the launch. -/
def State.idleFor (s : State) (l : Nat) (x : Launch) (d : Nat) : Bool :=
  (List.range 48).any (fun i => ((List.range x.stages.length).zip x.stages).any (fun e =>
    s.mayPlace x l e.1 (48 * d + i) e.2.grid.mcast && e.2.area.isSome
      && (s.fits (48 * d + i) (List.replicate e.2.grid.groups e.2.grid.vregs) e.2.grid.acc e.2.grid.scratch e.2.grid.binds.length).isSome))

/-- STEAL_REQUEST (R301): once the master has issued every range of the launch, the first victim with unstarted teams ships the upper half of
its largest run. A request that leaves NETBOUND is dropped (17 R358). -/
def execStealRequest (launch thief : Nat) (s : State) : Host.Outcome State Fault Refusal :=
  runUp s (
    match s.launch launch with
    | none => none
    | some x =>
      if !x.active || !x.stages.all (fun g => g.nextRange.isNone) || x.poolSize thief != 0 || 8 ≤ thief || !s.idleFor launch x thief then none
      else
        (s.victims x.part thief).findSome? (fun v => if !s.netOk x.part thief v.1 then some (s.dropPacket x.part) else
          (x.largest v.1 v.2).map (fun e =>
            let r := e.2
            let lo := r.hi + 1 - (r.size + 1) / 2
            let seq := (s.deck v.1).lendSeq
            let n : Lend := { seq := seq.toNat, victim := v.1, thief := thief, stage := e.1, lo := lo, hi := r.hi, shipped := s.us, lent := true,
                              named := false, landed := none, mLanding := true, mAck := false, mTransfer := false, mConfirm := false,
                              mRefuse := false }
            (s.onDeck v.1 (fun d => { d with lendSeq := seq + 1 })).onLaunch launch (fun y => { y with
              stages := y.stages.modify e.1 (fun g => { g with pools := cutRange lo r.hi g.pools }),
              lends := y.lends ++ [n] }))))

/-- An event of a lend, by its victim and its number. -/
def lendEvent (launch victim seq : Nat) (s : State) (f : Lend → Option State) : Host.Outcome State Fault Refusal :=
  runUp s ((s.lend launch victim seq).bind f)

/-- The partition of a launch. -/
def State.launchPart (s : State) (l : Nat) : Nat := ((s.launch l).map (fun x => x.part)).getD 0

/-- A message of a lend that is under way arrives, from one deck at another; one that leaves NETBOUND is dropped, and counted (17 R358). -/
def lendMsg (launch victim seq : Nat) (s : State) (under : Lend → Bool) (from_ to_ : Lend → Nat) (lost : Lend → Lend) (f : Lend → State) :
    Host.Outcome State Fault Refusal :=
  lendEvent launch victim seq s (fun e =>
    if !under e then none
    else
      let p := s.launchPart launch
      some (if s.netOk p (from_ e) (to_ e) then f e else (s.dropPacket p).onLend launch e lost))

/-- The deck can receive: it is not fenced and not gated. -/
def Deck.receives (d : Deck) : Bool := d.live && d.awake

/-- LANDING (R302): the thief acknowledges, and starts nothing. -/
def execLanding (launch victim seq : Nat) (s : State) : Host.Outcome State Fault Refusal :=
  lendMsg launch victim seq s Lend.mLanding Lend.victim Lend.thief (fun y => { y with mLanding := false }) (fun e =>
    s.onLend launch e (fun y =>
      if (s.deck e.thief).receives then { y with mLanding := false, landed := some s.us, mAck := true } else { y with mLanding := false }))

/-- LEND_ACK (R302): a victim that still lends sends the master a transfer, any other refuses. -/
def execLendAck (launch victim seq : Nat) (s : State) : Host.Outcome State Fault Refusal :=
  lendMsg launch victim seq s Lend.mAck Lend.thief Lend.victim (fun y => { y with mAck := false }) (fun e =>
    s.onLend launch e (fun y =>
      if y.lent then { y with mAck := false, lent := false, mTransfer := true } else { y with mAck := false, mRefuse := true }))

/-- TRANSFER (R302): the shadow names the thief, which is sent a confirmation; what a fenced thief holds comes back (R300). -/
def execTransfer (launch victim seq : Nat) (s : State) : Host.Outcome State Fault Refusal :=
  lendMsg launch victim seq s Lend.mTransfer Lend.victim (fun _ => s.masterDeck (s.launchPart launch)) (fun y => { y with mTransfer := false }) (fun e =>
    let s := s.onLaunch launch (fun x => x.transfer e)
    if (s.deck e.thief).live then s else s.onLaunch launch (fun x => x.loseDeck e.thief))

/-- The range of a lend that its thief lost comes back to the master (log 30). -/
def State.strayLend (s : State) (l : Nat) (e : Lend) : State :=
  s.onLaunch l (fun x => { x with stages := x.stages.modify e.stage (fun g =>
    if g.holder e.lo == some e.thief then
      { g with returned := g.returned ++ [{ lo := e.lo, hi := e.hi, deck := e.thief }], shadow := cutRange e.lo e.hi g.shadow }
    else g) })

/-- CONFIRMATION (R302): the teams join the thief's pool. -/
def execConfirmation (launch victim seq : Nat) (s : State) : Host.Outcome State Fault Refusal :=
  lendMsg launch victim seq s Lend.mConfirm (fun _ => s.masterDeck (s.launchPart launch)) Lend.thief (fun y => { y with mConfirm := false }) (fun e =>
    let s := if e.landed.isSome then s.addPool launch e.stage e.lo e.hi e.thief else s.strayLend launch e
    s.onLend launch e (fun y => { y with mConfirm := false, landed := none }))

/-- LEND_REFUSAL (R302): the landing is discarded. -/
def execLendRefusal (launch victim seq : Nat) (s : State) : Host.Outcome State Fault Refusal :=
  lendMsg launch victim seq s Lend.mRefuse Lend.victim Lend.thief (fun y => { y with mRefuse := false }) (fun e =>
    s.onLend launch e (fun y => { y with mRefuse := false, landed := none }))

/-- LEND_RECLAIM (R302): 2 microseconds after the shipping a victim that still lends has its range back. -/
def execLendReclaim (launch victim seq : Nat) (s : State) : Host.Outcome State Fault Refusal :=
  lendEvent launch victim seq s (fun e =>
    if e.lent && e.shipped + 2 ≤ s.us then some ((s.addPool launch e.stage e.lo e.hi e.victim).onLend launch e (fun y => { y with lent := false }))
    else none)

/-- LANDED_TIMEOUT (R302): a thief with no answer for 4 microseconds asks the master, which confirms if its shadow names the thief
for that range and number. -/
def execLandedTimeout (launch victim seq : Nat) (s : State) : Host.Outcome State Fault Refusal :=
  lendEvent launch victim seq s (fun e =>
    match e.landed with
    | none => none
    | some t =>
      let p := s.launchPart launch
      if s.us < t + 4 then none
      else if !s.netOk p e.thief (s.masterDeck p) then some (s.dropPacket p)
      else
        let yes := e.named && (match s.stage launch e.stage with
          | some g => g.holder e.lo == some e.thief
          | none => false)
        let s := if yes then s.addPool launch e.stage e.lo e.hi e.thief else s
        some (s.onLend launch e (fun y => { y with landed := none, mConfirm := if yes then false else y.mConfirm })))

end Sys2Proof.Machine
end

