-- ==== Sys2Proof/Machine/EvHost.lean ====
section
/-! DEFINITION. The host link: training and reset, requests of the host to device memory, snoops, the flip of a page's bias, and
interrupts (16 R328 to R341). -/

namespace Sys2Proof.Machine

open Sys2Proof

/-! ## The link (R329, R332) -/

/-- CXLSTAT.STATE. -/
def State.linkState (s : State) : Nat := s.pkg.cxlstat.toNat % 4

/-- Writes CXLSTAT; the host is told that its STATE changed (R328). -/
def State.setLink (s : State) (w : Nat) : State := ({ s with pkg := { s.pkg with cxlstat := BitVec.ofNat 64 w } }).fcause 2

/-- PERST_DEASSERT (R329): training starts. -/
def execPerstDeassert (s : State) : Host.Outcome State Fault Refusal :=
  runEvent s (if s.mgmt && s.linkState == 0 then some (s.setLink 1) else none)

/-- LINK_UP (R329): as CXL when the partner accepts it, otherwise as PCIe only. -/
def execLinkUp (cxl flit : Bool) (width speed : Nat) (s : State) : Host.Outcome State Fault Refusal :=
  runEvent s (
    if s.mgmt && s.linkState == 1 && (width == 4 || width == 8 || width == 16) && 1 ≤ speed && speed ≤ 6 then
      some (s.setLink (width * 2 ^ 16 + speed * 2 ^ 12 + b2n cxl * (2 ^ 7 + 2 ^ 6) + 2 ^ 5 + b2n flit * 2 ^ 4 + 2 + b2n cxl))
    else none)

/-- The streams of a core: command and next address on the host side of each. -/
def State.streamsOf (s : State) (c : Nat) : List (Nat × Cmd × Nat) :=
  (s.core c).cmds.filterMap (fun e =>
    let at_ (p : Place) : Nat := match p with
      | .glob r off => (r.address off).toNat + e.2.pos
      | .scr _ _ _ _ _ => 0
      | .slot _ _ _ => 0
    match e.2.kind with
    | .hostOut => some (e.1, e.2, at_ e.2.dst)
    | .hostIn => some (e.1, e.2, at_ e.2.src)
    | .copy | .mcastDeck | .mcastTower | .hist => none)

/-- The host's requests, its lines, and the device's copies of host memory are lost, and the running streams end (R332). -/
def State.hostDown (s : State) : State :=
  let s := { s with hostL2 := [], l2 := s.l2.dropIf (fun l _ => isHost (l * 128)), snoop := [], pkg := { s.pkg with heldHost := [], biReqs := [] } }
  s.cores.keys.foldl (fun s c => (s.streamsOf c).foldl (fun s e =>
    s.streamDown c e.1 e.2.1 e.2.2) s) s

/-- Posts a record to every live partition (17 R372). -/
def State.postAll (s : State) (core trap code : Nat) : State :=
  (List.range 7).foldl (fun s p => if s.liveCode p then s.tryPost p (eventRec s p 0 core trap code) else s) s

/-! ## Requests of the host (R334, R335, R339, 17 R364) -/

/-- A host request to the address is held: its page is being flipped, or its flip has ended and held commands go first, or its partition is
being formatted (R338, 17 R364). -/
def State.heldBack (s : State) (pa : Nat) : Bool :=
  (List.range 7).any (fun p => (s.part p).inHbm pa && (s.flipping p pa || (s.part p).flipped == some (pa / 4096) || s.formatting p))

/-- The device address to which the HDM decoders map a host address; none where no decoder does (R327). -/
def State.hdmDpa (s : State) (a : Nat) : Option Nat :=
  s.pkg.hdm.findSome? (fun e => if e.2.1 ≤ a && a < e.2.1 + e.2.2.2 then some (e.2.2.1 + (a - e.2.1)) else none)

/-- The host programs an HDM decoder for a live partition: it covers the partition's HBM4E, from a host address that is a multiple of 256 MiB
(log 105); or it takes one back (R327). -/
def State.hdmWrite (s : State) (k : Nat) (d : Option (Nat × Nat)) : State :=
  if 4 ≤ k then s
  else
    match d with
    | none => { s with pkg := { s.pkg with hdm := s.pkg.hdm.del k } }
    | some (p, base) =>
      if s.liveCode p && base % 2 ^ 28 == 0 then
        { s with pkg := { s.pkg with hdm := s.pkg.hdm.put k (base, (s.part p).hbmBase, 15625000 * (s.part p).nstk * 4096) } }
      else s

/-- The link reports errors in the status of the AER capability, or of the CXL RAS capability; the host clears them (R327). -/
def State.linkError (s : State) (ras : Bool) (w : Word) : State :=
  { s with pkg := if ras then { s.pkg with ras := s.pkg.ras ||| w } else { s.pkg with aer := s.pkg.aer ||| w } }
/-- The host clears bits of the status of the AER capability, or of the CXL RAS capability (R327). -/
def State.linkClear (s : State) (ras : Bool) (w : Word) : State :=
  { s with pkg := if ras then { s.pkg with ras := s.pkg.ras &&& ~~~w } else { s.pkg with aer := s.pkg.aer &&& ~~~w } }

/-- The filter records a line that the host may hold; a full filter of its slice evicts an entry (R335). -/
def State.snoopAdd (s : State) (p line : Nat) : State :=
  if s.snoop.contains line then s
  else
    let sl := s.lineSlice p (128 * line)
    let mine := s.snoop.filter (fun l => s.lineSlice p (128 * l) == sl)
    let s := match (if 8192 ≤ mine.length then mine.getLast? else none) with
      | some old => s.snoopLine old true
      | none => s
    { s with snoop := line :: s.snoop }

/-- The slice settles the release that a line's record names before it answers a read, or before a flip takes the line (R334, R338). -/
def State.settleAt (s : State) (p line : Nat) : State :=
  match s.recs.find line with
  | some r => s.settleFrom p (s.lineSlice p (line * 128) / 96) r
  | none => s

/-- A read of 64 bytes by the host, served: at a device-bias line the release recorded there is settled first (R334). -/
def State.hostRead (s : State) (p pa : Nat) : State :=
  let line := pa / 128
  let a := pa / 64 * 64
  let s := if s.hostBias p pa then s.snoopAdd p line else (s.settleAt p line).l2Touch p line
  { s with pkg := { s.pkg with hostOut := s.pkg.hostOut ++ [(a, s.homeBytes a 64, s.poisonedIn p a 64)] } }

/-- A host request, served at its home slice: a read, or a write of bytes. One to a slice outside the partition's NETBOUND is dropped, and
counted (17 R358). -/
def State.hostServe (s : State) (e : Nat × Option (List Byte)) : State :=
  match s.partAt e.1 with
  | none => s
  | some p =>
    let s := { s with pkg := { s.pkg with biReqs := s.pkg.biReqs.filter (· != e.1 / 128) } }
    if !(s.part p).netbound.getLsbD (s.lineSlice p e.1 / 96) then s.dropPacket p
    else
      match e.2 with
      | none => s.hostRead p e.1
      | some bs => (if s.hostBias p e.1 then s else s.l2Touch p (e.1 / 128)).homeWrite e.1 bs

/-- A host request to a host address: held while its page is being flipped or its partition formatted, otherwise served. -/
def State.hostRequest (s : State) (a : Nat) (bs : Option (List Byte)) : Option State :=
  match (if s.cxlUp then s.hdmDpa a else none) with
  | none => none
  | some pa =>
    if s.heldBack pa then some { s with pkg := { s.pkg with heldHost := s.pkg.heldHost ++ [(pa, bs)] } }
    else (s.partAt pa).map (fun _ => s.hostServe (pa, bs))

/-- HOST_MEM_READ (R334, R335), at a host address that an HDM decoder maps. -/
def execHostMemRead (pa : Nat) (s : State) : Host.Outcome State Fault Refusal := runEvent s (s.hostRequest pa none)

/-- HOST_MEM_WRITE (R334, R335): of bytes of one 64-byte line, at a host address that an HDM decoder maps. It is also how the data that the
host gives back with a line reaches its home (log 31). -/
def execHostMemWrite (pa : Nat) (bytes : List Byte) (s : State) : Host.Outcome State Fault Refusal :=
  runEvent s (if bytes.isEmpty || 64 < pa % 64 + bytes.length then none else s.hostRequest pa (some bytes))

/-- Serves the held requests for which f holds, in arrival order. -/
def State.serveHeld (s : State) (f : Nat → Bool) : State :=
  let l := s.pkg.heldHost.filter (fun e => f e.1)
  l.foldl State.hostServe { s with pkg := { s.pkg with heldHost := s.pkg.heldHost.filter (fun e => !f e.1) } }

/-- BICONFLICT (R336): a request of the host's own for a line that it may hold is in flight. The snoop of a flip to device bias that is under
way meets it at once, and the device answers BIConflictAck; that of a later access or of the filter answers so when it is sent
(State.snoopLine). The request itself arrives, as a row of its own, after the snoop's end. -/
def execBiconflict (pa : Nat) (s : State) : Host.Outcome State Fault Refusal :=
  runEvent s (
    let line := pa / 128
    if !s.cxlUp || !s.snoop.contains line then none
    else if (List.range 7).any (fun p => (s.part p).flip == some (pa / 4096, false)) then
      some { s with pkg := { s.pkg with biAcks := s.pkg.biAcks ++ [line] } }
    else if s.pkg.biReqs.contains line then none
    else some { s with pkg := { s.pkg with biReqs := line :: s.pkg.biReqs } })

/-- HOST_SNOOP (R340): the device's L2 gives its copy of a line of host memory to the host. -/
def execHostSnoop (pa : Nat) (_inv : Bool) (s : State) : Host.Outcome State Fault Refusal :=
  runEvent s (if s.cxlUp && isHost pa then some (s.hostPush (pa / 128)) else none)

/-! ## The flip of a page's bias (R337 to R339) -/

/-- The bias table's byte and bit of a page. -/
def Part.biasAt (x : Part) (pg : Nat) : Nat × Nat :=
  let i := (pg * 4096 - x.hbmBase) / 4096
  (bits x.biasbase.toNat 12 40 * 4096 + i / 8, i % 8)

/-- The page holds the bias table, or lies in the Stable. -/
def Part.flipForbidden (x : Part) (pg : Nat) : Bool :=
  let a := pg * 4096
  let t := bits x.biasbase.toNat 12 40 * 4096
  let st := bits x.stable.toNat 21 31 * 2 ^ 21
  (t < a + 4096 && a < t + (15625000 * x.nstk + 7) / 8) || (st ≤ a && a < st + bits x.stable.toNat 0 13 * 2 ^ 21)

/-- Ends a flip with a state and a reason; the host is told. -/
def State.flipDone (s : State) (p st reason : Nat) : State :=
  (s.onPart p (fun x => { x with flip := none, flipState := st, flipReason := reason })).cause p 2

/-- FLIP (R337, R338): a write of FLIPREQ with GO starts a flip, or is refused. -/
def execFlip (part : Nat) (v : GWord) (s : State) : Host.Outcome State Fault Refusal :=
  runEvent s (
    let x := s.part part
    let pg := bits v.toNat 12 40
    let dir := bit v.toNat 1
    if !s.answers part || !bit v.toNat 0 || x.flipState == 1 then none
    else
      let s := s.onPart part (fun y => { y with flipreq := BitVec.ofNat 64 (pg * 2 ^ 12 + b2n dir * 2) })
      if !x.inHbm (pg * 4096) then some (s.flipDone part 3 1)
      else if !x.biasbase.getLsbD 0 then some (s.flipDone part 3 2)
      else if x.flipForbidden pg then some (s.flipDone part 3 3)
      else if s.hostBias part (pg * 4096) == dir then some (s.flipDone part 2 0)
      else some (s.onPart part (fun y => { y with flip := some (pg, dir), flipState := 1, flipReason := 0 })))

/-- A range that an engine has registered overlaps the page: by the physical lines of its command or operation, or by what the addresses of
its range-lock entry map (R338, log 80). -/
def State.pageLocked (s : State) (p pg : Nat) : Bool :=
  (s.coresOf p).any (fun c =>
    let k := s.core c
    k.cmds.any (fun e => e.2.tr.any (fun t => t.2 * 128 / 4096 == pg)) || k.matq.any (fun m => m.tr.any (fun t => t.2 * 128 / 4096 == pg))
      || k.locks.any (fun e => e.2.glob && e.2.owner < 2 ^ 32 && rangeMaps s p e.2.owner (e.2.lo, e.2.hi) (pg * 4096) 4096))

/-- Every core writes back and gives up its lines of a page, in its L1 and its stack caches. -/
def State.flushPage (s : State) (p pg : Nat) : State :=
  (s.coresOf p).foldl (fun s c =>
    let s := s.flushIf c (fun l _ => l * 128 / 4096 == pg)
    let ks := (s.core c).stackc.keys.filter (fun k => k % 2 ^ 46 * 128 / 4096 == pg)
    ks.foldl (fun s k => (s.stackWb c k).stackDel c k) s) s

/-- An engine command of the partition still waits, with BATCH, since a page was being flipped (R339). -/
def State.cmdsHeld (s : State) (p : Nat) : Bool :=
  s.groups.any (fun e => e.1 != farrierId && e.2.cwait == .flip .batch && s.codeOfCore (coreOf e.1) == p)

/-- The end of a flip: once the commands that it held have issued, the held host requests are served, and the flip is done (R338). -/
def State.flipEnd (s : State) (p pg : Nat) : Option State :=
  if s.cmdsHeld p then none
  else some (((s.onPart p (fun x => { x with flipped := none })).serveHeld (fun pa => pa / 4096 == pg)).flipDone p 2 0)

/-- FLIP_COMPLETE (R338): the write-backs or the snoops of a flip are done, the bias bit changes, the held commands go on and then the held
requests, and the flip is done. With commands that are held the row happens twice, before them and after them. -/
def execFlipComplete (part : Nat) (s : State) : Host.Outcome State Fault Refusal :=
  runUp s (
    match (s.part part).flip, (s.part part).flipped with
    | none, some pg => s.flipEnd part pg
    | none, none => none
    | some (pg, dir), _ =>
      if dir && s.pageLocked part pg then none
      else
        let lines := (List.range 32).map (fun k => 32 * pg + k)
        let s := if dir then
            let s := lines.foldl (fun s l => s.settleAt part l) s
            let s := s.flushPage part pg
            let s := lines.foldl (fun s l => s.l2Out l) s
            { s with recs := s.recs.dropIf (fun l _ => l / 32 == pg) }
          else lines.foldl (fun s l => s.snoopLine l true) s
        let (a, b) := (s.part part).biasAt pg
        let old := (s.homeByte a).toNat
        let new := old - b2n (bit old b) * 2 ^ b + b2n dir * 2 ^ b
        let s := (s.physSet part a 1 new).onPart part (fun x => { x with flip := none, flipped := some pg })
        some ((s.flipEnd part pg).getD s))

/-- HOST_LINK_RESET (R332): hot reset, PERST#, link down or viral. A flip to device bias that is in progress no longer waits for
the host, and record 0x76 is posted. -/
def execHostLinkReset (s : State) : Host.Outcome State Fault Refusal :=
  runEvent s (if s.linkState == 0 then none else some ((s.hostDown.setLink 0).postAll 0 0 0x76))

/-! ## Interrupts (R328) -/

/-- MSIX_SEND (R328): a pending vector is sent once it is unmasked. -/
def execMsixSend (vec : Nat) (s : State) : Host.Outcome State Fault Refusal :=
  runEvent s (
    if s.pkg.msixPend.contains vec && !s.pkg.msixMasked.contains vec && s.vectorUp vec then
      some { s with pkg := { s.pkg with msixPend := s.pkg.msixPend.filter (· != vec), msixSent := s.pkg.msixSent ++ [vec] } }
    else none)

end Sys2Proof.Machine
end

