-- ==== Sys2Proof/Machine/EvRein.lean ====
section
/-! DEFINITION. The Rein: the grant of a slot, what a deck applies of it, and the refill of a stale replica (04 R105 to R112, 14 R295,
17 R359). -/

namespace Sys2Proof.Machine

open Sys2Proof

/-! ## Which write a slot carries (R110, R359) -/

/-- The decks of the Rein that a slot of a tower belongs to: all four, or those of a quarter when the tower is split. -/
def State.slotDecks (s : State) (tower slot : Nat) : List Nat :=
  if (s.tower tower).reinSplit.getLsbD 0 then
    (if slot < 32 || (64 ≤ slot && slot < 544) then [4 * tower, 4 * tower + 1] else [4 * tower + 2, 4 * tower + 3])
  else (List.range 4).map (fun d => 4 * tower + d)

/-- The stage of a launch that has reserved a slot of a Rein, from the moment the launch is taken (14 R295). -/
def State.reservedBy (s : State) (decks : List Nat) (slot : Nat) : Option (Nat × Nat) :=
  s.launches.findSome? (fun e =>
    if decks.any (fun d => s.codeOfDeck d == e.2.part) then
      ((List.range e.2.stages.length).find? (fun k => match e.2.stages[k]? with
        | some g => g.rslot ≤ slot && slot < g.rslot + g.rslotN
        | none => false)).map (fun k => (e.1, k))
    else none)

/-- The write goes in slots that its stage has reserved. -/
def State.isReserved (s : State) (w : RWrite) : Bool :=
  match s.stage w.launch w.stage with
  | some g => g.rslotN != 0
  | none => false

/-- The oldest queued write of a deck for which f holds; only an awake deck sends (R112). -/
def State.queued (s : State) (d : Nat) (f : RWrite → Bool) : Option RWrite :=
  if (s.deck d).awake && (s.deck d).live then (s.deck d).sendQ.find? f else none

/-- The deck last granted a pool slot in the Rein of a slot. -/
def Tower.lastGrant (t : Tower) (upper : Bool) : Nat := if upper then t.grant1 else t.grant0

/-- The write that a slot carries and its deck: of the stage that reserved it (from any deck that holds one, log 24), otherwise
of the pool, in round-robin order from the deck last granted. -/
def State.slotWrite (s : State) (tower slot : Nat) : Option (Nat × RWrite) :=
  let decks := s.slotDecks tower slot
  if slot < 64 then none
  else
    match s.reservedBy decks slot with
    | some (l, k) =>
      let cand := decks.filterMap (fun d => (s.queued d (fun w => w.launch == l && w.stage == k)).map (fun w => (d, w)))
      if cand.isEmpty then none else cand[Config.freeNat s.freeCtr % cand.length]?
    | none =>
      let upper := decks.length == 2 && decks.head? == some (4 * tower + 2)
      let last := (s.tower tower).lastGrant upper
      let order := decks.filter (fun d => last < d % 4) ++ decks.filter (fun d => d % 4 ≤ last)
      order.findSome? (fun d => (s.queued d (fun w => !s.isReserved w)).map (fun w => (d, w)))

/-- Takes a write out of a deck's queue, and notes the grant of a pool slot. -/
def State.takeWrite (s : State) (tower d : Nat) (w : RWrite) : State :=
  let s := if s.isReserved w then s.tick
    else
      s.onTower tower (fun t =>
        if t.reinSplit.getLsbD 0 && 2 ≤ d % 4 then { t with grant1 := d % 4 } else { t with grant0 := d % 4 })
  s.onDeck d (fun x => { x with sendQ := x.sendQ.erase w, own := x.own ++ [w] })

/-! ## What a deck receives (R106) -/

/-- What a slot with no write carries: nothing, or in slots 0 to 63 discovery and control, of which no rule gives the words
(log 83). -/
def emptySlot (q : Nat) : RWrite :=
  { gid := 0, lane := false, core := 0, line := 0, kind := if q % 1024 < 64 then 5 else 0, aop := 0, mask := 0, mark := 0,
    data := (List.range 32).map (fun k => Config.freeWord (2 ^ 64 + q) k), launch := 0, stage := 0, cmd := none, dest := .none, acq := false,
    synced := false, bytes := 0, flags := 0 }

/-- The payload and the first 14 header bytes of a slot. -/
def RWrite.slotBytes (w : RWrite) : List Byte :=
  (List.range 32).flatMap (fun k => toBytes 4 (w.data.getD k 0).toNat)
    ++ toBytes 14 (w.kind * 2 ^ 16 + w.aop * 2 ^ 20 + w.line * 2 ^ 28 + w.core * 2 ^ 39 + w.mark.toNat * 2 ^ 48 + w.mask.toNat * 2 ^ 80)

/-- CHECK of a slot. -/
def slotCheck (l : List Byte) : Nat := crc16 0x1021 0xFFFF l

/-- The slot as a deck receives it with some bits of its 144 bytes turned over; none where its CHECK does not match or its KIND is
reserved (R107). -/
def RWrite.received (w : RWrite) (flips : List Nat) : Option RWrite :=
  let l := flipBits (w.slotBytes ++ toBytes 2 (slotCheck w.slotBytes)) flips
  let h := ofBytes (l.drop 128)
  if bits h 112 16 != slotCheck (l.take 142) || 6 ≤ bits h 16 4 then none
  else some { w with kind := bits h 16 4, aop := bits h 20 8, line := bits h 28 11, core := bits h 39 9, mark := BitVec.ofNat 32 (bits h 48 32),
                     mask := BitVec.ofNat 32 (bits h 80 32),
                     data := (List.range 32).map (fun k => BitVec.ofNat 32 (ofBytes ((l.drop (4 * k)).take 4))) }

/-! ## Applying a slot (R107, R109) -/

/-- The stream of an atomic goes on with the old value, once its acquire is made (R109); that of a group which was stopped meanwhile then
stands stalled (15 R307). -/
def State.endAtomic (s : State) (w : RWrite) (old : Word) (rcd : Option Rec) : State :=
  let own := match rcd with
    | some r => r.core == w.core
    | none => false
  let acquire (s : State) : State :=
    let s := match rcd with
      | some r => if r.core != w.core then s.settle r.core r.mark else s
      | none => s
    if own then s else s.invShared w.core
  if !s.occupied w.gid then s
  else
    match w.dest with
    | .none => s
    | .g r =>
      if (s.grp w.gid).cwait != .rein then s
      else
        let s := if w.acq then acquire s else s
        let v : GWord := old.zeroExtend 64
        if s.stackBad w.gid (BitVec.ofNat 6 r) v then
          (s.onGrp w.gid (fun x => { x with cwait := .none })).takeTrap w.gid false { code := cSTACKLIMIT, info := 0, lane := none, va := 0 }
        else ((s.putG w.gid (BitVec.ofNat 6 r) v).adv w.gid 8).park w.gid
    | .v r lane =>
      match (s.grp w.gid).lwait with
      | .rein left vals i =>
        let s := if w.acq then acquire s else s
        let vals := vals ++ [(r, lane, old)]
        if 1 < left then s.onGrp w.gid (fun x => { x with lwait := .rein (left - 1) vals i })
        else
          let u := laneUse i
          let hz := nextHazards s w.gid u
          let s := vals.foldl (fun s e => s.wv w.gid e.1 e.2.1 e.2.2) s
          ((s.ladv w.gid).onGrp w.gid (fun y => ringJoin { y with hazards := hz } u.cls)).park w.gid
      | .none | .stall _ | .presettle _ _ | .flip => s

/-- The write of a copy is applied at its own deck: its bytes are posted (03 R70). -/
def State.endCopyWrite (s : State) (w : RWrite) : State :=
  match w.cmd with
  | none => s
  | some id =>
    match (s.core w.core).cmds.find id with
    | some x => if x.kind == .copy then s.postPiece w.core id x [] w.bytes w.flags else s
    | none => s

/-- A write of deck d is through: its copy, or its stream, goes on. -/
def State.endOwn (s : State) (d : Nat) (old : Word) (rcd : Option Rec) : State :=
  match (s.deck d).own with
  | [] => s
  | w :: l => ((s.onDeck d (fun x => { x with own := l })).endCopyWrite w).endAtomic w old rcd

/-- The sectors of a window line whose words a mask covers whole. -/
def coveredSectors (line : Nat) (mask : Word) : List Nat :=
  (indices 4 (fun k => (mask >>> (8 * k)).toNat % 256 == 255)).map (fun k => 4 * line + k)

/-- A deck applies a slot's write (R107). `mine` says that the slot carries a write of its own. -/
def State.applyWrite (s : State) (d : Nat) (mine : Bool) (w : RWrite) : State :=
  let ks := indices 32 (fun k => w.mask.getLsbD k)
  let before := s.deck d
  let old := match ks with
    | k :: _ => before.rep.get 0 (32 * w.line + k)
    | [] => 0
  let rcd := before.recs.find w.line
  let s := s.onDeck d (fun x => { x with
    rep := ks.foldl (fun t k =>
      let a := 32 * w.line + k
      let v := w.data.getD k 0
      let n := if w.kind ≤ 2 then v else BitVec.ofNat 32 (atomNew (aopOf w.aop) 4 (t.get 0 a).toNat v.toNat 0)
      t.set 0 a n) x.rep,
    bad := if w.kind ≤ 2 then x.bad.filter (fun q => !(coveredSectors w.line w.mask).contains q) else x.bad,
    recs := if w.kind == 2 || w.kind == 4 then x.recs.put w.line { core := w.core, mark := w.mark } else x.recs })
  let s := s.bumpDeck d 0 1
  if mine then s.endOwn d old rcd else s

/-- A deck applies the slot of sequence q, which carries a write, or none of KIND 0 or 5. -/
def State.applySlot (s : State) (d q : Nat) (mine : Bool) (w : Option RWrite) : State :=
  let s := match w with
    | some w => if w.kind == 0 || w.kind == 5 then s else s.applyWrite d mine w
    | none => s
  s.onDeck d (fun x => { x with lastQ := q })

/-- The deck applies live slots. -/
def Deck.applies (d : Deck) : Bool := d.awake && d.live && !d.stale

/-! ## Refills (R111) -/

/-- The decks of the Rein of a deck (R112). -/
def State.reinOf (s : State) (d : Nat) : List Nat :=
  if (s.tower (towerOfDeck d)).reinSplit.getLsbD 0 then [d / 2 * 2, d / 2 * 2 + 1] else (List.range 4).map (fun k => d / 4 * 4 + k)

/-- The base die still holds every slot after l. -/
def Tower.holds (t : Tower) (l : Nat) : Bool := t.q ≤ l + 4097

/-- The deck that a refill copies: the lowest-numbered other awake deck whose replica the held slots bring up to now, or else the
lowest-numbered other awake deck (log 49); when no other is awake, the one that went to sleep last. -/
def State.copySource (s : State) (d : Nat) : Option Nat :=
  let ds := s.reinOf d
  let up := ds.filter (fun k => k != d && (s.deck k).awake && (s.deck k).live)
  match up.find? (fun k => (s.deck k).applies || (s.tower (towerOfDeck d)).holds (s.deck k).lastQ) with
  | some k => some k
  | none =>
    match up with
    | k :: _ => some k
    | [] => ds.find? (fun k => ds.all (fun j => (s.deck j).sleptAt ≤ (s.deck k).sleptAt))

/-- The held slots after l that a deck's Rein carried, rising. -/
def State.heldAfter (s : State) (d l : Nat) : List (Nat × RWrite) :=
  let t := s.tower (towerOfDeck d)
  t.held.filter (fun e => l < e.1 && e.1 < t.q && (s.slotDecks (towerOfDeck d) (e.1 % 1024)).contains d)

/-- The writes of deck d that the replica it copied, as it stood after slot l, already has: they are through. What an atomic among them
read is not stated (log 83). -/
def State.endCopied (s : State) (d l : Nat) : State :=
  let n := (s.deck d).own.length - ((s.heldAfter d l).filter (fun e => deckOfCore e.2.core == d)).length
  (List.range n).foldl (fun s _ => s.tick.endOwn d (Config.freeWord (2 ^ 65) s.freeCtr) none) s

/-- The last slot that the replica of deck k stands after when a refill copies it: of an awake deck the one at which the copy starts; of a
sleeping one, which was the last to sleep, every slot since was empty (R112). Of a deck that is stale itself it is the last one that it
applied, and there is none to copy while the base die does not hold what follows. -/
def State.copiedAt (s : State) (k : Nat) : Option Nat :=
  let t := s.tower (towerOfDeck k)
  let z := s.deck k
  if z.applies || (!z.awake && !z.stale && !t.holds z.lastQ) then some (t.q - 1)
  else if t.holds z.lastQ then some z.lastQ
  else none

/-- REFILL (R111): a stale replica is replayed from the base die, or copied. -/
def execRefill (deck : Nat) (s : State) : Host.Outcome State Fault Refusal :=
  runUp s (
    let x := s.deck deck
    let t := s.tower (towerOfDeck deck)
    if !x.stale || !x.awake || !x.live || (x.copying.isSome && t.holds x.lastQ) then none
    else
      let s := s.bumpDeck deck 0x10 1
      if t.holds x.lastQ then some (s.onDeck deck (fun y => { y with copying := some deck }))
      else
        match s.copySource deck with
        | none => none
        | some k =>
          if k == deck then some (s.onDeck deck (fun y => { y with copying := some deck, lastQ := t.q - 1 }))
          else
            (s.copiedAt k).map (fun q =>
              let z := s.deck k
              let s := (s.bumpDeck deck 0x18 1).onDeck deck (fun y => { y with rep := z.rep, bad := z.bad, recs := z.recs, copying := some k, lastQ := q })
              s.endCopied deck q))

/-- REFILL_END (R111): the held slots after the copy are applied, and the replica is current. -/
def execRefillEnd (deck : Nat) (s : State) : Host.Outcome State Fault Refusal :=
  runUp s (
    let x := s.deck deck
    let t := s.tower (towerOfDeck deck)
    if !x.stale || x.copying.isNone || !x.awake || !x.live || !t.holds x.lastQ then none
    else
      let s := (s.heldAfter deck x.lastQ).foldl (fun s e => s.applySlot deck e.1 (deckOfCore e.2.core == deck) (some e.2)) s
      let s := s.onDeck deck (fun y => { y with stale := false, copying := none, lastQ := t.q - 1, waking := false })
      some (if x.waking then ({ s with pkg := { s.pkg with fstate := 2 } }).fcause 0 else s))

end Sys2Proof.Machine
end

