-- ==== Sys2Proof/Machine/EvPart.lean ====
section
/-! DEFINITION. Register writes of the host, the Farrier's commands, formats, package reset, the tamper alarm, sleep and the
power cap (00 R3, 15 R306, R307, 16 R326 to R330, R345, 17 R353 to R365, R373 to R382). -/

namespace Sys2Proof.Machine

open Sys2Proof

/-! ## The fault queue (15 R306, R307) -/

/-- FQCFG_WRITE (R306): by the rules of LQCFG. -/
def execFqcfgWrite (part : Nat) (v : GWord) (s : State) : Host.Outcome State Fault Refusal :=
  runEvent s (
    if !s.answers part then none
    else
      let w := v.toNat
      some ((s.onPart part (fun x =>
        if x.fqcfg.getLsbD 0 then { x with fqcfg := BitVec.ofNat 64 (x.fqcfg.toNat / 2 * 2 + w % 2) }
        else
          let ok := bit w 0 && 6 ≤ bits w 8 4
          let cfg := BitVec.ofNat 64 (bits w 8 44 * 2 ^ 8 + b2n ok)
          if ok then { x with fqcfg := cfg, fqtail := 0, fqhead := 0 } else { x with fqcfg := cfg })).postHeld part |>.retryHalts part))

/-- FQHEAD_WRITE (R307). Records that were kept are posted, then the halts that wait are made, as far as there is room. -/
def execFqheadWrite (part : Nat) (v : GWord) (s : State) : Host.Outcome State Fault Refusal :=
  runEvent s (if s.answers part then some (((s.onPart part (fun x => { x with fqhead := v.setWidth 32 })).postHeld part).retryHalts part) else none)

/-! ## The Farrier's mailbox (17 R360, R361) -/

/-- The command codes. -/
def fcmdKnown (code : Nat) : Bool := [0x01, 0x10, 0x11, 0x12, 0x13, 0x20, 0x21, 0x30].contains code

/-- FSTAT's STATE becomes 2 or 3 (16 R328). -/
def State.fdone (s : State) (st reason : Nat) : State := ({ s with pkg := { s.pkg with fstate := st, freason := reason } }).fcause 0

/-- A write of FCMD starts a command, unless one is busy; under a tamper halt only ATTEST, and PKGRESET at any time (R365, R377). -/
def State.writeFcmd (s : State) (v : GWord) : Option State :=
  let code := bits v.toNat 0 8
  if (s.pkg.fstate == 1 && !(s.pkg.halted && code == 0x13)) || !s.pkg.booted || (s.pkg.halted && code != 0x01 && code != 0x13) then none
  else
    let s := { s with pkg := { s.pkg with fcmd := BitVec.ofNat 64 (bits v.toNat 16 48 * 2 ^ 16 + code), fstate := 1, freason := 0 } }
    some (if fcmdKnown code then s else s.fdone 3 1)

/-- The command that the Farrier has taken and not yet answered: its ARG, for a code. -/
def State.farg (s : State) (code : Nat) : Option Nat :=
  if s.pkg.fstate == 1 && s.pkg.format.isNone && s.pkg.booted && bits s.pkg.fcmd.toNat 0 8 == code then some (bits s.pkg.fcmd.toNat 16 48) else none

/-- A command of the mailbox: refused for the first reason that is not 0, otherwise carried out. -/
def runFcmd (s : State) (code : Nat) (reason : Nat → Nat) (f : Nat → State) : Host.Outcome State Fault Refusal :=
  runEvent s ((s.farg code).map (fun a => if reason a == 0 then f a else s.fdone 3 (reason a)))

/-! ## Register writes (00 R3) -/

/-- A value of a FABGRAPH entry as a write leaves it (16 R345). -/
def fabWrite (w : Nat) : GWord :=
  let bad := fabCvt w == 3 || 2 ≤ fabCmp w || fabRed w == 3 || (fabRed w != 0 && bit w 7)
  BitVec.ofNat 64 (bits w 1 20 * 2 + b2n (bit w 0 && !bad))

/-- A write to a register of a partition's block at an offset: none where the write has a row of its own, or no effect. -/
def Part.write (x : Part) (block off : Nat) (v : GWord) (quiet : Bool) : Part :=
  let w := v.toNat
  match block, off with
  | 0x20000, 0x00 => { x with ctxtab := BitVec.ofNat 64 (bits w 19 33 * 2 ^ 19) }
  | 0x30000, 0x00 => { x with biasbase := BitVec.ofNat 64 (bits w 12 40 * 2 ^ 12 + w % 2) }
  | 0x30000, 0x18 => { x with holdlim := v.setWidth 32 }
  | 0x60000, 0x00 => if quiet then { x with intcfg := v.setWidth 2 } else x
  | 0x60000, 0x08 => { x with intstat := x.intstat &&& ~~~(v.setWidth 4) }
  | _, _ => x

/-- A write to a package register, or to an entry of the MSI-X table (16 R326, R328, 17 R360, R376). -/
def State.writePkg (s : State) (addr : Nat) (v : GWord) : State :=
  let w := v.toNat
  let k := s.pkg
  if addr == 0x40008 then
    (if k.ports.any (fun e => e.2.state == 1 || e.2.state == 2) then s else { s with pkg := { k with ualid := v.setWidth 10 } })
  else if 0x41000 ≤ addr && addr < 0x41400 then { s with pkg := { k with fabgraph := k.fabgraph.set 0 ((addr - 0x41000) / 8) (fabWrite w) } }
  else if addr == 0x50010 then { s with pkg := { k with fbuf := BitVec.ofNat 64 (bits w 12 40 * 2 ^ 12) } }
  else if addr == 0x50028 then { s with pkg := { k with tamperstat := k.tamperstat &&& ~~~(v.setWidth 4) } }
  else if addr == 0x50038 then { s with pkg := { k with fintstat := k.fintstat &&& ~~~(v.setWidth 3) } }
  else if 0xF00000 ≤ addr && addr < 0xF00200 then
    let s := { s with ctr := s.ctr.set 0 addr (if addr % 16 == 8 then v &&& 0x1FFFFFFFF#64 else v) }
    if addr % 16 == 8 then
      let n := (addr - 0xF00000) / 16
      { s with pkg := { k with msixMasked := if bit w 32 then (if k.msixMasked.contains n then k.msixMasked else n :: k.msixMasked)
                               else k.msixMasked.filter (· != n) } }
    else s
  else s

/-- The address is a counter's that takes writes: of a pipe, of a deck or of a core, and of no partition that a format changes
(17 R364, R378, R380). -/
def State.isCounter (s : State) (addr : Nat) : Bool :=
  (0x700000 ≤ addr && addr < 0x703800 && s.answers ((addr - 0x700000) / 0x800))
    || (0x780000 ≤ addr && addr < 0x780800 && (addr - 0x780000) % 0x100 < 0x40 && !s.formatting (s.codeOfDeck ((addr - 0x780000) / 0x100)))
    || (0x800000 ≤ addr && addr < 0x830000 && (addr - 0x800000) % 0x200 < 0xF8 && !s.formatting (s.codeOfCore ((addr - 0x800000) / 0x200)))

/-- REGISTER_WRITE (R3): a 64-bit write to a register that has no row of its own, by its access codes; FCMD starts a command. Under a tamper
halt TAMPERSTAT still answers (17 R377). -/
def execRegisterWrite (addr : Nat) (v : GWord) (s : State) : Host.Outcome State Fault Refusal :=
  runEvent s (
    let block := addr / 0x10000 * 0x10000
    let p := addr % 0x10000 / 0x40
    if addr % 8 != 0 then none
    else if addr == 0x50000 then s.writeFcmd v
    else if !s.mgmt then (if s.pkg.booted && addr == 0x50028 then some (s.writePkg addr v) else none)
    else if (block == 0x20000 || block == 0x30000 || block == 0x60000) && p < 7 then
      (if s.answers p then some (s.onPart p (fun x => x.write block (addr % 0x40) v (s.unquiet p == 0))) else none)
    else if s.isCounter addr then
      some { s with ctr := s.ctr.set 0 addr (if 0x800000 ≤ addr && addr % 0x200 == 0xF0 then v &&& 3 else v) }
    else some (s.writePkg addr v))

/-! ## Register reads (00 R3) -/

/-- A register of a partition's block at an offset (15 R306, 16 R326, R328, R333, R337, 17 R373). -/
def Part.read (x : Part) (block off : Nat) : GWord :=
  match block, off with
  | 0x20000, 0x00 => x.ctxtab
  | 0x20000, 0x08 => x.fqcfg
  | 0x20000, 0x10 => x.fqtail.zeroExtend 64
  | 0x20000, 0x18 => x.fqhead.zeroExtend 64
  | 0x20000, 0x20 => x.fresume
  | 0x20000, 0x28 => BitVec.ofNat 64 (b2n x.preReq + 2 * x.preState)
  | 0x30000, 0x00 => x.biasbase
  | 0x30000, 0x08 => x.flipreq
  | 0x30000, 0x10 => BitVec.ofNat 64 (x.flipState + 2 ^ 8 * x.flipReason)
  | 0x30000, 0x18 => x.holdlim.zeroExtend 64
  | 0x60000, 0x00 => x.intcfg.zeroExtend 64
  | 0x60000, 0x08 => x.intstat.zeroExtend 64
  | _, _ => 0

/-- TAMPERPOL as it is read: before its first write 0, and 11 as 10 in each field (17 R376). -/
def Pkg.readPol (k : Pkg) : Nat :=
  let w := (k.tamperpol.getD 0).toNat
  ((List.range 4).map (fun i => (if bits w (2 * i) 2 == 3 then 2 else bits w (2 * i) 2) * 2 ^ (2 * i))).sum

/-- A package register, a port's, or a word of the MSI-X structures (16 R326, R328 to R330, R345, 17 R360, R376, R382). -/
def State.readPkg (s : State) (addr : Nat) : GWord :=
  let k := s.pkg
  if addr == 0x40000 then k.cxlstat
  else if addr == 0x40008 then k.ualid.zeroExtend 64
  else if 0x40100 ≤ addr && addr < 0x40200 then
    let x := k.ports.get Port.empty ((addr - 0x40100) / 16)
    BitVec.ofNat 64 (if addr % 16 == 0 then b2n x.en else x.state + 2 ^ 30 * x.peer)
  else if 0x41000 ≤ addr && addr < 0x41400 then k.fabgraph.get 0 ((addr - 0x41000) / 8)
  else if addr == 0x50000 then k.fcmd
  else if addr == 0x50008 then BitVec.ofNat 64 (k.fstate + 2 ^ 8 * k.freason)
  else if addr == 0x50010 then k.fbuf
  else if addr == 0x50018 then s.partmap
  else if addr == 0x50020 then BitVec.ofNat 64 k.readPol
  else if addr == 0x50028 then k.tamperstat.zeroExtend 64
  else if addr == 0x50030 then BitVec.ofNat 64 (max 900 k.pwrcap.toNat)
  else if addr == 0x50038 then k.fintstat.zeroExtend 64
  else if addr == 0xF01000 then BitVec.ofNat 64 ((k.msixPend.map (fun v => 2 ^ v)).sum)
  else if 0xF00000 ≤ addr && addr < 0xF00200 && addr % 16 == 8 then
    BitVec.ofNat 64 ((s.ctr.get 0 addr).toNat % 2 ^ 32 + b2n (k.msixMasked.contains ((addr - 0xF00000) / 16)) * 2 ^ 32)
  else s.ctr.get 0 addr

/-- What a host's read of an 8-byte register returns: that of a partition code that is not live is 0; under a tamper halt only FCMD, FSTAT,
PARTMIRROR and TAMPERSTAT answer, and after a boot that failed FSTAT (15 R306, 16 R326, 17 R353, R377). -/
def State.readReg (s : State) (addr : Nat) : GWord :=
  let block := addr / 0x10000 * 0x10000
  let p := addr % 0x10000 / 0x40
  if addr % 8 != 0 then 0
  else if !s.pkg.booted then (if addr == 0x50008 then s.readPkg addr else 0)
  else if s.pkg.halted && !(addr == 0x50000 || addr == 0x50008 || addr == 0x50018 || addr == 0x50028) then 0
  else if block == 0x10000 && addr % 0x10000 < 0x800 then
    let q := s.queues.get LQueue.empty (addr % 0x10000 / 0x20)
    match addr % 0x20 with
    | 0x00 => q.cfg
    | 0x08 => q.tail.zeroExtend 64
    | 0x10 => q.head.zeroExtend 64
    | _ => 0
  else if (block == 0x20000 || block == 0x30000 || block == 0x60000) && p < 7 then
    (if s.liveCode p then (s.part p).read block (addr % 0x40) else 0)
  else if 0x700000 ≤ addr && addr < 0x703800 && !s.liveCode ((addr - 0x700000) / 0x800) then 0
  else s.readPkg addr

/-! ## Measurements and attestation (17 R353, R354) -/

/-- M2 after the values that have extended it. -/
def measure2 (l : List GWord) : List Byte := l.foldl (fun m v => Config.shake256 (m ++ toBytes 8 v.toNat)) (List.replicate 32 0)

/-- The first n bytes of a list, with zeros where it ends. -/
def padTo (n : Nat) (l : List Byte) : List Byte := (l ++ List.replicate n 0).take n

/-- The attestation report's first 160 bytes. -/
def State.report (s : State) (nonce : List Byte) : List Byte :=
  let k := s.pkg
  padTo 32 nonce ++ padTo 8 (k.record.drop 8) ++ padTo 32 (Config.shake256 k.record) ++ padTo 32 (Config.shake256 k.firmware)
    ++ padTo 32 (measure2 k.m2log) ++ toBytes 8 s.partmap.toNat ++ toBytes 8 k.fwVersion ++ toBytes 8 k.tamperstat.toNat

/-- ATTEST (R354). -/
def execAttest (s : State) : Host.Outcome State Fault Refusal :=
  runFcmd s 0x01 (fun a => if a != 0 then 1 else if s.pkg.keyErased then 8 else 0) (fun _ =>
    let b := s.pkg.fbuf.toNat
    let r := s.report (s.homeBytes b 32)
    (s.homeStore (b + 64) (r ++ padTo 1280 (Config.falconSign (Config.shake256 r)))).fdone 2 0)

/-! ## Layouts and formats (17 R355 to R363) -/

/-- The quarters of a partition code. -/
def codeQuarters (p : Nat) : List Nat :=
  match p with
  | 0 => [0, 1, 2, 3]
  | 1 => [0, 1]
  | 2 => [2, 3]
  | n => if n < 7 then [n - 3] else []

/-- A partition after partition reset in a layout that has it (R357, R358). -/
def partReset (p us : Nat) : Part :=
  let qs := codeQuarters p
  let stk := (qs.map (fun q => 7 * 2 ^ (3 * q))).sum
  let ports := (qs.map (fun q => 15 * 2 ^ (16 + 4 * q))).sum
  let decks := (qs.map (fun q => 3 * 2 ^ (2 * q))).sum
  { Part.empty with
    hbmil := hbmilOf (qs.headD 0 * 2 ^ 38 + stk), netbound := BitVec.ofNat 64 (ports + (if p == 0 then 256 else 0) + decks), resetUs := us }

/-- The first reason, of R362, for which some of the partitions are not quiesced. -/
def State.unquietAny (s : State) (ps : List Nat) : Nat :=
  let rs := (ps.map s.unquiet).filter (· != 0)
  (rs.find? (fun r => rs.all (fun q => r ≤ q))).getD 0

/-- Zeroes the window of a tower for the quarters of C: the replicas' lines, and the held slots that wrote them (R363). -/
def State.zeroWindow (s : State) (t : Nat) (qs : List Nat) : State :=
  let split := (s.tower t).reinSplit.getLsbD 0
  let gone (line : Nat) : Bool := !split || qs.contains (2 * t + line / 1024)
  let s := (List.range 4).foldl (fun s d => s.onDeck (4 * t + d) (fun x => { x with
    rep := x.rep.dropIf (fun a _ => gone (a / 32)), bad := x.bad.filter (fun q => !gone (q / 4)), recs := x.recs.dropIf (fun l _ => gone l) })) s
  s.onTower t (fun x => { x with held := x.held.dropIf (fun _ w => gone w.line) })

/-- The counters of the quarters and the partition codes that a format changes read 0 (17 R378). -/
def clearCounters (t : Tab GWord) (qs ps : List Nat) : Tab GWord :=
  t.dropIf (fun a _ =>
    (0x800000 ≤ a && a < 0x830000 && qs.contains ((a - 0x800000) / 0x200 / 96))
      || (0x780000 ≤ a && a < 0x780800 && qs.contains ((a - 0x780000) / 0x100 / 2))
      || (0x700000 ≤ a && a < 0x703800 && ps.contains ((a - 0x700000) / 0x800)))

/-- format(C, new codes) of R363: everything but the end, which FORMAT_COMPLETE is. `qs` are the quarters of C. Every byte of the new
new partitions' HBM4E is zeroed, and what stood in the old ones'; what the decks of C had queued for a window is given up. Of a split tower
the round of a quarter that does not change goes on (R364). -/
def State.formatParts (s : State) (qs : List Nat) (codes : List Nat) : State :=
  let old := (qs.map (fun q => s.pkg.codes.getD q 0)).eraseDups
  let new := (qs.map (fun q => codes.getD q 0)).eraseDups
  let s := qs.foldl (fun s q => (List.range 96).foldl (fun s i => (s.fullSettle (96 * q + i)).setCore (96 * q + i) Core.empty) s) s
  let s := ((s.l2.filter (fun e => old.contains e.2)).map Prod.fst).foldl State.l2Out s
  let s := (qs.flatMap (fun q => [2 * q, 2 * q + 1])).foldl (fun s d => s.onDeck d (fun x => { x with sendQ := [], own := [] })) s
  let stk := new.flatMap (fun p => (partReset p 0).stacks)
  let inOld (pa : Nat) : Bool := old.any (fun p => (s.part p).inHbm pa) || new.any (fun p => (partReset p 0).inHbm pa)
    || (decide (2 ^ 53 ≤ pa) && stk.contains ((pa - 2 ^ 53) / 2 ^ 36))
  let s := { s with
    mem := s.mem.filter (fun e => !inOld e.1), poison := s.poison.filter (fun k => !inOld (32 * k)), mirror := s.mirror.filter (fun l => !inOld (128 * l)), recs := s.recs.dropIf (fun k _ => if 2 ^ 46 ≤ k then old.contains (k / 2 ^ 46 - 1) else inOld (keyPa k)),
    fullWords := s.fullWords.filter (fun w => !inOld (16 * w)), deferred := s.deferred.filter (fun d => !inOld d.pa),
    pinned := s.pinned.dropIf (fun _ x => qs.contains (x.slice / 192)), snoop := s.snoop.filter (fun l => !inOld (128 * l)),
    queues := s.queues.filter (fun e => !old.contains (bits e.2.cfg.toNat 2 3)), ctr := clearCounters s.ctr qs (old ++ new),
    pkg := { s.pkg with codes := codes, format := some (old ++ new) } }
  let s := old.foldl (fun s p => s.setPart p Part.empty) s
  let s := new.foldl (fun s p => s.setPart p (partReset p s.us)) s
  [0, 1].foldl (fun s t =>
    if qs.any (fun q => q / 2 == t) then
      let whole := codes.getD (2 * t) 0 == codes.getD (2 * t + 1) 0
      (s.onTower t (fun x => { x with
        reinSplit := if whole then 0 else 1, grant0 := if whole || qs.contains (2 * t) then 3 else x.grant0,
        grant1 := if whole || qs.contains (2 * t + 1) then 3 else x.grant1 })).zeroWindow t qs
    else s) s

/-- The quarters and the codes before and after a MERGE of a target (R361). -/
def mergeOf (target : Nat) : List Nat × List Nat × List Nat :=
  match target with
  | 0 => ([0, 1, 2, 3], [1, 1, 2, 2], [0, 0, 0, 0])
  | 1 => ([0, 1], [3, 4], [1, 1])
  | _ => ([2, 3], [5, 6], [2, 2])

/-- The codes with those of some quarters replaced. -/
def withCodes (codes : List Nat) (l : List (Nat × Nat)) : List Nat := l.foldl (fun c e => List.set c e.1 e.2) codes

/-- MERGE or SPLIT: from the codes that the layout must have to the others. -/
def State.relayout (s : State) (qs pre post : List Nat) : Nat × State :=
  let ok := qs.map (fun q => s.pkg.codes.getD q 0) == pre
  let why := if ok then s.unquietAny pre.eraseDups else 1
  (why, s.formatParts qs (withCodes s.pkg.codes (qs.zip post)))

/-- MERGE (R361 to R363). -/
def execMerge (s : State) : Host.Outcome State Fault Refusal :=
  runFcmd s 0x10 (fun a => let m := mergeOf a; if 2 < a then 1 else (s.relayout m.1 m.2.1 m.2.2).1)
    (fun a => let m := mergeOf a; (s.relayout m.1 m.2.1 m.2.2).2)

/-- SPLIT (R361 to R363). -/
def execSplit (s : State) : Host.Outcome State Fault Refusal :=
  runFcmd s 0x11 (fun a => let m := mergeOf a; if 2 < a then 1 else (s.relayout m.1 m.2.2 m.2.1).1)
    (fun a => let m := mergeOf a; (s.relayout m.1 m.2.2 m.2.1).2)

/-- RESET (R361 to R363): the partition is formatted in place. -/
def execReset (s : State) : Host.Outcome State Fault Refusal :=
  runFcmd s 0x12 (fun a => if s.liveCode a then s.unquiet a else 1)
    (fun a => s.formatParts (indices 4 (fun q => s.pkg.codes.getD q 0 == a)) s.pkg.codes)

/-- FORMAT_COMPLETE (R363, R364): the held requests are served under the new layout. -/
def execFormatComplete (s : State) : Host.Outcome State Fault Refusal :=
  runEvent s (
    match s.pkg.format with
    | none => none
    | some l =>
      let s := { s with pkg := { s.pkg with format := none } }
      some ((s.fdone 2 0).serveHeld (fun pa => l.any (fun p => (s.part p).inHbm pa))))

/-! ## Boot and package reset (17 R353, R365, R376) -/

/-- The boot's checks: the package record, the firmware's signature, and its version (R352, R353; log 9). -/
def bootOk (k : Pkg) : Bool :=
  Config.falconVerify 0 (Config.shake256 (k.record.take 2048)) (k.record.drop 2048)
    && Config.falconVerify 1 (Config.shake256 k.firmware) Config.flashSignature && k.rollback ≤ k.fwVersion

/-- The quarter codes of the package record's default layout (R352). -/
def Pkg.recordLayout (k : Pkg) : List Nat := (List.range 4).map (fun q => bits (ofBytes ((k.record.drop 24).take 8)) (3 * q) 3)

/-- The package after a package reset and the boot, with a state of FSTAT when it succeeds; the host's own memory, the flash and
the passing of time are not reset (R365). The host is told of FSTAT and of the link (16 R328). -/
def State.pkgReset (s : State) (st : Nat) : State :=
  let k := s.pkg
  let s := s.hostDown
  let ok := bootOk k
  let codes := k.recordLayout
  let t := { State.reset with
    cur := s.cur, curLane := s.curLane, agenda := s.agenda, freeCtr := s.freeCtr, clock := s.clock, us := s.us, hostMem := s.hostMem,
    parts := (List.range 7).foldl (fun t p => if codes.contains p then t.set Part.empty p (partReset p s.us) else t) ([] : Tab Part),
    towers := [0, 1].foldl (fun t k => t.set Tower.empty k { Tower.empty with
      reinSplit := if codes.getD (2 * k) 0 == codes.getD (2 * k + 1) 0 then 0 else 1 }) ([] : Tab Tower),
    pkg := { Pkg.reset with
      codes := codes, record := k.record, firmware := k.firmware, fwVersion := k.fwVersion, rollback := k.rollback,
      keyErased := k.keyErased, lidLatched := k.lidLatched, cxlstat := if ok then 1 else 0, booted := ok, halted := !ok,
      fstate := if ok then st else 3, freason := if ok then 0 else 0x0F, msixSent := k.msixSent, hostOut := k.hostOut, outbox := k.outbox } }
  let t := if t.pkg.fstate == 0 then t else t.fcause 0
  if ok then t.fcause 2 else t

/-- PKGRESET (R361, R362, R365): under a tamper halt at any time. -/
def execPkgreset (s : State) : Host.Outcome State Fault Refusal :=
  runFcmd s 0x13 (fun a => if a != 0xA5A5 then 1 else if s.pkg.halted then 0 else s.unquietAny (indices 7 s.liveCode)) (fun _ => s.pkgReset 2)

/-- An alarm sets its HIT bit; the record is posted to every live partition (R376, R377). -/
def State.alarm (s : State) (hit : BitVec 4) : State :=
  let s := ({ s with pkg := { s.pkg with tamperstat := s.pkg.tamperstat ||| hit } }).fcause 1
  s.postAll 0 s.pkg.tamperstat.toNat 0x77

/-- A tamper halt: every core stops, the links go down, and a format in progress ends with STATE 3 (R364, R377). The causes of what changes
are set (16 R328). -/
def State.tamperHalt (s : State) : State :=
  let s := s.hostDown
  let busy := s.pkg.format.isSome
  let links := s.pkg.cxlstat.toNat % 4 != 0 || s.pkg.ports.any (fun e => e.2.state != 0)
  let t := { s with pkg := { s.pkg with
    halted := true, cxlstat := 0, ports := s.pkg.ports.map (fun e => (e.1, { e.2 with state := 0, held := [] })),
    format := none, fstate := if busy then 3 else s.pkg.fstate, freason := if busy then 1 else s.pkg.freason } }
  let t := if busy then t.fcause 0 else t
  if links then t.fcause 2 else t

/-- POWER_UP (R353): power comes on and the Farrier boots; a latched lid alarm is acted on first, by TAMPERPOL's reset value
(R376). -/
def execPowerUp (s : State) : Host.Outcome State Fault Refusal :=
  runEvent s (
    let lid := s.pkg.lidLatched
    let s := s.pkgReset 0
    let s := { s with pkg := { s.pkg with lidLatched := false } }
    some (if lid then s.alarm 4 else s))

/-- ERASE (R377). -/
def execErase (s : State) : Host.Outcome State Fault Refusal :=
  runFcmd s 0x30 (fun a => if a == 0x5A5A then 0 else 1) (fun _ => ({ s with pkg := { s.pkg with keyErased := true } }).fdone 2 0)

/-- TAMPERPOL_WRITE (R376, R353): the first write after reset sets it and extends M2. The 8 bytes that extend M2 are the value written with
its reserved bits 0, which is the model's choice (log 53). -/
def execTamperpolWrite (v : GWord) (s : State) : Host.Outcome State Fault Refusal :=
  runEvent s (
    if !s.mgmt || s.pkg.tamperpol.isSome then none
    else some { s with pkg := { s.pkg with tamperpol := some (v.setWidth 8), m2log := s.pkg.m2log ++ [v &&& 0xFF] } })

/-- PWRCAP_WRITE (R382, R353). The 8 bytes that extend M2 are the value written with its reserved bits 0, as for TAMPERPOL (log 53). -/
def execPwrcapWrite (v : GWord) (s : State) : Host.Outcome State Fault Refusal :=
  runEvent s (
    if !s.mgmt then none else some { s with pkg := { s.pkg with pwrcap := v.setWidth 12, m2log := s.pkg.m2log ++ [v &&& 0xFFF] } })

/-- An alarm of a sensor, 0 VOLT, 1 CLOCK, 2 LID or 3 REIN: the policy halts the package, or halts it and erases the key store (R376,
R377). -/
def State.sensorAlarm (s : State) (sensor : Nat) : State :=
  let pol := bits ((s.pkg.tamperpol.getD 0).toNat) (2 * sensor) 2
  let s := s.alarm (1#4 <<< sensor)
  let s := if pol == 0 then s else s.tamperHalt
  if 2 ≤ pol then { s with pkg := { s.pkg with keyErased := true } } else s

/-- TAMPER_ALARM (R376, R377): a sensor alarms; that of the Rein may see what the slots do not show. An opened lid is latched while the
Farrier does not run. -/
def execTamperAlarm (sensor : Nat) (s : State) : Host.Outcome State Fault Refusal :=
  runEvent s (
    if 4 ≤ sensor then none
    else if !s.pkg.booted then (if sensor == 2 then some { s with pkg := { s.pkg with lidLatched := true } } else none)
    else some (s.sensorAlarm sensor))

/-! ## Power (17 R381, R382) -/

/-- PWRCAP.WATTS as it is read. -/
def Pkg.watts (k : Pkg) : Nat := max 900 k.pwrcap.toNat

/-- POWER_CONTROL (R382): the clock goes down in steps of 75 MHz, to no less than 1,500, while the power is above the cap, and to
1,500 while a junction is above 105 degrees; otherwise it comes back up in the same steps (log 32). -/
def execPowerControl (watts junction : Nat) (s : State) : Host.Outcome State Fault Refusal :=
  runUp s (
    let f := s.pkg.clockMhz
    let f := if 105 < junction then 1500 else if s.pkg.watts < watts then max 1500 (f - 75) else min 2250 (f + 75)
    some { s with pkg := { s.pkg with clockMhz := f } })

/-- THERMAL_HALT (R382): as a tamper halt, with record 0x77 and no HIT bit set by it. -/
def execThermalHalt (s : State) : Host.Outcome State Fault Refusal := runEvent s (if s.mgmt then some (s.alarm 0).tamperHalt else none)

/-- Reason 7 of R362: the deck holds a team, is fenced, or is the last awake deck of a Rein in use (04 R112). -/
def State.noSleep (s : State) (d : Nat) : Bool :=
  !(s.deck d).live || s.teams.any (fun e => deckOfCore e.2.core == d)
    || (s.unquiet (s.codeOfDeck d) != 0 && (s.reinOf d).all (fun k => k == d || !(s.deck k).awake || !(s.deck k).live))

/-- Gates a deck: its landings are lost (R381, 14 R302). -/
def State.gate (s : State) (d : Nat) : State :=
  let s := s.tick.onDeck d (fun x => { x with awake := false, sleeping := false, sleptAt := s.freeCtr + 1 })
  s.launches.keys.foldl (fun s l => s.onLaunch l (fun x => { x with
    lends := x.lends.map (fun e => if e.thief == d then { e with landed := none } else e) })) s

/-- SLEEP (R381): placement stops, the cores settle and give up their lines; the deck is gated once its send queue is empty. -/
def execSleep (s : State) : Host.Outcome State Fault Refusal :=
  runUp s (match s.farg 0x20 with
    | none => none
    | some d =>
      if 8 ≤ d then some (s.fdone 3 1)
      else if !(s.deck d).awake then some (s.fdone 2 0)
      else if !(s.deck d).sleeping && s.noSleep d then some (s.fdone 3 7)
      else
        let s := if (s.deck d).sleeping then s
          else
            (List.range 48).foldl (fun s i => (s.fullSettle (48 * d + i)).flushIf (48 * d + i) (fun _ _ => true))
              (s.onDeck d (fun x => { x with sleeping := true }))
        some (if (s.deck d).sendQ.isEmpty then (s.gate d).fdone 2 0 else s))

/-- WAKE (R381): the deck is powered and its replica stale; the command completes with the refill (04 R111). -/
def execWake (s : State) : Host.Outcome State Fault Refusal :=
  runUp s (match s.farg 0x21 with
    | none => none
    | some d =>
      if 8 ≤ d then some (s.fdone 3 1)
      else if (s.deck d).awake then (if (s.deck d).waking && (s.deck d).live then none else some (s.fdone 2 0))
      else
        let s := s.onDeck d (fun x => { x with awake := true, stale := true, copying := none, waking := (s.deck d).live })
        some (if (s.deck d).live then s else s.fdone 2 0))

end Sys2Proof.Machine
end

