-- ==== Sys2Proof/Machine/EvLink.lean ====
section
/-! DEFINITION. UALink ports, the messages of pipes that leave the package, and merges (06 R153, 16 R330, R331, R342 to R348). -/

namespace Sys2Proof.Machine

open Sys2Proof

/-! ## Ports (R330, R331) -/

/-- The partition code that owns a port. -/
def State.portPart (s : State) (n : Nat) : Nat := s.codeOfQuarter (n / 4)

/-- PORTCFG_WRITE (R330): setting EN starts training, clearing it takes the port down. -/
def execPortcfgWrite (port : Nat) (v : GWord) (s : State) : Host.Outcome State Fault Refusal :=
  runEvent s (
    let en := v.getLsbD 0
    if 16 ≤ port || !s.answers (s.portPart port) || (s.port port).en == en then none
    else some ((s.onPort port (fun x => { x with en := en, state := if en then 1 else 0 })).fcause 2))

/-- PORT_UP (R330): what waited for the port is sent (R331, log 93). -/
def execPortUp (port peer : Nat) (s : State) : Host.Outcome State Fault Refusal :=
  runUp s (
    if port < 16 && peer < 1024 && (s.port port).state == 1 then
      let l := (s.port port).held
      let s := s.onPort port (fun x => { x with state := 2, peer := peer, held := [] })
      some (({ s with pkg := { s.pkg with outbox := s.pkg.outbox ++ l.map (fun (m : Option Nat × Msg) => (port, m.1.getD peer, m.2)) } }).fcause 2)
    else none)

/-- A pipe is on a port: its own, or every port of the partition when its tiles are gathered at its own (R345, log 33). -/
def State.pipeOn (s : State) (port k : Nat) (x : Pipe) : Bool :=
  x.xlink != 0 && (x.xport == port
    || (x.xlink == 2 && s.portPart x.xport == s.portPart port && s.fabEntry x.xport 0 (k % 64) != 0))

/-- The running hitches of a partition that have a pipe on a port, each with the lowest such pipe. -/
def State.hitchesOn (s : State) (p port : Nat) : List (Nat × Nat) :=
  s.launches.filterMap (fun e =>
    if e.2.part == p && e.2.active then
      ((s.pipes.filter (fun x => x.1 / 64 == e.1 && s.pipeOn port x.1 x.2)).head?).map (fun x => (e.1, x.1 % 64))
    else none)

/-- PORT_FAIL (R330, R331): the port goes to 3, record 0x76 is posted, what waited for the port is lost, and hitches with a pipe on a port
that was up halt, each as soon as its record can be posted (15 R307). -/
def execPortFail (port : Nat) (s : State) : Host.Outcome State Fault Refusal :=
  runUp s (
    let st := (s.port port).state
    let p := s.portPart port
    if 16 ≤ port || (st != 1 && st != 2) then none
    else
      let s := ((s.onPort port (fun x => { x with state := 3, held := [] })).fcause 2).tryPost p (eventRec s p 0 0 0 0x76)
      some (if st == 2 then (s.hitchesOn p port).foldl (fun s e =>
        s.haltOr { launch := e.1, code := 0x55, stage := 0xFF, pipe := e.2, team := 0xFFFFFFFF }) s else s))

/-! ## Receiving (R343, R344) -/

/-- The pipe of a running hitch that a message at a port is for: declared on that port, or gathered from it by an inbound entry of
its own port (R345, log 33). -/
def State.inPipe (s : State) (port : Nat) (m : Msg) (out : Bool) : Option (Nat × Pipe) :=
  s.pipes.find? (fun e =>
    let p := s.portPart port
    e.1 % 64 == m.xpipe && e.2.xlink == (if out then 1 else 2)
      && (match s.launch (e.1 / 64) with
          | some l => l.active && l.part == p
          | none => false)
      && (if out then e.2.xport == port else s.pipeOn port e.1 e.2))

/-- A message of a kind arrives at a port that is up: one for no pipe is dropped and counted in XDROP (R343), and one at a
port outside its partition's NETBOUND at that (17 R358). -/
def linkMsg (s : State) (port : Nat) (m : Msg) (kind : Nat) (out : Bool) (f : Nat → Pipe → Option State) : Host.Outcome State Fault Refusal :=
  runUp s (
    if 16 ≤ port || (s.port port).state != 2 || !m.hok || m.kind != kind then none
    else if !(s.part (s.portPart port)).netbound.getLsbD (16 + port) then some (s.dropPacket (s.portPart port))
    else
      match s.inPipe port m out with
      | none => some (s.bumpPipe (s.portPart port) m.xpipe 24)
      | some (k, x) => f k x)

/-- The graph of a pipe's inbound tiles. -/
def State.inGraph (s : State) (k : Nat) (x : Pipe) : Nat := s.fabEntry x.xport 0 (k % 64)

/-- The bytes from a position on that have all come. -/
def runFrom : Nat → Tab Byte → List Byte
  | _, [] => []
  | n, (k, b) :: t => if k == n then b :: runFrom (n + 1) t else []

/-- What a tile under way gives by a graph: nothing yet, an aborted tile (none), or its bytes (R345). -/
def InTile.result (t : InTile) (w : Nat) (x : Pipe) : Option (Option (List Byte)) :=
  if t.tag.isNone then none
  else if t.abort then some none
  else
    match fabReceive w x.fmt (x.rows * x.rowBytes) (runFrom 0 t.data) with
    | .wait => none
    | .bad => some none
    | .tile b => some (if fabRed w != 0 && x.fmt != b2n (bit w 10) then none else some b)

/-- The sectors of a tile that are bad: where the graph changes the bytes, all of them once one is (log 33). -/
def badSectors (w : Nat) (x : Pipe) (l : List Nat) : List Nat :=
  if l.isEmpty || (fabCvt w == 0 && fabCmp w == 0 && fabRed w == 0) then l else List.range ((x.rows * x.rowBytes + 31) / 32)

/-- Commits a received tile in the consumer's queue: its slot is the lowest free one, and it has no record (06 R153). A bad sector is stored
so, and reported with its offset in the tile (17 R370). -/
def State.queueTile (s : State) (k : Nat) (tag : GWord) (data : Option (List Byte)) (bad from_ : List Nat) : State :=
  match s.pipe k, s.launch (k / 64) with
  | some x, some l =>
    let slot := ((List.range x.depth).find? (fun n => x.tiles.all (fun t => t.slot != n))).getD 0
    let bs := data.getD []
    let t : Tile := { st := .committed, slot := slot, spill := false, seq := x.seq, tag := tag, rcd := none, team := (0, 0), order := x.order,
                      data := (List.range bs.length).zip bs, uid := s.freeCtr, bad := bad, abort := data.isNone, from_ := from_ }
    let s := bad.eraseDups.foldl (fun s q => s.tryPost l.part (eventRec s l.part (32 * q) 0 0 0x70)) s
    ((s.tick.onPipe k (fun y => { y with seq := y.seq + 1, order := y.order + 1, tiles := y.tiles ++ [t] })).bumpPipe l.part (k % 64) 0)
  | _, _ => s

/-- The next tile of a sender that can go on: in the sender's order (06 R153). -/
def Pipe.nextIn (x : Pipe) (w : Nat) : Option InTile :=
  x.inTiles.find? (fun t => t.seq == x.passed.get 0 t.sender && (t.skip || (t.result w x).isSome))

/-- One tile of a pipe that does not merge joins the queue; one that will never come is passed over. -/
def State.passTile (s : State) (k : Nat) (x : Pipe) (t : InTile) : State :=
  let w := s.inGraph k x
  let s := s.onPipe k (fun y => { y with inTiles := y.inTiles.erase t, passed := y.passed.put t.sender (t.seq + 1) })
  if t.skip then s
  else s.queueTile k (t.tag.getD 0) ((t.result w x).getD none) (badSectors w x t.bad) [t.sender]

/-- Puts a contribution into a list that rises by sender. -/
def insertIn (t : InTile) : List InTile → List InTile
  | [] => [t]
  | u :: l => if t.sender ≤ u.sender then t :: u :: l else u :: insertIn t l

/-- The contributions to a merge, in ascending order of sender. -/
def Pipe.contribs (x : Pipe) (n : Nat) : List InTile := (x.inTiles.filter (fun t => t.seq == n && !t.skip)).foldr insertIn []

/-- The merge next in order, if it is abandoned or complete, joins the queue (R347, R348); the tag of an abandoned one is open
(log 33). -/
def State.passMerge (s : State) (k : Nat) (x : Pipe) : Option State :=
  let w := s.inGraph k x
  let n := x.merged
  let close (y : Pipe) : Pipe :=
    { y with merged := n + 1, inTiles := y.inTiles.filter (fun t => t.seq != n), abandoned := y.abandoned.del n, timers := y.timers.del n }
  match x.abandoned.find n with
  | some froms => some ((s.tick.onPipe k close).queueTile k (BitVec.ofNat 64 (Config.freeNat s.freeCtr)) none [] froms)
  | none =>
    let cs := x.contribs n
    let rs := cs.map (fun t => t.result w x)
    if cs.length != fabNprod w || !rs.all Option.isSome then none
    else
      let data := (allSome (rs.map (fun r => r.getD none))).map (fabReduce w)
      let tag := (cs.head?.bind (fun t => t.tag)).getD 0
      some ((s.onPipe k close).queueTile k tag data (badSectors w x (cs.flatMap (fun t => t.bad))) (cs.map (fun t => t.sender)))

/-- The pipe merges its senders' tiles. -/
def merges (w : Nat) : Bool := fabRed w != 0

/-- Every tile that can go on does. -/
def State.passAll (k : Nat) : Nat → State → State
  | 0, s => s
  | n + 1, s =>
    match s.pipe k with
    | none => s
    | some x =>
      if merges (s.inGraph k x) then
        match s.passMerge k x with
        | some s => State.passAll k n s
        | none => s
      else
        match x.nextIn (s.inGraph k x) with
        | some t => State.passAll k n (s.passTile k x t)
        | none => s

/-- The pipe closes once every sender has reported, and its tiles are through (06 R153; log 33). -/
def State.closeTest (s : State) (k : Nat) : State :=
  match s.pipe k with
  | none => s
  | some x =>
    let w := s.inGraph k x
    let all := if merges w then fabNprod w ≤ x.closedBy.length && x.closedBy.all (fun e => e.2 ≤ x.merged)
      else !x.closedBy.isEmpty && x.senders.all (fun d => (x.closedBy.find d).isSome) && x.closedBy.all (fun e => e.2 ≤ x.passed.get 0 e.1)
    if all then s.onPipe k (fun y => { y with closed := true }) else s

/-- The pipe goes on as far as it can. -/
def State.advancePipe (s : State) (k : Nat) : State :=
  match s.pipe k with
  | none => s
  | some x => (State.passAll k (x.inTiles.length + x.abandoned.length + 1) s).closeTest k

/-- The tile of a sender's number is through, or belongs to a merge that is abandoned: what comes of it is absorbed. -/
def Pipe.absorbs (x : Pipe) (w sender seq : Nat) : Bool :=
  if merges w then seq < x.merged || (x.abandoned.find seq).isSome else seq < x.passed.get 0 sender

/-- A slot is left for a tile that begins to arrive: one for each tile, or for each merge. -/
def Pipe.roomFor (x : Pipe) (w sender seq : Nat) : Bool :=
  if merges w then
    x.inTiles.any (fun t => t.seq == seq) || x.tiles.length + ((x.inTiles.map (fun t => t.seq)).eraseDups.length + x.abandoned.length) < x.depth
  else
    x.inTiles.any (fun t => t.sender == sender && t.seq == seq) || x.tiles.length + (x.inTiles.filter (fun t => !t.skip)).length < x.depth

/-- A sender of a tile has been seen: what comes of it for an abandoned merge counts too (R347). -/
def Pipe.meet (x : Pipe) (sender : Nat) : Pipe := { x with senders := if x.senders.contains sender then x.senders else x.senders ++ [sender] }

/-- Changes the tile of a sender and a number, which begins when it is new. -/
def Pipe.onIn (x : Pipe) (sender seq : Nat) (f : InTile → InTile) : Pipe :=
  let new : InTile := { sender := sender, seq := seq, data := [], tag := none, bad := [], abort := false, skip := false }
  let x := x.meet sender
  if x.inTiles.any (fun t => t.sender == sender && t.seq == seq) then
    { x with inTiles := x.inTiles.map (fun t => if t.sender == sender && t.seq == seq then f t else t) }
  else { x with inTiles := x.inTiles ++ [f new] }

/-- The tile number that a message's SEQ, of 32 bits, stands for: the one nearest to the number that is next, of those that there are
(log 84). -/
def Pipe.numOf (x : Pipe) (w : Nat) (m : Msg) : Nat :=
  let e := if merges w then x.merged else x.passed.get 0 m.sender
  let n := e + (m.seq + (2 ^ 32 - e % 2 ^ 32) + 2 ^ 31) % 2 ^ 32
  if n < 2 ^ 31 then n + 2 ^ 31 else n - 2 ^ 31

/-- A sender that is one too many for its merge (R347). -/
def Pipe.extra (x : Pipe) (w : Nat) (m : Msg) : Bool := merges w && !x.senders.contains m.sender && fabNprod w ≤ x.senders.length

/-- A part of a tile arrives: a tile with no slot, or of one sender too many for its merge, is a peer fault (R344, R347). -/
def State.arrive (s : State) (k : Nat) (x : Pipe) (m : Msg) (f : InTile → InTile) : Option State :=
  let w := s.inGraph k x
  if x.extra w m || !x.roomFor w m.sender (x.numOf w m) then s.haltHitch (k / 64) 0x56 0xFF (k % 64) 0xFFFFFFFF
  else some ((s.onPipe k (fun y => y.onIn m.sender (x.numOf w m) f)).advancePipe k)

/-- TILE (R344): its bytes land, each sector with the mark of its check. -/
def execTile (port : Nat) (m : Msg) (s : State) : Host.Outcome State Fault Refusal :=
  linkMsg s port m 1 false (fun k x =>
    let w := s.inGraph k x
    if !x.extra w m && x.absorbs w m.sender (x.numOf w m) then some (s.onPipe k (fun y => y.meet m.sender))
    else
      let bs := m.bytes.take (min m.len 224)
      s.arrive k x m (fun t => { t with
        data := ((List.range bs.length).zip bs).foldl (fun (d : Tab Byte) e => d.put (16 * m.off + e.1) e.2) t.data,
        bad := t.bad ++ m.badUsed.flatMap (fun i => [(16 * m.off + 32 * i) / 32, (16 * m.off + 32 * i + 31) / 32]) }))

/-- COMMIT (R344): the tile is COMMITTED, or joins its merge, once its bytes have landed. One that is late for its merge is
credited (R348). -/
def execCommit (port : Nat) (m : Msg) (s : State) : Host.Outcome State Fault Refusal :=
  linkMsg s port m 2 false (fun k x =>
    let w := s.inGraph k x
    if !x.extra w m && x.absorbs w m.sender (x.numOf w m) then
      let s := s.onPipe k (fun y => y.meet m.sender)
      some (if merges w then s.sendTo k 3 0 (some m.sender) else s)
    else s.arrive k x m (fun t => { t with tag := some (BitVec.ofNat 64 (ofBytes (m.bytes.take 8))), abort := m.abortF }))

/-- CREDIT (R344). -/
def execCredit (port : Nat) (m : Msg) (s : State) : Host.Outcome State Fault Refusal :=
  linkMsg s port m 3 true (fun k _ => some (s.onPipe k (fun y => { y with credits := y.credits + 1 })))

/-- CLOSE (R344): its SEQ is the number of tiles that the sender has sent. -/
def execClose (port : Nat) (m : Msg) (s : State) : Host.Outcome State Fault Refusal :=
  linkMsg s port m 4 false (fun k x =>
    some ((s.onPipe k (fun y => { y with closedBy := y.closedBy.put m.sender (x.numOf (s.inGraph k x) m) })).advancePipe k))

/-- PAUSE (R344). -/
def execPause (port : Nat) (m : Msg) (s : State) : Host.Outcome State Fault Refusal :=
  linkMsg s port m 5 false (fun k _ =>
    some (s.onPipe k (fun y => { y with paused := if y.paused.contains m.sender then y.paused else m.sender :: y.paused })))

/-- RESUME (R344). -/
def execResume (port : Nat) (m : Msg) (s : State) : Host.Outcome State Fault Refusal :=
  linkMsg s port m 6 false (fun k _ => some (s.onPipe k (fun y => { y with paused := y.paused.filter (· != m.sender) })))

/-- Abandons a merge: the senders whose contributions have come are credited when its tile is freed (R348). -/
def Pipe.abandon (x : Pipe) (n : Nat) : Pipe :=
  { x with
    abandoned := x.abandoned.put n ((x.inTiles.filter (fun t => t.seq == n && (t.tag.isSome || t.skip))).map (fun t => t.sender)),
    inTiles := x.inTiles.filter (fun t => t.seq != n) }

/-- ABORT (R348): the sender's tile will never come. It abandons its merge; on another pipe its credit returns at once. -/
def execAbort (port : Nat) (m : Msg) (s : State) : Host.Outcome State Fault Refusal :=
  linkMsg s port m 7 false (fun k x =>
    let w := s.inGraph k x
    let n := x.numOf w m
    let gone (y : Pipe) : Pipe := y.onIn m.sender n (fun t => { t with skip := true })
    if merges w then
      (if x.extra w m || !(x.absorbs w m.sender n || x.roomFor w m.sender n) then s.haltHitch (k / 64) 0x56 0xFF (k % 64) 0xFFFFFFFF
       else if x.absorbs w m.sender n then some ((s.onPipe k (fun y => y.meet m.sender)).sendTo k 3 0 (some m.sender))
       else some ((s.onPipe k (fun y => (gone y).abandon n)).advancePipe k))
    else if x.absorbs w m.sender n then some s
    else some (((s.onPipe k gone).sendTo k 3 0 (some m.sender)).advancePipe k))

/-- MERGE_HOLD_EXPIRY (R348): a merge that misses the contribution of a paused sender, and whose hold timer has reached HOLDLIM, is
abandoned. -/
def execMergeHoldExpiry (pipe k : Nat) (s : State) : Host.Outcome State Fault Refusal :=
  runUp s (
    match s.pipe pipe, s.launch (pipe / 64) with
    | some x, some l =>
      let missing := x.paused.any (fun d => x.inTiles.all (fun t => !(t.sender == d && t.seq == k && t.tag.isSome)))
      if l.active && x.xlink == 2 && merges (s.inGraph pipe x) && x.merged ≤ k && (x.abandoned.find k).isNone
          && x.inTiles.any (fun t => t.seq == k) && missing && (s.part l.part).holdlim.toNat ≤ x.timers.get 0 k then
        some ((s.onPipe pipe (fun y => y.abandon k)).advancePipe pipe)
      else none
    | _, _ => none)

/-! ## What is dropped (R342, R343) -/

/-- ERROR_COMPLETION (R342): a request other than a write to the message window gets an error completion and is counted. -/
def execErrorCompletion (port : Nat) (s : State) : Host.Outcome State Fault Refusal :=
  runUp s (if port < 16 && (s.port port).state == 2 then
    some ({ s with pkg := { s.pkg with errOut := s.pkg.errOut ++ [port] } }.onPort port (fun x => { x with errs := x.errs + 1 })) else none)

/-- DROPPED_MESSAGE (R343): a message whose header fails its check, or of a reserved kind, is dropped and counted. The pipe of a
header that fails cannot be trusted: which counter takes it is open (log 33). -/
def execDroppedMessage (port : Nat) (m : Msg) (s : State) : Host.Outcome State Fault Refusal :=
  runUp s (
    if 16 ≤ port || (s.port port).state != 2 || (m.hok && 1 ≤ m.kind && m.kind ≤ 7) then none
    else if m.hok then some (s.bumpPipe (s.portPart port) m.xpipe 24)
    else some (s.tick.bumpPipe (s.portPart port) (Config.freeNat s.freeCtr % 64) 24))

end Sys2Proof.Machine
end

