-- ==== Sys2Proof/Machine/EvSlot.lean ====
section
/-! DEFINITION. A slot of a tower's Rein goes round: what each deck receives of it, and the anomalies that the Farrier's sensor sees
(04 R105 to R107, 17 R376). -/

namespace Sys2Proof.Machine

open Sys2Proof

/-- What a deck receives of the slot of sequence q with some bits turned over: none where the check fails (R107). -/
def slotSeen (q : Nat) (sent : Option RWrite) (flips : List Nat) : Option (Option RWrite) :=
  if flips.isEmpty then some sent else ((sent.getD (emptySlot q)).received flips).map some

/-- A deck receives the slot of sequence q, which deck `from_` sent: where the check fails its replica is stale, and the mismatch is counted
at the deck and in the tower's frame (R107, 17 R376). -/
def State.receiveSlot (s : State) (d q : Nat) (from_ : Option Nat) (sent : Option RWrite) (flips : List Nat) : State :=
  match slotSeen q sent flips with
  | some w => s.applySlot d q (from_ == some d) w
  | none => ((s.bumpDeck d 8 1).onDeck d (fun x => { x with stale := true, copying := none })).onTower (towerOfDeck d) (fun t => { t with missed := t.missed + 1 })

/-- The header of a received slot is an anomaly: a write's names a core outside the tower, or KIND 5 stands outside slots 0 to 63
(17 R376). -/
def slotOdd (tower q : Nat) (w : RWrite) : Bool :=
  (w.kind != 0 && w.kind != 5 && towerOfDeck (deckOfCore w.core) != tower) || (w.kind == 5 && 64 ≤ q % 1024)

/-- REIN_SLOT (R105 to R107): the slot of sequence Q goes round. `flips` are the bits of it that a deck receives wrong, each with its
deck. An odd header, or the seventeenth mismatch of a frame, is an alarm of the REIN sensor (17 R376). -/
def execReinSlot (tower : Nat) (flips : List (Nat × Nat)) (s : State) : Host.Outcome State Fault Refusal :=
  runUp s (
    let q := (s.tower tower).q
    let sent := s.slotWrite tower (q % 1024)
    let bitsOf (d : Nat) : List Nat := (flips.filter (fun e => e.1 == d)).map Prod.snd
    let s := match sent with
      | some (d, w) => s.takeWrite tower d w
      | none => s
    let s := s.onTower tower (fun t => { t with
      q := q + 1,
      missed := if q % 1024 == 0 then 0 else t.missed,
      held := match sent with
        | some (_, w) => (t.held.dropIf (fun k _ => k + 4096 ≤ q)).put q w
        | none => t.held.dropIf (fun k _ => k + 4096 ≤ q) })
    let decks := (s.slotDecks tower (q % 1024)).filter (fun d => (s.deck d).applies)
    let odd := decks.any (fun d => match slotSeen q (sent.map Prod.snd) (bitsOf d) with
      | some (some w) => slotOdd tower q w
      | some none | none => false)
    let u := decks.foldl (fun s d => s.receiveSlot d q (sent.map Prod.fst) (sent.map Prod.snd) (bitsOf d)) s
    let full (x : State) : Bool := 16 < (x.tower tower).missed
    some (if odd || (full u && !full s) then u.sensorAlarm 3 else u))

end Sys2Proof.Machine
end

