-- ==== Sys2Proof/Machine/FloatApprox.lean ====
section
/-! DEFINITION. The approximations of 10 R232 and R233: the special results, the exact result to more than 200 bits, and the
device's own choice within the bound (log 8). -/

namespace Sys2Proof.Machine

open Sys2Proof

/-- The fixed point of this file: 256 bits below the point, so that every FP32 value below 2^128 is exact in it. -/
def fixP : Nat := 2 ^ 256
/-- ln 2 · 2^256. -/
def fixLn2 : Nat := 80260960185991308862233904206310070533990667611589946606122867505419956976172
/-- π · 2^256. -/
def fixPi : Nat := 363771576891766324280234942777729862653393377328392429958772151117938894466185
/-- log2 e · 2^256. -/
def fixLog2e : Nat := 167052672916848388242985626561247531987276682633131050150846402744536260568208

/-- A sum of terms t·x^j/(j+1)…: n terms of the exponential series. -/
def expSum : Nat → Nat → Nat → Nat → Nat
  | 0, _, _, _ => 0
  | n + 1, k, t, x => t + expSum n (k + 1) (t * x / fixP / k) x

/-- 2^f for a fixed-point f below 1. -/
def exp2Fix (f : Nat) : Nat := expSum 64 1 fixP (f * fixLn2 / fixP)

/-- Bits of log2 of x in [1, 2), n of them; x has 512 bits below the point, since each of them doubles its error. -/
def log2Bits : Nat → Nat → Nat
  | 0, _ => 0
  | n + 1, x =>
    let y := x * x / (fixP * fixP)
    if 2 * (fixP * fixP) ≤ y then 2 ^ n + log2Bits n (y / 2) else log2Bits n y

/-- The terms of the sine series: t, then −t·x²/(k(k+1)) and on. -/
def sinSum : Nat → Nat → Nat → Nat → Int
  | 0, _, _, _ => 0
  | n + 1, k, t, x => (t : Int) - sinSum n (k + 2) (t * x / fixP * x / fixP / (k * (k + 1))) x

/-- sin(π·t) for a fixed-point t below 2: sign and magnitude. -/
def sinPiFix (t : Nat) : Bool × Nat :=
  let neg := decide (fixP ≤ t)
  let u := t % fixP
  let u := if fixP < 2 * u then fixP - u else u
  (neg, (sinSum 40 2 (u * fixPi / fixP) (u * fixPi / fixP)).toNat)

/-- m·2^e·2^256, exact for every e from -256. -/
def toFix (m : Nat) (e : Int) : Nat := m * pow2 (e + 256) / pow2 (-(e + 256))

/-- The exponent of the ulp of a result of magnitude n/d (R232). -/
def ulpExp (n d : Nat) : Int :=
  let l := ilogQ n d
  if l > 127 then 104 else max l (-126) - 23

/-- A bound of k ulps of n/d, as a fraction. -/
def ulps (k n d : Nat) : Nat × Nat := (k * pow2 (ulpExp n d), pow2 (-(ulpExp n d)))

/-- |c − y| + r ≤ b for a finite value c, where y = ± n/d is the exact result to within r, and r and b are fractions. -/
def withinBound (neg : Bool) (n d : Nat) (r b : Nat × Nat) (c : FV) : Bool :=
  match c with
  | .nan => false
  | .inf _ => false
  | .fin s m e =>
    let x : Int := scaled s m e (min e 0)
    let cd := pow2 (-(min e 0))
    let y : Int := if neg then -(n : Int) else n
    decide (((x * d - y * cd).natAbs * r.2 + r.1 * cd * d) * b.2 ≤ b.1 * cd * d * r.2)

/-- |c − 1/√(m·2^e)| ≤ b for a finite value c and a fraction b, by squares. -/
def withinRsqrt (m : Nat) (e : Int) (b : Nat × Nat) (c : FV) : Bool :=
  match c with
  | .nan => false
  | .inf _ => false
  | .fin s k f =>
    let x : Int := scaled s k f (min f 0) * b.2
    let w : Int := b.1 * pow2 (-(min f 0))
    let q : Int := (b.2 * pow2 (-(min f 0)) : Nat)
    let num : Int := (m * pow2 e : Nat)
    let den : Int := (pow2 (-e) : Nat)
    (decide (x ≤ w) || decide ((x - w) * (x - w) * num ≤ q * q * den)) && decide (0 ≤ x + w) && decide (q * q * den ≤ (x + w) * (x + w) * num)

/-- The result of an approximation of form number k for an operand code a with the exact result ± n/d: beyond the range as R124
gives, otherwise the device's value when `ok` says that it is within the bound, and the nearest value when it is not. -/
def approxOf (k : Nat) (sat : Bool) (a : Word) (neg : Bool) (n d : Nat) (ok : FV → Bool) : Nat :=
  if (2 ^ 24 - 1) * 2 ^ 104 * d < n then fFP32.over sat .rne neg
  else
    let c := Config.approx k a
    if ok (fFP32.decode c.toNat) then c.toNat else fFP32.round sat .rne 0 (.fin neg n d)

/-- No error. -/
def noErr : Nat × Nat := (0, 1)
/-- An absolute error of 2^-200, more than any that the series of this file leave below 2. -/
def absErr : Nat × Nat := (1, 2 ^ 200)

/-- 1.0 with a sign. -/
def oneCode (neg : Bool) : Nat := fFP32.sign neg + 0x3F800000

/-- vrcp: 1/a (R233). -/
def rcpOf (sat : Bool) (a : Word) : Nat :=
  match fFP32.decode a.toNat with
  | .nan => fFP32.nan
  | .inf s => fFP32.sign s
  | .fin s m e =>
    if m = 0 then fFP32.infinite sat s
    else
      let n := pow2 (-e)
      let d := m * pow2 e
      approxOf 0 sat a s n d (withinBound s n d noErr (ulps 1 n d))

/-- vrsqrt: 1/√a (R233). -/
def rsqrtOf (sat : Bool) (a : Word) : Nat :=
  match fFP32.decode a.toNat with
  | .nan => fFP32.nan
  | .inf s => if s then fFP32.nan else 0
  | .fin s m e =>
    if m = 0 then fFP32.infinite sat s
    else if s then fFP32.nan
    else
      match sqrtR m e with
      | .fin _ n d => approxOf 1 sat a false d n (withinRsqrt m e (ulps 2 d n))
      | .nan => fFP32.nan
      | .inf _ => fFP32.nan

/-- 2^(z/2^256) for a fixed-point z, as a fraction, to within 2^-240 of itself. -/
def exp2Frac (z : Int) : Nat × Nat :=
  let n := z / fixP
  (exp2Fix (z % fixP).toNat * pow2 n, fixP * pow2 (-n))

/-- The value is an integer. -/
def isIntegral (m : Nat) (e : Int) : Bool := decide (0 ≤ e) || m % pow2 (-e) == 0

/-- vexp2: 2^a (R233). -/
def exp2Of (sat : Bool) (a : Word) : Nat :=
  match fFP32.decode a.toNat with
  | .nan => fFP32.nan
  | .inf s => if s then 0 else fFP32.infinite sat false
  | .fin s m e =>
    let f := toFix m e
    if s && 150 * fixP ≤ f then 0
    else if !s && 128 * fixP ≤ f then fFP32.over sat .rne false
    else if isIntegral m e then
      let k : Int := if s then -(f / fixP : Nat) else (f / fixP : Nat)
      fFP32.encode (.fin false 1 k)
    else
      let (n, d) := exp2Frac (if s then -(f : Int) else f)
      approxOf 4 sat a false n d (withinBound false n d (n, d * 2 ^ 200) (ulps 2 n d))

/-- vlog2: log2 a (R233). -/
def log2Of (sat : Bool) (a : Word) : Nat :=
  match fFP32.decode a.toNat with
  | .nan => fFP32.nan
  | .inf s => if s then fFP32.nan else fFP32.infinite sat false
  | .fin s m e =>
    if m = 0 then fFP32.infinite sat true
    else if s then fFP32.nan
    else
      let l := ilog2 m
      let k : Int := l + e
      if m = 2 ^ l then fFP32.encode (FV.ofInt k)
      else
        let y : Int := k * 2 ^ 220 + log2Bits 220 (m * fixP * fixP / 2 ^ l)
        let near := decide (k = 0) || decide (k = -1)
        let n := y.natAbs
        let d := 2 ^ 220
        approxOf 5 sat a (decide (y < 0)) n d (withinBound (decide (y < 0)) n d absErr (if near then (1, 2 ^ 22) else ulps 2 n d))

/-- vsinpi: sin(π·a) (R233). -/
def sinpiOf (sat : Bool) (a : Word) : Nat :=
  match fFP32.decode a.toNat with
  | .nan => fFP32.nan
  | .inf _ => fFP32.nan
  | .fin s m e =>
    if m = 0 || isIntegral m e then fFP32.sign s
    else
      let t := toFix m e % (2 * fixP)
      if isIntegral (2 * m) e then oneCode (s != decide (fixP ≤ t))
      else
        let (neg, y) := sinPiFix t
        approxOf 6 sat a (s != neg) y fixP (withinBound (s != neg) y fixP absErr (1, 2 ^ 22))

/-- A finite value is within 2^-22 of a number below 1 that differs from it by less than any float does: 1 − 2^-22 is, 1 + 2^-22 is not. -/
def justBelowOne (c : FV) : Bool :=
  match c with
  | .nan => false
  | .inf _ => false
  | .fin s m e =>
    let x : Int := scaled s m e (min e 0) * 2 ^ 22
    let d : Int := pow2 (-(min e 0))
    decide ((2 ^ 22 - 1) * d ≤ x) && decide (x < (2 ^ 22 + 1) * d)

/-- vcospi: cos(π·a) (R233). Of an operand of at most 2^-60 the exact result is below 1 by less than 2^-117. -/
def cospiOf (sat : Bool) (a : Word) : Nat :=
  match fFP32.decode a.toNat with
  | .nan => fFP32.nan
  | .inf _ => fFP32.nan
  | .fin _ m e =>
    let t := toFix m e % (2 * fixP)
    if isIntegral m e then oneCode (decide (t = fixP))
    else if isIntegral (2 * m) e then 0
    else if m * pow2 e * 2 ^ 60 ≤ pow2 (-e) then approxOf 7 sat a false 1 1 justBelowOne
    else
      let (neg, y) := sinPiFix ((t + fixP / 2) % (2 * fixP))
      approxOf 7 sat a neg y fixP (withinBound neg y fixP absErr (1, 2 ^ 22))

/-- vtanh (R233). -/
def tanhOf (sat : Bool) (a : Word) : Nat :=
  match fFP32.decode a.toNat with
  | .nan => fFP32.nan
  | .inf s => oneCode s
  | .fin s m e =>
    let f := toFix m e
    if f < fixP / 2 ^ 12 then a.toNat
    else if 10 * fixP ≤ f then oneCode s
    else
      let (n, d) := exp2Frac ((2 * f * fixLog2e / fixP : Nat))
      approxOf 8 sat a s (n - d) (n + d) (withinBound s (n - d) (n + d) absErr (1, 2 ^ 21))

end Sys2Proof.Machine
end

