-- ==== Sys2Proof/Machine/LaneFloat.lean ====
section
/-! DEFINITION. Lane floating point: arithmetic on FP32 and packed pairs, minimum and maximum, compares, dot products, square root,
division and the approximations (10 R227 to R233). -/

namespace Sys2Proof.Machine

open Sys2Proof

/-! ## Lane words whose results round (R227) -/

/-- The lane generator (05 R123). -/
def State.genOf (s : State) (g l : Nat) : Word := (s.grp g).gen.get 0 l

/-- Writes n registers from d in the lanes that take part, with the words and the stepped generator that f gives. -/
def State.putGen (s : State) (g : Nat) (d : VReg) (r : List (Nat × List Word × Word)) : State :=
  r.foldl (fun s e =>
    let s := (List.range e.2.1.length).foldl (fun s k => s.wv g (d.toNat + k) e.1 (e.2.1.getD k 0)) s
    s.onGrp g (fun x => { x with gen := x.gen.set 0 e.1 e.2.2 })) s

/-- A lane word that writes n registers from d; f gives the words of a lane and its generator, from the generator before. `chk` is
the check of the lanes' values. -/
def laneR (s : State) (h : Hdr) (d : VReg) (n : Nat) (regs : List (VReg × Nat)) (chk : Nat → Nat → Bool)
    (f : Nat → Nat → Word → List Word × Word) : Host.Outcome State Fault Refusal :=
  runLane s (fun g => do
    needRegs s g ((d, n) :: regs)
    let l := s.taking g h
    legalLanes (l.filter (fun k => !chk g k))
    pure ((s.putGen g d (l.map (fun k => (k, f g k (s.genOf g k))))).ladv g))

/-- No check of the lanes' values. -/
def anyLane (_ _ : Nat) : Bool := true

/-- The block's rounding mode and SAT (R227). -/
def State.bmode (s : State) (g : Nat) : RMode := fmtMode (s.bfmt g)
/-- The block's SAT. -/
def State.bsat (s : State) (g : Nat) : Bool := fmtSat (s.bfmt g)

/-- The element format of a type, and the number of elements. -/
def FTyFmt (t : FTy) : FFmt × Nat :=
  match t with
  | .f32 => (fFP32, 1)
  | .f16 => (fFP16, 2)
  | .bf16 => (fBF16, 2)

/-- Element k of a register. -/
def elemOf (f : FFmt) (w : Word) (k : Nat) : Nat := bits w.toNat (f.width * k) f.width

/-- Rounds the exact results of n elements, element 0 first, and packs them (R227, R228). -/
def roundElems (f : FFmt) (sat : Bool) (mode : RMode) : Nat → Word → List FR → Nat × Word
  | _, gen, [] => (0, gen)
  | k, gen, x :: xs =>
    let (c, gen) := f.roundGen sat mode gen x
    let (r, gen) := roundElems f sat mode (k + 1) gen xs
    (c * 2 ^ (f.width * k) + r, gen)

/-- The rounding form of a type: op on the values of each element. -/
def arith (s : State) (g : Nat) (ty : FTy) (op : Bool → FV → FV → FV → FR) (a b c : Word) (gen : Word) : List Word × Word :=
  let (f, n) := FTyFmt ty
  let mode := s.bmode g
  let v (w : Word) (k : Nat) : FV := f.decode (elemOf f w k)
  let (r, gen) := roundElems f (s.bsat g) mode 0 gen ((List.range n).map (fun k => op (modeDn mode) (v a k) (v b k) (v c k)))
  ([BitVec.ofNat 32 r], gen)

/-- A form of two sources that rounds. -/
def arith2 (s : State) (h : Hdr) (ty : FTy) (d a : VReg) (b : SrcB) (op : Bool → FV → FV → FR) : Host.Outcome State Fault Refusal :=
  laneR s h d 1 ((a, 1) :: srcBRegs b) anyLane
    (fun g l gen => arith s g ty (fun dn x y _ => op dn x y) (s.rv g a.toNat l) (s.srcB g b l) 0 gen)

/-- vfadd (R228). -/
def execVfadd (h : Hdr) (ty : FTy) (d a : VReg) (b : SrcB) (s : State) : Host.Outcome State Fault Refusal :=
  arith2 s h ty d a b (fun dn x y => (FV.add dn x y).toR)
/-- vfsub (R228). -/
def execVfsub (h : Hdr) (ty : FTy) (d a : VReg) (b : SrcB) (s : State) : Host.Outcome State Fault Refusal :=
  arith2 s h ty d a b (fun dn x y => (FV.add dn x y.neg).toR)
/-- vfmul (R228). -/
def execVfmul (h : Hdr) (ty : FTy) (d a : VReg) (b : SrcB) (s : State) : Host.Outcome State Fault Refusal :=
  arith2 s h ty d a b (fun _ x y => (FV.mul x y).toR)

/-- vffma (R228): one rounding. -/
def execVffma (h : Hdr) (ty : FTy) (d a : VReg) (bc : SrcBC) (s : State) : Host.Outcome State Fault Refusal :=
  laneR s h d 1 ((a, 1) :: srcBCRegs bc) anyLane
    (fun g l gen => arith s g ty (fun dn x y z => (FV.add dn (FV.mul x y) z).toR) (s.rv g a.toNat l) (s.srcOfBC g bc l) (s.srcCofBC g bc l) gen)

/-- Packs the codes that f gives for each element of two words. -/
def packElems (f : FFmt) (n : Nat) (op : Nat → Nat → Nat) (a b : Word) : Word :=
  BitVec.ofNat 32 (((List.range n).map (fun k => op (elemOf f a k) (elemOf f b k) * 2 ^ (f.width * k))).sum)

/-- The smaller or larger of two codes (R229, 05 R135). -/
def minmaxCode (f : FFmt) (mx : Bool) (a b : Nat) : Nat := f.encode (FV.minmax mx (f.decode a) (f.decode b))

/-- vfmin (R229). -/
def execVfmin (h : Hdr) (ty : FTy) (d a : VReg) (b : SrcB) (s : State) : Host.Outcome State Fault Refusal :=
  laneAB s h d a b (packElems (FTyFmt ty).1 (FTyFmt ty).2 (minmaxCode (FTyFmt ty).1 false))
/-- vfmax (R229). -/
def execVfmax (h : Hdr) (ty : FTy) (d a : VReg) (b : SrcB) (s : State) : Host.Outcome State Fault Refusal :=
  laneAB s h d a b (packElems (FTyFmt ty).1 (FTyFmt ty).2 (minmaxCode (FTyFmt ty).1 true))

/-- The sign bits of a type. -/
def signMask (ty : FTy) : Word :=
  match ty with
  | .f32 => 0x80000000
  | .f16 | .bf16 => 0x80008000

/-- vfabs (R228). -/
def execVfabs (h : Hdr) (ty : FTy) (d a : VReg) (s : State) : Host.Outcome State Fault Refusal := laneA s h d a (fun a => a &&& ~~~(signMask ty))
/-- vfneg (R228). -/
def execVfneg (h : Hdr) (ty : FTy) (d a : VReg) (s : State) : Host.Outcome State Fault Refusal := laneA s h d a (fun a => a ^^^ signMask ty)

/-- vfcmp (R230): element 0. -/
def execVfcmp (h : Hdr) (ty : FTy) (c : FCond) (d : PReg) (a : VReg) (b : SrcB) (s : State) : Host.Outcome State Fault Refusal :=
  laneP s h d ((a, 1) :: srcBRegs b) (fun g l =>
    let f := (FTyFmt ty).1
    fcondHolds c (FV.cmp (f.decode (elemOf f (s.rv g a.toNat l) 0)) (f.decode (elemOf f (s.srcB g b l) 0))))

/-- vfdot2 (R231): one exact sum, one rounding, special values as one chunk (05 R134). -/
def execVfdot2 (h : Hdr) (bf : Bool) (d a : VReg) (bc : SrcBC) (s : State) : Host.Outcome State Fault Refusal :=
  laneR s h d 1 ((a, 1) :: srcBCRegs bc) anyLane (fun g l gen =>
    let f := if bf then fBF16 else fFP16
    let x := s.rv g a.toNat l
    let y := s.srcOfBC g bc l
    let p (k : Nat) : FV := FV.mul (f.decode (elemOf f x k)) (f.decode (elemOf f y k))
    let acc := fFP32.decode (s.srcCofBC g bc l).toNat
    let (r, gen) := fFP32.roundGen (s.bsat g) (s.bmode g) gen (FV.add (modeDn (s.bmode g)) acc (sumFV [p 0, p 1])).toR
    ([BitVec.ofNat 32 r], gen))

/-- vsqrt (R232). -/
def execVsqrt (h : Hdr) (d a : VReg) (s : State) : Host.Outcome State Fault Refusal :=
  laneR s h d 1 [(a, 1)] anyLane (fun g l gen =>
    let (r, gen) := fFP32.roundGen (s.bsat g) (s.bmode g) gen (FV.sqrt (fFP32.decode (s.rv g a.toNat l).toNat))
    ([BitVec.ofNat 32 r], gen))

/-- vfdiv (R232). -/
def execVfdiv (h : Hdr) (d a : VReg) (b : SrcB) (s : State) : Host.Outcome State Fault Refusal := arith2 s h .f32 d a b (fun _ x y => FV.div x y)

/-- An approximation in a lane, with the block's SAT. -/
def approxForm (s : State) (h : Hdr) (d a : VReg) (f : Bool → Word → Nat) : Host.Outcome State Fault Refusal :=
  laneV s h d [(a, 1)] (fun g l => BitVec.ofNat 32 (f (s.bsat g) (s.rv g a.toNat l)))

/-- vrcp (R233). -/
def execVrcp (h : Hdr) (d a : VReg) (s : State) : Host.Outcome State Fault Refusal := approxForm s h d a rcpOf
/-- vrsqrt (R233). -/
def execVrsqrt (h : Hdr) (d a : VReg) (s : State) : Host.Outcome State Fault Refusal := approxForm s h d a rsqrtOf
/-- vexp2 (R233). -/
def execVexp2 (h : Hdr) (d a : VReg) (s : State) : Host.Outcome State Fault Refusal := approxForm s h d a exp2Of
/-- vlog2 (R233). -/
def execVlog2 (h : Hdr) (d a : VReg) (s : State) : Host.Outcome State Fault Refusal := approxForm s h d a log2Of
/-- vsinpi (R233). -/
def execVsinpi (h : Hdr) (d a : VReg) (s : State) : Host.Outcome State Fault Refusal := approxForm s h d a sinpiOf
/-- vcospi (R233). -/
def execVcospi (h : Hdr) (d a : VReg) (s : State) : Host.Outcome State Fault Refusal := approxForm s h d a cospiOf
/-- vtanh (R233). -/
def execVtanh (h : Hdr) (d a : VReg) (s : State) : Host.Outcome State Fault Refusal := approxForm s h d a tanhOf

end Sys2Proof.Machine
end

