-- ==== Sys2Proof/Machine/LaneCvt.lean ====
section
/-! DEFINITION. Conversions, packing and quantisation (05 R126, R128, R129, 10 R234 to R238). -/

namespace Sys2Proof.Machine

open Sys2Proof

/-- The floating-point format of a type. -/
def typeFmt (t : VType) : Option FFmt :=
  match t with
  | .f32 => some fFP32
  | .f16 | .f16x2 => some fFP16
  | .bf16 | .bf16x2 => some fBF16
  | .e4m3 => some fE4M3
  | .e5m2 => some fE5M2
  | .i8 | .i16 | .i32 | .i64 | .n8 | .n16 | .n32 | .n64 | .q8 | .q4 => none

/-- The width of an integer type, and whether it is signed. -/
def typeInt (t : VType) : Nat × Bool :=
  match t with
  | .i8 => (8, true) | .i16 => (16, true) | .i32 => (32, true) | .i64 => (64, true)
  | .n8 => (8, false) | .n16 => (16, false) | .n32 => (32, false) | .n64 => (64, false)
  | .f32 | .f16 | .bf16 | .e4m3 | .e5m2 | .q8 | .q4 | .f16x2 | .bf16x2 => (32, false)

/-- Bits of a type in registers. -/
def typeWidth (t : VType) : Nat :=
  match typeFmt t with
  | some f => f.width
  | none => (typeInt t).1

/-- Registers that a value of a type occupies (R234). -/
def typeRegN (t : VType) : Nat := if typeWidth t == 64 then 2 else 1

/-- The range of an integer type. -/
def intRange (t : VType) : Int × Int :=
  let (w, sg) := typeInt t
  if sg then (-(2 ^ (w - 1) : Nat), (2 ^ (w - 1) : Nat) - 1) else (0, (2 ^ w : Nat) - 1)

/-- The rounding mode that RM selects (R235). -/
def rmOf (rm : RmSel) (fmt : Word) : RMode :=
  match rm with
  | .own m => m
  | .fmt => fmtMode fmt

/-- The saturation that SATSEL selects. -/
def satOf (ss : SatSel) (fmt : Word) : Bool :=
  match ss with
  | .fmt => fmtSat fmt
  | .off => false
  | .on => true

/-- The conversion from a float format to another is exact (R126). -/
def widens (a b : FFmt) : Bool := decide (a.mb ≤ b.mb) && decide (a.eb ≤ b.eb) && a.width < b.width

/-- Converts a value of one float format into another (R126). -/
def cvtFF (a b : FFmt) (sat : Bool) (mode : RMode) (gen : Word) (x : Nat) : Nat × Word :=
  if widens a b then (b.encode (a.decode x), gen) else b.roundGen sat mode gen (a.decode x).toR

/-- The conversion of R126 of the source's bits: the destination's bits and the generator. -/
def cvt (st dt : VType) (sat : Bool) (mode : RMode) (gen : Word) (x : Nat) : Nat × Word :=
  let (sw, sg) := typeInt st
  let (dw, _) := typeInt dt
  let (lo, hi) := intRange dt
  let v : Int := if sg then sextI sw x else (x % 2 ^ sw : Nat)
  match typeFmt st, typeFmt dt with
  | some a, some b => cvtFF a b sat mode gen (x % 2 ^ a.width)
  | some a, none =>
    let (r, gen) := roundIntGen mode gen (a.decode (x % 2 ^ a.width)).toR
    (((r.sat lo hi) % 2 ^ dw).toNat, gen)
  | none, some b => b.roundGen sat mode gen (FV.ofInt v).toR
  | none, none =>
    if dw ≤ sw && sat then (((max lo (min v hi)) % 2 ^ dw).toNat, gen) else ((v % 2 ^ dw).toNat, gen)

/-- Fills the destination register from the low bits of a type: sign extension for .i8 and .i16, zeros for the others (R234). -/
def fillType (dt : VType) (x : Nat) : List Word :=
  match dt with
  | .i8 => [w32 (sextI 8 x)]
  | .i16 => [w32 (sextI 16 x)]
  | .i64 | .n64 => [BitVec.ofNat 32 x, BitVec.ofNat 32 (x / 2 ^ 32)]
  | .i32 | .n8 | .n16 | .n32 | .f32 | .f16 | .bf16 | .e4m3 | .e5m2 | .q8 | .q4 | .f16x2 | .bf16x2 => [BitVec.ofNat 32 x]

/-- A source value of a type: the register, or the pair. -/
def State.rvType (s : State) (g : Nat) (t : VType) (a : VReg) (l : Nat) : Nat :=
  (s.rv g a.toNat l).toNat + (if typeRegN t == 2 then (s.rv g (a.toNat + 1) l).toNat * 2 ^ 32 else 0)

/-- vcvt (R235). -/
def execVcvt (h : Hdr) (st dt : VType) (rm : RmSel) (ss : SatSel) (d a : VReg) (s : State) : Host.Outcome State Fault Refusal :=
  laneR s h d (typeRegN dt) [(a, typeRegN st)] anyLane (fun g l gen =>
    let (r, gen) := cvt st dt (satOf ss (s.bfmt g)) (rmOf rm (s.bfmt g)) gen (s.rvType g st a l)
    (fillType dt r, gen))

/-- vcvt.pk (R236). -/
def execVcvtPk (h : Hdr) (bf : Bool) (rm : RmSel) (ss : SatSel) (d a b : VReg) (s : State) : Host.Outcome State Fault Refusal :=
  laneR s h d 1 [(a, 1), (b, 1)] anyLane (fun g l gen =>
    let f := if bf then fBF16 else fFP16
    let (r, gen) := roundElems f (satOf ss (s.bfmt g)) (rmOf rm (s.bfmt g)) 0 gen
      [(fFP32.decode (s.rv g a.toNat l).toNat).toR, (fFP32.decode (s.rv g b.toNat l).toNat).toR]
    ([BitVec.ofNat 32 r], gen))

/-- vcvt.pk4 (R236). -/
def execVcvtPk4 (h : Hdr) (e5 : Bool) (rm : RmSel) (ss : SatSel) (d a : VReg) (s : State) : Host.Outcome State Fault Refusal :=
  laneR s h d 1 [(a, 4)] anyLane (fun g l gen =>
    let f := if e5 then fE5M2 else fE4M3
    let (r, gen) := roundElems f (satOf ss (s.bfmt g)) (rmOf rm (s.bfmt g)) 0 gen
      ((List.range 4).map (fun k => (fFP32.decode (s.rv g (a.toNat + k) l).toNat).toR))
    ([BitVec.ofNat 32 r], gen))

/-- Widens n elements of a register into as many registers. -/
def unpack (f : FFmt) (n : Nat) (w : Word) : List Word := (List.range n).map (fun k => BitVec.ofNat 32 (fFP32.encode (f.decode (elemOf f w k))))

/-- vcvt.unpk4 (R236). -/
def execVcvtUnpk4 (h : Hdr) (e5 : Bool) (d a : VReg) (s : State) : Host.Outcome State Fault Refusal :=
  laneR s h d 4 [(a, 1)] anyLane (fun g l gen => (unpack (if e5 then fE5M2 else fE4M3) 4 (s.rv g a.toNat l), gen))

/-- vcvt.unpk (R236). -/
def execVcvtUnpk (h : Hdr) (bf : Bool) (d a : VReg) (s : State) : Host.Outcome State Fault Refusal :=
  laneR s h d 2 [(a, 1)] anyLane (fun g l gen => (unpack (if bf then fBF16 else fFP16) 2 (s.rv g a.toNat l), gen))

/-- vqnt (R237): one bad group word in a taking lane is ILLEGAL. -/
def execVqnt (h : Hdr) (st : VType) (q4 : Bool) (rm : RmSel) (d a gw : VReg) (s : State) : Host.Outcome State Fault Refusal :=
  laneR s h d 1 [(a, 1), (gw, 1)] (fun g l => groupWordOk q4 (s.rv g gw.toNat l)) (fun g l gen =>
    let f := (typeFmt st).getD fFP32
    let mode := rmOf rm (s.bfmt g)
    let gen := if mode = .stoch then stochNext gen else gen
    ([BitVec.ofNat 32 (quant q4 (s.rv g gw.toNat l) mode (gen.toNat / 65536) (f.decode (elemOf f (s.rv g a.toNat l) 0)))], gen))

/-- vdeq (R238). -/
def execVdeq (h : Hdr) (q4 : Bool) (d a gw : VReg) (s : State) : Host.Outcome State Fault Refusal :=
  laneR s h d 1 [(a, 1), (gw, 1)] (fun g l => groupWordOk q4 (s.rv g gw.toNat l)) (fun g l gen =>
    ([BitVec.ofNat 32 (dequant (s.bsat g) (s.rv g gw.toNat l) (bits (s.rv g a.toNat l).toNat 0 (if q4 then 4 else 8)))], gen))

end Sys2Proof.Machine
end

