-- ==== Sys2Proof/Machine/LaneColl.lean ====
section
/-! DEFINITION. Shuffles, votes, group reductions and scans, accumulator moves and the lane break (05 R135, R136, 10 R239 to R244,
11 R270). -/

namespace Sys2Proof.Machine

open Sys2Proof

/-! ## Shuffles and votes -/

/-- The source lane of a shuffle (R239). -/
def shflLane (m : ShflMode) (l b : Nat) : Nat :=
  match m with
  | .idx => b % 32
  | .up => if l < b % 32 then l else l - b % 32
  | .down => if 31 < l + b % 32 then l else l + b % 32
  | .xor => l ^^^ (b % 32)

/-- vshfl (R239): the source lane is read whether or not it takes part. -/
def execVshfl (h : Hdr) (m : ShflMode) (d a : VReg) (b : SrcB) (s : State) : Host.Outcome State Fault Refusal :=
  laneV s h d ((a, 1) :: srcBRegs b) (fun g l => s.rv g a.toNat (shflLane m l (s.srcB g b l).toNat))

/-- vvote.any (R240). -/
def execVvoteAny (h : Hdr) (d a : PReg) (s : State) : Host.Outcome State Fault Refusal :=
  laneP s h d [] (fun g _ => (s.taking g h).any (s.rp g a))
/-- vvote.all (R240). -/
def execVvoteAll (h : Hdr) (d a : PReg) (s : State) : Host.Outcome State Fault Refusal :=
  laneP s h d [] (fun g _ => (s.taking g h).all (s.rp g a))
/-- vvote.uni (R240). -/
def execVvoteUni (h : Hdr) (d a : PReg) (s : State) : Host.Outcome State Fault Refusal :=
  laneP s h d [] (fun g _ => (s.taking g h).all (s.rp g a) || (s.taking g h).all (fun l => !s.rp g a l))
/-- vballot (R240). -/
def execVballot (h : Hdr) (d : VReg) (a : PReg) (s : State) : Host.Outcome State Fault Refusal :=
  laneV s h d [] (fun g _ => laneMask ((s.taking g h).filter (s.rp g a)))

/-! ## Reductions and scans (R241) -/

/-- An operation on two values; a floating-point add rounds with the mode, which is never STOCH here. -/
def redOp (op : RedOp) (sat : Bool) (mode : RMode) (a b : Word) : Word :=
  match op with
  | .addF => BitVec.ofNat 32 (fFP32.round sat mode 0 (FV.add (modeDn mode) (fFP32.decode a.toNat) (fFP32.decode b.toNat)).toR)
  | .maxF => BitVec.ofNat 32 (minmaxCode fFP32 true a.toNat b.toNat)
  | .minF => BitVec.ofNat 32 (minmaxCode fFP32 false a.toNat b.toNat)
  | .addI => a + b
  | .maxI => if a.sle b then b else a
  | .minI => if a.sle b then a else b
  | .maxN => if a.ule b then b else a
  | .minN => if a.ule b then a else b
  | .and => a &&& b
  | .or => a ||| b
  | .xor => a ^^^ b

/-- The identity of an operation. -/
def redId (op : RedOp) : Word :=
  match op with
  | .addF | .addI | .maxN | .or | .xor => 0
  | .maxF => 0xFF800000
  | .minF => 0x7F800000
  | .maxI => 0x80000000
  | .minI => 0x7FFFFFFF
  | .minN | .and => 0xFFFFFFFF

/-- comb of R135: an absent operand yields the other. -/
def comb (f : Word → Word → Word) (a b : Option Word) : Option Word :=
  match a, b with
  | none, b => b
  | some a, none => some a
  | some a, some b => some (f a b)

/-- One level of the tree: neighbours combine. -/
def treeLevel (f : Word → Word → Word) : List (Option Word) → List (Option Word)
  | a :: b :: l => comb f a b :: treeLevel f l
  | [a] => [a]
  | [] => []

/-- n levels of the tree. -/
def tree (f : Word → Word → Word) : Nat → List (Option Word) → Option Word
  | 0, l => l.headD none
  | n + 1, l => tree f n (treeLevel f l)

/-- vred (R241). -/
def execVred (h : Hdr) (op : RedOp) (d a : VReg) (p : PReg) (s : State) : Host.Outcome State Fault Refusal :=
  laneV s h d [(a, 1)] (fun g _ =>
    let t := s.taking g h
    (tree (redOp op (s.bsat g) (detMode (s.bmode g))) 5
      ((List.range 32).map (fun l => if t.contains l && s.rp g p l then some (s.rv g a.toNat l) else none))).getD (redId op))

/-- The running combination of the lanes up to l (05 R136). -/
def scanTo (f : Word → Word → Word) (x : Nat → Word) (lanes : List Nat) (l : Nat) : Word :=
  ((lanes.filter (· ≤ l)).foldl (fun r k => comb f r (some (x k))) none).getD 0

/-- vscan (R241). -/
def execVscan (h : Hdr) (op : RedOp) (d a : VReg) (s : State) : Host.Outcome State Fault Refusal :=
  laneV s h d [(a, 1)] (fun g l =>
    scanTo (redOp op (s.bsat g) (detMode (s.bmode g))) (fun k => s.rv g a.toNat k) (s.taking g h) l)

/-! ## Accumulator moves (R242 to R244) -/

/-- Registers of a tile form. -/
def tileRegN (w : TileW) : Nat :=
  match w with
  | .w32 => 8
  | .bf16x2 | .f16x2 => 4

/-- The format of a packed tile form. -/
def tileFmt (w : TileW) : Option FFmt :=
  match w with
  | .w32 => none
  | .bf16x2 => some fBF16
  | .f16x2 => some fFP16

/-- The tile element, row and column, that element e of register k holds in lane l (R242). -/
def tilePos (w : TileW) (k l e : Nat) : Nat × Nat :=
  match w with
  | .w32 => (2 * k + l / 16, l % 16)
  | .bf16x2 | .f16x2 => (4 * k + l / 8, 2 * (l % 8) + e)

/-- The checks of a word that names tile n: ILLEGAL at or above the team's tiles, then ACCBUSY when some lane takes part (R243, R244). That
ACCBUSY reports no lane in TRAPCAUSE is the model's choice (log 101). -/
def tileCheck (s : State) (g n : Nat) (lanes : List Nat) : R Unit := do
  legal (n < (s.teamOf g).acc)
  need (lanes.isEmpty || !s.tileBusy (s.grp g).team n) cACCBUSY

/-- Register words of a lane for a packed amov, element 0 before element 1 in rising k. -/
def packTile (f : FFmt) (sat : Bool) (mode : RMode) (el : Nat → Nat → Word) : List Nat → Word → List Word × Word
  | [], gen => ([], gen)
  | k :: ks, gen =>
    let (r, gen) := roundElems f sat mode 0 gen [(fFP32.decode (el k 0).toNat).toR, (fFP32.decode (el k 1).toNat).toR]
    let (l, gen) := packTile f sat mode el ks gen
    (BitVec.ofNat 32 r :: l, gen)

/-- amov (R243). -/
def execAmov (h : Hdr) (w : TileW) (d : VReg) (n : BitVec 9) (s : State) : Host.Outcome State Fault Refusal :=
  runLane s (fun g => do
    needRegs s g [(d, tileRegN w)]
    let l := s.taking g h
    tileCheck s g n.toNat l
    let t := s.teamOf g
    let el (lane k e : Nat) : Word := t.tileElem n.toNat (tilePos w k lane e).1 (tilePos w k lane e).2
    let words (lane : Nat) : List Word × Word :=
      match tileFmt w with
      | none => ((List.range 8).map (fun k => el lane k 0), s.genOf g lane)
      | some f => packTile f (s.bsat g) (s.bmode g) (el lane) (List.range 4) (s.genOf g lane)
    pure ((s.putGen g d (l.map (fun k => (k, words k)))).ladv g))

/-- Writes tile elements of the team. -/
def State.putTiles (s : State) (g n : Nat) (l : List ((Nat × Nat) × Word)) : State :=
  s.onTeam (s.grp g).team (fun t => l.foldl (fun t e => t.setTile n e.1.1 e.1.2 e.2) t)

/-- amovw (R243). -/
def execAmovw (h : Hdr) (w : TileW) (src : VReg) (n : BitVec 9) (s : State) : Host.Outcome State Fault Refusal :=
  runLane s (fun g => do
    needRegs s g [(src, tileRegN w)]
    let lanes := s.taking g h
    tileCheck s g n.toNat lanes
    let els := lanes.flatMap (fun l => (List.range (tileRegN w)).flatMap (fun k =>
      let x := s.rv g (src.toNat + k) l
      match tileFmt w with
      | none => [(tilePos w k l 0, x)]
      | some f => (List.range 2).map (fun e => (tilePos w k l e, BitVec.ofNat 32 (fFP32.encode (f.decode (elemOf f x e)))))))
    pure ((s.putTiles g n.toNat els).ladv g))

/-- azero (R243). -/
def execAzero (h : Hdr) (n : BitVec 9) (s : State) : Host.Outcome State Fault Refusal :=
  runLane s (fun g => do
    let lanes := s.taking g h
    tileCheck s g n.toNat lanes
    pure ((s.putTiles g n.toNat (lanes.flatMap (fun l => (List.range 8).map (fun k => (tilePos .w32 k l 0, 0))))).ladv g))

/-! ## The lane break (11 R270) -/

/-- lbrk: BREAK when some lane takes part. -/
def execLbrk (h : Hdr) (code : BitVec 8) (s : State) : Host.Outcome State Fault Refusal :=
  runLane s (fun g =>
    match s.taking g h with
    | [] => .ok (s.ladv g)
    | l :: _ => .error (trapAt cBREAK code.toNat (some l) 0))

end Sys2Proof.Machine
end

