-- ==== Sys2Proof/Machine/LaneCtl.lean ====
section
/-! DEFINITION. Divergence, loops, refill loops, the end of a block, lane-varying calls and lane fences (02 R37 to R45,
09 R212 to R217). -/

namespace Sys2Proof.Machine

open Sys2Proof

/-! ## Depth counts -/

/-- Gives every lane the depth count f. -/
def State.setDc (s : State) (g : Nat) (f : Nat → Nat) : State :=
  s.onGrp g (fun x => { x with dc := (List.range 32).foldl (fun t l => t.set 0 l (f l)) x.dc })

/-- Some lane is active. -/
def State.anyActive (s : State) (g : Nat) : Bool := (List.range 32).any (fun l => s.active g l)

/-- inc of R38 for every inactive lane: ILLEGAL when a count would pass 255. -/
def incOk (s : State) (g : Nat) : R Unit := legalLanes (indices 32 (fun l => s.dcOf g l == 255))

/-- Goes to the skip target when no lane is active, else to the next word (R39, R168). -/
def State.skipOr (s : State) (g off : Nat) : State := if s.anyActive g then s.ladv g else s.lgoto g (s.lpc g + off)

/-- Lanes marked to continue are active again (R40, R44). -/
def State.clearCm (s : State) (g : Nat) : State :=
  let m := (s.grp g).cm
  (s.setDc g (fun l => if m.getLsbD l then 0 else s.dcOf g l)).onGrp g (fun x => { x with cm := 0 })

/-- Every count above 0 drops by 1. -/
def State.dropDc (s : State) (g : Nat) : State := s.setDc g (fun l => s.dcOf g l - 1)

/-- lif (R39). -/
def execLif (h : Hdr) (off : BitVec 20) (s : State) : Host.Outcome State Fault Refusal :=
  runLane s (fun g => do
    incOk s g
    let s' := s.setDc g (fun l => if s.active g l then b2n (!s.guard g h l) else s.dcOf g l + 1)
    pure (s'.skipOr g off.toNat))

/-- lelse (R39). -/
def execLelse (_ : Sched) (off : BitVec 20) (s : State) : Host.Outcome State Fault Refusal :=
  runLane s (fun g =>
    let s' := s.setDc g (fun l => match s.dcOf g l with
      | 0 => 1
      | 1 => 0
      | n => n)
    .ok (s'.skipOr g off.toNat))

/-- lendif (R39). -/
def execLendif (_ : Sched) (s : State) : Host.Outcome State Fault Refusal := runLane s (fun g => .ok ((s.dropDc g).ladv g))

/-- The counts on entry to a loop: every inactive lane's rises (R40, R43). -/
def enterLoop (s : State) (g : Nat) : R State := do
  incOk s g
  pure (s.setDc g (fun l => if s.active g l then 0 else s.dcOf g l + 1))

/-- lloop (R40). -/
def execLloop (_ : Sched) (s : State) : Host.Outcome State Fault Refusal :=
  runLane s (fun g => do
    let s ← enterLoop s g
    pure (s.ladv g))

/-- The lanes that leave: active, with the condition true. -/
def State.leaving (s : State) (g : Nat) (h : Hdr) : List Nat := s.taking g h

/-- lbreak (R40). -/
def execLbreak (h : Hdr) (n : BitVec 8) (s : State) : Host.Outcome State Fault Refusal :=
  runLane s (fun g => do
    legal (n != 255)
    let l := s.leaving g h
    pure ((s.setDc g (fun k => if l.contains k then n.toNat + 1 else s.dcOf g k)).ladv g))

/-- lcont (R40). -/
def execLcont (h : Hdr) (n : BitVec 8) (s : State) : Host.Outcome State Fault Refusal :=
  runLane s (fun g => do
    legal (n != 255)
    let l := s.leaving g h
    let s := s.setDc g (fun k => if l.contains k then n.toNat + 1 else s.dcOf g k)
    pure ((s.onGrp g (fun x => { x with cm := x.cm ||| laneMask l })).ladv g))

/-- The branch back of a loop's closer: ILLEGAL below index 0 (R213). -/
def backTo (s : State) (g off : Nat) : R State := do
  legal (off ≤ s.lpc g)
  pure (s.lgoto g (s.lpc g - off))

/-- lendloop (R40). -/
def execLendloop (_ : Sched) (off : BitVec 20) (s : State) : Host.Outcome State Fault Refusal :=
  runLane s (fun g =>
    let s' := s.clearCm g
    if s'.anyActive g then backTo s' g off.toNat else .ok ((s'.dropDc g).ladv g))

/-! ## Refill loops (R42 to R44, R213, R214) -/

/-- refill_pull of R43 for the asking lanes, rising: one operation on the queue. -/
def State.refillPull (s : State) (g iq : Nat) (d : VReg) (want : List Nat) : State :=
  let tid := (s.grp g).team
  let q := (s.team tid).queue iq
  let items := q.take want.length
  let got := want.zip items
  let s := s.onTeam tid (fun t => t.setQueue iq (q.drop want.length))
  let s := s.setDc g (fun l => if want.contains l then b2n (!(got.any (fun e => e.1 == l))) else s.dcOf g l)
  (s.wvs g d.toNat (got.map (fun e : Nat × GWord => (e.1, e.2.setWidth 32)))).wvs g (d.toNat + 1)
    (got.map (fun e : Nat × GWord => (e.1, (e.2 >>> 32).setWidth 32)))

/-- lloop.refill (R43): on entry by fall-through, or on arrival by its closer's branch. -/
def execLloopRefill (_ : Sched) (iq : BitVec 5) (d : VReg) (s : State) : Host.Outcome State Fault Refusal :=
  runLane s (fun g => do
    needRegs s g [(d, 2)]
    legal (iq.toNat < (s.teamOf g).niq)
    if (s.grp g).refillArr then
      let want := indices 32 (fun l => s.dcOf g l == 1 && !(s.grp g).cm.getLsbD l)
      pure ((s.refillPull g iq.toNat d want).ladv g)
    else do
      let want := indices 32 (fun l => s.active g l)
      let s ← enterLoop s g
      pure ((s.refillPull g iq.toNat d want).ladv g))

/-- lendloop of a refill loop (R44). -/
def execLendloopRefill (_ : Sched) (iq : BitVec 5) (off : BitVec 20) (s : State) : Host.Outcome State Fault Refusal :=
  runLane s (fun g => do
    legal (iq.toNat < (s.teamOf g).niq)
    let s' := s.clearCm g
    let one := (List.range 32).any (fun l => s'.dcOf g l == 1)
    if s'.anyActive g || (one && !((s.teamOf g).queue iq.toNat).isEmpty) then do
      let t ← backTo s' g off.toNat
      pure (t.onGrp g (fun x => { x with refillArr := true }))
    else pure ((s'.dropDc g).ladv g))

/-! ## The end of a block (R30, R168, R215) -/

/-- The block's result is posted, or dropped, and the lane stream holds no block. -/
def State.endBlock (s : State) (g : Nat) : State :=
  s.onGrp g (fun x =>
    let x := { x with lwait := .none, hazards := [], ringM := 0, ringL := 0, ringF := [], refillArr := false }
    if x.sys then
      match x.hblock with
      | some e => { x with hblock := none, hresult := if e.nr then x.hresult else x.hresult ++ [e.result] }
      | none => x
    else
      match x.laneQ.find? (fun e => !e.posted) with
      | none => { x with started := false }
      | some e =>
        { x with started := false,
                 laneQ := x.laneQ.takeWhile (fun e => e.posted) ++ (if e.nr then [] else [{ e with posted := true }])
                   ++ (x.laneQ.dropWhile (fun e => e.posted)).drop 1 })

/-- lend (R30): after every ring is empty (R168); a deferred future load that holds it off is the FUTURE stall (R50, 07 R171). -/
def execLend (s : State) : Host.Outcome State Fault Refusal :=
  runLane s (fun g => if (retireF (s.grp g).ringF).isEmpty then .ok (s.endBlock g) else waitL s g .future)

/-- Records the result word of the block. -/
def State.setResult (s : State) (g : Nat) (w : Word) : State :=
  s.onGrp g (fun x =>
    if x.sys then { x with hblock := x.hblock.map (fun e => { e with result := w }) }
    else
      { x with laneQ := (x.laneQ.takeWhile (fun e => e.posted)) ++
                 (match x.laneQ.dropWhile (fun e => e.posted) with
                  | [] => []
                  | e :: t => { e with result := w } :: t) })

/-- vyield (R215). -/
def execVyield (h : Hdr) (a : VReg) (s : State) : Host.Outcome State Fault Refusal :=
  runLane s (fun g => do
    needRegs s g [(a, 1)]
    match s.taking g h with
    | [] => pure (s.ladv g)
    | l :: _ => pure ((s.setResult g (s.rv g a.toNat l)).ladv g))

/-! ## Lane-varying calls (R45, R216) -/

/-- Posts the items of the lanes, rising, until a queue is full: the lanes posted, and whether all have. That no other group's queue
operation falls between the posts of lanes that have room is the model's choice (log 100). -/
def State.postItems (s : State) (g : Nat) (t a : VReg) (done : Word) : List Nat → State × Word × Bool
  | [] => (s, done, true)
  | l :: ls =>
    if done.getLsbD l then State.postItems s g t a done ls
    else
      let k := (s.rv g t.toNat l).toNat % 32
      let tid := (s.grp g).team
      let q := (s.team tid).queue k
      if 256 ≤ q.length then (s, done, false)
      else
        let item : GWord := s.rv g (a.toNat + 1) l ++ s.rv g a.toNat l
        State.postItems (s.onTeam tid (fun x => x.setQueue k (q ++ [item]))) g t a (done ||| (1#32 <<< l)) ls

/-- lcall.q (R45): a post to a full queue waits, and the posts made stay made. -/
def execLcallQ (h : Hdr) (t a : VReg) (s : State) : Host.Outcome State Fault Refusal :=
  runLane s (fun g => do
    needRegs s g [(t, 1), (a, 2)]
    let lanes := s.taking g h
    let ok (l : Nat) : Bool :=
      let w := (s.rv g t.toNat l).toNat
      decide (w < 32) && decide (w < (s.teamOf g).niq) && (s.teamOf g).boundQ w
    legalLanes (lanes.filter (fun l => !ok l))
    let (s, done, all) := s.postItems g t a (s.grp g).posted lanes
    if all then pure ((s.onGrp g (fun x => { x with posted := 0 })).ladv g)
    else waitL (s.onGrp g (fun x => { x with posted := done })) g .laneq)

/-! ## Fences (R217) -/

/-- vfence (R217, 04 R85). -/
def execVfence (_ : Sched) (sc : Scope) (s : State) : Host.Outcome State Fault Refusal :=
  runLane s (fun g =>
    if s.unanswered g then waitL s g .future
    else if !wideScope sc then .ok (s.ladv g)
    else if s.reinEarlier g true || (sc == .rein && s.reinStale g) then waitL s g .latency
    else .ok ((s.fenceWide (coreOf g)).ladv g))

end Sys2Proof.Machine
end

