-- ==== Sys2Proof/Machine/LaneMem.lean ====
section
/-! DEFINITION. Lane loads, stores, gathers, scatters and atomics (09 R218 to R221, R225). -/

namespace Sys2Proof.Machine

open Sys2Proof

/-! ## Offsets and requests (R218) -/

/-- The offset of a lane: zext(v[SA]) + sext(OFF23). -/
def laneOff (s : State) (g : Nat) (a : VReg) (off : BitVec 23) (l : Nat) : Int := (s.rv g a.toNat l).toNat + off.toInt

/-- The gather offset of a lane. STRIDE and ESIZE of an invalid slot are free (log 6): the access traps BOUNDS whatever they are. -/
def gatherOff (s : State) (g : Nat) (bn : Slot) (a b : VReg) (off : BitVec 23) (l : Nat) : Int :=
  let (stride, esize) := match s.slotRec g bn with
    | some r => (r.stride.toNat, r.esize.toNat)
    | none => ((Config.freeWord s.freeCtr 6000).toNat, (Config.freeWord s.freeCtr 6001).toNat % 8)
  (s.rv g b.toNat l).toNat * stride + (s.rv g a.toNat l).toNat * 2 ^ esize + off.toInt

/-- The requests of the lanes that take part, rising. -/
def laneReqs (s : State) (g : Nat) (h : Hdr) (n : Nat) (f : Nat → Int) : List Req :=
  (s.taking g h).map (fun l => { lane := some l, off := f l, n := n })

/-- The lane of an access. -/
def Acc.laneNo (x : Acc) : Nat := x.lane.getD 0

/-- Registers that n bytes take. -/
def regsOf (n : Nat) : Nat := (n + 3) / 4

/-- Writes n bytes into the register, pair or quad of a lane, zero-extended. -/
def State.putLane (s : State) (g : Nat) (d : VReg) (n l : Nat) (bs : List Byte) : State :=
  (List.range (regsOf n)).foldl (fun s k => s.wv g (d.toNat + k) l (BitVec.ofNat 32 (ofBytes ((bs.drop (4 * k)).take 4)))) s

/-- The low n bytes of the register, pair or quad of a lane. -/
def State.getLane (s : State) (g : Nat) (r : VReg) (n l : Nat) : List Byte :=
  ((List.range (regsOf n)).flatMap (fun k => toBytes 4 (s.rv g (r.toNat + k) l).toNat)).take n

/-! ## Plain loads and stores -/

/-- The bytes that the accesses of a load return; CHECKFAIL for the first that reads a poisoned sector. -/
def loadLanes (g : Nat) (na : Bool) : State → List Acc → R (State × List (Nat × List Byte))
  | s, [] => .ok (s, [])
  | s, x :: l =>
    if x.tr.rein && s.replicaBad (deckOf g) x.tr.pa x.n then .error (trapAt cCHECKFAIL 0 x.lane x.va)
    else if x.tr.rein then do
      let (t, r) ← loadLanes g na s l
      pure (t, (x.laneNo, s.replica (deckOf g) x.tr.pa x.n) :: r)
    else
      let (s, b, bad) := s.loadAt (coreOf g) na x.tr x.n
      if bad then .error (trapAt cCHECKFAIL 0 x.lane x.va)
      else do
        let (t, r) ← loadLanes g na s l
        pure (t, (x.laneNo, b) :: r)

/-- A global load of n bytes a lane, at offsets f. -/
def laneLoad (s : State) (g : Nat) (h : Hdr) (bn : Slot) (na : Bool) (n : Nat) (f : Nat → Int) :
    R (State × List (Nat × List Byte)) := do
  let (s, acc) ← checkGlobal s g bn .load (fun q => q.n) anyPage (laneReqs s g h n f)
  if acc.any (fun x => s.reinWait g x.tr x.n) then waitL s g .latency
  else loadLanes g (na || s.noallocOf g bn) s acc

/-- Writes what a load returned, zero-extended. -/
def State.putLanes (s : State) (g : Nat) (d : VReg) (n : Nat) (r : List (Nat × List Byte)) : State :=
  r.foldl (fun s e => s.putLane g d n e.1 e.2) s

/-- Writes what a load returned, sign-extended. -/
def State.putSigned (s : State) (g : Nat) (d : VReg) (n : Nat) (r : List (Nat × List Byte)) : State :=
  s.wvs g d.toNat (r.map (fun e => (e.1, w32 (sextI (8 * n) (ofBytes e.2)))))

/-- The lines of the window that stores touch, in the order of the lowest lane of each (R219). -/
def reinLines (l : List (Acc × List Byte)) : List Nat := l.foldl (fun k e => if k.contains (e.1.tr.pa / 128) then k else k ++ [e.1.tr.pa / 128]) []

/-- The window writes of a store: one slot a line (R106, R219), a higher lane's bytes over a lower lane's. -/
def reinStores (s : State) (g : Nat) (l : List (Acc × List Byte)) : List RWrite :=
  (reinLines l).map (fun line =>
    let (data, mask) := (l.filter (fun e => e.1.tr.pa / 128 == line)).foldl (fun a e =>
      let (w, m) := lineWords (e.1.tr.pa % 128) e.2
      ((List.range 32).map (fun k => if m.getLsbD k then w.getD k 0 else a.1.getD k 0), a.2 ||| m)) (List.replicate 32 0, 0)
    reinWrite s g true (line * 128) 1 0 mask data .none)

/-- Puts window writes into the deck's send queue together; the stream waits as latency until there is room for all (04 R110,
log 18). -/
def laneSendRein (s : State) (g : Nat) (l : List RWrite) : R State :=
  let d := deckOf g
  if l.isEmpty then .ok s
  else if 64 < (s.deck d).sendQ.length + l.length then waitL s g .latency
  else .ok (s.onDeck d (fun x => { x with sendQ := x.sendQ ++ l }))

/-- A global store of n bytes a lane from a register, at offsets f: a higher lane's byte over a lower lane's (R60). -/
def laneStore (s : State) (g : Nat) (h : Hdr) (bn : Slot) (na : Bool) (src : VReg) (n : Nat) (f : Nat → Int) : R State := do
  let (s, acc) ← checkGlobal s g bn .store (fun q => q.n) reinNarrow (laneReqs s g h n f)
  if acc.any (fun x => x.tr.rein && s.reinStale g) then waitL s g .latency
  else do
    let l := acc.map (fun x => (x, s.getLane g src n x.laneNo))
    let s ← laneSendRein s g (reinStores s g (l.filter (fun e => e.1.tr.rein)))
    pure ((l.filter (fun e => !e.1.tr.rein)).foldl (fun s e => s.storeAt (coreOf g) (na || s.noallocOf g bn) e.1.tr e.2) s)

/-- vld (R219). -/
def execVld (h : Hdr) (d : VReg) (sz : Size) (bn : Slot) (a : VReg) (off : BitVec 23) (na : Bool) (s : State) : Host.Outcome State Fault Refusal :=
  runLane s (fun g => do
    let n := sizeBytes sz
    needRegs s g [(a, 1), (d, regsOf n)]
    let (s, r) ← laneLoad s g h bn na n (laneOff s g a off)
    pure ((s.putLanes g d n r).ladv g))

/-- vld.i8 and vld.i16 (R219). -/
def execVldSigned (h : Hdr) (d : VReg) (sz : Size) (bn : Slot) (a : VReg) (off : BitVec 23) (na : Bool) (s : State) :
    Host.Outcome State Fault Refusal :=
  runLane s (fun g => do
    let n := sizeBytes sz
    needRegs s g [(a, 1), (d, 1)]
    let (s, r) ← laneLoad s g h bn na n (laneOff s g a off)
    pure ((s.putSigned g d n r).ladv g))

/-- vst (R219). -/
def execVst (h : Hdr) (src : VReg) (sz : Size) (bn : Slot) (a : VReg) (off : BitVec 23) (na : Bool) (s : State) : Host.Outcome State Fault Refusal :=
  runLane s (fun g => do
    let n := sizeBytes sz
    needRegs s g [(a, 1), (src, regsOf n)]
    let s ← laneStore s g h bn na src n (laneOff s g a off)
    pure (s.ladv g))

/-- vgath (R219). -/
def execVgath (h : Hdr) (d b : VReg) (sz : Size) (bn : Slot) (a : VReg) (off : BitVec 23) (na : Bool) (s : State) : Host.Outcome State Fault Refusal :=
  runLane s (fun g => do
    let n := sizeBytes sz
    needRegs s g [(a, 1), (b, 1), (d, regsOf n)]
    let (s, r) ← laneLoad s g h bn na n (gatherOff s g bn a b off)
    pure ((s.putLanes g d n r).ladv g))

/-- vscat (R219). -/
def execVscat (h : Hdr) (src b : VReg) (sz : Size) (bn : Slot) (a : VReg) (off : BitVec 23) (na : Bool) (s : State) : Host.Outcome State Fault Refusal :=
  runLane s (fun g => do
    let n := sizeBytes sz
    needRegs s g [(a, 1), (b, 1), (src, regsOf n)]
    let s ← laneStore s g h bn na src n (gatherOff s g bn a b off)
    pure (s.ladv g))

/-! ## Scratchpad loads and stores -/

/-- A scratchpad load of n bytes a lane: the window's bytes, or those that the stream has loaded early (04 R87, log 3). -/
def scratchLoad (s : State) (g : Nat) (h : Hdr) (a : VReg) (off : BitVec 23) (n : Nat) : R (State × List (Nat × List Byte)) := do
  let q := laneReqs s g h n (laneOff s g a off)
  checkScratch s g .load q
  pure (q.foldl (fun t x => t.spend true x.off.toNat n) s,
    q.map (fun x => (x.lane.getD 0, s.heed true x.off.toNat ((s.teamOf g).winBytes x.off.toNat n))))

/-- sld (R219). -/
def execSld (h : Hdr) (d : VReg) (sz : Size) (a : VReg) (off : BitVec 23) (s : State) : Host.Outcome State Fault Refusal :=
  runLane s (fun g => do
    let n := sizeBytes sz
    needRegs s g [(a, 1), (d, regsOf n)]
    let (s, r) ← scratchLoad s g h a off n
    pure ((s.putLanes g d n r).ladv g))

/-- sld.i8 and sld.i16 (R219). -/
def execSldSigned (h : Hdr) (d : VReg) (sz : Size) (a : VReg) (off : BitVec 23) (s : State) : Host.Outcome State Fault Refusal :=
  runLane s (fun g => do
    let n := sizeBytes sz
    needRegs s g [(a, 1), (d, 1)]
    let (s, r) ← scratchLoad s g h a off n
    pure ((s.putSigned g d n r).ladv g))

/-- sst (R219). -/
def execSst (h : Hdr) (src : VReg) (sz : Size) (a : VReg) (off : BitVec 23) (s : State) : Host.Outcome State Fault Refusal :=
  runLane s (fun g => do
    let n := sizeBytes sz
    needRegs s g [(a, 1), (src, regsOf n)]
    let q := laneReqs s g h n (laneOff s g a off)
    checkScratch s g .store q
    let w := q.map (fun x => (x.off.toNat, s.getLane g src n (x.lane.getD 0)))
    let s := q.foldl (fun t x => t.spend true x.off.toNat n) s
    pure ((s.onTeam (s.grp g).team (fun t => t.winStore w)).ladv g))

/-! ## Atomics (R220, R221) -/

/-- The stream's acquire of a record has been answered. -/
def LWait.acked : LWait → Bool
  | .presettle _ a => a
  | .none | .stall _ | .rein _ _ _ | .flip => false

/-- Performs the lanes' atomics, rising, at their placements: the old values. -/
def atomLanes (g : Nat) (na : Bool) (op : AtomOp) (w : Nat) (b c : Nat → Nat) : State → List Acc → State × List (Nat × List Byte)
  | s, [] => (s, [])
  | s, x :: l =>
    let (s, old) := s.atomAt (coreOf g) na op w (b x.laneNo) (c x.laneNo) x.tr
    let (s, r) := atomLanes g na op w b c s l
    (s, (x.laneNo, toBytes w old) :: r)

/-- The window write of one lane's atomic. -/
def reinAtom (s : State) (g : Nat) (op : AtomOp) (rel acq : Bool) (m : Word) (d : VReg) (b : Nat) (x : Acc) : RWrite :=
  let o := x.tr.pa % 128 / 4
  { reinWrite s g true x.tr.pa (if rel then 4 else 3) op.code.toNat (1#32 <<< o)
      ((List.range 32).map (fun k => if k == o then BitVec.ofNat 32 b else 0)) (.v d.toNat x.laneNo) with mark := m, acq := acq }

/-- The first record of another core at the lanes' variables. -/
def foreignOf (s : State) (g : Nat) (l : List Acc) : Option Rec := l.findSome? (fun x => s.varRec g x.tr)

/-- The address and the lane of the first variable with another core's record. -/
def acqVaOf (s : State) (g : Nat) (l : List Acc) : GWord := ((l.find? (fun x => (s.varRec g x.tr).isSome)).map (fun x => g64 x.va)).getD 0
def acqLaneOf (s : State) (g : Nat) (l : List Acc) : Nat := ((l.find? (fun x => (s.varRec g x.tr).isSome)).map Acc.laneNo).getD 0

/-- Settles the records of other cores at the lanes' variables (R92). -/
def settleForeign (s : State) (g : Nat) (l : List Acc) : State :=
  l.foldl (fun s x => match s.varRec g x.tr with
    | some r => s.settle r.core r.mark
    | none => s) s

/-- The lines of accesses, each once. -/
def distinctLines (l : List Acc) : List Nat := (l.map (fun x => x.tr.pa / 128)).dedup

/-- The release steps of a lane instruction on the lines of its variables, with one mark (R91, R220). -/
def releaseLines (s : State) (c : Nat) (m : Word) (sys : Bool) (l : List Acc) : State :=
  (distinctLines l).foldl (fun s k => s.releaseAt c (k * 128) m sys) s

/-- vatom (R220). An acquire that meets another core's record has it settled before the atomic is performed (log 14). -/
def execVatom (h : Hdr) (op : AtomOp) (w64 : Bool) (ord : Ord) (sc : Scope) (d : VReg) (bn : Slot) (a : VReg) (off : BitVec 23)
    (b c : VReg) (s : State) : Host.Outcome State Fault Refusal :=
  runLane s (fun g => do
    let w := if w64 then 8 else 4
    let k := coreOf g
    let wide := wideScope sc && ord != .plain
    needRegs s g ([(a, 1), (d, regsOf w), (b, regsOf w)] ++ (if op == .cas then [(c, regsOf w)] else []))
    let (s, acc) ← checkGlobal s g bn .atomic (fun q => q.n) (fun s y => atomBad s k op w wide y.tr) (laneReqs s g h w (laneOff s g a off))
    let opb (l : Nat) : Nat := ofBytes (s.getLane g b w l)
    let opc (l : Nat) : Nat := ofBytes (s.getLane g c w l)
    let win := acc.filter (fun x => x.tr.rein)
    let mem := acc.filter (fun x => !x.tr.rein)
    let host := mem.any (fun x => pteApl x.tr.e == 2)
    let sc' := if host then .sys else sc
    let rel := ordRel ord && wideScope sc'
    let acq := ordAcq ord && wideScope sc'
    if acc.isEmpty then pure (s.ladv g)
    else if ordRel ord && s.unanswered g then waitL s g .future
    else if (rel && s.reinEarlier g true) || ((!win.isEmpty || (sc == .rein && ord != .plain)) && s.reinStale g) then waitL s g .latency
    else
      match mem.find? (fun x => atomPoisoned s k w x.tr) with
      | some x => .error (trapAt cCHECKFAIL 0 x.lane x.va)
      | none =>
        match if acq && !(s.grp g).lwait.acked then foreignOf s g mem else none with
        | some r => .error (.wait ((s.requestSettle k r (some (g, true))).onGrp g (fun z => { z with
            lwait := .presettle r false, acqVa := acqVaOf s g mem, acqLane := acqLaneOf s g mem })))
        | none => do
          let m := if rel then (s.core k).cm else 0
          let s ← laneSendRein s g (win.map (fun x => reinAtom s g op rel acq m d (opb x.laneNo) x))
          let s := if rel then (s.markStep k).2 else s
          let keep := !acq || mem.all (fun x => s.varOwn g x.tr)
          let s := if acq then settleForeign s g mem else s
          let s := if rel then releaseLines s k m (sc' == .sys) mem else s
          let (s, r) := atomLanes g (s.noallocOf g bn) op w opb opc s mem
          let s := if rel then mem.foldl (fun s x => s.sysPush sc' x.tr.pa) s else s
          let s := if keep then s else s.invShared k
          if win.isEmpty then pure ((s.putLanes g d w r).ladv g)
          else
            let vals := r.flatMap (fun e => (List.range (regsOf w)).map (fun j =>
              (d.toNat + j, e.1, BitVec.ofNat 32 (ofBytes ((e.2.drop (4 * j)).take 4)))))
            let i : Instr := .vatom h op w64 ord sc d bn a off b c
            .error (.wait (s.onGrp g (fun z => { z with lwait := .rein win.length vals i }))))

end Sys2Proof.Machine
end

