-- ==== Sys2Proof/Machine/LaneFuture.lean ====
section
/-! DEFINITION. Future words and marked blocks (03 R73 to R78, 09 R222 to R224). -/

namespace Sys2Proof.Machine

open Sys2Proof

/-! ## Future words (R73, R74, R222, R223) -/

/-- A page that is not slice-pinned takes ACCESS (R63). -/
def futBad (_ : State) (x : Acc) : Bool := pteHome x.tr.e != 2

/-- The future word of an access: its physical address over 16. -/
def Acc.word (x : Acc) : Nat := x.tr.pa / 16

/-- The slice at which a word is homed. -/
def State.wordSlice (s : State) (g w : Nat) : Nat := s.lineSlice (s.codeOf g) (16 * w)

/-- Deferral entries at a slice (R74). -/
def State.deferCount (s : State) (sl : Nat) : Nat := (s.deferred.filter (fun d => s.wordSlice d.gid (d.pa / 16) == sl)).length

/-- One lane's future load at its slice: answered, deferred or refused. -/
def State.futLoad (s : State) (g fid : Nat) (take : Bool) (d : VReg) (p : PReg) (x : Acc) : State :=
  let l := x.laneNo
  if s.fullWords.contains x.word then
    let s := (s.putLane g d 16 l (s.homeBytes (16 * x.word) 16)).wps g p [(l, true)]
    if take then { s with fullWords := s.fullWords.filter (· != x.word) } else s
  else
    let bit : Word := 1#32 <<< l
    let defer (s : State) : State := s.onGrp g (fun y => { y with ringF := y.ringF.map (fun e => if e.1 == fid then (e.1, e.2 ||| bit) else e) })
    if s.deferred.any (fun e => e.gid == g && e.fid == fid && e.pa == 16 * x.word) then
      defer { s with deferred := s.deferred.map (fun e =>
        if e.gid == g && e.fid == fid && e.pa == 16 * x.word then { e with lanes := e.lanes ||| bit } else e) }
    else if 256 ≤ s.deferCount (s.wordSlice g x.word) then s.wps g p [(l, false)]
    else
      let bank := s.inBank g && decide (240 ≤ d.toNat)
      let e : Defer := { pa := 16 * x.word, gid := g, fid := fid, take := take, lanes := bit, d := d.toNat, p := p.toNat, bank := bank }
      defer { s with deferred := s.deferred ++ [e] }

/-- A future load of the lanes that take part (R222). -/
def futLoads (s : State) (h : Hdr) (take : Bool) (d : VReg) (p : PReg) (bn : Slot) (a : VReg) (off : BitVec 23) :
    Host.Outcome State Fault Refusal :=
  runLane s (fun g => do
    let c := coreOf g
    needRegs s g [(a, 1), (d, 4)]
    let (s, acc) ← checkGlobal s g bn .load (fun q => q.n) futBad (laneReqs s g h 16 (laneOff s g a off))
    match acc.find? (fun x => s.poisonedIn (s.codeOf g) x.tr.pa 16) with
    | some x => .error (trapAt cCHECKFAIL 0 x.lane x.va)
    | none =>
      let full := acc.filter (fun x => s.fullWords.contains x.word)
      match if (s.grp g).lwait.acked then none else foreignOf s g full with
      | some r => .error (.wait ((s.requestSettle c r (some (g, true))).onGrp g (fun z => { z with
          lwait := .presettle r false, acqVa := acqVaOf s g full, acqLane := acqLaneOf s g full })))
      | none =>
        let s := acc.foldl (fun s x => (s.flushLine c (x.tr.pa / 128)).l2For (s.codeOf g) x.tr) s
        let keep := full.all (fun x => s.varOwn g x.tr)
        let s := settleForeign s g full
        let fid := s.freeCtr
        let s := s.tick.onGrp g (fun y => { y with ringF := y.ringF ++ [(fid, 0)] })
        let s := acc.foldl (fun s x => s.futLoad g fid take d p x) s
        pure ((if keep then s else s.invShared c).ladv g))

/-- vldf (R222). -/
def execVldf (h : Hdr) (_ : Scope) (d : VReg) (p : PReg) (bn : Slot) (a : VReg) (off : BitVec 23) (s : State) : Host.Outcome State Fault Refusal :=
  futLoads s h false d p bn a off

/-- vldf.take (R222). -/
def execVldfTake (h : Hdr) (_ : Scope) (d : VReg) (p : PReg) (bn : Slot) (a : VReg) (off : BitVec 23) (s : State) : Host.Outcome State Fault Refusal :=
  futLoads s h true d p bn a off

/-- Answers some lanes of a deferral entry with a word's bytes, and performs the acquire steps at the waiting group's core (R74,
R222): the settle is performed with the answer. -/
def State.answer (s : State) (e : Defer) (lanes : Word) : State :=
  let bs := s.homeBytes e.pa 16
  let l := indices 32 (fun k => lanes.getLsbD k)
  let word (j : Nat) : Word := BitVec.ofNat 32 (ofBytes ((bs.drop (4 * j)).take 4))
  let s := l.foldl (fun s k => (List.range 4).foldl (fun s j =>
    if e.bank then s.onBank e.gid (fun b => { b with hv := b.hv.put ((e.d + j - 240) * 32 + k) (word j) })
    else s.onGrp e.gid (fun x => { x with v := x.v.set 0 ((e.d + j) * 32 + k) (word j) })) s) s
  let s := s.onGrp e.gid (fun x => { x with
    p := if e.p == 0 then x.p else x.p.set 0 e.p (x.p.get 0 e.p ||| lanes),
    ringF := x.ringF.map (fun f => if f.1 == e.fid then (f.1, f.2 &&& ~~~lanes) else f) })
  match s.foreignRec (coreOf e.gid) e.pa with
  | some r => (s.settle r.core r.mark).invShared (coreOf e.gid)
  | none => if s.ownRec (coreOf e.gid) e.pa then s else s.invShared (coreOf e.gid)

/-- Answers the deferred entries of a word that is filled, in their order, up to the first take (R74, R223). -/
def State.answerAll (pa : Nat) : List Defer → State → State
  | [], s => s
  | e :: t, s =>
    if e.pa != pa then State.answerAll pa t s
    else if e.take then
      let l := (indices 32 (fun k => e.lanes.getLsbD k)).headD 0
      let left := e.lanes &&& ~~~(1#32 <<< l)
      let s := s.answer e (1#32 <<< l)
      { s with fullWords := s.fullWords.filter (· != pa / 16),
               deferred := if left == 0 then s.deferred.erase e else s.deferred.replace e { e with lanes := left } }
    else
      let s := s.answer e e.lanes
      State.answerAll pa t { s with deferred := s.deferred.erase e }

/-- One lane's future store: it fills an empty word and answers its deferred entries. -/
def State.futStore (s : State) (g : Nat) (m : Word) (src : VReg) (p : PReg) (x : Acc) : State :=
  let s := (s.releaseAt (coreOf g) x.tr.pa m false).homeWrite (16 * x.word) (s.getLane g src 16 x.laneNo)
  let s := ({ s with fullWords := x.word :: s.fullWords } : State).wps g p [(x.laneNo, true)]
  State.answerAll (16 * x.word) s.deferred s

/-- The lowest lane of each word fills it when it is empty; every other lane finds it full (R223). -/
def futStores (g : Nat) (m : Word) (src : VReg) (p : PReg) : List Nat → State → List Acc → State
  | _, s, [] => s
  | seen, s, x :: l =>
    if seen.contains x.word || s.fullWords.contains x.word then futStores g m src p (x.word :: seen) (s.wps g p [(x.laneNo, false)]) l
    else futStores g m src p (x.word :: seen) (s.futStore g m src p x) l

/-- vstf (R73, R222): a release, performed once. -/
def execVstf (h : Hdr) (_ : Scope) (src : VReg) (p : PReg) (bn : Slot) (a : VReg) (off : BitVec 23) (s : State) : Host.Outcome State Fault Refusal :=
  runLane s (fun g => do
    let c := coreOf g
    needRegs s g [(a, 1), (src, 4)]
    let (s, acc) ← checkGlobal s g bn .store (fun q => q.n) futBad (laneReqs s g h 16 (laneOff s g a off))
    let join (s : State) : State := s.tick.onGrp g (fun y => { y with ringF := y.ringF ++ [(s.freeCtr, 0)] })
    if acc.isEmpty then pure ((join s).ladv g)
    else if s.unanswered g then waitL s g .future
    else if s.reinEarlier g true then waitL s g .latency
    else
      let s := acc.foldl (fun s x => s.flushLine c (x.tr.pa / 128)) s
      let (m, s) := s.markStep c
      pure ((join (futStores g m src p [] s acc)).ladv g))

/-! ## Marked blocks (R76 to R78, R224) -/

/-- A page that is neither cached nor slice-pinned takes ACCESS (R76). -/
def markBad (_ : State) (x : Acc) : Bool := pteHome x.tr.e != 0 && pteHome x.tr.e != 2

/-- The virtual addresses of the lanes' accesses, when the slot holds a record. -/
def laneVas (s : State) (g : Nat) (h : Hdr) (bn : Slot) (f : Nat → Int) : List Int :=
  match s.slotRec g bn with
  | some b => (s.taking g h).map (fun l => b.address (f l))
  | none => []

/-- Records a mark: it replaces the group's own, and the oldest of a slice with 64 is dropped (R76, R78). -/
def State.addMark (s : State) (m : Mark) : State :=
  let l := s.marks.filter (fun x => x.gid != m.gid)
  let l := if 64 ≤ (l.filter (fun x => x.slice == m.slice)).length then l.eraseP (fun x => x.slice == m.slice) else l
  { s with marks := l ++ [m] }

/-- vmark (R76). -/
def execVmark (h : Hdr) (d : VReg) (sz : Size) (bn : Slot) (a : VReg) (off : BitVec 23) (s : State) : Host.Outcome State Fault Refusal :=
  runLane s (fun g => do
    let c := coreOf g
    let n := sizeBytes sz
    needRegs s g [(a, 1), (d, regsOf n)]
    let vas := laneVas s g h bn (laneOff s g a off)
    legalLanes ((((s.taking g h).zip vas).filter (fun e => e.2 / 512 != vas.headD 0 / 512)).map Prod.fst)
    let (s, acc) ← checkGlobal s g bn .load (fun q => q.n) markBad (laneReqs s g h n (laneOff s g a off))
    match acc.find? (fun x => s.poisonedIn (s.codeOf g) x.tr.pa n) with
    | some x => .error (trapAt cCHECKFAIL 0 x.lane x.va)
    | none =>
      match acc with
      | [] => pure (s.ladv g)
      | x0 :: _ =>
        let s := acc.foldl (fun s x => ((s.flushLine c (x.tr.pa / 128)).l2For (s.codeOf g) x.tr).snoopHost x.tr.pa false) s
        let s := s.addMark { gid := g, slice := s.lineSlice (s.codeOf g) x0.tr.pa, lines := distinctLines acc,
                             vlines := (acc.map (fun x => x.va / 128)).dedup }
        pure ((s.putLanes g d n (acc.map (fun x => (x.laneNo, s.homeBytes x.tr.pa n)))).ladv g))

/-- The mark that a group holds. -/
def State.markOf (s : State) (g : Nat) : Option Mark := s.marks.find? (fun m => m.gid == g)

/-- vcommit (R77). -/
def execVcommit (h : Hdr) (src : VReg) (p : PReg) (sz : Size) (bn : Slot) (a : VReg) (off : BitVec 23) (s : State) : Host.Outcome State Fault Refusal :=
  runLane s (fun g => do
    let c := coreOf g
    let n := sizeBytes sz
    needRegs s g [(a, 1), (src, regsOf n)]
    let vas := laneVas s g h bn (laneOff s g a off)
    legalLanes (match s.markOf g with
      | some m => (((s.taking g h).zip vas).filter (fun e => !m.vlines.contains (e.2 / 128).toNat)).map Prod.fst
      | none => [])
    let (s, acc) ← checkGlobal s g bn .store (fun q => q.n) markBad (laneReqs s g h n (laneOff s g a off))
    if acc.isEmpty then pure (s.ladv g)
    else
      let ok := (s.markOf g).isSome
      let s := s.dropMark g
      let l := acc.map (fun x => (x, s.getLane g src n x.laneNo))
      let s := if ok then l.foldl (fun s e => (((s.l2For (s.codeOf g) e.1.tr).snoopHost e.1.tr.pa true).homeWrite e.1.tr.pa e.2).l1Patch c (e.1.tr.pa / 128) (e.1.tr.pa % 128) e.2) s else s
      pure ((s.wps g p (acc.map (fun x => (x.laneNo, ok)))).ladv g))

end Sys2Proof.Machine
end

