-- ==== Sys2Proof/Machine/LaneInt.lean ====
section
/-! DEFINITION. Lane integer arithmetic, logic, bit fields, moves, compares, predicates and selects (09 R205 to R211). -/

namespace Sys2Proof.Machine

open Sys2Proof

/-- The signed quotient rounded toward zero, with the cases of R207. -/
def divI (a b : Word) : Word := if b = 0 then 0xFFFFFFFF else w32 (a.toInt.tdiv b.toInt)
/-- The signed remainder (R207). -/
def remI (a b : Word) : Word := if b = 0 then a else w32 (a.toInt.tmod b.toInt)
/-- The unsigned quotient (R207). -/
def divN (a b : Word) : Word := if b = 0 then 0xFFFFFFFF else BitVec.ofNat 32 (a.toNat / b.toNat)
/-- The unsigned remainder (R207). -/
def remN (a b : Word) : Word := if b = 0 then a else BitVec.ofNat 32 (a.toNat % b.toNat)

/-- lo and the clamped length of a field word (R208). -/
def fieldLo (b : Word) : Nat := bits b.toNat 0 5
/-- n of R208. -/
def fieldN (b : Word) : Nat := min (bits b.toNat 8 6) (32 - fieldLo b)

/-- zext(a >> lo, n) (R208). -/
def bfxWN (a b : Word) : Word := BitVec.ofNat 32 (bits a.toNat (fieldLo b) (fieldN b))
/-- sext(a >> lo, n) (R208). -/
def bfxWI (a b : Word) : Word := if fieldN b = 0 then 0 else w32 (sextI (fieldN b) (a.toNat >>> fieldLo b))
/-- c with the field replaced by a (R208). -/
def bfiW (a b c : Word) : Word :=
  let m : Word := BitVec.ofNat 32 ((2 ^ fieldN b - 1) * 2 ^ fieldLo b)
  (c &&& ~~~m) ||| ((a <<< fieldLo b) &&& m)

/-- vadd.i32 (R206). -/
def execVaddI32 (h : Hdr) (d a : VReg) (b : SrcB) (s : State) : Host.Outcome State Fault Refusal := laneAB s h d a b (fun a b => a + b)

/-- vsub.i32 (R206). -/
def execVsubI32 (h : Hdr) (d a : VReg) (b : SrcB) (s : State) : Host.Outcome State Fault Refusal := laneAB s h d a b (fun a b => a - b)

/-- vadd.sat.i32 (R206). -/
def execVaddSatI32 (h : Hdr) (d a : VReg) (b : SrcB) (s : State) : Host.Outcome State Fault Refusal := laneAB s h d a b (fun a b => satI32 (a.toInt + b.toInt))

/-- vsub.sat.i32 (R206). -/
def execVsubSatI32 (h : Hdr) (d a : VReg) (b : SrcB) (s : State) : Host.Outcome State Fault Refusal := laneAB s h d a b (fun a b => satI32 (a.toInt - b.toInt))

/-- vadd.sat.n32 (R206). -/
def execVaddSatN32 (h : Hdr) (d a : VReg) (b : SrcB) (s : State) : Host.Outcome State Fault Refusal := laneAB s h d a b (fun a b => satN32 ((a.toNat : Int) + b.toNat))

/-- vsub.sat.n32 (R206). -/
def execVsubSatN32 (h : Hdr) (d a : VReg) (b : SrcB) (s : State) : Host.Outcome State Fault Refusal := laneAB s h d a b (fun a b => satN32 ((a.toNat : Int) - b.toNat))

/-- vmul.i32 (R206). -/
def execVmulI32 (h : Hdr) (d a : VReg) (b : SrcB) (s : State) : Host.Outcome State Fault Refusal := laneAB s h d a b (fun a b => a * b)

/-- vmulh.i32 (R206): bits [63:32] of the signed product. -/
def execVmulhI32 (h : Hdr) (d a : VReg) (b : SrcB) (s : State) : Host.Outcome State Fault Refusal := laneAB s h d a b (fun a b => w32 (a.toInt * b.toInt / 2 ^ 32))

/-- vmulh.n32 (R206). -/
def execVmulhN32 (h : Hdr) (d a : VReg) (b : SrcB) (s : State) : Host.Outcome State Fault Refusal := laneAB s h d a b (fun a b => BitVec.ofNat 32 (a.toNat * b.toNat / 2 ^ 32))

/-- vdiv.i32 (R207). -/
def execVdivI32 (h : Hdr) (d a : VReg) (b : SrcB) (s : State) : Host.Outcome State Fault Refusal := laneAB s h d a b (fun a b => divI a b)

/-- vdiv.n32 (R207). -/
def execVdivN32 (h : Hdr) (d a : VReg) (b : SrcB) (s : State) : Host.Outcome State Fault Refusal := laneAB s h d a b (fun a b => divN a b)

/-- vrem.i32 (R207). -/
def execVremI32 (h : Hdr) (d a : VReg) (b : SrcB) (s : State) : Host.Outcome State Fault Refusal := laneAB s h d a b (fun a b => remI a b)

/-- vrem.n32 (R207). -/
def execVremN32 (h : Hdr) (d a : VReg) (b : SrcB) (s : State) : Host.Outcome State Fault Refusal := laneAB s h d a b (fun a b => remN a b)

/-- vmin.i32 (R206). -/
def execVminI32 (h : Hdr) (d a : VReg) (b : SrcB) (s : State) : Host.Outcome State Fault Refusal := laneAB s h d a b (fun a b => if a.sle b then a else b)

/-- vmax.i32 (R206). -/
def execVmaxI32 (h : Hdr) (d a : VReg) (b : SrcB) (s : State) : Host.Outcome State Fault Refusal := laneAB s h d a b (fun a b => if a.sle b then b else a)

/-- vmin.n32 (R206). -/
def execVminN32 (h : Hdr) (d a : VReg) (b : SrcB) (s : State) : Host.Outcome State Fault Refusal := laneAB s h d a b (fun a b => if a.ule b then a else b)

/-- vmax.n32 (R206). -/
def execVmaxN32 (h : Hdr) (d a : VReg) (b : SrcB) (s : State) : Host.Outcome State Fault Refusal := laneAB s h d a b (fun a b => if a.ule b then b else a)

/-- vand (R206). -/
def execVand (h : Hdr) (d a : VReg) (b : SrcB) (s : State) : Host.Outcome State Fault Refusal := laneAB s h d a b (fun a b => a &&& b)

/-- vor (R206). -/
def execVor (h : Hdr) (d a : VReg) (b : SrcB) (s : State) : Host.Outcome State Fault Refusal := laneAB s h d a b (fun a b => a ||| b)

/-- vxor (R206). -/
def execVxor (h : Hdr) (d a : VReg) (b : SrcB) (s : State) : Host.Outcome State Fault Refusal := laneAB s h d a b (fun a b => a ^^^ b)

/-- vandn (R206). -/
def execVandn (h : Hdr) (d a : VReg) (b : SrcB) (s : State) : Host.Outcome State Fault Refusal := laneAB s h d a b (fun a b => a &&& ~~~b)

/-- vshl (R206). -/
def execVshl (h : Hdr) (d a : VReg) (b : SrcB) (s : State) : Host.Outcome State Fault Refusal := laneAB s h d a b (fun a b => a <<< (b.toNat % 32))

/-- vshr (R206). -/
def execVshr (h : Hdr) (d a : VReg) (b : SrcB) (s : State) : Host.Outcome State Fault Refusal := laneAB s h d a b (fun a b => a >>> (b.toNat % 32))

/-- vsra (R206). -/
def execVsra (h : Hdr) (d a : VReg) (b : SrcB) (s : State) : Host.Outcome State Fault Refusal := laneAB s h d a b (fun a b => a.sshiftRight (b.toNat % 32))

/-- vbfx.n32 (R208). -/
def execVbfxN32 (h : Hdr) (d a : VReg) (b : SrcB) (s : State) : Host.Outcome State Fault Refusal := laneAB s h d a b (fun a b => bfxWN a b)

/-- vbfx.i32 (R208). -/
def execVbfxI32 (h : Hdr) (d a : VReg) (b : SrcB) (s : State) : Host.Outcome State Fault Refusal := laneAB s h d a b (fun a b => bfxWI a b)

/-- vmad.i32 (R206). -/
def execVmadI32 (h : Hdr) (d a : VReg) (bc : SrcBC) (s : State) : Host.Outcome State Fault Refusal := laneABC s h d a bc (fun a b c => a * b + c)

/-- vbfi (R208). -/
def execVbfi (h : Hdr) (d a : VReg) (bc : SrcBC) (s : State) : Host.Outcome State Fault Refusal := laneABC s h d a bc (fun a b c => bfiW a b c)

/-- vabs.i32 (R206). -/
def execVabsI32 (h : Hdr) (d a : VReg) (s : State) : Host.Outcome State Fault Refusal := laneA s h d a (fun a => if a.slt 0 then -a else a)

/-- vclz (R208). -/
def execVclz (h : Hdr) (d a : VReg) (s : State) : Host.Outcome State Fault Refusal := laneA s h d a (fun a => BitVec.ofNat 32 (clz 32 a.toNat))

/-- vpopc (R208). -/
def execVpopc (h : Hdr) (d a : VReg) (s : State) : Host.Outcome State Fault Refusal := laneA s h d a (fun a => BitVec.ofNat 32 (popc 32 a.toNat))

/-- vbrev (R208). -/
def execVbrev (h : Hdr) (d a : VReg) (s : State) : Host.Outcome State Fault Refusal := laneA s h d a (fun a => BitVec.ofNat 32 (brev 32 a.toNat))

/-- vmov (R209). -/
def execVmov (h : Hdr) (d a : VReg) (s : State) : Host.Outcome State Fault Refusal := laneA s h d a (fun a => a)

/-- vmovi (R209). -/
def execVmovi (h : Hdr) (d : VReg) (imm : Word) (s : State) : Host.Outcome State Fault Refusal := laneV s h d [] (fun _ _ => imm)

/-- vlaneid (R209). -/
def execVlaneid (h : Hdr) (d : VReg) (s : State) : Host.Outcome State Fault Refusal := laneV s h d [] (fun _ l => BitVec.ofNat 32 l)

/-- vargl (R209): of the argument that lrun captured. -/
def execVargl (h : Hdr) (d : VReg) (s : State) : Host.Outcome State Fault Refusal :=
  laneV s h d [] (fun g _ => (s.blk g).arg.setWidth 32)

/-- vargh (R209). -/
def execVargh (h : Hdr) (d : VReg) (s : State) : Host.Outcome State Fault Refusal :=
  laneV s h d [] (fun g _ => ((s.blk g).arg >>> 32).setWidth 32)

/-- vcmp (R210). -/
def execVcmp (h : Hdr) (c : ICond) (d : PReg) (a : VReg) (b : SrcB) (s : State) : Host.Outcome State Fault Refusal :=
  laneP s h d ((a, 1) :: srcBRegs b) (fun g l => condHolds c (s.rv g a.toNat l) (s.srcB g b l))

/-- pand (R211). -/
def execPand (h : Hdr) (d a b : PReg) (s : State) : Host.Outcome State Fault Refusal := laneQ2 s h d a b (fun a b => a && b)
/-- por (R211). -/
def execPor (h : Hdr) (d a b : PReg) (s : State) : Host.Outcome State Fault Refusal := laneQ2 s h d a b (fun a b => a || b)
/-- pxor (R211). -/
def execPxor (h : Hdr) (d a b : PReg) (s : State) : Host.Outcome State Fault Refusal := laneQ2 s h d a b (fun a b => a != b)
/-- pandn (R211). -/
def execPandn (h : Hdr) (d a b : PReg) (s : State) : Host.Outcome State Fault Refusal := laneQ2 s h d a b (fun a b => a && !b)
/-- pnot (R211). -/
def execPnot (h : Hdr) (d a : PReg) (s : State) : Host.Outcome State Fault Refusal := laneQ2 s h d a a (fun a _ => !a)

/-- vfromp (R211). -/
def execVfromp (h : Hdr) (d : VReg) (a : PReg) (s : State) : Host.Outcome State Fault Refusal :=
  laneV s h d [] (fun g l => if s.rp g a l then 1 else 0)

/-- vsel (R211). -/
def execVsel (h : Hdr) (d a : VReg) (b : SrcB) (c : PReg) (s : State) : Host.Outcome State Fault Refusal :=
  laneV s h d ((a, 1) :: srcBRegs b) (fun g l => if s.rp g c l then s.rv g a.toNat l else s.srcB g b l)

end Sys2Proof.Machine
end

