-- ==== Sys2Proof/Machine/Dispatch.lean ====
section
/-! DEFINITION. The meaning of every instruction: one arm for each constructor of Instr. -/

namespace Sys2Proof.Machine

open Sys2Proof

def exec (i : Instr) (s : State) : Host.Outcome State Fault Refusal :=
  match i with
  | .gadd d a b => Sys2Proof.Machine.execGadd d a b s
  | .gsub d a b => Sys2Proof.Machine.execGsub d a b s
  | .gand d a b => Sys2Proof.Machine.execGand d a b s
  | .gor d a b => Sys2Proof.Machine.execGor d a b s
  | .gxor d a b => Sys2Proof.Machine.execGxor d a b s
  | .gandn d a b => Sys2Proof.Machine.execGandn d a b s
  | .gshl d a b => Sys2Proof.Machine.execGshl d a b s
  | .gshr d a b => Sys2Proof.Machine.execGshr d a b s
  | .gsra d a b => Sys2Proof.Machine.execGsra d a b s
  | .gminI64 d a b => Sys2Proof.Machine.execGminI64 d a b s
  | .gmaxI64 d a b => Sys2Proof.Machine.execGmaxI64 d a b s
  | .gminN64 d a b => Sys2Proof.Machine.execGminN64 d a b s
  | .gmaxN64 d a b => Sys2Proof.Machine.execGmaxN64 d a b s
  | .gaddsh d a b k => Sys2Proof.Machine.execGaddsh d a b k s
  | .gbfx d a b => Sys2Proof.Machine.execGbfx d a b s
  | .gbfxI64 d a b => Sys2Proof.Machine.execGbfxI64 d a b s
  | .gclz d a => Sys2Proof.Machine.execGclz d a s
  | .gpopc d a => Sys2Proof.Machine.execGpopc d a s
  | .gcmpEq d a b => Sys2Proof.Machine.execGcmpEq d a b s
  | .gcmpNe d a b => Sys2Proof.Machine.execGcmpNe d a b s
  | .gcmpLtI64 d a b => Sys2Proof.Machine.execGcmpLtI64 d a b s
  | .gcmpLeI64 d a b => Sys2Proof.Machine.execGcmpLeI64 d a b s
  | .gcmpLtN64 d a b => Sys2Proof.Machine.execGcmpLtN64 d a b s
  | .gcmpLeN64 d a b => Sys2Proof.Machine.execGcmpLeN64 d a b s
  | .qand d a b => Sys2Proof.Machine.execQand d a b s
  | .qor d a b => Sys2Proof.Machine.execQor d a b s
  | .qxor d a b => Sys2Proof.Machine.execQxor d a b s
  | .qandn d a b => Sys2Proof.Machine.execQandn d a b s
  | .qnot d a => Sys2Proof.Machine.execQnot d a s
  | .gsetq d a => Sys2Proof.Machine.execGsetq d a s
  | .gmul d a b => Sys2Proof.Machine.execGmul d a b s
  | .gmulhI64 d a b => Sys2Proof.Machine.execGmulhI64 d a b s
  | .gmulhN64 d a b => Sys2Proof.Machine.execGmulhN64 d a b s
  | .gdivI64 d a b => Sys2Proof.Machine.execGdivI64 d a b s
  | .gdivN64 d a b => Sys2Proof.Machine.execGdivN64 d a b s
  | .gremI64 d a b => Sys2Proof.Machine.execGremI64 d a b s
  | .gremN64 d a b => Sys2Proof.Machine.execGremN64 d a b s
  | .gaddi d a imm => Sys2Proof.Machine.execGaddi d a imm s
  | .gandi d a imm => Sys2Proof.Machine.execGandi d a imm s
  | .gori d a imm => Sys2Proof.Machine.execGori d a imm s
  | .gxori d a imm => Sys2Proof.Machine.execGxori d a imm s
  | .gshli d a sh => Sys2Proof.Machine.execGshli d a sh s
  | .gshri d a sh => Sys2Proof.Machine.execGshri d a sh s
  | .gsrai d a sh => Sys2Proof.Machine.execGsrai d a sh s
  | .gbfxi d a n lo => Sys2Proof.Machine.execGbfxi d a n lo s
  | .gbfxiI64 d a n lo => Sys2Proof.Machine.execGbfxiI64 d a n lo s
  | .gcmpiEq d a imm => Sys2Proof.Machine.execGcmpiEq d a imm s
  | .gcmpiLtI64 d a imm => Sys2Proof.Machine.execGcmpiLtI64 d a imm s
  | .gcmpiLtN64 d a imm => Sys2Proof.Machine.execGcmpiLtN64 d a imm s
  | .gupi d a imm => Sys2Proof.Machine.execGupi d a imm s
  | .br q neg off => Sys2Proof.Machine.execBr q neg off s
  | .call q neg off => Sys2Proof.Machine.execCall q neg off s
  | .bloop q neg off => Sys2Proof.Machine.execBloop q neg off s
  | .jmp a => Sys2Proof.Machine.execJmp a s
  | .callr a => Sys2Proof.Machine.execCallr a s
  | .ret => Sys2Proof.Machine.execRet s
  | .gld64 d a bn off => Sys2Proof.Machine.execGld64 d a bn off s
  | .gst64 src a bn off => Sys2Proof.Machine.execGst64 src a bn off s
  | .gatom d a bn off x => Sys2Proof.Machine.execGatom d a bn off x s
  | .acq d a bn off sc => Sys2Proof.Machine.execAcq d a bn off sc s
  | .rel src a bn off sc => Sys2Proof.Machine.execRel src a bn off sc s
  | .fence sc => Sys2Proof.Machine.execFence sc s
  | .bufld n a m => Sys2Proof.Machine.execBufld n a m s
  | .bufset n a b => Sys2Proof.Machine.execBufset n a b s
  | .bufinv n => Sys2Proof.Machine.execBufinv n s
  | .lrun w a => Sys2Proof.Machine.execLrun w a s
  | .lrunNr w a => Sys2Proof.Machine.execLrunNr w a s
  | .lres d => Sys2Proof.Machine.execLres d s
  | .lwait => Sys2Proof.Machine.execLwait s
  | .gend => Sys2Proof.Machine.execGend s
  | .gloc d => Sys2Proof.Machine.execGloc d s
  | .grole d => Sys2Proof.Machine.execGrole d s
  | .glv d n => Sys2Proof.Machine.execGlv d n s
  | .fmtset a => Sys2Proof.Machine.execFmtset a s
  | .fmtget d => Sys2Proof.Machine.execFmtget d s
  | .gseed a => Sys2Proof.Machine.execGseed a s
  | .vgive n => Sys2Proof.Machine.execVgive n s
  | .vclaim n => Sys2Proof.Machine.execVclaim n s
  | .vcount d => Sys2Proof.Machine.execVcount d s
  | .nbsync k a => Sys2Proof.Machine.execNbsync k a s
  | .nbarrive k a => Sys2Proof.Machine.execNbarrive k a s
  | .aset d a b => Sys2Proof.Machine.execAset d a b s
  | .await a b => Sys2Proof.Machine.execAwait a b s
  | .aread d a => Sys2Proof.Machine.execAread d a s
  | .apost a b => Sys2Proof.Machine.execApost a b s
  | .iqpush d k a => Sys2Proof.Machine.execIqpush d k a s
  | .iqstat d k => Sys2Proof.Machine.execIqstat d k s
  | .mma e a b z => Sys2Proof.Machine.execMma e a b z s
  | .mmaV e b z => Sys2Proof.Machine.execMmaV e b z s
  | .mmv e v w z => Sys2Proof.Machine.execMmv e v w z s
  | .mfence d => Sys2Proof.Machine.execMfence d s
  | .mwait a => Sys2Proof.Machine.execMwait a s
  | .tcopy src dst c dk sk => Sys2Proof.Machine.execTcopy src dst c dk sk s
  | .tcopyT src dst c dk sk => Sys2Proof.Machine.execTcopyT src dst c dk sk s
  | .tmcastDeck src t c => Sys2Proof.Machine.execTmcastDeck src t c s
  | .tmcastTower src t c => Sys2Proof.Machine.execTmcastTower src t c s
  | .hstreamOut src dst c => Sys2Proof.Machine.execHstreamOut src dst c s
  | .hstreamIn src dst c => Sys2Proof.Machine.execHstreamIn src dst c s
  | .qhist src h c acc => Sys2Proof.Machine.execQhist src h c acc s
  | .qclip d h p => Sys2Proof.Machine.execQclip d h p s
  | .pacq d n => Sys2Proof.Machine.execPacq d n s
  | .pacqTry d n => Sys2Proof.Machine.execPacqTry d n s
  | .pget d n => Sys2Proof.Machine.execPget d n s
  | .pgetTry d n => Sys2Proof.Machine.execPgetTry d n s
  | .pcommit t h => Sys2Proof.Machine.execPcommit t h s
  | .pfree h => Sys2Proof.Machine.execPfree h s
  | .rput src o m bn => Sys2Proof.Machine.execRput src o m bn s
  | .rputRel src o m bn => Sys2Proof.Machine.execRputRel src o m bn s
  | .rseq d => Sys2Proof.Machine.execRseq d s
  | .sysrd d r => Sys2Proof.Machine.execSysrd d r s
  | .syswr r a => Sys2Proof.Machine.execSyswr r a s
  | .tret => Sys2Proof.Machine.execTret s
  | .tabort => Sys2Proof.Machine.execTabort s
  | .tlbinvVa a reach => Sys2Proof.Machine.execTlbinvVa a reach s
  | .tlbinvCtx a reach => Sys2Proof.Machine.execTlbinvCtx a reach s
  | .tlbinvAll reach => Sys2Proof.Machine.execTlbinvAll reach s
  | .sysettle => Sys2Proof.Machine.execSysettle s
  | .snapreq d a => Sys2Proof.Machine.execSnapreq d a s
  | .snapstat d => Sys2Proof.Machine.execSnapstat d s
  | .brk code => Sys2Proof.Machine.execBrk code s
  | .vaddI32 h d a b => Sys2Proof.Machine.execVaddI32 h d a b s
  | .vsubI32 h d a b => Sys2Proof.Machine.execVsubI32 h d a b s
  | .vaddSatI32 h d a b => Sys2Proof.Machine.execVaddSatI32 h d a b s
  | .vsubSatI32 h d a b => Sys2Proof.Machine.execVsubSatI32 h d a b s
  | .vaddSatN32 h d a b => Sys2Proof.Machine.execVaddSatN32 h d a b s
  | .vsubSatN32 h d a b => Sys2Proof.Machine.execVsubSatN32 h d a b s
  | .vmulI32 h d a b => Sys2Proof.Machine.execVmulI32 h d a b s
  | .vmulhI32 h d a b => Sys2Proof.Machine.execVmulhI32 h d a b s
  | .vmulhN32 h d a b => Sys2Proof.Machine.execVmulhN32 h d a b s
  | .vmadI32 h d a bc => Sys2Proof.Machine.execVmadI32 h d a bc s
  | .vdivI32 h d a b => Sys2Proof.Machine.execVdivI32 h d a b s
  | .vdivN32 h d a b => Sys2Proof.Machine.execVdivN32 h d a b s
  | .vremI32 h d a b => Sys2Proof.Machine.execVremI32 h d a b s
  | .vremN32 h d a b => Sys2Proof.Machine.execVremN32 h d a b s
  | .vminI32 h d a b => Sys2Proof.Machine.execVminI32 h d a b s
  | .vmaxI32 h d a b => Sys2Proof.Machine.execVmaxI32 h d a b s
  | .vminN32 h d a b => Sys2Proof.Machine.execVminN32 h d a b s
  | .vmaxN32 h d a b => Sys2Proof.Machine.execVmaxN32 h d a b s
  | .vabsI32 h d a => Sys2Proof.Machine.execVabsI32 h d a s
  | .vand h d a b => Sys2Proof.Machine.execVand h d a b s
  | .vor h d a b => Sys2Proof.Machine.execVor h d a b s
  | .vxor h d a b => Sys2Proof.Machine.execVxor h d a b s
  | .vandn h d a b => Sys2Proof.Machine.execVandn h d a b s
  | .vshl h d a b => Sys2Proof.Machine.execVshl h d a b s
  | .vshr h d a b => Sys2Proof.Machine.execVshr h d a b s
  | .vsra h d a b => Sys2Proof.Machine.execVsra h d a b s
  | .vbfxN32 h d a b => Sys2Proof.Machine.execVbfxN32 h d a b s
  | .vbfxI32 h d a b => Sys2Proof.Machine.execVbfxI32 h d a b s
  | .vbfi h d a bc => Sys2Proof.Machine.execVbfi h d a bc s
  | .vclz h d a => Sys2Proof.Machine.execVclz h d a s
  | .vpopc h d a => Sys2Proof.Machine.execVpopc h d a s
  | .vbrev h d a => Sys2Proof.Machine.execVbrev h d a s
  | .vmov h d a => Sys2Proof.Machine.execVmov h d a s
  | .vmovi h d imm => Sys2Proof.Machine.execVmovi h d imm s
  | .vlaneid h d => Sys2Proof.Machine.execVlaneid h d s
  | .vargl h d => Sys2Proof.Machine.execVargl h d s
  | .vargh h d => Sys2Proof.Machine.execVargh h d s
  | .vcmp h c d a b => Sys2Proof.Machine.execVcmp h c d a b s
  | .pand h d a b => Sys2Proof.Machine.execPand h d a b s
  | .por h d a b => Sys2Proof.Machine.execPor h d a b s
  | .pxor h d a b => Sys2Proof.Machine.execPxor h d a b s
  | .pandn h d a b => Sys2Proof.Machine.execPandn h d a b s
  | .pnot h d a => Sys2Proof.Machine.execPnot h d a s
  | .vfromp h d a => Sys2Proof.Machine.execVfromp h d a s
  | .vsel h d a b c => Sys2Proof.Machine.execVsel h d a b c s
  | .lif h off => Sys2Proof.Machine.execLif h off s
  | .lelse t off => Sys2Proof.Machine.execLelse t off s
  | .lendif t => Sys2Proof.Machine.execLendif t s
  | .lloop t => Sys2Proof.Machine.execLloop t s
  | .lloopRefill t iq d => Sys2Proof.Machine.execLloopRefill t iq d s
  | .lbreak h n => Sys2Proof.Machine.execLbreak h n s
  | .lcont h n => Sys2Proof.Machine.execLcont h n s
  | .lendloop t off => Sys2Proof.Machine.execLendloop t off s
  | .lendloopRefill t iq off => Sys2Proof.Machine.execLendloopRefill t iq off s
  | .lend => Sys2Proof.Machine.execLend s
  | .vyield h a => Sys2Proof.Machine.execVyield h a s
  | .lcallQ h t a => Sys2Proof.Machine.execLcallQ h t a s
  | .vfence t sc => Sys2Proof.Machine.execVfence t sc s
  | .vld h d sz bn a off na => Sys2Proof.Machine.execVld h d sz bn a off na s
  | .vldSigned h d sz bn a off na => Sys2Proof.Machine.execVldSigned h d sz bn a off na s
  | .vst h src sz bn a off na => Sys2Proof.Machine.execVst h src sz bn a off na s
  | .sld h d sz a off => Sys2Proof.Machine.execSld h d sz a off s
  | .sldSigned h d sz a off => Sys2Proof.Machine.execSldSigned h d sz a off s
  | .sst h src sz a off => Sys2Proof.Machine.execSst h src sz a off s
  | .vgath h d b sz bn a off na => Sys2Proof.Machine.execVgath h d b sz bn a off na s
  | .vscat h src b sz bn a off na => Sys2Proof.Machine.execVscat h src b sz bn a off na s
  | .vatom h op w64 ord sc d bn a off b c => Sys2Proof.Machine.execVatom h op w64 ord sc d bn a off b c s
  | .vldf h sc d p bn a off => Sys2Proof.Machine.execVldf h sc d p bn a off s
  | .vldfTake h sc d p bn a off => Sys2Proof.Machine.execVldfTake h sc d p bn a off s
  | .vstf h sc src p bn a off => Sys2Proof.Machine.execVstf h sc src p bn a off s
  | .vmark h d sz bn a off => Sys2Proof.Machine.execVmark h d sz bn a off s
  | .vcommit h src p sz bn a off => Sys2Proof.Machine.execVcommit h src p sz bn a off s
  | .vfadd h ty d a b => Sys2Proof.Machine.execVfadd h ty d a b s
  | .vfsub h ty d a b => Sys2Proof.Machine.execVfsub h ty d a b s
  | .vfmul h ty d a b => Sys2Proof.Machine.execVfmul h ty d a b s
  | .vffma h ty d a bc => Sys2Proof.Machine.execVffma h ty d a bc s
  | .vfmin h ty d a b => Sys2Proof.Machine.execVfmin h ty d a b s
  | .vfmax h ty d a b => Sys2Proof.Machine.execVfmax h ty d a b s
  | .vfabs h ty d a => Sys2Proof.Machine.execVfabs h ty d a s
  | .vfneg h ty d a => Sys2Proof.Machine.execVfneg h ty d a s
  | .vfcmp h ty c d a b => Sys2Proof.Machine.execVfcmp h ty c d a b s
  | .vfdot2 h bf d a bc => Sys2Proof.Machine.execVfdot2 h bf d a bc s
  | .vrcp h d a => Sys2Proof.Machine.execVrcp h d a s
  | .vrsqrt h d a => Sys2Proof.Machine.execVrsqrt h d a s
  | .vsqrt h d a => Sys2Proof.Machine.execVsqrt h d a s
  | .vfdiv h d a b => Sys2Proof.Machine.execVfdiv h d a b s
  | .vexp2 h d a => Sys2Proof.Machine.execVexp2 h d a s
  | .vlog2 h d a => Sys2Proof.Machine.execVlog2 h d a s
  | .vsinpi h d a => Sys2Proof.Machine.execVsinpi h d a s
  | .vcospi h d a => Sys2Proof.Machine.execVcospi h d a s
  | .vtanh h d a => Sys2Proof.Machine.execVtanh h d a s
  | .vcvt h st dt rm ss d a => Sys2Proof.Machine.execVcvt h st dt rm ss d a s
  | .vcvtPk h bf rm ss d a b => Sys2Proof.Machine.execVcvtPk h bf rm ss d a b s
  | .vcvtPk4 h e5 rm ss d a => Sys2Proof.Machine.execVcvtPk4 h e5 rm ss d a s
  | .vcvtUnpk4 h e5 d a => Sys2Proof.Machine.execVcvtUnpk4 h e5 d a s
  | .vcvtUnpk h bf d a => Sys2Proof.Machine.execVcvtUnpk h bf d a s
  | .vqnt h st q4 rm d a g => Sys2Proof.Machine.execVqnt h st q4 rm d a g s
  | .vdeq h q4 d a g => Sys2Proof.Machine.execVdeq h q4 d a g s
  | .vshfl h m d a b => Sys2Proof.Machine.execVshfl h m d a b s
  | .vvoteAny h d a => Sys2Proof.Machine.execVvoteAny h d a s
  | .vvoteAll h d a => Sys2Proof.Machine.execVvoteAll h d a s
  | .vvoteUni h d a => Sys2Proof.Machine.execVvoteUni h d a s
  | .vballot h d a => Sys2Proof.Machine.execVballot h d a s
  | .vred h op d a p => Sys2Proof.Machine.execVred h op d a p s
  | .vscan h op d a => Sys2Proof.Machine.execVscan h op d a s
  | .amov h w d n => Sys2Proof.Machine.execAmov h w d n s
  | .amovw h w src n => Sys2Proof.Machine.execAmovw h w src n s
  | .azero h n => Sys2Proof.Machine.execAzero h n s
  | .lbrk h code => Sys2Proof.Machine.execLbrk h code s
  | .trapEntry g => Sys2Proof.Machine.execTrapEntry g s
  | .claimGrant team bay => Sys2Proof.Machine.execClaimGrant team bay s
  | .drainGroupStart team slot => Sys2Proof.Machine.execDrainGroupStart team slot s
  | .teamPlace launch stage deck => Sys2Proof.Machine.execTeamPlace launch stage deck s
  | .teamRetire team => Sys2Proof.Machine.execTeamRetire team s
  | .engineLanding core cmd piece => Sys2Proof.Machine.execEngineLanding core cmd piece s
  | .qhistDone core cmd => Sys2Proof.Machine.execQhistDone core cmd s
  | .hstreamLine core cmd => Sys2Proof.Machine.execHstreamLine core cmd s
  | .batchComplete g => Sys2Proof.Machine.execBatchComplete g s
  | .groupword core => Sys2Proof.Machine.execGroupword core s
  | .settle core => Sys2Proof.Machine.execSettle core s
  | .settleAck g lane => Sys2Proof.Machine.execSettleAck g lane s
  | .backgroundSettle core => Sys2Proof.Machine.execBackgroundSettle core s
  | .homeTimeout g lane => Sys2Proof.Machine.execHomeTimeout g lane s
  | .reinSlot tower flips => Sys2Proof.Machine.execReinSlot tower flips s
  | .refill deck => Sys2Proof.Machine.execRefill deck s
  | .refillEnd deck => Sys2Proof.Machine.execRefillEnd deck s
  | .stackWriteback core bay line => Sys2Proof.Machine.execStackWriteback core bay line s
  | .prefetch g bn off => Sys2Proof.Machine.execPrefetch g bn off s
  | .translateWalk g va k => Sys2Proof.Machine.execTranslateWalk g va k s
  | .pagefault g => Sys2Proof.Machine.execPagefault g s
  | .fresumeRetry part frame => Sys2Proof.Machine.execFresumeRetry part frame s
  | .fresumeFail part frame => Sys2Proof.Machine.execFresumeFail part frame s
  | .preemptReq part => Sys2Proof.Machine.execPreemptReq part s
  | .preemptRestore part => Sys2Proof.Machine.execPreemptRestore part s
  | .drainBound team => Sys2Proof.Machine.execDrainBound team s
  | .save team => Sys2Proof.Machine.execSave team s
  | .restore part frame => Sys2Proof.Machine.execRestore part frame s
  | .stateError team => Sys2Proof.Machine.execStateError team s
  | .softError site corrected => Sys2Proof.Machine.execSoftError site corrected s
  | .scrub pa => Sys2Proof.Machine.execScrub pa s
  | .snapCopyOnWrite part pa => Sys2Proof.Machine.execSnapCopyOnWrite part pa s
  | .snapEnd part => Sys2Proof.Machine.execSnapEnd part s
  | .lqcfgWrite q v => Sys2Proof.Machine.execLqcfgWrite q v s
  | .lqtailWrite q v => Sys2Proof.Machine.execLqtailWrite q v s
  | .depPoll q => Sys2Proof.Machine.execDepPoll q s
  | .launchTake part => Sys2Proof.Machine.execLaunchTake part s
  | .hitchActivate part => Sys2Proof.Machine.execHitchActivate part s
  | .launchComplete launch => Sys2Proof.Machine.execLaunchComplete launch s
  | .rangeIssue launch stage deck => Sys2Proof.Machine.execRangeIssue launch stage deck s
  | .stealRequest launch thief => Sys2Proof.Machine.execStealRequest launch thief s
  | .landing launch victim seq => Sys2Proof.Machine.execLanding launch victim seq s
  | .lendAck launch victim seq => Sys2Proof.Machine.execLendAck launch victim seq s
  | .transfer launch victim seq => Sys2Proof.Machine.execTransfer launch victim seq s
  | .confirmation launch victim seq => Sys2Proof.Machine.execConfirmation launch victim seq s
  | .lendRefusal launch victim seq => Sys2Proof.Machine.execLendRefusal launch victim seq s
  | .lendReclaim launch victim seq => Sys2Proof.Machine.execLendReclaim launch victim seq s
  | .landedTimeout launch victim seq => Sys2Proof.Machine.execLandedTimeout launch victim seq s
  | .teamsterTick launch => Sys2Proof.Machine.execTeamsterTick launch s
  | .moveEnd launch => Sys2Proof.Machine.execMoveEnd launch s
  | .deadlockTick launch => Sys2Proof.Machine.execDeadlockTick launch s
  | .donewWrite launch => Sys2Proof.Machine.execDonewWrite launch s
  | .fenceDeck decks => Sys2Proof.Machine.execFenceDeck decks s
  | .fqcfgWrite part v => Sys2Proof.Machine.execFqcfgWrite part v s
  | .fqheadWrite part v => Sys2Proof.Machine.execFqheadWrite part v s
  | .registerWrite addr v => Sys2Proof.Machine.execRegisterWrite addr v s
  | .powerUp => Sys2Proof.Machine.execPowerUp s
  | .attest => Sys2Proof.Machine.execAttest s
  | .merge => Sys2Proof.Machine.execMerge s
  | .split => Sys2Proof.Machine.execSplit s
  | .reset => Sys2Proof.Machine.execReset s
  | .pkgreset => Sys2Proof.Machine.execPkgreset s
  | .sleep => Sys2Proof.Machine.execSleep s
  | .wake => Sys2Proof.Machine.execWake s
  | .erase => Sys2Proof.Machine.execErase s
  | .tamperpolWrite v => Sys2Proof.Machine.execTamperpolWrite v s
  | .pwrcapWrite v => Sys2Proof.Machine.execPwrcapWrite v s
  | .tamperAlarm sensor => Sys2Proof.Machine.execTamperAlarm sensor s
  | .powerControl watts junction => Sys2Proof.Machine.execPowerControl watts junction s
  | .thermalHalt => Sys2Proof.Machine.execThermalHalt s
  | .perstDeassert => Sys2Proof.Machine.execPerstDeassert s
  | .linkUp cxl flit width speed => Sys2Proof.Machine.execLinkUp cxl flit width speed s
  | .hostLinkReset => Sys2Proof.Machine.execHostLinkReset s
  | .portcfgWrite port v => Sys2Proof.Machine.execPortcfgWrite port v s
  | .portUp port peer => Sys2Proof.Machine.execPortUp port peer s
  | .portFail port => Sys2Proof.Machine.execPortFail port s
  | .hostMemRead pa => Sys2Proof.Machine.execHostMemRead pa s
  | .hostMemWrite pa bytes => Sys2Proof.Machine.execHostMemWrite pa bytes s
  | .biconflict pa => Sys2Proof.Machine.execBiconflict pa s
  | .hostSnoop pa inv => Sys2Proof.Machine.execHostSnoop pa inv s
  | .flip part v => Sys2Proof.Machine.execFlip part v s
  | .flipComplete part => Sys2Proof.Machine.execFlipComplete part s
  | .msixSend vec => Sys2Proof.Machine.execMsixSend vec s
  | .tile port m => Sys2Proof.Machine.execTile port m s
  | .commit port m => Sys2Proof.Machine.execCommit port m s
  | .credit port m => Sys2Proof.Machine.execCredit port m s
  | .close port m => Sys2Proof.Machine.execClose port m s
  | .pause port m => Sys2Proof.Machine.execPause port m s
  | .resume port m => Sys2Proof.Machine.execResume port m s
  | .abort port m => Sys2Proof.Machine.execAbort port m s
  | .mergeHoldExpiry pipe k => Sys2Proof.Machine.execMergeHoldExpiry pipe k s
  | .formatComplete => Sys2Proof.Machine.execFormatComplete s
  | .errorCompletion port => Sys2Proof.Machine.execErrorCompletion port s
  | .droppedMessage port m => Sys2Proof.Machine.execDroppedMessage port m s

end Sys2Proof.Machine
end

