-- ==== Sys2Proof/Machine/Fetch.lean ====
section
/-! DEFINITION. Fetching a control instruction or a lane word, what an undecodable word does, and when a stream may issue
(02 R28 to R30, 07 R162 to R168, 08 R181, 15 R314). -/

namespace Sys2Proof.Machine

open Sys2Proof

/-! ## When a stream may issue -/

/-- The group runs: it is in an occupied slot (or is the Farrier), is not halted, has no trap or page fault to be taken, and
the package is not halted (17 R377). -/
def State.runs (s : State) (g : Nat) : Bool :=
  (g == farrierId || (s.occupied g && !s.pkg.halted && (s.deck (deckOfCore (coreOf g))).live && !s.isDoomed (s.teamOf g).launch))
    && !(s.grp g).halted && (s.grp g).pend.isNone

/-- The control stream may issue: it does not wait, or tries its instruction again. -/
def CWait.issues : CWait → Bool
  | .none | .stall _ | .presettle _ true | .flip _ => true
  | .claim | .settle _ _ _ | .presettle _ false | .rein => false

/-- The lane stream may issue. -/
def LWait.issues : LWait → Bool
  | .none | .stall _ | .presettle _ true | .flip => true
  | .presettle _ false | .rein _ _ _ => false

/-- A stream of a group that has stopped, or has a trap or page fault to be taken, still performs an access that waits for the end of a
flip (16 R339). -/
def State.finishes (s : State) (g : Nat) : Bool := s.occupied g && !s.pkg.halted

/-- The group's control stream may issue. -/
def State.ctlIssues (s : State) (g : Nat) : Bool :=
  (s.runs g && (s.grp g).cwait.issues) || ((s.grp g).cwait == .flip .latency && s.finishes g)

/-- The lane queue's head that the lane stream executes, or would start (R30): the handler block in system mode. -/
def State.nextBlock (s : State) (g : Nat) : Option QEntry :=
  if (s.grp g).sys then (s.grp g).hblock else (s.grp g).laneQ.find? (fun e => !e.posted)

/-- The group's lane stream may issue. -/
def State.laneIssues (s : State) (g : Nat) : Bool :=
  ((s.runs g && (s.grp g).lwait.issues) || ((s.grp g).lwait == .flip && s.finishes g)) && g != farrierId && (s.nextBlock g).isSome

/-! ## Fetch -/

/-- n bytes at a translated address, as an instruction fetch reads them: from the homes (log 34). -/
def State.trBytes (s : State) (g : Nat) (t : Tr) (n : Nat) : List Byte :=
  if t.rein then s.replica (deckOf g) t.pa n else s.homeBytes t.pa n

/-- What a fetch of a line at its home does there: the slice has it, or the host gives it back first (01 R13, 16 R335). -/
def State.fetchLine (s : State) (g : Nat) (t : Tr) : State :=
  if t.rein then s else ((s.hostOnly t).l2For (s.codeOf g) t).snoopHost t.pa false

/-- The translation of a fetch address: ACCESS traps, PAGEFAULT is a page fault of the stream, a page being flipped waits. -/
def fetchTr (s : State) (g va : Nat) : R (State × Tr) :=
  match s.translate (coreOf g) (s.ctxOf g) va .fetch with
  | .ok (s, t) => .ok (s.fetchLine g t, t)
  | .error (.access n) => .error (trapAt cACCESS n none va)
  | .error .fault => .error (.pf va .fetch none)
  | .error .busy => .error (.wait s)
  | .error .dropped => .error (.wait (s.bumpCore (coreOf g) 0xB0 1))

/-- One control word at an address: physical in system mode (R314), where a handler outside its partition takes ACCESS (17 R355, log 94), and
the packet to the home stays inside NETBOUND (17 R358). The Farrier belongs to no partition. -/
def fetchWord (s : State) (g va : Nat) : R (State × Word) :=
  if (s.grp g).sys then
    (if g != farrierId && !s.tableIn (s.codeOf g) va then .error (trapAt cACCESS 4 none va)
     else if g != farrierId && !s.homeOk (s.codeOf g) (deckOf g) va then .error (.wait (s.bumpCore (coreOf g) 0xB0 1))
     else .ok (s, BitVec.ofNat 32 (s.homeNat va 4)))
  else do
    let (s, t) ← fetchTr s g va
    pure (s, BitVec.ofNat 32 (ofBytes (s.trBytes g t 4)))

/-- The word begins a two-word instruction (R181). -/
def twoWord (w : Word) : Bool := w.extractLsb' 26 6 == 0x17#6 || w.extractLsb' 26 6 == 0x18#6

/-- The control instruction at the pc: its two words are one fetch. -/
def fetchCode (s : State) (g : Nat) : R (State × Code) := do
  let pc := (s.grp g).pc.toNat
  let (s, w) ← fetchWord s g pc
  if twoWord w then
    let (s, x) ← fetchWord s g ((pc + 4) % 2 ^ 64)
    pure (s, .pair w x)
  else pure (s, .ctrl w)

/-- The trap of a word that does not decode (R162). -/
def badWord (b : BadWord) (sys : Bool) : Stop :=
  match b with
  | .unallocated => trapOf cILLEGAL
  | .reserved form => trapOf (if form && !sys then cPRIV else cILLEGAL)
  | .forbidden form => trapOf (if form && !sys then cPRIV else cILLEGAL)

/-- The instruction that a code decodes to, or its trap. -/
def decoded (c : Code) (sys : Bool) : R Instr :=
  match decode c with
  | .ok i => .ok i
  | .bad b => .error (badWord b sys)

/-- Counts an issued instruction (17 R378). -/
def countIssue (s : State) (g off : Nat) (again : Bool) : State := if again || g == farrierId then s else s.bumpCore (coreOf g) off 1

/-- Fetches and decodes the control instruction of a group. -/
def fetchCtrl (s : State) (g : Nat) : R (State × Instr) := do
  let (s1, c) ← fetchCode s g
  let i ← decoded c (s.grp g).sys
  pure (countIssue s1 g 0x08 ((s.grp g).cwait != .none), i)

/-- The lane stream starts the head of the queue when it holds none (R30, R168). -/
def State.startBlock (s : State) (g : Nat) : State :=
  let x := s.grp g
  if x.sys || x.started then s
  else
    match s.nextBlock g with
    | none => s
    | some e =>
      s.onGrp g (fun x => { x with started := true, lpc := e.block, dc := [], cm := 0, refillArr := false, hazards := [], ringM := 0,
                                   ringL := 0, ringF := [] })

/-- The byte address of a lane word: LCB + 12·w (R167). -/
def laneAddr (lcb : GWord) (w : Nat) : Nat := (lcb.toNat + 12 * w) % 2 ^ 64

/-- The 12 bytes of a lane word, which may lie in two pages. -/
def fetchLaneBytes (s : State) (g va : Nat) : R (State × List Byte) := do
  let n := min 12 (4096 - va % 4096)
  let (s, t) ← fetchTr s g va
  if n == 12 then pure (s, s.trBytes g t 12)
  else
    let (s, u) ← fetchTr s g ((va + n) % 2 ^ 64)
    pure (s, s.trBytes g t n ++ s.trBytes g u (12 - n))

/-- Fetches and decodes the lane word of a group whose block is started. -/
def fetchLane (s : State) (g : Nat) : R (State × Instr) := do
  let w := s.lpc g
  let t := s.teamOf g
  legal (w < t.lcn)
  let (s1, b) ← fetchLaneBytes s g (laneAddr t.lcb w)
  let i ← decoded (.lane (BitVec.ofNat 96 (ofBytes b))) (s.grp g).sys
  pure (countIssue s1 g 0x10 ((s.grp g).lwait != .none), i)

/-- The word orders no memory access of its group after another's: plain loads and stores, arithmetic, jumps, the enqueueing of blocks
and the reads of a group's own values (04 R80 to R83). -/
def unordered (i : Instr) : Bool :=
  match i with
  | .gadd _ _ _ | .gsub _ _ _ | .gand _ _ _ | .gor _ _ _ | .gxor _ _ _ | .gandn _ _ _ | .gshl _ _ _ | .gshr _ _ _ | .gsra _ _ _ => true
  | .gminI64 _ _ _ | .gmaxI64 _ _ _ | .gminN64 _ _ _ | .gmaxN64 _ _ _ | .gaddsh _ _ _ _ | .gbfx _ _ _ | .gbfxI64 _ _ _ | .gclz _ _ => true
  | .gpopc _ _ | .gcmpEq _ _ _ | .gcmpNe _ _ _ | .gcmpLtI64 _ _ _ | .gcmpLeI64 _ _ _ | .gcmpLtN64 _ _ _ | .gcmpLeN64 _ _ _ => true
  | .qand _ _ _ | .qor _ _ _ | .qxor _ _ _ | .qandn _ _ _ | .qnot _ _ | .gsetq _ _ | .gmul _ _ _ | .gmulhI64 _ _ _ | .gmulhN64 _ _ _ => true
  | .gdivI64 _ _ _ | .gdivN64 _ _ _ | .gremI64 _ _ _ | .gremN64 _ _ _ | .gaddi _ _ _ | .gandi _ _ _ | .gori _ _ _ | .gxori _ _ _ => true
  | .gshli _ _ _ | .gshri _ _ _ | .gsrai _ _ _ | .gbfxi _ _ _ _ | .gbfxiI64 _ _ _ _ | .gcmpiEq _ _ _ | .gcmpiLtI64 _ _ _ => true
  | .gcmpiLtN64 _ _ _ | .gupi _ _ _ | .br _ _ _ | .call _ _ _ | .bloop _ _ _ | .jmp _ | .callr _ | .ret => true
  | .gld64 _ _ _ _ | .gst64 _ _ _ _ | .lrun _ _ | .lrunNr _ _ | .lres _ | .gloc _ | .grole _ | .glv _ _ | .fmtget _ | .vcount _ => true
  | .vld _ _ _ _ _ _ _ | .vldSigned _ _ _ _ _ _ _ | .vst _ _ _ _ _ _ _ | .vgath _ _ _ _ _ _ _ _ | .vscat _ _ _ _ _ _ _ _ => true
  | .sld _ _ _ _ _ | .sldSigned _ _ _ _ _ | .sst _ _ _ _ _ | .lif _ _ | .lelse _ _ | .lloop _ | .lbreak _ _ | .lcont _ _ | .lend => true
  | i => match (laneUse i).cls with
    | .fixed _ => true
    | .none | .ring _ => false

/-- Before a word that may order later loads of its group after it, the group's early loads are given up: they are performed again
(04 R80 to R83, R87, log 3). -/
def State.ordered (s : State) (i : Instr) : State := if unordered i then s else s.dropEarly s.cur

/-! ## One issue of a stream -/

/-- A stream that has waited for the end of a flip tries its access again (16 R339). -/
def State.unflip (s : State) (g : Nat) (lane : Bool) : State :=
  match lane, (s.grp g).cwait, (s.grp g).lwait with
  | false, .flip _, _ => s.onGrp g (fun x => { x with cwait := .none })
  | true, _, .flip => s.onGrp g (fun x => { x with lwait := .none })
  | _, _, _ => s

/-- The outcome of an issue of a group that has stopped, which then stands stalled again. -/
def parkAfter (halted : Bool) (g : Nat) (o : Host.Outcome State Fault Refusal) : Host.Outcome State Fault Refusal :=
  match halted, o with
  | true, .next t => .next (t.park g)
  | _, o => o

/-- One issue of a group's control stream, with the meaning `ex` of instructions. -/
def issueCtrl (ex : Instr → State → Host.Outcome State Fault Refusal) (s : State) : Host.Outcome State Fault Refusal :=
  if !s.ctlIssues s.cur then .next s
  else
    match fetchCtrl s s.cur with
    | .ok (s1, i) => parkAfter (s.grp s.cur).halted s.cur (ex i ((s1.unflip s.cur false).ordered i))
    | .error e => parkAfter (s.grp s.cur).halted s.cur (runCtrl (s.unflip s.cur false) (fun _ => .error e))

/-- One issue of a group's lane stream. -/
def issueLaneWord (ex : Instr → State → Host.Outcome State Fault Refusal) (s : State) : Host.Outcome State Fault Refusal :=
  if !s.laneIssues s.cur then .next s
  else
    let s0 := s.startBlock s.cur
    match fetchLane s0 s.cur with
    | .ok (s1, i) => parkAfter (s.grp s.cur).halted s.cur (issueLane i (ex i) ((s1.unflip s.cur true).ordered i))
    | .error e => parkAfter (s.grp s.cur).halted s.cur (runLane (s0.unflip s.cur true) (fun _ => .error e))

/-- One issue of the current stream. -/
def issueCur (ex : Instr → State → Host.Outcome State Fault Refusal) (s : State) : Host.Outcome State Fault Refusal :=
  if s.curLane then issueLaneWord ex s else issueCtrl ex s

end Sys2Proof.Machine
end

