-- ==== Sys2Proof/Machine/Moves.lean ====
section
/-! DEFINITION. The moves of the machine that are no row of the opcode table, and the placing of an instruction for its fetch. -/

namespace Sys2Proof.Machine

open Sys2Proof

/-- The number of a stall reason in R50's table. -/
def Stall.index : Stall → Option Nat
  | .pipeFull => some 0 | .pipeEmpty => some 1 | .arrival => some 2 | .barrier => some 3 | .batch => some 4 | .laneq => some 5
  | .claim => some 6 | .future => some 7 | .fault => some 8 | .settle => some 9 | .latency => none

/-- The reason that a control stream holds (R50). -/
def CWait.reason : CWait → Option Stall
  | .none | .rein => Option.none
  | .stall r => some r
  | .flip r => some r
  | .claim => some .claim
  | .settle _ _ _ => some .settle
  | .presettle _ acked => if acked then Option.none else some .settle

/-- The reason that a lane stream holds (R50). -/
def LWait.reason : LWait → Option Stall
  | .none | .rein _ _ _ | .flip => Option.none
  | .stall r => some r
  | .presettle _ acked => if acked then Option.none else some .settle

/-- The offset of a lane stall counter (17 R378). -/
def Stall.laneOff : Stall → Option Nat
  | .laneq => some 0x68 | .future => some 0x70 | .fault => some 0x78 | .settle => some 0x80
  | .pipeFull | .pipeEmpty | .arrival | .barrier | .batch | .claim | .latency => none

/-- The stall counters of one group for one clock. -/
def State.countStalls (s : State) (g : Nat) : State :=
  if g == farrierId || !s.occupied g then s
  else
    let c := coreOf g
    let s := match (s.grp g).cwait.reason.bind Stall.index with
      | some k => s.bumpCore c (0x18 + 8 * k) 1
      | none => s
    match (s.grp g).lwait.reason.bind Stall.laneOff with
    | some o => s.bumpCore c o 1
    | none => s

/-- One core clock: CYCLES and the stall counters advance (17 R378). -/
def State.clockTick (s : State) : State :=
  let s := (List.range 384).foldl (fun s c => s.bumpCore c 0 1) { s with clock := s.clock + 1 }
  s.groups.keys.foldl State.countStalls s

/-- The oldest word of a ring retires; of ring F only when its lanes are all answered (07 R171). -/
def State.retireRing (s : State) (g : Nat) (r : Ring) : State :=
  s.onGrp g (fun x =>
    match r with
    | .M => { x with ringM := x.ringM - 1 }
    | .L => { x with ringL := x.ringL - 1 }
    | .F =>
      match x.ringF with
      | (_, m) :: t => if m == 0 then { x with ringF := t } else x
      | [] => x)

/-- A line leaves its home slice for HBM4E, or for host memory: marks on it are lost, and its mirror copy (03 R78, 16 R340, 17 R374). Pinned lines and lines of
registered ranges never leave (03 R64, 04 R102). -/
def State.homeEvict (s : State) (line : Nat) : State :=
  if (s.pinned.find line).isSome || s.lockedLine line then s
  else s.l2Out line

/-- A prefetch ends: its line has arrived (17 R379). -/
def State.pfArrive (s : State) (c line : Nat) : State :=
  match (s.core c).l1.find line with
  | none => s
  | some x => if x.pf == .flying then s.onCore c (fun k => { k with l1 := k.l1.put line { x with pf := .unused } }) else s

/-- A stream of a group may perform a load ahead of its place: it neither waits nor runs in system mode, since what it waits for may order
its later loads after it (04 R83, R87, log 3). -/
def State.mayRead (s : State) (g : Nat) : Bool :=
  let x := s.grp g
  s.runs g && g != farrierId && !x.sys && x.cwait == .none && x.lwait == .none && x.ringF.isEmpty

/-- Notes a load of one byte that a stream has performed. -/
def State.noteEarly (s : State) (g : Nat) (lane scr : Bool) (a : Nat) (b : Byte) : State :=
  let e : Early := { gid := g, lane := lane, uid := (s.teamOf g).uid, scr := scr, at_ := a, val := b }
  { s with early := e :: s.early.filter (fun y => !(y.gid == g && y.lane == lane && y.scr == scr && y.at_ == a)) }

/-- A coming load of a byte of memory by a stream of a running group is performed now: it returns the byte that the core's L1 holds, or that
stands at the home (04 R87, log 3). The bytes of a Rein window have one value for all of a deck's readers (04 R108). -/
def State.earlyLoad (s : State) (g : Nat) (lane : Bool) (pa : Nat) : State :=
  if !s.mayRead g || isRein pa then s
  else
    match (s.core (coreOf g)).l1.find (pa / 128) with
    | some l => if l.badIn (pa % 128) 1 then s else s.noteEarly g lane false pa (l.data.getD (pa % 128) 0)
    | none => if s.poisoned (s.codeOf g) pa || (isHost pa && !s.cxlUp) then s else s.noteEarly g lane false pa (s.homeByte pa)

/-- The same of a byte of the team's window, by the lane stream. -/
def State.earlyScr (s : State) (g off : Nat) : State :=
  let t := s.teamOf g
  if !s.mayRead g || t.scratch ≤ off || t.winBad off 1 then s else s.noteEarly g true true off (t.winByte off)

/-- The check of a sector stops matching its data: at a home, in a replica, a window or a slot the next reader finds it, and in an L1 or a
stack cache the core or what accepts its write-back does (17 R369, R370). -/
def State.upset (s : State) (site : ErrSite) : State :=
  match site with
  | .home pa => if (s.partAt pa).isSome then s.poisonHome pa else s
  | .replica d pa => if d < 8 && isRein pa && reinTower pa == towerOfDeck d then s.poisonReplica d pa else s
  | .cache c pa =>
    let f (x : Line) : Line := { x with bad := x.bad ||| (1#4 <<< (pa % 128 / 32)) }
    s.onCore c (fun k => { k with
      l1 := k.l1.map (fun e => if e.1 == pa / 128 then (e.1, f e.2) else e),
      stackc := k.stackc.map (fun e => if e.1 % 2 ^ 46 == pa / 128 then (e.1, f e.2) else e) })
  | .window t o => if o < (s.team t).scratch then s.poisonWindow t o else s
  | .slot k q o => if s.slotHas k q o then s.poisonTile k q o else s
  | .acc _ | .locks _ | .items _ | .directory _ => s

/-- A home slice of a deck rebuilds a directory entry, which the deck counts (17 R380). -/
def State.discover (s : State) (d : Nat) : State := if d < 8 then s.bumpDeck d 0x38 1 else s

/-- A line leaves a core's L1, unless a registered range overlaps it (04 R102). -/
def State.evictLine (s : State) (c line : Nat) : State := if s.lockedLine line then s else s.flushLine c line

/-- The hold timers of a pipe's merges after a microsecond: that of a merge runs while a sender that it misses is paused (16 R348). -/
def Pipe.holdTick (x : Pipe) : Pipe :=
  let ks := ((x.inTiles.map (fun t => t.seq)).filter (fun k => x.merged ≤ k && (x.abandoned.find k).isNone)).eraseDups
  let late (k : Nat) : Bool := x.paused.any (fun d => x.inTiles.all (fun t => !(t.sender == d && t.seq == k && t.tag.isSome)))
  if x.xlink == 2 then { x with timers := ks.foldl (fun (t : Tab Nat) k => if late k then t.put k (t.get 0 k + 1) else t) x.timers } else x

/-- The hold timers of every pipe run. -/
def State.holdTick (s : State) : State := { s with pipes := s.pipes.map (fun e => (e.1, e.2.holdTick)) }

/-- The host stores bytes of one line of its own memory: the device's L2 gives up its copy first (16 R340). -/
def State.hostStore (s : State) (pa : Nat) (bs : List Byte) : State :=
  if isHost pa && pa % 128 + bs.length ≤ 128 then
    let s := s.hostPush (pa / 128)
    { s with hostMem := ((List.range bs.length).zip bs).foldl (fun (t : Tab Byte) e => t.put (pa + e.1) e.2) s.hostMem }
  else s

/-! ## Placing an instruction -/

/-- The virtual page at which a placed instruction stands, and its physical page. -/
def placeVa : Nat := 0x200000

/-- A leaf entry for the placed page: read, write, execute, valid, HOME 3, shared. -/
def placePte : Nat := 0x200000 + 3 * 2 ^ 9 + 2 ^ 7 + 2 ^ 4 + 2 ^ 3 + 2 ^ 2 + 2 + 1

/-- The translation of the placed page, as core 0's TLB holds it. -/
def placeTlb : TlbE := { ctx := 0, va := placeVa, size := 4096, lvl := 3, ptea := 0x100000, pte := BitVec.ofNat 64 placePte }

/-- Stores bytes into device memory. -/
def putMem (m : Memory) (a : Nat) : List Byte → Memory
  | [] => m
  | b :: bs => putMem (m.write a b) (a + 1) bs

/-- The group of the placed instruction as it issues next: its pc, or its started lane block, at the placed page. -/
def placedGroup (x : Group) (lane : Bool) : Group :=
  let x := { x with team := 0, pend := none, halted := false }
  if lane then
    { x with lwait := .none, sys := false, started := true, lpc := 0, ringM := 0, ringL := 0, ringF := [], hazards := [],
             laneQ := [{ arg := 0, block := 0, nr := false, posted := false, fmt := x.fmt, count := 128, result := 0 }] }
  else { x with pc := BitVec.ofNat 64 placeVa, cwait := .none, sys := false }

/-- The team of the placed instruction: in entry 0 of core 0, one group, in slot 0. -/
def placedTeam (t : Team) : Team :=
  { t with core := 0, lcb := BitVec.ofNat 64 placeVa, lcn := 1, slots := [{ slot := 0, gidx := 0, occ := true }], groups := 1 }

end Sys2Proof.Machine
end

