-- ==== Sys2Proof/Machine/Step.lean ====
section
/-! DEFINITION. One step of the machine, and the placing of an instruction where the next step fetches it. -/

namespace Sys2Proof.Machine

open Sys2Proof

/-- One step: the head of the agenda, or one issue of the current stream when the agenda is empty (log 1). -/
def step (s : State) : Host.Outcome State Fault Refusal :=
  match s.agenda with
  | [] => issueCur exec s
  | .issue g lane :: rest => issueCur exec { s with agenda := rest, cur := g, curLane := lane }
  | .event i :: rest => if i.isEvent then exec i { s with agenda := rest } else .next { s with agenda := rest }
  | .evict c line :: rest => .next (({ s with agenda := rest } : State).evictLine c line)
  | .tlbDrop c k :: rest => .next (({ s with agenda := rest } : State).onCore c (fun x => { x with tlb := x.tlb.eraseIdx k }))
  | .retire g r :: rest => .next (({ s with agenda := rest } : State).retireRing g r)
  | .matrix c n :: rest => .next (if s.pkg.halted then { s with agenda := rest } else ({ s with agenda := rest } : State).matrixMove c n)
  | .homeEvict line :: rest => .next (({ s with agenda := rest } : State).homeEvict line)
  | .hostStore pa bs :: rest => .next (({ s with agenda := rest } : State).hostStore pa bs)
  | .arrived k q :: rest => .next (({ s with agenda := rest } : State).staged k q)
  | .pfArrive c line :: rest => .next (({ s with agenda := rest } : State).pfArrive c line)
  | .discover d :: rest => .next (({ s with agenda := rest } : State).discover d)
  | .early g lane pa :: rest => .next (({ s with agenda := rest } : State).earlyLoad g lane pa)
  | .earlyScr g off :: rest => .next (({ s with agenda := rest } : State).earlyScr g off)
  | .engRead c id pa :: rest => .next (({ s with agenda := rest } : State).engRead c id pa)
  | .engWrite c id r i b :: rest => .next (({ s with agenda := rest } : State).engWrite c id r i b)
  | .upset site :: rest => .next (({ s with agenda := rest } : State).upset site)
  | .hdmWrite k d :: rest => .next (({ s with agenda := rest } : State).hdmWrite k d)
  | .linkError ras w :: rest => .next (({ s with agenda := rest } : State).linkError ras w)
  | .linkClear ras w :: rest => .next (({ s with agenda := rest } : State).linkClear ras w)
  | .clock :: rest => .next (({ s with agenda := rest } : State).clockTick)
  | .micro :: rest => .next ({ s with agenda := rest, us := s.us + 1 } : State).holdTick

/-- The state with an instruction placed where the next step fetches it: group 0 of core 0 issues it (log 10). -/
def State.withFetchWord (s : State) (nbits w : Nat) : State :=
  let c := tableCode nbits w
  let lane := decide (64 < nbits)
  let s := { s with agenda := [], cur := 0, curLane := lane, mem := putMem s.mem placeVa c.bytes, pkg := { s.pkg with halted := false } }
  let s := s.onTeam 0 placedTeam
  let s := s.onGrp 0 (fun x => placedGroup x lane)
  s.tlbFill 0 placeTlb

end Sys2Proof.Machine
end

