-- ==== Sys2Proof/Safety.lean ====
section
/-! DEFINITION. What counts as a safe step, the invariants of the state, and the frames: what an instruction leaves as it is, in the
terms that statements use. -/

namespace Sys2Proof

open Machine

/-- The step answers a next state. -/
def Safe (s : State) : Prop := ∃ t, step s = .next t

/-- Of the two homes of g56 to g63 the mode hides one, and it is as it was: in user mode the handler bank of the bay, in system mode the
group's own registers (15 R314). Nothing else of the bank changes. -/
def HidesG (s t : State) : Prop :=
  if s.inBank s.cur then
    (∀ n, 56 ≤ n → (t.grp s.cur).g.get 0 n = (s.grp s.cur).g.get 0 n) ∧ { t.bank s.cur with hg := [] } = { s.bank s.cur with hg := [] }
  else t.bank s.cur = s.bank s.cur

/-- The same of v240 to v255. -/
def HidesV (s t : State) : Prop :=
  if s.inBank s.cur then
    (∀ n, 7680 ≤ n → (t.grp s.cur).v.get 0 n = (s.grp s.cur).v.get 0 n) ∧ { t.bank s.cur with hv := [] } = { s.bank s.cur with hv := [] }
  else t.bank s.cur = s.bank s.cur

/-- Everything but what a control word of the current group may write: its registers outside ds, its predicates outside qs, every
other field of the group but its pc and its wait, every other group, the handler banks, the cores, every byte of memory at its home,
and all the rest of the state are as they were. -/
structure CtlFrame (s t : State) (ds : List GReg) (qs : List QReg) : Prop where
  regs   : ∀ r, r ∉ ds → t.rg s.cur r = s.rg s.cur r
  preds  : ∀ q, q ∉ qs → t.rq s.cur q = s.rq s.cur q
  group  : { t.grp s.cur with g := [], q := 0, pc := 0, cwait := .none } = { s.grp s.cur with g := [], q := 0, pc := 0, cwait := .none }
  groups : ∀ g, g ≠ s.cur → t.grp g = s.grp g
  bank   : HidesG s t
  banks  : ∀ g, coreOf g ≠ coreOf s.cur ∨ bayOf g ≠ bayOf s.cur → t.bank g = s.bank g
  cores  : ∀ c, { t.core c with banks := [] } = { s.core c with banks := [] }
  bytes  : ∀ a, t.homeByte a = s.homeByte a
  rest   : { t with groups := [], cores := [] } = { s with groups := [], cores := [] }

/-- Everything but what a lane word of the current group may write: its lane registers outside vs, its lane predicates outside ps,
every other field of the group but the place of its lane stream and that stream's wait, every other group, the handler banks, the
cores, every byte of memory at its home, and all the rest of the state are as they were. -/
structure LaneFrame (s t : State) (vs : List Nat) (ps : List Nat) : Prop where
  regs   : ∀ r l, l < 32 → r ∉ vs → t.rv s.cur r l = s.rv s.cur r l
  preds  : ∀ p, p ∉ ps → t.pmask s.cur p = s.pmask s.cur p
  group  : { t.grp s.cur with v := [], p := [], lpc := 0, hlpc := 0, lwait := .none, refillArr := false } =
           { s.grp s.cur with v := [], p := [], lpc := 0, hlpc := 0, lwait := .none, refillArr := false }
  groups : ∀ g, g ≠ s.cur → t.grp g = s.grp g
  bank   : HidesV s t
  banks  : ∀ g, coreOf g ≠ coreOf s.cur ∨ bayOf g ≠ bayOf s.cur → t.bank g = s.bank g
  cores  : ∀ c, { t.core c with banks := [] } = { s.core c with banks := [] }
  bytes  : ∀ a, t.homeByte a = s.homeByte a
  rest   : { t with groups := [], cores := [] } = { s with groups := [], cores := [] }

/-- The control stream of the current group stands at pc and does not wait. -/
def AtPc (s t : State) (pc : GWord) : Prop := (t.grp s.cur).pc = pc ∧ (t.grp s.cur).cwait = .none

/-- The control stream of the current group stands after a word of n bytes. -/
def Past (s t : State) (n : Nat) : Prop := AtPc s t ((s.grp s.cur).pc + BitVec.ofNat 64 n)

/-- The lane stream of the current group stands at word w. -/
def AtWord (s t : State) (w : Nat) : Prop := t.lpc s.cur = w % 2 ^ 20 ∧ (t.grp s.cur).lwait = .none

/-- A word of the control stream runs to its end: it writes v into group register d (nothing into g0), goes on at the next word and
changes nothing else. A write of g61 that STACKLIMIT forbids is the one thing that would stop it (02 R48). -/
def WritesG (s : State) (i : Instr) (d : GReg) (v : GWord) : Prop :=
  s.stackBad s.cur d v = false →
    ∃ t, exec i s = .next t ∧ t.rg s.cur d = (if d = 0 then 0 else v) ∧ Past s t 4 ∧ CtlFrame s t [d] []

/-- A word of the control stream writes v into group predicate d (nothing into q0), goes on at the next word and changes nothing
else. -/
def WritesQ (s : State) (i : Instr) (d : QReg) (v : Bool) : Prop :=
  ∃ t, exec i s = .next t ∧ t.rq s.cur d = (d == 0 || v) ∧ Past s t 4 ∧ CtlFrame s t [] [d]

/-- A word of the control stream only moves to pc. -/
def JumpsTo (s : State) (i : Instr) (pc : GWord) : Prop :=
  ∃ t, exec i s = .next t ∧ AtPc s t pc ∧ CtlFrame s t [] []

/-- The control word ends in a trap: nothing of its own effect, and trap(code) of 15 R314 with INFO and TRAPVA. -/
def CtlTraps (s : State) (i : Instr) (code info : Nat) (va : GWord) : Prop :=
  exec i s = .next (s.takeTrap s.cur false { code := code, info := info, lane := none, va := va })

/-- bloop of 08 R187: g63 counts down; the loop goes round while it has not become 0 and the guard holds. -/
def Loops (s : State) (q : QReg) (neg : Bool) (off : BitVec 22) : Prop :=
  let a := (s.grp s.cur).pc
  ∃ t, exec (.bloop q neg off) s = .next t
    ∧ t.rg s.cur 63 = s.rg s.cur 63 - 1
    ∧ (s.rg s.cur 63 ≠ 1 ∧ s.rq s.cur q ≠ neg → AtPc s t (a + BitVec.ofInt 64 (4 * off.toInt)))
    ∧ (s.rg s.cur 63 = 1 ∨ s.rq s.cur q = neg → AtPc s t (a + 4))
    ∧ CtlFrame s t [63] []

/-- jmp and callr to gA, and ret to g62, of 08 R188, with ALIGN for a target that is no multiple of 4. -/
def Transfers (s : State) (a : GReg) : Prop :=
  let x := s.rg s.cur a
  let l := s.rg s.cur 62
  (x.toNat % 4 = 0 → JumpsTo s (.jmp a) x ∧
    ∃ t, exec (.callr a) s = .next t ∧ t.rg s.cur 62 = (s.grp s.cur).pc + 4 ∧ AtPc s t x ∧ CtlFrame s t [62] []) ∧
  (l.toNat % 4 = 0 → JumpsTo s .ret l) ∧
  (s.cur ≠ farrierId → x.toNat % 4 ≠ 0 → CtlTraps s (.jmp a) 0x04 0 x ∧ CtlTraps s (.callr a) 0x04 0 x) ∧
  (s.cur ≠ farrierId → l.toNat % 4 ≠ 0 → CtlTraps s .ret 0x04 0 l)

/-- The lane word ends in a trap reported at a lane. -/
def LaneTraps (s : State) (i : Instr) (code info : Nat) (l : Option Nat) (va : GWord) : Prop :=
  exec i s = .next (s.takeTrap s.cur true { code := code, info := info, lane := l, va := va })

/-- A lane word writes lane register d, in the lanes that take part (09 R204): the value f l in lane l; it goes on at the next word
and changes nothing else. -/
def WritesV (s : State) (i : Instr) (h : Hdr) (d : VReg) (f : Nat → Word) : Prop :=
  ∃ t, exec i s = .next t
    ∧ (∀ l, l < 32 → t.rv s.cur d.toNat l = if s.active s.cur l && s.guard s.cur h l then f l else s.rv s.cur d.toNat l)
    ∧ AtWord s t (s.lpc s.cur + 1) ∧ LaneFrame s t [d.toNat] []

/-- A lane word writes lane predicate d, in the lanes that take part; a write of p0 is discarded. -/
def WritesP (s : State) (i : Instr) (h : Hdr) (d : PReg) (f : Nat → Bool) : Prop :=
  ∃ t, exec i s = .next t
    ∧ (∀ l, l < 32 → t.rp s.cur d l = if d = 0 then true
        else if s.active s.cur l && s.guard s.cur h l then f l else s.rp s.cur d l)
    ∧ AtWord s t (s.lpc s.cur + 1) ∧ LaneFrame s t [] [d.toNat]

/-- The current group is on a core and may use these lane registers, each with the number of its first and how many (09 R204). -/
def LaneOk (s : State) (l : List (VReg × Nat)) : Prop := s.cur ≠ farrierId ∧ l.all (fun e => regsOk s s.cur e.1 e.2) = true

/-- The current group's record becomes x, and nothing else of the state changes. -/
def OnlyGroup (s t : State) (x : Group) : Prop :=
  t.grp s.cur = x ∧ (∀ g, g ≠ s.cur → t.grp g = s.grp g) ∧ { t with groups := [] } = { s with groups := [] }
    ∧ ∀ a, t.homeByte a = s.homeByte a

/-- The current group's record becomes x and its team's record y, and nothing else of the state changes. -/
def OnlyTeam (s t : State) (x : Group) (y : Team) : Prop :=
  t.grp s.cur = x ∧ (∀ g, g ≠ s.cur → t.grp g = s.grp g)
    ∧ t.team (s.grp s.cur).team = y ∧ (∀ k, k ≠ (s.grp s.cur).team → t.team k = s.team k)
    ∧ { t with groups := [], teams := [] } = { s with groups := [], teams := [] } ∧ ∀ a, t.homeByte a = s.homeByte a

/-- The current group's record becomes x and the record of core c becomes y, and nothing else of the state changes. -/
def OnlyCore (s t : State) (x : Group) (c : Nat) (y : Core) : Prop :=
  t.grp s.cur = x ∧ (∀ g, g ≠ s.cur → t.grp g = s.grp g) ∧ t.core c = y ∧ (∀ k, k ≠ c → t.core k = s.core k)
    ∧ { t with groups := [], cores := [] } = { s with groups := [], cores := [] } ∧ ∀ a, t.homeByte a = s.homeByte a

/-- The control stream of the current group waits for a reason, its instruction to be tried again, and nothing else changes. -/
def Waits (s : State) (i : Instr) (r : Stall) : Prop :=
  ∃ t, exec i s = .next t ∧ OnlyGroup s t { s.grp s.cur with cwait := .stall r }

/-- A control access of w bytes at record offset o of slot bn passes the checks of 03 R59, in the state s1 and with the translation tr
that 15 R309 gives it; the physical address is a multiple of w as the virtual one is. -/
structure CtlAcc (s : State) (bn : Slot) (o : Int) (w : Nat) (k : AccKind) (b : BufRec) (s1 : State) (tr : Tr) : Prop where
  ongrp : s.cur ≠ farrierId
  slot  : s.slotRec s.cur bn = some b
  bound : b.inBounds o w = true
  kind  : b.permits k = true
  align : (b.address o).toNat % w = 0
  idem  : kindWrites k = true → (s.teamOf s.cur).rerun = true → b.idem = true
  trans : s.translate (coreOf s.cur) (s.ctxOf s.cur) (b.address o).toNat k = .ok (s1, tr)
  phys  : tr.pa % w = 0
  lock  : accHit s1 (coreOf s.cur) (s.ctxOf s.cur) k { lane := none, va := (b.address o).toNat, n := w, tr := tr } = none

/-- What core c writes back of a line reaches its home: inside its partition's NETBOUND, and over the link where the line is of host
memory. -/
def Machine.State.Reaches (s : State) (c line : Nat) : Prop :=
  s.homeOk (s.codeOfCore c) (deckOfCore c) (line * 128) = true ∧ (isHost (line * 128) = true → s.cxlUp = true)

/-- No snapshot runs: a write changes no byte but its own. -/
def NoSnap (s : State) : Prop := ∀ p, (s.part p).snap.running = false

/-- Everything but what an access of the control stream may change besides its registers ds: every other register and predicate, every
other field of the group but its pc and its wait, every other group, the handler banks and the records of the cores but for their L1s
and stack caches are as they were. -/
structure AccFrame (s t : State) (ds : List GReg) : Prop where
  regs   : ∀ r, r ∉ ds → t.rg s.cur r = s.rg s.cur r
  preds  : ∀ q, t.rq s.cur q = s.rq s.cur q
  group  : { t.grp s.cur with g := [], pc := 0, cwait := .none } = { s.grp s.cur with g := [], pc := 0, cwait := .none }
  groups : ∀ g, g ≠ s.cur → t.grp g = s.grp g
  bank   : HidesG s t
  banks  : ∀ g, coreOf g ≠ coreOf s.cur ∨ bayOf g ≠ bayOf s.cur → t.bank g = s.bank g
  cores  : ∀ c, { t.core c with banks := [], l1 := [], stackc := [] } = { s.core c with banks := [], l1 := [], stackc := [] }
  teams  : t.teams = s.teams

/-- An access moves no line but its own: the core's L1 and the line's home slice have room for one more, the host holds no copy of the
line, and the device's copies of host memory stand in rising order. -/
structure Undisturbed (s : State) (c : Nat) (t : Tr) : Prop where
  room  : (s.core c).l1.length < 2048
  slice : let sl := s.lineSlice (s.codeOfCore c) (t.pa / 128 * 128)
    (s.l2Lines sl).length + s.pinnedIn sl + s.mirrorsIn sl < 12288
  snoop : s.snoop.contains (t.pa / 128) = false
  host  : s.hostL2.rising = true

/-- The clean lines of shared pages are out of core c's L1, and the clean bytes of its other lines of shared pages are those of their homes
(04 R85, R86, R92, log 92). -/
def Machine.State.NoneShared (s : State) (c : Nat) : Prop :=
  (∀ l x, (l, x) ∈ (s.core c).l1 → x.dirty ≠ 0 ∨ x.priv = true) ∧
  ∀ l x k, (s.core c).l1.find l = some x → x.priv = false → k < 128 → x.dirty.getLsbD k = false → x.data.getD k 0 = s.homeByte (l * 128 + k)

/-- Every sector in core c's L1 and stack caches has a check that matches its data: what the core writes back posts no record (17 R369). -/
def Machine.State.CacheGood (s : State) (c : Nat) : Prop := (∀ e ∈ (s.core c).l1, e.2.bad = 0) ∧ ∀ e ∈ (s.core c).stackc, e.2.bad = 0

/-- The control stream waits for the settle of record r, which its core has asked of r's core; its registers and its place stay. -/
def AsksSettle (s s1 u : State) (r : Rec) (w : CWait) : Prop :=
  (u.grp s.cur).cwait = w ∧ (u.grp s.cur).pc = (s.grp s.cur).pc
    ∧ (u.core r.core).settleReqs = (s1.core r.core).settleReqs ++ [{ mark := r.mark, who := some (s.cur, false) }]
    ∧ (∀ q, u.rg s.cur q = s.rg s.cur q) ∧ ∀ g, g ≠ s.cur → u.grp g = s.grp g

/-- What a load changes besides: counters, the filter of the host's copies, where bytes are kept, and its own early loads. -/
structure LoadFrame (s t : State) (ds : List GReg) : Prop extends AccFrame s t ds where
  bytes  : ∀ a, t.homeByte a = s.homeByte a
  rest   : { t with groups := [], cores := [], ctr := [], snoop := [], hostL2 := [], hostMem := [], l2 := [], early := [] } =
           { s with groups := [], cores := [], ctr := [], snoop := [], hostL2 := [], hostMem := [], l2 := [], early := [] }

/-- A control word loads v into group register d and goes on after its n bytes. -/
def LoadsG (s s1 : State) (i : Instr) (d : GReg) (n : Nat) (v : GWord) : Prop :=
  s.stackBad s.cur d v = false →
    ∃ t, exec i s = .next t ∧ t.rg s.cur d = (if d = 0 then 0 else v) ∧ Past s t n ∧ LoadFrame s1 t [d]

/-- Exactly the bytes bs at pa change at their homes. -/
def StoredAt (s t : State) (pa : Nat) (bs : List Byte) : Prop :=
  ∀ a, t.homeByte a = if pa ≤ a ∧ a < pa + bs.length then bs.getD (a - pa) 0 else s.homeByte a

/-- Every line of core c's L1 but one is as it was, and so is every line of the other cores' L1s. -/
def OtherLines (s t : State) (c line : Nat) : Prop :=
  (∀ l, l ≠ line → (t.core c).l1.find l = (s.core c).l1.find l) ∧ ∀ k, k ≠ c → (t.core k).l1 = (s.core k).l1

/-- The word makes the engine command x outstanding on the group's core under the number that s2 gives, s2 being the state in which its
operands are translated and its ranges registered, and goes on. -/
def AddsCmd (s s2 : State) (i : Instr) (x : Cmd) : Prop :=
  ∃ t, exec i s = .next t ∧ (t.core (coreOf s.cur)).cmds.find s2.freeCtr = some x ∧ Past s t 4
    ∧ (∀ k, k ≠ s2.freeCtr → (t.core (coreOf s.cur)).cmds.find k = (s2.core (coreOf s.cur)).cmds.find k)
    ∧ (∀ r, t.rg s.cur r = s.rg s.cur r) ∧ (∀ g, g ≠ s.cur → t.grp g = s2.grp g)
    ∧ { t.core (coreOf s.cur) with cmds := [] } = { s2.core (coreOf s.cur) with cmds := [] }
    ∧ (∀ k, k ≠ coreOf s.cur → t.core k = s2.core k) ∧ t.freeCtr = s2.freeCtr + 1
    ∧ { t with groups := [], cores := [], freeCtr := 0 } = { s2 with groups := [], cores := [], freeCtr := 0 }

/-- The word joins the matrix operation m to the end of the queue of the group's core and goes on. -/
def AddsMat (s s2 : State) (i : Instr) (m : MatOp) : Prop :=
  ∃ t, exec i s = .next t ∧ (t.core (coreOf s.cur)).matq = (s2.core (coreOf s.cur)).matq ++ [m] ∧ Past s t 4
    ∧ (∀ r, t.rg s.cur r = s.rg s.cur r) ∧ (∀ g, g ≠ s.cur → t.grp g = s2.grp g)
    ∧ { t.core (coreOf s.cur) with matq := [] } = { s2.core (coreOf s.cur) with matq := [] }
    ∧ (∀ k, k ≠ coreOf s.cur → t.core k = s2.core k) ∧ t.freeCtr = s2.freeCtr + 1
    ∧ { t with groups := [], cores := [], freeCtr := 0 } = { s2 with groups := [], cores := [], freeCtr := 0 }

/-- Everything but what a rounding lane word of the current group may write: its lane registers outside vs and, besides its generators,
what LaneFrame keeps. -/
structure GenFrame (s t : State) (vs : List Nat) : Prop where
  regs   : ∀ r l, l < 32 → r ∉ vs → t.rv s.cur r l = s.rv s.cur r l
  group  : { t.grp s.cur with v := [], gen := [], lpc := 0, hlpc := 0, lwait := .none, refillArr := false } =
           { s.grp s.cur with v := [], gen := [], lpc := 0, hlpc := 0, lwait := .none, refillArr := false }
  groups : ∀ g, g ≠ s.cur → t.grp g = s.grp g
  bank   : HidesV s t
  banks  : ∀ g, coreOf g ≠ coreOf s.cur ∨ bayOf g ≠ bayOf s.cur → t.bank g = s.bank g
  cores  : ∀ c, { t.core c with banks := [] } = { s.core c with banks := [] }
  bytes  : ∀ a, t.homeByte a = s.homeByte a
  rest   : { t with groups := [], cores := [] } = { s with groups := [], cores := [] }

/-- A lane word writes n lane registers from d, and the lane's generator, in the lanes that take part: the words and the generator that f
gives from the generator before. -/
def WritesR (s : State) (i : Instr) (h : Hdr) (d : VReg) (n : Nat) (f : Nat → Word → List Word × Word) : Prop :=
  ∃ t, exec i s = .next t
    ∧ (∀ l k, l < 32 → k < n → t.rv s.cur (d.toNat + k) l = if s.active s.cur l && s.guard s.cur h l
        then (f l ((s.grp s.cur).gen.get 0 l)).1.getD k 0 else s.rv s.cur (d.toNat + k) l)
    ∧ (∀ l, l < 32 → (t.grp s.cur).gen.get 0 l = if s.active s.cur l && s.guard s.cur h l
        then (f l ((s.grp s.cur).gen.get 0 l)).2 else (s.grp s.cur).gen.get 0 l)
    ∧ AtWord s t (s.lpc s.cur + 1) ∧ GenFrame s t ((List.range n).map (fun k => d.toNat + k))

/-- Everything but what an access of the lane stream may change besides its lane registers vs and lane predicates ps: every other lane
register and predicate, every other field of the group but the place of its lane stream, every other group, and the records of the cores
but for their L1s. -/
structure LaneAccFrame (s t : State) (vs : List Nat) (ps : List Nat) : Prop where
  regs   : ∀ r l, l < 32 → r ∉ vs → t.rv s.cur r l = s.rv s.cur r l
  preds  : ∀ p, p ∉ ps → t.pmask s.cur p = s.pmask s.cur p
  group  : { t.grp s.cur with v := [], p := [], lpc := 0, hlpc := 0, lwait := .none, refillArr := false } =
           { s.grp s.cur with v := [], p := [], lpc := 0, hlpc := 0, lwait := .none, refillArr := false }
  groups : ∀ g, g ≠ s.cur → t.grp g = s.grp g
  bank   : HidesV s t
  banks  : ∀ g, coreOf g ≠ coreOf s.cur ∨ bayOf g ≠ bayOf s.cur → t.bank g = s.bank g
  cores  : ∀ c, { t.core c with banks := [], l1 := [] } = { s.core c with banks := [], l1 := [] }
  teams  : t.teams = s.teams

/-- The bytes that a load of the current group reads at a translated address: the deck's replica for a window page, the line of the L1
where the access goes through it and the line is there, the home otherwise. -/
def Machine.State.seen (s : State) (t : Tr) (n : Nat) : List Byte :=
  if pteHome t.e == 4 then s.replica (deckOf s.cur) t.pa n
  else
    match (if viaL1 s (coreOf s.cur) t then (s.core (coreOf s.cur)).l1.find (t.pa / 128) else none) with
    | some x => (x.data.drop (t.pa % 128)).take n
    | none => s.homeBytes t.pa n

/-- The byte that core c sees: in its L1's line, or at its home. -/
def Machine.State.coreByte (s : State) (c a : Nat) : Byte :=
  match (s.core c).l1.find (a / 128) with
  | some x => x.data.getD (a % 128) 0
  | none => s.homeByte a

/-- The bytes of the last of some writes that covers an address, and those of m elsewhere. -/
def written (m : Nat → Byte) (l : List (Nat × List Byte)) (a : Nat) : Byte :=
  l.foldl (fun b e => if e.1 ≤ a ∧ a < e.1 + e.2.length then e.2.getD (a - e.1) 0 else b) (m a)

/-- Atomics of w bytes in order, each (lane, address) on the memory that the ones before it leave: the memory, and the old values. -/
def atomRun (op : AtomOp) (w : Nat) (b c : Nat → Nat) : (Nat → Byte) → List (Nat × Nat) → (Nat → Byte) × List (Nat × Nat)
  | m, [] => (m, [])
  | m, (lane, a) :: l =>
    let old := ofBytes ((List.range w).map (fun k => m (a + k)))
    let m' := if op = .cas ∧ old ≠ c lane then m else written m [(a, toBytes w (atomNew op w old (b lane) (c lane)))]
    ((atomRun op w b c m' l).1, (lane, old) :: (atomRun op w b c m' l).2)

/-- The instruction answers a next state of which Q holds. -/
def Does (s : State) (i : Instr) (Q : State → Prop) : Prop := ∃ t, exec i s = .next t ∧ Q t

end Sys2Proof
end

