-- ==== Sys2Proof/Certificates/Slice0/Obligations.lean ====
section
/-! DEFINITION. The statements for the provers, each named for what it states; the docstring names the rules. A value or a behaviour that
is the model's and not the manual's is said so, with its log entry. -/

open Sys2Proof Sys2Proof.Machine

/-- 02 R28, R30, 07 R162 to R168, 08 R181, 15 R314: with nothing else on the agenda a step fetches the word at the current stream's
place and runs what it decodes to, in the state in which the fetch is translated and the issue counted; a lane word runs inside the
waits and the counts of R169 to R172; a word that stands for nothing traps ILLEGAL, and so does a lane place of LCN or above. The bytes
of a word are those at their homes (log 34), and a handler outside its partition takes ACCESS (log 94). An event runs when it heads the
agenda, which the model orders (log 1). A word that may order later loads of its group finds no early load of the group's left (log 3).
-/
def Obligations.StepRunsDecoded : Prop :=
  ∀ (s : State),
    (s.agenda = [] → s.curLane = false → s.ctlIssues s.cur = true → (∀ q, (s.grp s.cur).cwait ≠ .flip q) →
      let pc := (s.grp s.cur).pc.toNat
      let again := (s.grp s.cur).cwait != .none
      let near (va : Nat) : Prop := s.cur = farrierId ∨ (s.tableIn (s.codeOf s.cur) va = true ∧ s.homeOk (s.codeOf s.cur) (deckOf s.cur) va = true)
      (∀ s1 tr, (s.grp s.cur).sys = false → s.translate (coreOf s.cur) (s.ctxOf s.cur) pc .fetch = .ok (s1, tr) → tr.rein = false →
        let u := s1.fetchLine s.cur tr
        let w := BitVec.ofNat 32 (u.homeNat tr.pa 4)
        (twoWord w = false →
          (∀ i, decode (.ctrl w) = .ok i → step s = exec i ((countIssue u s.cur 0x08 again).ordered i)) ∧
          (decode (.ctrl w) = .bad .unallocated → s.cur ≠ farrierId →
            step s = .next (s.takeTrap s.cur false { code := 0x01, info := 0, lane := none, va := 0 }))) ∧
        (twoWord w = true → ∀ s2 tx, (u.grp s.cur).sys = false →
          u.translate (coreOf s.cur) (u.ctxOf s.cur) ((pc + 4) % 2 ^ 64) .fetch = .ok (s2, tx) → tx.rein = false →
          let v := s2.fetchLine s.cur tx
          ∀ i, decode (.pair w (BitVec.ofNat 32 (v.homeNat tx.pa 4))) = .ok i →
            step s = exec i ((countIssue v s.cur 0x08 again).ordered i))) ∧
      ((s.grp s.cur).sys = true →
        let w := BitVec.ofNat 32 (s.homeNat pc 4)
        (near pc → twoWord w = false →
          (∀ i, decode (.ctrl w) = .ok i → step s = exec i ((countIssue s s.cur 0x08 again).ordered i)) ∧
          (decode (.ctrl w) = .bad .unallocated → s.cur ≠ farrierId →
            step s = .next (s.takeTrap s.cur false { code := 0x01, info := 0, lane := none, va := 0 }))) ∧
        (near pc → twoWord w = true → near ((pc + 4) % 2 ^ 64) →
          ∀ i, decode (.pair w (BitVec.ofNat 32 (s.homeNat ((pc + 4) % 2 ^ 64) 4))) = .ok i →
            step s = exec i ((countIssue s s.cur 0x08 again).ordered i)) ∧
        (s.cur ≠ farrierId → s.tableIn (s.codeOf s.cur) pc = false →
          step s = .next (s.takeTrap s.cur false { code := 0x11, info := 4, lane := none, va := (s.grp s.cur).pc })))) ∧
    (s.agenda = [] → s.curLane = true → s.laneIssues s.cur = true → (s.grp s.cur).lwait ≠ .flip →
      let u := s.startBlock s.cur
      let va := ((s.teamOf s.cur).lcb.toNat + 12 * u.lpc s.cur) % 2 ^ 64
      let again := (u.grp s.cur).lwait != .none
      (u.lpc s.cur < (s.teamOf s.cur).lcn → ∀ s1 tr,
        u.translate (coreOf s.cur) (u.ctxOf s.cur) va .fetch = .ok (s1, tr) → tr.rein = false →
        let v := s1.fetchLine s.cur tr
        (va % 4096 + 12 ≤ 4096 → ∀ i, decode (.lane (BitVec.ofNat 96 (v.homeNat tr.pa 12))) = .ok i →
          step s = issueLane i (exec i) ((countIssue v s.cur 0x10 again).ordered i)) ∧
        (4096 < va % 4096 + 12 → ∀ s2 tx, let n := 4096 - va % 4096
          v.translate (coreOf s.cur) (v.ctxOf s.cur) ((va + n) % 2 ^ 64) .fetch = .ok (s2, tx) → tx.rein = false →
          let y := s2.fetchLine s.cur tx
          ∀ i, decode (.lane (BitVec.ofNat 96 (y.homeNat tr.pa n + y.homeNat tx.pa (12 - n) * 2 ^ (8 * n)))) = .ok i →
            step s = issueLane i (exec i) ((countIssue y s.cur 0x10 again).ordered i))) ∧
      ((s.teamOf s.cur).lcn ≤ u.lpc s.cur →
        step s = .next (u.takeTrap s.cur true { code := 0x01, info := 0, lane := none, va := 0 }))) ∧
    (∀ g lane rest, s.agenda = .issue g lane :: rest → step s = issueCur exec { s with agenda := rest, cur := g, curLane := lane }) ∧
    (∀ i, s.early = [] → s.ordered i = s) ∧
    (∀ i, unordered i = false → ∀ e, e ∈ (s.ordered i).early → e.gid ≠ s.cur) ∧
    (∀ i rest, s.agenda = .event i :: rest → i.isEvent = true → step s = exec i { s with agenda := rest }) ∧
    (∀ i t x, let k := laneUse i
      k.dst.all (fun e => e.1 || !s.locked s.cur e.2) = true → ringWait (s.grp s.cur) k.t k.cls = some x → undersized (s.grp s.cur) k = [] →
      exec i (s.setGrp s.cur x) = .next t → completed (s.setGrp s.cur x) t s.cur = true →
      issueLane i (exec i) s
        = .next (t.onGrp s.cur (fun y => ringJoin { y with hazards := nextHazards (s.setGrp s.cur x) s.cur k } k.cls)))

/-- 07 to 11: words written out from the encodings of the manual stand for these instructions. -/
def Obligations.DecodeWords : Prop :=
  decode (.ctrl 0x04610500) = .ok (.gadd 6 4 5) ∧ decode (.ctrl 0x1050FFF8) = .ok (.gaddi 5 3 (-8)) ∧
  decode (.ctrl 0x417FFFFA) = .ok (.br 2 true (-6)) ∧ decode (.ctrl 0x54400400) = .ok (.gld64 4 0 1 0) ∧
  decode (.ctrl 0xBC401002) = .ok (.pget 4 2) ∧ decode (.ctrl 0xE3800020) = .ok (.sysrd 56 .trappc) ∧
  decode (.ctrl 0xE4000000) = .ok .tret ∧ decode (.ctrl 0xE4000001) = .ok .tabort ∧ decode (.ctrl 0x70000002) = .ok .gend ∧
  decode (.pair 0x5C800403 0x00700550) = .ok (.gatom 8 0 1 3 { b := 7, c := 0, op := .add, w32 := false, ord := .rel, sc := .dev }) ∧
  (let h (gap wm pred : Nat) : Hdr :=
      { t := { gap := BitVec.ofNat 4 gap, cede := false, wm := BitVec.ofNat 4 wm, wl := 0, wf := 0 }, neg := false, pred := BitVec.ofNat 3 pred }
   decode (.lane 0x010400082424200000000000) = .ok (.vaddI32 (h 4 0 2) 9 9 (.reg 8)) ∧
   decode (.lane 0x010108001410100000000000) = .ok (.vaddI32 (h 1 1 0) 5 4 (.reg 4)) ∧
   decode (.lane 0x40200000101C000020000010) = .ok (.vld (h 0 0 0) 4 .s4 2 7 16 false) ∧
   decode (.lane 0x900000001410000042A00000) = .ok (.vcvt (h 0 0 0) .f32 .bf16 (.own .stoch) .fmt 5 4) ∧
   decode (.lane 0xB00000004000000100000005) = .ok (.amov (h 0 0 0) .w32 16 5))

/-- 00 R1, 15 R306, R317, 16 R326 to R330, 17 R355 to R365, R373, R376, R382, 04 R90: the machine after a package reset. That the flash
record gives layout P, that memory starts with nothing listed and reads 0, and every register that the manual gives no reset value, are
the model's (log 4, log 5). -/
def Obligations.ResetValues : Prop :=
  let s := State.reset
  s.mem = [] ∧ Memory.wf s.mem = true ∧ s.teams = [] ∧ s.launches = [] ∧ s.pipes = [] ∧ s.cores = [] ∧ s.queues = [] ∧ s.agenda = [] ∧
  (∀ a, isHost a = false → s.homeByte a = 0) ∧
  s.partmap = 0xFFFFF000 ∧ s.pkg.tamperpol = none ∧ s.pkg.tamperstat = 0 ∧ s.pkg.pwrcap = 2200 ∧ s.pkg.fstate = 0 ∧ s.pkg.cxlstat = 0 ∧
  s.pkg.ualid = 0 ∧ s.pkg.fabgraph = [] ∧ s.pkg.clockMhz = 2250 ∧ s.pkg.halted = false ∧
  (s.part 0).hbmil = 0xCFFF ∧ (s.part 0).netbound = 0xFFFF01FF ∧ (s.part 0).intcfg = 2 ∧ (s.part 0).holdlim = 1000 ∧
  (s.part 0).fqcfg = 0 ∧ (s.part 0).ctxtab = 0 ∧ (s.part 0).preState = 0 ∧ (s.part 0).intstat = 0 ∧ (s.part 0).stable = 0 ∧
  (∀ t, (s.tower t).reinSplit = 0 ∧ (s.tower t).q = 0) ∧ (∀ d, (s.deck d).live = true ∧ (s.deck d).awake = true ∧ (s.deck d).sendQ = []) ∧
  (∀ c, (s.core c).cm = 1 ∧ (s.core c).settled = 0 ∧ (s.core c).checkmode = 0 ∧ (s.core c).handlerBase = 0 ∧ (s.core c).l1 = [] ∧
    (s.core c).tlb = [] ∧ (s.core c).locks = []) ∧
  (∀ g, (s.grp g).sys = decide (g = farrierId) ∧ (s.grp g).pc = 0 ∧ (∀ r, s.rg g r = 0) ∧ ∀ r l, s.rv g r l = 0)

/-- Every step keeps memory in its canonical form: addresses strictly rising, and no byte listed that is 0, as an unlisted byte reads
(the model's form of 17 R365's memory of zeros). -/
def Obligations.MemoryCanonical : Prop :=
 ∀ s t : State, Memory.wf s.mem = true → step s = .next t → Memory.wf t.mem = true

/-- 07 R157 to R163, 08, 11: every well-formed instruction that is no event has an encoding, and the control word or the two words of
one decode to it, whatever its operands. -/
def Obligations.ControlRoundTrip : Prop :=
  ∀ i : Instr, i.wf = true →
    (i.isEvent = false → (encode i).isSome) ∧ (∀ w, encode i = some (.ctrl w) → decode (.ctrl w) = .ok i)
      ∧ ∀ w x, encode i = some (.pair w x) → decode (.pair w x) = .ok i

/-- 07 R157 to R161, R163, 09, 10: the lane word of every well-formed lane instruction decodes to it, whatever its operands. -/
def Obligations.LaneRoundTrip : Prop :=
 ∀ (i : Instr) (w : BitVec 96), i.wf = true → encode i = some (.lane w) → decode (.lane w) = .ok i

/-- 08 R182 (the forms that cannot trap): each writes gD and nothing else. 08 R182: the bit fields of a register, and ILLEGAL when the
field is empty or leaves the register. 08 R184: the immediate forms that write gD. 08 R184, R185: compares to group predicates and
predicate logic; a write of q0 is discarded. -/
def Obligations.ControlArithmetic : Prop :=
  (∀ (s : State) (d a b : GReg) (k : BitVec 2),
     WritesG s (.gadd d a b) d (BitVec.ofNat 64 ((s.rg s.cur a).toNat + (s.rg s.cur b).toNat)) ∧
     WritesG s (.gsub d a b) d (BitVec.ofInt 64 ((s.rg s.cur a).toNat - (s.rg s.cur b).toNat)) ∧
     WritesG s (.gand d a b) d (s.rg s.cur a &&& s.rg s.cur b) ∧
     WritesG s (.gor d a b) d (s.rg s.cur a ||| s.rg s.cur b) ∧
     WritesG s (.gxor d a b) d (s.rg s.cur a ^^^ s.rg s.cur b) ∧
     WritesG s (.gandn d a b) d (s.rg s.cur a &&& ~~~(s.rg s.cur b)) ∧
     WritesG s (.gshl d a b) d (BitVec.ofNat 64 ((s.rg s.cur a).toNat * 2 ^ ((s.rg s.cur b).toNat % 64))) ∧
     WritesG s (.gshr d a b) d (BitVec.ofNat 64 ((s.rg s.cur a).toNat / 2 ^ ((s.rg s.cur b).toNat % 64))) ∧
     WritesG s (.gsra d a b) d (BitVec.ofInt 64 ((s.rg s.cur a).toInt / 2 ^ ((s.rg s.cur b).toNat % 64))) ∧
     WritesG s (.gminI64 d a b) d (BitVec.ofInt 64 (min (s.rg s.cur a).toInt (s.rg s.cur b).toInt)) ∧
     WritesG s (.gmaxI64 d a b) d (BitVec.ofInt 64 (max (s.rg s.cur a).toInt (s.rg s.cur b).toInt)) ∧
     WritesG s (.gminN64 d a b) d (BitVec.ofNat 64 (min (s.rg s.cur a).toNat (s.rg s.cur b).toNat)) ∧
     WritesG s (.gmaxN64 d a b) d (BitVec.ofNat 64 (max (s.rg s.cur a).toNat (s.rg s.cur b).toNat)) ∧
     WritesG s (.gaddsh d a b k) d (BitVec.ofNat 64 ((s.rg s.cur a).toNat + (s.rg s.cur b).toNat * 2 ^ (k.toNat + 1))) ∧
     WritesG s (.gclz d a) d
       (if s.rg s.cur a = 0 then 64 else BitVec.ofNat 64 (63 - (s.rg s.cur a).toNat.log2)) ∧
     WritesG s (.gpopc d a) d (BitVec.ofNat 64 ((List.range 64).countP (fun n => (s.rg s.cur a).getLsbD n)))) ∧
  (∀ (s : State) (d a b : GReg), s.cur ≠ farrierId →
     let lo := (s.rg s.cur b).toNat % 64
     let len := (s.rg s.cur b).toNat / 256 % 128
     let x := (s.rg s.cur a).toNat / 2 ^ lo % 2 ^ len
     (1 ≤ len ∧ lo + len ≤ 64 →
       WritesG s (.gbfx d a b) d (BitVec.ofNat 64 x) ∧
       WritesG s (.gbfxI64 d a b) d (BitVec.ofInt 64 (if x < 2 ^ (len - 1) then (x : Int) else (x : Int) - 2 ^ len))) ∧
     (len = 0 ∨ 64 < lo + len → CtlTraps s (.gbfx d a b) 0x01 0 0 ∧ CtlTraps s (.gbfxI64 d a b) 0x01 0 0)) ∧
  (∀ (s : State) (d a : GReg) (imm : BitVec 14) (sh n lo : BitVec 6), s.cur ≠ farrierId →
     let x := s.rg s.cur a
     let len := n.toNat + 1
     let f := x.toNat / 2 ^ lo.toNat % 2 ^ len
     WritesG s (.gaddi d a imm) d (BitVec.ofInt 64 (x.toInt + imm.toInt)) ∧
     WritesG s (.gandi d a imm) d (x &&& BitVec.ofInt 64 imm.toInt) ∧
     WritesG s (.gori d a imm) d (x ||| BitVec.ofInt 64 imm.toInt) ∧
     WritesG s (.gxori d a imm) d (x ^^^ BitVec.ofInt 64 imm.toInt) ∧
     WritesG s (.gshli d a sh) d (BitVec.ofNat 64 (x.toNat * 2 ^ sh.toNat)) ∧
     WritesG s (.gshri d a sh) d (BitVec.ofNat 64 (x.toNat / 2 ^ sh.toNat)) ∧
     WritesG s (.gsrai d a sh) d (BitVec.ofInt 64 (x.toInt / 2 ^ sh.toNat)) ∧
     WritesG s (.gupi d a imm) d (BitVec.ofNat 64 (x.toNat * 2 ^ 14 + imm.toNat)) ∧
     (lo.toNat + len ≤ 64 →
       WritesG s (.gbfxi d a n lo) d (BitVec.ofNat 64 f) ∧
       WritesG s (.gbfxiI64 d a n lo) d (BitVec.ofInt 64 (if f < 2 ^ n.toNat then (f : Int) else (f : Int) - 2 ^ len))) ∧
     (64 < lo.toNat + len → CtlTraps s (.gbfxi d a n lo) 0x01 0 0 ∧ CtlTraps s (.gbfxiI64 d a n lo) 0x01 0 0)) ∧
  (∀ (s : State) (d p q : QReg) (r a b : GReg) (imm : BitVec 14),
     let x := s.rg s.cur a
     let y := s.rg s.cur b
     WritesQ s (.gcmpEq d a b) d (decide (x = y)) ∧
     WritesQ s (.gcmpNe d a b) d (decide (x ≠ y)) ∧
     WritesQ s (.gcmpLtI64 d a b) d (decide (x.toInt < y.toInt)) ∧
     WritesQ s (.gcmpLeI64 d a b) d (decide (x.toInt ≤ y.toInt)) ∧
     WritesQ s (.gcmpLtN64 d a b) d (decide (x.toNat < y.toNat)) ∧
     WritesQ s (.gcmpLeN64 d a b) d (decide (x.toNat ≤ y.toNat)) ∧
     WritesQ s (.gcmpiEq d a imm) d (decide (x.toInt = imm.toInt)) ∧
     WritesQ s (.gcmpiLtI64 d a imm) d (decide (x.toInt < imm.toInt)) ∧
     WritesQ s (.gcmpiLtN64 d a imm) d (decide (x.toNat < imm.toNat)) ∧
     WritesQ s (.qand d p q) d (s.rq s.cur p && s.rq s.cur q) ∧
     WritesQ s (.qor d p q) d (s.rq s.cur p || s.rq s.cur q) ∧
     WritesQ s (.qxor d p q) d (xor (s.rq s.cur p) (s.rq s.cur q)) ∧
     WritesQ s (.qandn d p q) d (s.rq s.cur p && !s.rq s.cur q) ∧
     WritesQ s (.qnot d p) d (!s.rq s.cur p) ∧
     WritesG s (.gsetq r p) r (if s.rq s.cur p then 1 else 0))

/-- 08 R183: multiply and divide, with their words, and ARITH for a divisor of 0. −2^63 by −1 gives −2^63 and 0. -/
def Obligations.ControlMulDiv : Prop :=
  ∀ (s : State) (d a b : GReg), s.cur ≠ farrierId →
    let x := s.rg s.cur a
    let y := s.rg s.cur b
    WritesG s (.gmul d a b) d (BitVec.ofNat 64 (x.toNat * y.toNat)) ∧
    WritesG s (.gmulhI64 d a b) d (BitVec.ofInt 64 (x.toInt * y.toInt / 2 ^ 64)) ∧
    WritesG s (.gmulhN64 d a b) d (BitVec.ofNat 64 (x.toNat * y.toNat / 2 ^ 64)) ∧
    (y ≠ 0 →
      WritesG s (.gdivI64 d a b) d (BitVec.ofInt 64 (x.toInt.tdiv y.toInt)) ∧
      WritesG s (.gdivN64 d a b) d (BitVec.ofNat 64 (x.toNat / y.toNat)) ∧
      WritesG s (.gremI64 d a b) d (BitVec.ofInt 64 (x.toInt - y.toInt * x.toInt.tdiv y.toInt)) ∧
      WritesG s (.gremN64 d a b) d (BitVec.ofNat 64 (x.toNat % y.toNat))) ∧
    (x = BitVec.intMin 64 ∧ y = BitVec.allOnes 64 →
      WritesG s (.gdivI64 d a b) d (BitVec.intMin 64) ∧ WritesG s (.gremI64 d a b) d 0) ∧
    (y = 0 →
      CtlTraps s (.gdivI64 d a b) 0x0E 0 0 ∧ CtlTraps s (.gdivN64 d a b) 0x0E 0 0 ∧
      CtlTraps s (.gremI64 d a b) 0x0E 0 0 ∧ CtlTraps s (.gremN64 d a b) 0x0E 0 0) ∧
    (let word (fn : Nat) : Code := .ctrl (BitVec.ofNat 32 (0x03 * 2 ^ 26 + d.toNat * 2 ^ 20 + a.toNat * 2 ^ 14 + b.toNat * 2 ^ 8 + fn))
     decode (word 0x00) = .ok (.gmul d a b) ∧ decode (word 0x01) = .ok (.gmulhI64 d a b) ∧ decode (word 0x02) = .ok (.gmulhN64 d a b) ∧
     decode (word 0x04) = .ok (.gdivI64 d a b) ∧ decode (word 0x05) = .ok (.gdivN64 d a b) ∧ decode (word 0x06) = .ok (.gremI64 d a b) ∧
     decode (word 0x07) = .ok (.gremN64 d a b))

/-- 08 R186: branches and calls. Only a call that is taken writes g62. In system mode the g62 and g63 that calls, the counted loop and
the indirect transfers use are hg6 and hg7, as register fields 62 and 63 are there: the model's reading (log 11). -/
def Obligations.BranchesAndCalls : Prop :=
  ∀ (s : State) (q : QReg) (neg : Bool) (off : BitVec 22),
    let a := (s.grp s.cur).pc
    let t := a + BitVec.ofInt 64 (4 * off.toInt)
    (s.rq s.cur q ≠ neg → JumpsTo s (.br q neg off) t ∧
      ∃ u, exec (.call q neg off) s = .next u ∧ u.rg s.cur 62 = a + 4 ∧ AtPc s u t ∧ CtlFrame s u [62] []) ∧
    (s.rq s.cur q = neg → JumpsTo s (.br q neg off) (a + 4) ∧ JumpsTo s (.call q neg off) (a + 4)) ∧
    ((s.grp s.cur).sys = true → Loops s q neg off ∧ ∀ b : GReg, Transfers s b)

/-- 08 R187: the counted loop, in user mode (the statement BranchesAndCalls says it of system mode). 08 R188: indirect transfers, in
user mode, and ALIGN for a target that is no multiple of 4. callr reads gA before it writes g62. -/
def Obligations.LoopsAndJumps : Prop :=
  (∀ (s : State) (q : QReg) (neg : Bool) (off : BitVec 22), (s.grp s.cur).sys = false →
     Loops s q neg off ∧
     ((q = 0 → neg = false) →
       decode (.ctrl (BitVec.ofNat 32 (0x12 * 2 ^ 26 + q.toNat * 2 ^ 23 + (if neg then 2 ^ 22 else 0) + off.toNat))) = .ok (.bloop q neg off))) ∧
  (∀ (s : State) (a : GReg), (s.grp s.cur).sys = false →
     Transfers s a ∧
     (∀ d b : GReg,
       let word (fn : Nat) : Code := .ctrl (BitVec.ofNat 32 (0x14 * 2 ^ 26 + d.toNat * 2 ^ 20 + a.toNat * 2 ^ 14 + b.toNat * 2 ^ 8 + fn))
       (decode (word 0) = .ok (.jmp a) ↔ d = 0 ∧ b = 0) ∧ (decode (word 1) = .ok (.callr a) ↔ d = 0 ∧ b = 0)
         ∧ (decode (word 2) = .ok .ret ↔ d = 0 ∧ a = 0 ∧ b = 0)))

/-- 08 R195, 02 R29: lrun enqueues a block with the argument, fmt and count of the moment, in a queue of fewer than 8 entries; with 8 it
waits with LANEQ. In system mode it starts a handler block (15 R314), with the group's fmt as it stands then (log 69). An index of LCN
or above traps ILLEGAL (07 R167). 02 R31, R32: lres takes the result of the oldest block that has one to give, when that block has
ended; lwait goes on when every block has ended, orders what the lane stream has written before the control stream, and leaves no line
in the bay's stack cache (log 78). Both wait with LANEQ before that. In a handler they act on handler blocks alone (15 R314). -/
def Obligations.LaneQueue : Prop :=
  (∀ (s : State) (w : BitVec 19) (a : GReg) (nr : Bool), s.cur ≠ farrierId →
     let x := s.grp s.cur
     let i : Instr := if nr then .lrunNr w a else .lrun w a
     ((s.teamOf s.cur).lcn ≤ w.toNat → CtlTraps s i 0x01 0 0) ∧ (w.toNat < (s.teamOf s.cur).lcn →
     let e : QEntry := { arg := s.rg s.cur a, block := w.toNat, nr := nr, posted := false, fmt := x.fmt, count := x.count, result := 0 }
     (x.sys = false → x.laneQ.length < 8 →
       ∃ t, exec i s = .next t ∧ OnlyGroup s t { x with laneQ := x.laneQ ++ [e], pc := x.pc + 4, cwait := .none }) ∧
     (x.sys = false → 8 ≤ x.laneQ.length → Waits s i .laneq) ∧
     (x.sys = true → x.hblock = none →
       ∃ t, exec i s = .next t ∧ OnlyGroup s t { x with
         hblock := some e, hlpc := w.toNat, dc := [], cm := 0, hazards := [], refillArr := false, pc := x.pc + 4, cwait := .none }) ∧
     (x.sys = true → x.hblock.isSome → Waits s i .laneq))) ∧
  (∀ (s : State) (d : GReg), s.cur ≠ farrierId →
     let x := s.grp s.cur
     let waited : Prop := Does s .lwait (fun t => AtPc s t (x.pc + 4)
       ∧ (∀ r, t.rg s.cur r = s.rg s.cur r) ∧ (∀ g, g ≠ s.cur → t.grp g = s.grp g)
       ∧ stackLines (t.core (coreOf s.cur)) (bayOf s.cur) = []
       ∧ ∀ w ∈ t.unapplied (deckOf s.cur), w.gid = s.cur → w.lane = true → w.synced = true)
     (x.sys = true →
       (∀ w l, x.hresult = w :: l → s.stackBad s.cur d (w.zeroExtend 64) = false →
         ∃ t, exec (.lres d) s = .next t ∧ t.rg s.cur d = (if d = 0 then 0 else w.zeroExtend 64) ∧ Past s t 4
           ∧ CtlFrame (s.setGrp s.cur { x with hresult := l }) t [d] []) ∧
       (x.hresult = [] → x.hblock.any (fun e => !e.nr) = true → Waits s (.lres d) .laneq) ∧
       (x.hresult = [] → x.hblock.any (fun e => !e.nr) = false → CtlTraps s (.lres d) 0x01 0 0) ∧
       (x.hblock = none → waited) ∧ (x.hblock.isSome = true → Waits s .lwait .laneq)) ∧
     (x.sys = false →
     (∀ l e r, x.laneQ = l ++ e :: r → l.all (fun b => b.nr) = true → e.nr = false →
       (e.posted = true → s.stackBad s.cur d (e.result.zeroExtend 64) = false →
         ∃ t, exec (.lres d) s = .next t ∧ t.rg s.cur d = (if d = 0 then 0 else e.result.zeroExtend 64) ∧ Past s t 4
           ∧ CtlFrame (s.setGrp s.cur { x with laneQ := l ++ r }) t [d] []) ∧
       (e.posted = false → Waits s (.lres d) .laneq)) ∧
     (x.laneQ.all (fun b => b.nr) = true → CtlTraps s (.lres d) 0x01 0 0) ∧
     (s.blocksEnded s.cur = true → waited) ∧ (s.blocksEnded s.cur = false → Waits s .lwait .laneq)))

/-- 02 R25: gend of a group whose blocks have ended and whose matrix operations have read their lane registers (log 17) empties its
slot: its registers return to the bay's sub-pool (in which no claim waits here; a waiting one is tested again, R36). 02 R34, 08 R198:
vgive returns the highest registers of the group, which then read 0, to the bay's sub-pool; vclaim takes registers that are free, which
read 0. 01 R11, 02 R27, 08 R196 to R198: words that read what the group's placement, its fmt, its count and its team give it. 08 R198,
05 R120, R123: fmtset takes a well-formed value only; gseed seeds the 32 generators once the blocks have ended. -/
def Obligations.GroupWords : Prop :=
  (∀ (s : State), s.cur ≠ farrierId → (s.grp s.cur).laneQ.all (fun b => b.posted) = true → (s.grp s.cur).hblock = none →
     s.mmaVPending s.cur = false →
     (s.teamOf s.cur).headClaim (bayOf s.cur) = none →
     let k := (s.grp s.cur).team
     ∃ t, exec .gend s = .next t
       ∧ t.grp s.cur = Group.empty
       ∧ (t.team k).slots = (s.team k).slots.map (fun h => if h.slot = slotOf s.cur ∧ h.occ = true then { h with occ := false } else h)
       ∧ (t.team k).free.get 0 (bayOf s.cur) = (s.team k).free.get 0 (bayOf s.cur) + (s.grp s.cur).count
       ∧ ∀ a, t.homeByte a = s.homeByte a) ∧
  (∀ (s : State) (n : BitVec 6), s.cur ≠ farrierId → 1 ≤ n.toNat → n.toNat ≤ 32 →
     let x := s.grp s.cur
     let k := 8 * n.toNat
     let b := bayOf s.cur
     let f := (s.teamOf s.cur).free
     (k + 8 ≤ x.count → s.blocksEnded s.cur = true → (∀ j, j < k → s.locked s.cur (x.count - k + j) = false) →
       ∃ t, exec (.vgive n) s = .next t
         ∧ (∀ r l, l < 32 → (t.grp s.cur).v.get 0 (r * 32 + l) = if x.count - k ≤ r ∧ r < x.count then 0 else x.v.get 0 (r * 32 + l))
         ∧ (t.teamOf s.cur).free.get 0 b = f.get 0 b + k ∧ (∀ j, j ≠ b → (t.teamOf s.cur).free.get 0 j = f.get 0 j)
         ∧ OnlyTeam s t { x with v := (t.grp s.cur).v, count := x.count - k, pc := x.pc + 4, cwait := .none }
             { s.teamOf s.cur with free := (t.teamOf s.cur).free }) ∧
     (x.count + k ≤ 256 → (s.teamOf s.cur).headClaim b = none → k ≤ f.get 0 b →
       ∃ t, exec (.vclaim n) s = .next t
         ∧ (∀ r l, l < 32 → (t.grp s.cur).v.get 0 (r * 32 + l) = if x.count ≤ r ∧ r < x.count + k then 0 else x.v.get 0 (r * 32 + l))
         ∧ (t.teamOf s.cur).free.get 0 b = f.get 0 b - k ∧ (∀ j, j ≠ b → (t.teamOf s.cur).free.get 0 j = f.get 0 j)
         ∧ OnlyTeam s t { x with v := (t.grp s.cur).v, count := x.count + k, pc := x.pc + 4, cwait := .none }
             { s.teamOf s.cur with free := (t.teamOf s.cur).free }) ∧
     (x.count < k + 8 → CtlTraps s (.vgive n) 0x01 0 0) ∧ (256 < x.count + k → CtlTraps s (.vclaim n) 0x01 0 0)) ∧
  (∀ (s : State) (d : GReg) (n : BitVec 4) (k : BitVec 5), s.cur ≠ farrierId →
     let g := s.cur
     let v := (s.teamOf g).lv
     WritesG s (.gloc d) d (BitVec.ofNat 64 (s.codeOf g * 2 ^ 29 + g / 64 / 48 * 2 ^ 26 + g / 64 * 2 ^ 17 + g % 64 * 2 ^ 11)) ∧
     WritesG s (.grole d) d ((s.grp g).role.zeroExtend 64) ∧
     WritesG s (.fmtget d) d ((s.grp g).fmt.zeroExtend 64) ∧
     WritesG s (.vcount d) d (BitVec.ofNat 64 (s.grp g).count) ∧
     (n = 0 → WritesG s (.glv d n) d (v.x.zeroExtend 64)) ∧ (n = 1 → WritesG s (.glv d n) d (v.y.zeroExtend 64)) ∧
     (n = 2 → WritesG s (.glv d n) d (v.z.zeroExtend 64)) ∧ (n = 3 → WritesG s (.glv d n) d (v.gx.zeroExtend 64)) ∧
     (n = 4 → WritesG s (.glv d n) d (v.gy.zeroExtend 64)) ∧ (n = 5 → WritesG s (.glv d n) d (v.gz.zeroExtend 64)) ∧
     (6 ≤ n.toNat ∧ n.toNat ≤ 9 → WritesG s (.glv d n) d ((v.shape.getD (n.toNat - 6) 0).zeroExtend 64)) ∧
     (n = 10 → WritesG s (.glv d n) d (BitVec.ofNat 64 v.bucket)) ∧ (n = 11 → WritesG s (.glv d n) d v.args) ∧
     (n = 12 → WritesG s (.glv d n) d (BitVec.ofNat 64 v.stage)) ∧
     (k.toNat < (s.teamOf g).niq → WritesG s (.iqstat d k) d
       (BitVec.ofNat 64 (((s.teamOf g).iqs.get [] k.toNat).length + (if (s.teamOf g).boundQ k.toNat then 2 ^ 9 else 0)))) ∧
     ((s.teamOf g).niq ≤ k.toNat → CtlTraps s (.iqstat d k) 0x01 0 0)) ∧
  (∀ (s : State) (a : GReg), s.cur ≠ farrierId →
     let x := s.grp s.cur
     let w := s.rg s.cur a
     (fmtOk w.toNat = true → ∃ t, exec (.fmtset a) s = .next t
       ∧ OnlyGroup s t { x with fmt := BitVec.ofNat 32 w.toNat, pc := x.pc + 4, cwait := .none }) ∧
     (fmtOk w.toNat = false → CtlTraps s (.fmtset a) 0x01 0 0) ∧
     (s.blocksEnded s.cur = true → ∃ t, exec (.gseed a) s = .next t
       ∧ (∀ l, l < 32 → (t.grp s.cur).gen.get 0 l = seedLane w l)
       ∧ OnlyGroup s t { x with gen := (t.grp s.cur).gen, pc := x.pc + 4, cwait := .none }) ∧
     (s.blocksEnded s.cur = false → Waits s (.gseed a) .laneq))

/-- 08 R199: an arrival at a team barrier. The phase ends with the arrival that makes it complete; a group that must wait waits with
BARRIER until the phase has moved on. -/
def Obligations.TeamBarriers : Prop :=
  ∀ (s : State) (k : BitVec 4) (a : GReg), s.cur ≠ farrierId →
    let x := s.grp s.cur
    let y := s.teamOf s.cur
    let c := (s.rg s.cur a).toNat
    let b := y.bars.get barEmpty k.toNat
    let e := if b.arrived = 0 then c else b.expect
    let full := (if e = 0 then y.gids.length else e) ≤ b.arrived + 1
    let b' : Barrier := if full then { arrived := 0, expect := e, phase := b.phase + 1 }
      else { arrived := b.arrived + 1, expect := e, phase := b.phase }
    (c ≤ 16 → (b.arrived = 0 ∨ b.expect = c) →
      (∃ t, exec (.nbarrive k a) s = .next t
        ∧ (t.teamOf s.cur).bars.get barEmpty k.toNat = b'
        ∧ (∀ j, j ≠ k.toNat → (t.teamOf s.cur).bars.get barEmpty j = y.bars.get barEmpty j)
        ∧ OnlyTeam s t { x with pc := x.pc + 4, cwait := .none } { y with bars := (t.teamOf s.cur).bars }) ∧
      (x.bphase = none → ∃ t, exec (.nbsync k a) s = .next t
        ∧ (t.teamOf s.cur).bars.get barEmpty k.toNat = b'
        ∧ (∀ j, j ≠ k.toNat → (t.teamOf s.cur).bars.get barEmpty j = y.bars.get barEmpty j)
        ∧ OnlyTeam s t (if full then { x with pc := x.pc + 4, cwait := .none }
            else { x with bphase := some (k.toNat, b.phase), cwait := .stall .barrier }) { y with bars := (t.teamOf s.cur).bars })) ∧
    (16 < c ∨ (b.arrived ≠ 0 ∧ b.expect ≠ c) → CtlTraps s (.nbarrive k a) 0x01 0 0 ∧
      (x.bphase = none → CtlTraps s (.nbsync k a) 0x01 0 0)) ∧
    (∀ j ph, x.bphase = some (j, ph) →
      ((y.bars.get barEmpty j).phase = ph → Waits s (.nbsync k a) .barrier) ∧
      ((y.bars.get barEmpty j).phase ≠ ph → ∃ t, exec (.nbsync k a) s = .next t
        ∧ OnlyGroup s t { x with bphase := none, pc := x.pc + 4, cwait := .none }))

/-- 08 R201, 03 R69 to R71: arrival words. aset gives the old generation and sets the target; apost counts bytes and advances the
generation by the targets that they complete; await goes on when a generation is reached; a word outside the window, not aligned, in a
registered range or poisoned traps. 08 R202: iqpush appends to a queue of fewer than 256 entries and sets its predicate; a full queue
clears it. -/
def Obligations.ArrivalAndItemWords : Prop :=
  (∀ (s : State) (d a b : GReg), s.cur ≠ farrierId →
     let x := s.grp s.cur
     let y := s.teamOf s.cur
     let o := (s.rg s.cur a).toNat
     let n := (s.rg s.cur b).toNat
     let target := (y.winW o).toNat
     let arrived := (y.winW (o + 4)).toNat
     let gen := y.winW (o + 8)
     let flags := y.winW (o + 12)
     let hit := lockHit (s.core (coreOf s.cur)).locks false x.team o (o + 16)
     (2 ^ 32 ≤ n → CtlTraps s (.aset d a b) 0x01 0 0) ∧
     (o + 16 ≤ y.scratch → o % 16 = 0 → (∀ e, hit false = some e → CtlTraps s (.aread d a) 0x05 e (s.rg s.cur a) ∧
       CtlTraps s (.await a b) 0x05 e (s.rg s.cur a)) ∧ ∀ e, hit true = some e → CtlTraps s (.apost a b) 0x05 e (s.rg s.cur a)) ∧
     (o + 16 ≤ y.scratch → o % 16 = 0 → hit true = none → y.winBad o 16 = true → CtlTraps s (.apost a b) 0x0B 0 (s.rg s.cur a)) ∧
     (o + 16 ≤ y.scratch → o % 16 = 0 → hit false = none → hit true = none → y.winBad o 16 = false →
       WritesG s (.aread d a) d (BitVec.ofNat 64 (gen.toNat + flags.toNat % 8 * 2 ^ 32)) ∧
       (n < 2 ^ 32 → s.stackBad s.cur d (gen.zeroExtend 64) = false → ∃ t, exec (.aset d a b) s = .next t
         ∧ t.rg s.cur d = (if d = 0 then 0 else gen.zeroExtend 64)
         ∧ (t.teamOf s.cur).winW o = BitVec.ofNat 32 n ∧ (t.teamOf s.cur).winW (o + 4) = 0 ∧ (t.teamOf s.cur).winW (o + 8) = gen
         ∧ (t.teamOf s.cur).winW (o + 12) = flags &&& ~~~7#32
         ∧ (∀ j, j < o ∨ o + 16 ≤ j → (t.teamOf s.cur).winByte j = y.winByte j)
         ∧ Past s t 4 ∧ CtlFrame (s.setTeam x.team (t.teamOf s.cur)) t [d] []
         ∧ t.teamOf s.cur = { y with win := (t.teamOf s.cur).win }) ∧
       (∃ t, exec (.apost a b) s = .next t
         ∧ (t.teamOf s.cur).winW (o + 4) = BitVec.ofNat 32
             (if target = 0 then min (arrived + n % 2 ^ 32) (2 ^ 32 - 1) else (arrived + n % 2 ^ 32) % target)
         ∧ (t.teamOf s.cur).winW (o + 8) = gen + BitVec.ofNat 32 (if target = 0 then 0 else (arrived + n % 2 ^ 32) / target)
         ∧ (t.teamOf s.cur).winW o = y.winW o ∧ (t.teamOf s.cur).winW (o + 12) = flags
         ∧ (∀ j, j < o ∨ o + 16 ≤ j → (t.teamOf s.cur).winByte j = y.winByte j)
         ∧ OnlyTeam s t { x with pc := x.pc + 4, cwait := .none } { y with win := (t.teamOf s.cur).win }) ∧
       ((gen - BitVec.ofNat 32 n).toNat < 2 ^ 31 → JumpsTo s (.await a b) (x.pc + 4)) ∧
       (2 ^ 31 ≤ (gen - BitVec.ofNat 32 n).toNat → Waits s (.await a b) .arrival)) ∧
     (y.scratch < o + 16 → CtlTraps s (.aread d a) 0x03 16 (s.rg s.cur a) ∧ CtlTraps s (.apost a b) 0x03 16 (s.rg s.cur a) ∧
       CtlTraps s (.await a b) 0x03 16 (s.rg s.cur a)) ∧
     (o + 16 ≤ y.scratch → o % 16 ≠ 0 → CtlTraps s (.aread d a) 0x04 0 (s.rg s.cur a) ∧
       CtlTraps s (.apost a b) 0x04 0 (s.rg s.cur a) ∧ CtlTraps s (.await a b) 0x04 0 (s.rg s.cur a))) ∧
  (∀ (s : State) (d : QReg) (k : BitVec 5) (a : GReg), s.cur ≠ farrierId →
     let y := s.teamOf s.cur
     let l := y.iqs.get [] k.toNat
     (k.toNat < y.niq → l.length < 256 → ∃ t, exec (.iqpush d k a) s = .next t ∧ t.rq s.cur d = true
       ∧ (t.teamOf s.cur).iqs.get [] k.toNat = l ++ [s.rg s.cur a]
       ∧ (∀ j, j ≠ k.toNat → (t.teamOf s.cur).iqs.get [] j = y.iqs.get [] j)
       ∧ t.teamOf s.cur = { y with iqs := (t.teamOf s.cur).iqs }
       ∧ Past s t 4 ∧ CtlFrame (s.setTeam (s.grp s.cur).team (t.teamOf s.cur)) t [] [d]) ∧
     (k.toNat < y.niq → 256 ≤ l.length → WritesQ s (.iqpush d k a) d false) ∧
     (y.niq ≤ k.toNat → CtlTraps s (.iqpush d k a) 0x01 0 0))

/-- 15 R312, R314: taking a trap in user mode with the bay's bank free: what the trap registers hold, which mode and place the group
goes on in, whose the bank is; every other field of the group, every other group and every byte of memory stay. That what an interrupted
word had done is held too, and where, is log 68. With the bank taken the trap waits. 15 R314, R316: a trap or a page fault in system
mode ends the team of a stage that is not rerunnable, with a record, and waits while the record cannot be posted. -/
def Obligations.TrapEntry : Prop :=
  (∀ (s : State) (g : Nat) (lane : Bool) (k : Trap), (s.grp g).sys = false →
     let x := s.grp g
     let u := s.takeTrap g lane k
     let y := u.grp g
     let base := (s.core (coreOf g)).handlerBase.toNat
     ((s.bank g).owner = none → x.boundary = true →
       y.sys = true ∧ y.laneTrap = lane
       ∧ y.cause = BitVec.ofNat 64 (k.code + k.info * 2 ^ 32 + (match k.lane with
           | some l => l * 2 ^ 8 + 2 ^ 13
           | none => 0))
       ∧ y.trapva = k.va ∧ y.trappc = x.pc ∧ y.traplpc = BitVec.ofNat 64 (if x.started then x.lpc else 2 ^ 20)
       ∧ y.pc = BitVec.ofNat 64 (base / 2 ^ 14 % 2 ^ 38 * 2 ^ 14 + 64 * k.code)
       ∧ y.heldDc = x.dc ∧ y.heldCm = x.cm ∧ y.dc = [] ∧ y.cm = 0 ∧ y.heldPhase = x.bphase ∧ y.heldPosted = x.posted ∧ y.hblock = none ∧ y.cwait = .none ∧ y.lwait = .none ∧ y.pend = none
       ∧ (s.deferred.all (fun d => d.gid != g) = true → y.p = x.p)
       ∧ y = { x with
           sys := true, laneTrap := lane, cause := y.cause, trapva := k.va, trappc := x.pc, traplpc := y.traplpc, pc := y.pc, heldDc := x.dc,
           heldCm := x.cm, heldArr := x.refillArr, heldPhase := x.bphase, heldPosted := x.posted, heldPc := x.pc, dc := [], cm := 0,
           bphase := none, posted := 0, hblock := none, hresult := [], cwait := .none, lwait := .none,
           pend := none, hazards := [], ringM := 0, ringL := 0, ringF := [], halted := false, p := y.p }
       ∧ (u.bank g).owner = some g ∧ (∀ e ∈ u.early, e.gid ≠ g)
       ∧ (∀ h, h ≠ g → u.grp h = s.grp h) ∧ ∀ a, u.homeByte a = s.homeByte a) ∧
     ((s.bank g).owner ≠ none ∨ x.boundary = false →
       y = { x with pend := some (.trap lane k.code k.info k.lane k.va) }
       ∧ (∀ h, h ≠ g → u.grp h = s.grp h) ∧ { u with groups := [] } = { s with groups := [] })) ∧
  (∀ (s : State) (g va : Nat) (lane : Bool) (e : Trap) (a : AccKind) (l : Option Nat), (s.grp g).sys = true →
     let k := (s.grp g).team
     let x := s.team k
     (s.core (k / 16)).cmds.rising = true → x.rerun = false →
     let ends (t : State) (va trap kind : Nat) : Prop :=
       (∃ v, s.postRec x.part (faultRec s x.part va 0xFFFFFFFF x.ctx x.core trap kind true x.stage 0x60) = some v)
       ∧ t.team k = Team.empty ∧ (∀ j, j ≠ k → t.team j = s.team j) ∧ (t.part x.part).intstat.getLsbD 0 = true
       ∧ ∀ h, (s.grp h).team ≠ k → h ∉ x.gids → t.grp h = s.grp h
     (s.canPost x.part = true →
       ends (s.takeTrap g lane e) (trapAddr e.code e.va) e.code 0 ∧ ends (s.takePf g lane va a l) va 0x10 (kindCode a)) ∧
     (s.canPost x.part = false →
       s.takeTrap g lane e = s.onGrp g (fun y => { y with pend := some (.trap lane e.code e.info e.lane e.va) }) ∧
       s.takePf g lane va a l = s.onGrp g (fun y => { y with pend := some (.pf lane va a l) })))

/-- 15 R315, 02 R27: tret restores what the trap held (what an interrupted word had done, where that word is resumed: log 68), frees the
bank and goes on at TRAPPC and TRAPLPC, or stops there stalled FAULT while its team is being saved (15 R317); it waits for its handler
block, and traps ALIGN to a TRAPPC that is no multiple of 4. 11 R267, 06 R150: tabort ends its team. A team of a stage that is not
rerunnable ends when the record can be posted, and the word waits while it cannot be; one of a rerunnable stage is discarded without a
record, its index given back to be issued again, and after its RETRY discards its hitch halts. The groups and the records of the other
teams stay. -/
def Obligations.HandlerExits : Prop :=
  (∀ (s : State), s.cur ≠ farrierId → (s.grp s.cur).sys = true →
     let x := s.grp s.cur
     let lpc := if x.traplpc.getLsbD 20 then x.lpc else x.traplpc.toNat % 2 ^ 20
     let saving : Bool := (s.teamOf s.cur).saving != 0
     (x.hblock = none → x.trappc.toNat % 4 = 0 → ∃ t, exec .tret s = .next t
       ∧ t.grp s.cur = { x with
           sys := false, pc := x.trappc, lpc := lpc, dc := x.heldDc, cm := x.heldCm, refillArr := x.heldArr && lpc == x.lpc,
           posted := (if lpc = x.lpc then x.heldPosted else 0), bphase := (if x.trappc = x.heldPc then x.heldPhase else none),
           heldDc := [], heldCm := 0, heldArr := false, heldPhase := none, heldPosted := 0, heldPc := 0, hresult := [], hazards := [], ringM := 0,
           ringL := 0, ringF := [], cwait := (if saving then .stall .fault else .none), lwait := (if saving then .stall .fault else .none),
           halted := saving }
       ∧ ((s.bank s.cur).owner = some s.cur → t.bank s.cur = bankEmpty)
       ∧ (∀ g, g ≠ s.cur → t.grp g = s.grp g)
       ∧ { t with groups := [], cores := [] } = { s with groups := [], cores := [] } ∧ ∀ a, t.homeByte a = s.homeByte a) ∧
     (x.hblock.isSome = true → Waits s .tret .laneq) ∧
     (x.hblock = none → x.trappc.toNat % 4 ≠ 0 → CtlTraps s .tret 0x04 0 x.trappc)) ∧
  (∀ (s : State), s.cur ≠ farrierId → (s.grp s.cur).sys = true →
     let k := (s.grp s.cur).team
     let x := s.teamOf s.cur
     let gone (t : State) : Prop := t.team k = Team.empty ∧ (∀ j, j ≠ k → t.team j = s.team j)
       ∧ ∀ g, (s.grp g).team ≠ k → g ∉ (s.team k).gids → t.grp g = s.grp g
     (∀ c, (s.core c).cmds.rising = true) →
     (x.rerun = false →
       (s.canPost x.part = true → Does s .tabort gone) ∧ (s.canPost x.part = false → Waits s .tabort .fault)) ∧
     (x.rerun = true → ∀ l y, s.launch x.launch = some l → s.stage x.launch x.stage = some y →
       (y.discards.get 0 x.lin < y.retry → Does s .tabort (fun t => gone t ∧ ∃ z, t.stage x.launch x.stage = some z
         ∧ z.returned = y.returned ++ [{ lo := x.lin, hi := x.lin, deck := x.core / 48 }]
         ∧ z.discards.get 0 x.lin = y.discards.get 0 x.lin + 1 ∧ z.retired = y.retired ∧ z.ended = y.ended)) ∧
       (y.retry ≤ y.discards.get 0 x.lin →
         (s.canPost l.part = true → Does s .tabort (fun t => t.team k = Team.empty ∧ t.launch x.launch = none)) ∧
         (s.canPost l.part = false → Waits s .tabort .fault))))

/-- 11 R270, 07 R162: brk traps BREAK with its code; each system-mode form traps PRIV outside system mode. 02 R48: a control word that
would write g61 in user mode below STACKLIMIT, or with anything but 0 while STACKLIMIT bit 0 is set, traps STACKLIMIT before any effect,
whatever arithmetic form it is; a load, whose value is known after its access, keeps the access and no more (loads outside the stack
region and the window here). -/
def Obligations.BreakPrivilegeStack : Prop :=
  (∀ (s : State), s.cur ≠ farrierId →
     (∀ code, CtlTraps s (.brk code) 0x0C code.toNat 0) ∧
     ((s.grp s.cur).sys = false →
       ∀ (d a : GReg) (r : SysReg) (h : Reach),
         CtlTraps s (.sysrd d r) 0x02 0 0 ∧ CtlTraps s (.syswr r a) 0x02 0 0 ∧ CtlTraps s .tret 0x02 0 0 ∧ CtlTraps s .tabort 0x02 0 0 ∧
         CtlTraps s (.tlbinvVa a h) 0x02 0 0 ∧ CtlTraps s (.tlbinvCtx a h) 0x02 0 0 ∧ CtlTraps s (.tlbinvAll h) 0x02 0 0 ∧
         CtlTraps s .sysettle 0x02 0 0 ∧ CtlTraps s (.snapreq d a) 0x02 0 0 ∧ CtlTraps s (.snapstat d) 0x02 0 0)) ∧
  (∀ (s : State) (a : GReg) (imm : BitVec 14), s.cur ≠ farrierId → (s.grp s.cur).sys = false →
     let v : GWord := BitVec.ofInt 64 ((s.rg s.cur a).toInt + imm.toInt)
     let lim := (s.grp s.cur).stackLim
     let refused (v : GWord) : Prop := v.toNat < lim.toNat / 16 * 16 ∨ (lim.getLsbD 0 = true ∧ v ≠ 0)
     (∀ (b : GReg) (n : BitVec 6) (k : BitVec 2) (q : QReg) (f : BitVec 4),
       let x := s.rg s.cur a
       let y := s.rg s.cur b
       let traps (i : Instr) (w : GWord) : Prop := refused w → CtlTraps s i 0x08 0 0
       traps (.gadd 61 a b) (x + y) ∧ traps (.gsub 61 a b) (x - y) ∧ traps (.gand 61 a b) (x &&& y) ∧ traps (.gor 61 a b) (x ||| y) ∧
       traps (.gxor 61 a b) (x ^^^ y) ∧ traps (.gandn 61 a b) (x &&& ~~~y) ∧ traps (.gmul 61 a b) (x * y) ∧
       traps (.gshli 61 a n) (x <<< n.toNat) ∧ traps (.gshri 61 a n) (x >>> n.toNat) ∧
       traps (.gaddsh 61 a b k) (x + y <<< (k.toNat + 1)) ∧ traps (.gupi 61 a imm) (BitVec.ofNat 64 (x.toNat * 2 ^ 14 + imm.toNat)) ∧
       traps (.gsetq 61 q) (if s.rq s.cur q then 1 else 0) ∧ traps (.grole 61) ((s.grp s.cur).role.zeroExtend 64) ∧
       traps (.fmtget 61) ((s.grp s.cur).fmt.zeroExtend 64) ∧ traps (.vcount 61) (BitVec.ofNat 64 (s.grp s.cur).count) ∧
       (∀ w, (s.teamOf s.cur).lv.value f.toNat = some w → traps (.glv 61 f) w)) ∧
     (∀ (bn : Slot) (off : BitVec 10) (b : BufRec) (s1 : State) (t : Tr),
       CtlAcc s bn ((s.rg s.cur a).toInt + 8 * off.toInt) 8 .load b s1 t → pteHome t.e = 3 → isHost t.pa = false →
       s1.inStack s.cur (b.address ((s.rg s.cur a).toInt + 8 * off.toInt)).toNat = false → s1.snoop.contains (t.pa / 128) = false →
       s1.poisonedIn (s1.codeOfCore (coreOf s.cur)) t.pa 8 = false → s1.early = [] → refused (BitVec.ofNat 64 (s1.homeNat t.pa 8)) →
       exec (.gld64 61 a bn off) s = .next (s1.takeTrap s.cur false { code := 0x08, info := 0, lane := none, va := 0 })) ∧
     (v.toNat < lim.toNat / 16 * 16 ∨ (lim.getLsbD 0 = true ∧ v ≠ 0) → CtlTraps s (.gaddi 61 a imm) 0x08 0 0) ∧
     (lim.toNat / 16 * 16 ≤ v.toNat → (lim.getLsbD 0 = false ∨ v = 0) →
       ∃ t, exec (.gaddi 61 a imm) s = .next t ∧ t.rg s.cur 61 = v ∧ Past s t 4 ∧ CtlFrame s t [61] []))

/-- 11 R266: sysrd in a handler and on the Farrier gives the register's value; a register that its row does not reach from there traps
PRIV, and stops the Farrier, for whose traps no rule gives an entry (log 62). On the Farrier the core and the partition are those of
STATUS.TCORE (log 19). 11 R266, 00 R3: syswr changes the fields of the register that a write changes; a read-only register stays, and
CMARK and SETTLEDMARK trap ILLEGAL. On the Farrier the core and the partition are those of STATUS.TCORE (log 19), and a trap stops it
(log 62). -/
def Obligations.SystemRegisters : Prop :=
  (∀ (s : State) (d : GReg), (s.grp s.cur).sys = true →
     let x := s.grp s.cur
     (s.cur ≠ farrierId → coreOf s.cur < 384 →
       let k := s.core (coreOf s.cur)
       WritesG s (.sysrd d .status) d (BitVec.ofNat 64 (1 + (if x.laneTrap then 2 else 0) + coreOf s.cur * 2 ^ 32)) ∧
       WritesG s (.sysrd d .trapcause) d x.cause ∧ WritesG s (.sysrd d .trappc) d x.trappc ∧
       WritesG s (.sysrd d .traplpc) d x.traplpc ∧ WritesG s (.sysrd d .trapva) d x.trapva ∧
       WritesG s (.sysrd d .stacklimit) d x.stackLim ∧ WritesG s (.sysrd d .handlerbase) d k.handlerBase ∧
       WritesG s (.sysrd d .checkmode) d k.checkmode ∧ WritesG s (.sysrd d .cmark) d (k.cm.zeroExtend 64) ∧
       WritesG s (.sysrd d .settledmark) d (k.settled.zeroExtend 64) ∧
       CtlTraps s (.sysrd d .stablebase) 0x02 0 0 ∧ CtlTraps s (.sysrd d .partmap) 0x02 0 0 ∧ CtlTraps s (.sysrd d .hbmil) 0x02 0 0 ∧
       CtlTraps s (.sysrd d .netbound) 0x02 0 0 ∧ CtlTraps s (.sysrd d .reinsplit) 0x02 0 0) ∧
     (s.cur = farrierId → x.tcore < 384 →
       let k := s.core x.tcore
       let p := s.part (s.codeOfCore x.tcore)
       WritesG s (.sysrd d .status) d (BitVec.ofNat 64 (1 + (if x.laneTrap then 2 else 0) + x.tcore * 2 ^ 32)) ∧
       WritesG s (.sysrd d .handlerbase) d k.handlerBase ∧ WritesG s (.sysrd d .checkmode) d k.checkmode ∧
       WritesG s (.sysrd d .stablebase) d p.stable ∧ WritesG s (.sysrd d .hbmil) d p.hbmil ∧ WritesG s (.sysrd d .netbound) d p.netbound ∧
       WritesG s (.sysrd d .partmap) d s.partmap ∧ WritesG s (.sysrd d .reinsplit) d (s.tower (x.tcore / 192)).reinSplit ∧
       exec (.sysrd d .trapcause) s = .fault (.farrierTrap 0x02) ∧ exec (.sysrd d .cmark) s = .fault (.farrierTrap 0x02))) ∧
  (∀ (s : State) (a : GReg), (s.grp s.cur).sys = true →
     let x := s.grp s.cur
     let w := s.rg s.cur a
     let past : Group := { x with pc := x.pc + 4, cwait := .none }
     (s.cur ≠ farrierId → coreOf s.cur < 384 →
       let c := coreOf s.cur
       let k := s.core c
       JumpsTo s (.syswr .status a) (x.pc + 4) ∧ JumpsTo s (.syswr .trapcause a) (x.pc + 4) ∧ JumpsTo s (.syswr .trapva a) (x.pc + 4) ∧
       (∃ t, exec (.syswr .trappc a) s = .next t ∧ OnlyGroup s t { past with trappc := w }) ∧
       (∃ t, exec (.syswr .traplpc a) s = .next t ∧ OnlyGroup s t { past with
         traplpc := BitVec.ofNat 64 (x.traplpc.toNat / 2 ^ 20 * 2 ^ 20 + w.toNat % 2 ^ 20) }) ∧
       (∃ t, exec (.syswr .stacklimit a) s = .next t ∧ OnlyGroup s t { past with
         stackLim := BitVec.ofNat 64 (w.toNat / 16 * 16 + w.toNat % 2) }) ∧
       (∃ t, exec (.syswr .handlerbase a) s = .next t ∧ OnlyCore s t past c { k with
         handlerBase := BitVec.ofNat 64 (w.toNat / 2 ^ 14 % 2 ^ 38 * 2 ^ 14) }) ∧
       (∃ t, exec (.syswr .checkmode a) s = .next t ∧ OnlyCore s t past c { k with checkmode := BitVec.ofNat 64 (w.toNat % 4) }) ∧
       CtlTraps s (.syswr .cmark a) 0x01 0 0 ∧ CtlTraps s (.syswr .settledmark a) 0x01 0 0 ∧ CtlTraps s (.syswr .hbmil a) 0x02 0 0) ∧
     (s.cur = farrierId → x.tcore < 384 →
       let p := s.codeOfCore x.tcore
       let y := s.part p
       let h := x.tcore / 192
       let only (t : State) (f : State → State) : Prop := f { t with groups := [] } = f { s with groups := [] } ∧ t.grp s.cur = past ∧
         ∀ g, g ≠ s.cur → t.grp g = s.grp g
       let parts (t : State) : State := { t with parts := [] }
       let away (t : State) : State := { t with parts := [], mem := [], poison := [], mirror := [] }
       (∃ t, exec (.syswr .status a) s = .next t ∧ OnlyGroup s t { past with tcore := w.toNat / 2 ^ 32 % 2 ^ 9 }) ∧
       (∃ t, exec (.syswr .stablebase a) s = .next t ∧ only t parts ∧ (∀ j, j ≠ p → t.part j = s.part j) ∧ t.part p = { y with
         stable := BitVec.ofNat 64 (w.toNat / 2 ^ 21 % 2 ^ 31 * 2 ^ 21 + w.toNat % 2 ^ 13) }) ∧
       (∃ t, exec (.syswr .hbmil a) s = .next t ∧ only t away ∧ (hbmilOf w.toNat = y.hbmil → t.mem = s.mem) ∧ (∀ j, j ≠ p → t.part j = s.part j) ∧ t.part p = { y with
         hbmil := BitVec.ofNat 64 (w.toNat / 2 ^ 38 % 2 ^ 14 * 2 ^ 38 + (List.range 12).countP (fun n => w.getLsbD n) * 2 ^ 12 + w.toNat % 2 ^ 12) }) ∧
       (∃ t, exec (.syswr .netbound a) s = .next t ∧ only t parts ∧ (∀ j, j ≠ p → t.part j = s.part j) ∧ t.part p = { y with
         netbound := BitVec.ofNat 64 (w.toNat / 2 ^ 16 % 2 ^ 16 * 2 ^ 16 + w.toNat % 2 ^ 9) }) ∧
       (∃ t, exec (.syswr .reinsplit a) s = .next t ∧ only t (fun t => { t with towers := [] }) ∧ (∀ j, j ≠ h → t.tower j = s.tower j)
         ∧ t.tower h = { s.tower h with reinSplit := BitVec.ofNat 64 (w.toNat % 2) }) ∧
       exec (.syswr .trappc a) s = .fault (.farrierTrap 0x02) ∧ exec (.syswr .stacklimit a) s = .fault (.farrierTrap 0x02)))

/-- 11 R268: tlbinv drops, in the TLBs of its reach, the entries of a page, of a context, or all of them; nothing else changes, but that
a tlbinv.va of partition reach unpins the lines of a page that is pinned no longer (03 R64; log 87). -/
def Obligations.TranslationInvalidation : Prop :=
  ∀ (s : State) (a : GReg) (h : Reach), s.cur ≠ farrierId → coreOf s.cur < 384 → (s.grp s.cur).sys = true →
    let c := coreOf s.cur
    let p := s.codeOfCore c
    let w := (s.rg s.cur a).toNat
    let x := s.grp s.cur
    let within (k : Nat) : Prop := match h with
      | .core => k = c
      | .deck => k / 48 = c / 48
      | .part => k < 384 ∧ s.codeOfCore k = p
    let tlbs (f : TlbE → Bool) (t : State) : Prop :=
      (∀ k, within k → t.core k = { s.core k with tlb := (s.core k).tlb.filter (fun e => !f e) })
      ∧ (∀ k, ¬ within k → t.core k = s.core k)
    let rest (t : State) : Prop := t.grp s.cur = { x with pc := x.pc + 4, cwait := .none } ∧ (∀ g, g ≠ s.cur → t.grp g = s.grp g)
      ∧ { t with groups := [], cores := [] } = { s with groups := [], cores := [] }
    let ofPage (e : TlbE) : Bool := e.ctx == s.ctxOf s.cur && decide (e.va ≤ w) && decide (w < e.va + e.size)
    Does s (.tlbinvVa a h) (fun t => tlbs ofPage t ∧ AtPc s t (x.pc + 4) ∧ (∀ g r, t.rg g r = s.rg g r) ∧ t.mem = s.mem
      ∧ (h ≠ .part → rest t)
      ∧ (h = .part → s.pinned.rising = true → ∀ l y, s.pinned.find l = some y →
          t.pinned.find l = if y.ctx = s.ctxOf s.cur ∧ y.va ≤ w ∧ w < y.va + y.size ∧ s.keyPart l = p ∧ s.stillPinned p l y = false
            then none else some y)) ∧
    (w < 2 ^ 16 → Does s (.tlbinvCtx a h) (fun t => tlbs (fun e => e.ctx == w) t ∧ rest t)) ∧
    (2 ^ 16 ≤ w → CtlTraps s (.tlbinvCtx a h) 0x01 0 0) ∧
    Does s (.tlbinvAll h) (fun t => tlbs (fun _ => true) t ∧ rest t)

/-- 11 R269, 04 R90, R93: sysettle takes the core's mark m, writes back every line whose stores are as old as m, and settles m. While no
snapshot runs, the bytes of those lines, which reach their homes and whose checks match, are the only ones of memory that it changes. 11
R269, 15 R324: snapstat gives RUNNING and ABANDONED; snapreq answers 0 and does nothing while one runs, and otherwise arms the snapshot
that its record describes. -/
def Obligations.SettleAndSnapshots : Prop :=
  (∀ (s : State), s.cur ≠ farrierId → coreOf s.cur < 384 → (s.grp s.cur).sys = true →
     let c := coreOf s.cur
     let m := (s.core c).cm
     markLe m (s.core c).settled = false → (s.core c).l1.rising = true →
     ∃ t, exec .sysettle s = .next t ∧ (t.core c).cm = m + 1 ∧ (t.core c).settled = m ∧ Past s t 4
       ∧ (∀ l x, (t.core c).l1.find l = some x → x.dirty ≠ 0 → markLe x.stamp m = false)
       ∧ ((∀ p, (s.part p).snap.running = false) → (∀ l x, (s.core c).l1.find l = some x → x.dirty ≠ 0 → s.Reaches c l ∧ x.bad = 0) →
           (∀ l x k, (s.core c).l1.find l = some x → markLe x.stamp m = true → k < 128 → x.dirty.getLsbD k = true →
             t.homeByte (l * 128 + k) = x.data.getD k 0) ∧
           (∀ a, (∀ x, (s.core c).l1.find (a / 128) = some x → markLe x.stamp m = true → x.dirty.getLsbD (a % 128) = false) →
             t.homeByte a = s.homeByte a))
       ∧ (∀ g r, t.rg g r = s.rg g r) ∧ ∀ g, g ≠ s.cur → t.grp g = s.grp g) ∧
  (∀ (s : State) (d a : GReg), s.cur ≠ farrierId → coreOf s.cur < 384 → (s.grp s.cur).sys = true →
     let p := s.codeOf s.cur
     let n := (s.part p).snap
     let w := s.homeNat (s.rg s.cur a).toNat 64
     WritesG s (.snapstat d) d (BitVec.ofNat 64 ((if n.running then 1 else 0) + (if n.abandoned then 2 else 0))) ∧
     (n.running = true ∨ snapRecOk s p w = false → WritesG s (.snapreq d a) d 0) ∧
     (n.running = false → snapRecOk s p w = true → ∃ t, exec (.snapreq d a) s = .next t
       ∧ t.rg s.cur d = (if d = 0 then 0 else 1) ∧ Past s t 4
       ∧ (t.part p).snap.running = true ∧ (t.part p).snap.abandoned = false ∧ (t.part p).snap.copied = []
       ∧ (t.part p).snap.area = w % 2 ^ 64 ∧ (t.part p).snap.asize = w / 2 ^ 64 % 2 ^ 64 ∧ (t.part p).snap.ndir = w / 2 ^ 160 % 2 ^ 32
       ∧ (t.part p).snap.ctx = w / 2 ^ 192 % 2 ^ 16))

/-- 15 R309, R310: an address whose page a TLB entry of the context holds, and whose page needs no reclassification, translates by that
entry and changes nothing. A page that is being flipped holds the access back (16 R339), and a packet that leaves NETBOUND is dropped
(17 R358). A denied kind is a page fault, an address that is not canonical takes ACCESS 1. 15 R308, R309: the walk of four levels to a 4
KiB page; an entry that is not valid is a page fault, and a table or a context entry that is not in memory of the partition takes ACCESS
4 (17 R355, log 103). 15 R310, R311: a translation changes TLBs, the entries of the tables, what a reclassification writes back and
where its lines are kept, counters and pinned lines; no group, team, launch, pipe or deck changes. -/
def Obligations.Translation : Prop :=
  (∀ (s : State) (c ctx va : Nat) (k : AccKind) (e : TlbE),
     (canonical va = false → s.translate c ctx va k = .error (.access 1)) ∧
     (canonical va = true → tlbFind (s.core c).tlb ctx va = some e →
       let w := e.pte.toNat
       let t := e.tr va
       (pteDenies w k = true → s.translate c ctx va k = .error .fault) ∧
       (pteDenies w k = false → ∀ n, s.homeBad c (s.codeOfCore c) t = some n → s.translate c ctx va k = .error (.access n)) ∧
       (pteDenies w k = false → s.homeBad c (s.codeOfCore c) t = none →
         (s.flipping (s.codeOfCore c) t.pa = true → s.translate c ctx va k = .error .busy) ∧
         (s.flipping (s.codeOfCore c) t.pa = false → s.inBound c t k = false → s.translate c ctx va k = .error .dropped)) ∧
       (pteDenies w k = false → s.homeBad c (s.codeOfCore c) t = none → s.flipping (s.codeOfCore c) t.pa = false → s.inBound c t k = true →
         (3 ≤ pteHome w ∨ (pteHome w = 0 ∧ pteOwner w ≠ 0x1FF ∧ (pteCls w = true ∨ pteOwner w = c)) →
           s.translate c ctx va k = .ok (s, t)) ∧
         (pteHome w = 0 ∧ pteOwner w ≠ 0x1FF ∧ pteOwner w ≠ c ∧ pteCls w = false ∧ pteApl w = 0 →
           s.translate c ctx va k = .error (.access 3))))) ∧
  (∀ (s : State) (p ctx va : Nat),
     let ca := (s.part p).ctxtab.toNat / 2 ^ 19 % 2 ^ 33 * 2 ^ 19 + 8 * ctx
     let c := s.homeNat ca 8
     let a0 := c / 2 ^ 20 % 2 ^ 32 * 256 * 4096 + 8 * (va / 2 ^ 39 % 2 ^ 17)
     let e0 := s.homeNat a0 8
     let a1 := ptePfn e0 * 4096 + 8 * (va / 2 ^ 30 % 2 ^ 9)
     let e1 := s.homeNat a1 8
     let a2 := ptePfn e1 * 4096 + 8 * (va / 2 ^ 21 % 2 ^ 9)
     let e2 := s.homeNat a2 8
     let a := ptePfn e2 * 4096 + 8 * (va / 2 ^ 12 % 2 ^ 9)
     let e3 := s.homeNat a 8
     (s.tableIn p ca = false → walk s p ctx va = .error (.access 4)) ∧
     (s.tableIn p ca = true → c % 2 ^ 20 ≠ 1 ∨ 2 ^ 52 ≤ c → walk s p ctx va = .error (.access 8)) ∧
     (s.tableIn p ca = true → c % 2 ^ 20 = 1 → c < 2 ^ 52 →
       (s.tableIn p a0 = false → walk s p ctx va = .error (.access 4)) ∧
       (s.tableIn p a0 = true → pteV e0 = false → walk s p ctx va = .error .fault) ∧
       (s.tableIn p a0 = true → pteTableOk e0 = true → s.tableIn p a1 = true → pteTableOk e1 = true → s.tableIn p a2 = true →
         pteTableOk e2 = true →
         (s.tableIn p a = false → walk s p ctx va = .error (.access 4)) ∧
         (s.tableIn p a = true → pteV e3 = false → walk s p ctx va = .error .fault) ∧
         (s.tableIn p a = true → pteV e3 = true → pteT e3 = true → pteCont e3 = false → e3 < 2 ^ 63 →
           walk s p ctx va = .ok { pa := ptePfn e3 * 4096 + va % 4096, e := e3, ptea := a, lvl := 3, va0 := va / 4096 * 4096, size := 4096 })))) ∧
  (∀ (s s1 : State) (c ctx va : Nat) (k : AccKind) (t : Tr), s.translate c ctx va k = .ok (s1, t) →
     let f (u : State) : State := { u with cores := [], ctr := [], mem := [], hostL2 := [], parts := [], marks := [], poison := [], mirror := [],
                                           l2 := [], hostMem := [], freeCtr := 0, pinned := [], fullWords := [], pkg := Pkg.reset }
     f s1 = f s ∧ (∀ j, { s1.core j with tlb := [], l1 := [] } = { s.core j with tlb := [], l1 := [] })
       ∧ s1.pkg.codes = s.pkg.codes)

/-- 03 R58, R59, 04 R99, 06 R151: the traps of a control access, in their order, and its page fault. That PIPEFAULT comes after ALIGN
and before the translation is the model's reading (log 13). 15 R316: a page fault in user mode stops the group's streams for the
scheduler: what they had sent or taken goes on, every other wait, that for a page being flipped among them, is stalled FAULT; the team
keeps the index of the group that was the first. -/
def Obligations.ControlTraps : Prop :=
  (∀ (s : State) (d a : GReg) (bn : Slot) (off : BitVec 10) (sc : Scope) (x : AtomExt), s.cur ≠ farrierId →
     let traps (i : Instr) (w : Nat) (k : AccKind) : Prop :=
       let o := (s.rg s.cur a).toInt + w * off.toInt
       (s.slotRec s.cur bn = none → CtlTraps s i 0x03 bn.toNat (BitVec.ofInt 64 o)) ∧
       ∀ b, s.slotRec s.cur bn = some b →
         let va := (b.address o).toNat
         (o < 0 ∨ b.extent.toNat < o + w ∨ b.permits k = false → CtlTraps s i 0x03 bn.toNat (BitVec.ofInt 64 o)) ∧
         (0 ≤ o → o + w ≤ b.extent.toNat → b.permits k = true →
           (va % w ≠ 0 → CtlTraps s i 0x04 0 (BitVec.ofNat 64 va)) ∧
           (va % w = 0 → (kindWrites k && (s.teamOf s.cur).rerun && !b.idem) = true → CtlTraps s i 0x0A 0 0) ∧
           (va % w = 0 → (kindWrites k && (s.teamOf s.cur).rerun && !b.idem) = false →
             (∀ n, s.translate (coreOf s.cur) (s.ctxOf s.cur) va k = .error (.access n) → CtlTraps s i 0x11 n (BitVec.ofNat 64 va)) ∧
             (s.translate (coreOf s.cur) (s.ctxOf s.cur) va k = .error .fault → exec i s = .next (s.takePf s.cur false va k none)) ∧
             (k ≠ .atomic → ∀ s1 t e, s.translate (coreOf s.cur) (s.ctxOf s.cur) va k = .ok (s1, t) →
               accHit s1 (coreOf s.cur) (s.ctxOf s.cur) k { lane := none, va := va, n := w, tr := t } = some e →
               CtlTraps s i 0x05 e (BitVec.ofNat 64 va))))
     traps (.gld64 d a bn off) 8 .load ∧ traps (.gst64 d a bn off) 8 .store ∧
     traps (.acq d a bn off sc) 8 .load ∧ traps (.rel d a bn off sc) 8 .store ∧
     traps (.gatom d a bn off x) (if x.w32 then 4 else 8) .atomic) ∧
  (∀ (s : State) (g va : Nat) (lane : Bool) (k : AccKind) (l : Option Nat), (s.grp g).sys = false →
     let x := s.grp g
     let u := s.takePf g lane va k l
     ((s.team x.team).gids.all (fun k => !(s.grp k).faulted) = true → (u.team x.team).faultG = x.gidx) ∧
     u.grp g = { x with pend := some (.pf lane va k l), cwait := x.cwait.faulted, lwait := x.lwait.faulted }
       ∧ (x.cwait ≠ .rein → (∀ r v n, x.cwait ≠ .settle r v n) → x.cwait.faulted = .stall .fault)
       ∧ ((∀ n v i, x.lwait ≠ .rein n v i) → x.lwait.faulted = .stall .fault)
       ∧ (∀ h, h ≠ g → u.grp h = s.grp h) ∧ u.runs g = false
       ∧ { u with groups := [], teams := [] } = { s with groups := [], teams := [] } ∧ ∀ a, u.homeByte a = s.homeByte a)

/-- 08 R189, R192, 03 R60, R61, 04 R95, R108: gld.64, and an acquire at .grp, .team or .core, load the 8 bytes at the access's place:
the L1's line, the home, the bay's stack cache, filled with the line under the dirty bytes of the L1 (log 78), or the deck's replica of
the Rein window; a poisoned sector, or one of a cached line whose check does not match, traps CHECKFAIL. A byte that the stream has
loaded early has the value that it had then (State.heed; the model's choice of what a race may give, log 3). -/
def Obligations.ControlLoads : Prop :=
  ∀ (s s1 : State) (d a : GReg) (bn : Slot) (off : BitVec 10) (b : BufRec) (t : Tr) (i : Instr) (n : Nat),
    (i = .gld64 d a bn off ∧ n = 4) ∨ (∃ sc, wideScope sc = false ∧ i = .acq d a bn off sc ∧ n = 8) →
    let o := (s.rg s.cur a).toInt + 8 * off.toInt
    CtlAcc s bn o 8 .load b s1 t → Undisturbed s1 (coreOf s.cur) t → (stackLines (s1.core (coreOf s.cur)) (bayOf s.cur)).length < 512 →
    let va := (b.address o).toNat
    let c := coreOf s.cur
    let line := t.pa / 128
    let word (bs : List Byte) : GWord := BitVec.ofNat 64 (ofBytes (s1.heed false t.pa bs))
    let fails : Prop := CtlTraps s i 0x0B 0 (BitVec.ofNat 64 va)
    (s1.early = [] ∨ (s.grp s.cur).sys = true → ∀ bs, s1.heed false t.pa bs = bs) ∧
    (pteHome t.e ≠ 4 → s1.inStack s.cur va = false ∨ viaL1 s1 c t = false →
      (∀ x, viaL1 s1 c t = true → (s1.core c).l1.find (t.pa / 128) = some x →
        (x.badIn (t.pa % 128) 8 = false → LoadsG s s1 i d n (word ((x.data.drop (t.pa % 128)).take 8))) ∧
        (x.badIn (t.pa % 128) 8 = true → fails)) ∧
      (viaL1 s1 c t = false ∨ (s1.core c).l1.find (t.pa / 128) = none →
        (s1.poisonedIn (s1.codeOfCore c) t.pa 8 = false → LoadsG s s1 i d n (word (s1.homeBytes t.pa 8))) ∧
        (s1.poisonedIn (s1.codeOfCore c) t.pa 8 = true → fails))) ∧
    (pteHome t.e ≠ 4 → s1.inStack s.cur va = true → viaL1 s1 c t = true →
      (∀ x, (s1.core c).stackc.find (stackKey (bayOf s.cur) (t.pa / 128)) = some x →
        (x.badIn (t.pa % 128) 8 = false → LoadsG s s1 i d n (BitVec.ofNat 64 (ofBytes ((x.data.drop (t.pa % 128)).take 8)))) ∧
        (x.badIn (t.pa % 128) 8 = true → fails)) ∧
      ((s1.core c).stackc.find (stackKey (bayOf s.cur) line) = none →
        (s1.poisonedIn (s1.codeOfCore c) (line * 128) 128 = false →
          LoadsG s s1 i d n (BitVec.ofNat 64 (ofBytes (((s1.lineView c line).drop (t.pa % 128)).take 8)))) ∧
        (s1.poisonedIn (s1.codeOfCore c) t.pa 8 = true → fails))) ∧
    (pteHome t.e = 4 →
      (s1.reinWait s.cur t 8 = false → s1.replicaBad (deckOf s.cur) t.pa 8 = true → fails) ∧
      (s1.reinWait s.cur t 8 = false → s1.replicaBad (deckOf s.cur) t.pa 8 = false → LoadsG s s1 i d n (BitVec.ofNat 64 (ofBytes (s1.replica (deckOf s.cur) t.pa 8)))) ∧
      (s1.reinWait s.cur t 8 = true → exec i s = .next (s1.stallC s.cur .latency)))

/-- 08 R189, R192, 03 R61, 04 R88, R90, R106: gst.64, and a release at .grp, .team or .core, store 8 bytes at the access's place: in the
L1's line, filled first where it may be, at the home (of which the slice keeps no copy for a never-cached page of host memory), in the
stack cache, filled with the line under the dirty bytes of the L1 (log 78), or in the deck's send queue of window writes. The stream's
own early loads of the bytes are dropped (log 3). -/
def Obligations.ControlStores : Prop :=
  ∀ (s s1 : State) (src a : GReg) (bn : Slot) (off : BitVec 10) (b : BufRec) (t : Tr) (i : Instr) (n : Nat),
    (i = .gst64 src a bn off ∧ n = 4) ∨ (∃ sc, wideScope sc = false ∧ i = .rel src a bn off sc ∧ n = 8) →
    let o := (s.rg s.cur a).toInt + 8 * off.toInt
    CtlAcc s bn o 8 .store b s1 t → Undisturbed s1 (coreOf s.cur) t → (stackLines (s1.core (coreOf s.cur)) (bayOf s.cur)).length < 512 →
    let va := (b.address o).toNat
    let c := coreOf s.cur
    let line := t.pa / 128
    let bs := toBytes 8 (s.rg s.cur src).toNat
    let m := byteMask (t.pa % 128) 8
    let q := (s1.deck (deckOf s.cur)).sendQ
    let spent (u : State) : Prop := u.early = s1.early.filter (fun e => !s1.ownEarly false t.pa 8 e)
    (pteHome t.e ≠ 4 → s1.inStack s.cur va = false ∨ viaL1 s1 c t = false →
      (∀ x, viaL1 s1 c t = true → (s1.core c).l1.find line = some x →
        ∃ u, exec i s = .next u ∧ Past s u n ∧ AccFrame s1 u [] ∧ OtherLines s1 u c line ∧ (∀ p, u.homeByte p = s1.homeByte p) ∧ spent u
          ∧ (u.core c).l1.find line = some { x with
              data := patch x.data (t.pa % 128) bs, dirty := x.dirty ||| m, stamp := if x.dirty = 0 then (s1.core c).cm else x.stamp, pf := .demand,
              bad := x.bad &&& ~~~(sectorsOf m) }) ∧
      (viaL1 s1 c t = true → (s1.core c).l1.find line = none → b.noalloc = false → s1.poisonedIn (s1.codeOfCore c) (line * 128) 128 = false →
        ∃ u, exec i s = .next u ∧ Past s u n ∧ AccFrame s1 u [] ∧ OtherLines s1 u c line ∧ (∀ p, u.homeByte p = s1.homeByte p) ∧ spent u
          ∧ (u.core c).l1.find line = some {
              data := patch (s1.homeBytes (line * 128) 128) (t.pa % 128) bs, dirty := m, stamp := (s1.core c).cm, priv := t.privTo c, pf := .demand,
              bad := 0 }) ∧
      (viaL1 s1 c t = false ∨ ((s1.core c).l1.find line = none ∧
          (b.noalloc = true ∨ s1.poisonedIn (s1.codeOfCore c) (line * 128) 128 = true)) →
        ∃ u, exec i s = .next u ∧ Past s u n ∧ AccFrame s1 u [] ∧ (∀ k, (u.core k).l1 = (s1.core k).l1) ∧ spent u
          ∧ (NoSnap s1 → StoredAt s1 u t.pa bs)
          ∧ (pteHome t.e = 3 → ∀ p, isHost p = true → p / 128 = line → u.hostL2.find p = none))) ∧
    (pteHome t.e ≠ 4 → s1.inStack s.cur va = true → viaL1 s1 c t = true →
      ∀ data, ((s1.core c).stackc.find (stackKey (bayOf s.cur) line)).map (fun x => x.data) = some data ∨
          ((s1.core c).stackc.find (stackKey (bayOf s.cur) line) = none ∧
            s1.poisonedIn (s1.codeOfCore c) (line * 128) 128 = false ∧ data = s1.lineView c line) →
        ∃ u, exec i s = .next u ∧ Past s u n ∧ AccFrame s1 u [] ∧ (∀ p, u.homeByte p = s1.homeByte p)
          ∧ (((u.core c).stackc.find (stackKey (bayOf s.cur) line)).map (fun x => x.data)) = some (patch data (t.pa % 128) bs)) ∧
    (pteHome t.e = 4 →
      (s1.reinStale s.cur = false → q.length < 64 →
        ∃ u, exec i s = .next u ∧ Past s u n ∧ AccFrame s1 u [] ∧ (∀ p, u.homeByte p = s1.homeByte p)
          ∧ (u.deck (deckOf s.cur)).sendQ = q ++ [reinWrite s1 s.cur false t.pa 1 0 (lineWords (t.pa % 128) bs).2 (lineWords (t.pa % 128) bs).1 .none]) ∧
      (s1.reinStale s.cur = true ∨ 64 ≤ q.length → exec i s = .next (s1.stallC s.cur .latency)))

/-- 08 R192, 04 R92: an acquire at .deck or wider of a variable outside the window reads its home, and its core keeps no copy of the
line. Where no other core's record stands there it goes on, having made every clean line of a shared page in its L1 invalid unless the
record is its own; otherwise it waits for the settle of that record, the value held. 04 R109, 08 R192: the same of a variable in the
Rein window, whose value and record are those of the deck's replica; and a release of one, once the stream's earlier window writes are
applied, is sent with the core's mark. Both wait as latency while the replica is refilled (04 R111) or an own write of the word is not
applied (R108). 08 R192, 04 R91, R90: a release at .deck or wider of a variable outside the window stores its value at the home. Where
no record stands there and the directory has room for one, the core's mark goes into a record of the line, and the core's next mark is
one more. -/
def Obligations.AcquireRelease : Prop :=
  (∀ (s s1 : State) (d a : GReg) (bn : Slot) (off : BitVec 10) (sc : Scope) (b : BufRec) (t : Tr), wideScope sc = true →
     let o := (s.rg s.cur a).toInt + 8 * off.toInt
     CtlAcc s bn o 8 .load b s1 t → Undisturbed s1 (coreOf s.cur) t → pteHome t.e ≠ 4 → s1.inStack s.cur (b.address o).toNat = false →
     (sc = .rein → s1.reinStale s.cur = false) →
     let c := coreOf s.cur
     let line := t.pa / 128
     let i : Instr := .acq d a bn off sc
     let v := BitVec.ofNat 64 (s1.homeNat t.pa 8)
     (∀ x, (s1.core c).l1.find line = some x → x.dirty = 0) →
     (s1.poisonedIn (s1.codeOfCore c) t.pa 8 = true → CtlTraps s i 0x0B 0 (BitVec.ofNat 64 (b.address o).toNat)) ∧
     (s1.poisonedIn (s1.codeOfCore c) t.pa 8 = false →
       (s1.foreignRec c t.pa = none → s.stackBad s.cur d v = false →
         ∃ u, exec i s = .next u ∧ u.rg s.cur d = (if d = 0 then 0 else v) ∧ Past s u 8 ∧ LoadFrame s1 u [d]
           ∧ (u.core c).l1.find line = none
           ∧ (s1.ownRec c t.pa = true → ∀ l, l ≠ line → (u.core c).l1.find l = (s1.core c).l1.find l)
           ∧ (s1.ownRec c t.pa = false → u.NoneShared c)) ∧
       (∀ r, s1.foreignRec c t.pa = some r → s1.netOk (s1.codeOfCore c) (deckOfCore c) (deckOfCore r.core) = true →
         Does s i (fun u => AsksSettle s s1 u r (.settle r [(d.toNat, v)] 8))))) ∧
  (∀ (s s1 : State) (d a : GReg) (bn : Slot) (off : BitVec 10) (sc : Scope) (b : BufRec) (t : Tr), wideScope sc = true → pteHome t.e = 4 →
     let o := (s.rg s.cur a).toInt + 8 * off.toInt
     let c := coreOf s.cur
     let k := deckOf s.cur
     (CtlAcc s bn o 8 .load b s1 t →
       let i : Instr := .acq d a bn off sc
       let v := BitVec.ofNat 64 (ofBytes (s1.replica k t.pa 8))
       (s1.reinWait s.cur t 8 = true → exec i s = .next (s1.stallC s.cur .latency)) ∧
       (s1.reinWait s.cur t 8 = false → s1.replicaBad k t.pa 8 = true → CtlTraps s i 0x0B 0 (BitVec.ofNat 64 (b.address o).toNat)) ∧
       (s1.reinWait s.cur t 8 = false → s1.replicaBad k t.pa 8 = false →
         (s1.reinRec k c t.pa = none → s.stackBad s.cur d v = false →
           ∃ u, exec i s = .next u ∧ u.rg s.cur d = (if d = 0 then 0 else v) ∧ Past s u 8 ∧ LoadFrame s1 u [d]
             ∧ (s1.reinOwn k c t.pa = true → (u.core c).l1 = (s1.core c).l1) ∧ (s1.reinOwn k c t.pa = false → u.NoneShared c)) ∧
         (∀ r, s1.reinRec k c t.pa = some r → s1.netOk (s1.codeOfCore c) (deckOfCore c) (deckOfCore r.core) = true →
           Does s i (fun u => AsksSettle s s1 u r (.settle r [(d.toNat, v)] 8))))) ∧
     (CtlAcc s bn o 8 .store b s1 t →
       let i : Instr := .rel d a bn off sc
       let q := (s1.deck k).sendQ
       let w := lineWords (t.pa % 128) (toBytes 8 (s.rg s.cur d).toNat)
       (s1.reinEarlier s.cur false = true ∨ s1.reinStale s.cur = true ∨ 64 ≤ q.length → exec i s = .next (s1.stallC s.cur .latency)) ∧
       (s1.reinEarlier s.cur false = false → s1.reinStale s.cur = false → q.length < 64 →
         ∃ u, exec i s = .next u ∧ Past s u 8 ∧ (u.core c).cm = (s1.core c).cm + 1 ∧ (∀ r, u.rg s.cur r = s.rg s.cur r)
           ∧ (u.deck k).sendQ = q ++ [{ reinWrite s1 s.cur false t.pa 2 0 w.2 w.1 .none with mark := (s1.core c).cm }]
           ∧ (∀ g, g ≠ s.cur → u.grp g = s.grp g) ∧ ∀ p, u.homeByte p = s1.homeByte p))) ∧
  (∀ (s s1 : State) (src a : GReg) (bn : Slot) (off : BitVec 10) (sc : Scope) (b : BufRec) (t : Tr), wideScope sc = true →
     let o := (s.rg s.cur a).toInt + 8 * off.toInt
     CtlAcc s bn o 8 .store b s1 t → Undisturbed s1 (coreOf s.cur) t → pteHome t.e ≠ 4 → s1.inStack s.cur (b.address o).toNat = false →
     let c := coreOf s.cur
     let i : Instr := .rel src a bn off sc
     let line := t.pa / 128
     let k := recKey (s1.codeOfCore c) t.pa
     (s1.reinEarlier s.cur false = true → exec i s = .next (s1.stallC s.cur .latency)) ∧
     (s1.reinEarlier s.cur false = false → (sc = .rein → s1.reinStale s.cur = false) →
       ∃ u, exec i s = .next u ∧ Past s u 8 ∧ u.homeNat t.pa 8 = (s.rg s.cur src).toNat ∧ (∀ r, u.rg s.cur r = s.rg s.cur r)
         ∧ (∀ g, g ≠ s.cur → u.grp g = s.grp g)
         ∧ ((u.core c).cm = (s1.core c).cm + 1)
         ∧ (s1.recs.find k = none → (s1.core c).l1.find line = none → (sc = .sys → isHost t.pa = false) →
             s1.hostBias (s1.codeOfCore c) t.pa = false → s1.dirFull (s1.codeOfCore c) t.pa = false →
             u.recs.find k = some { core := c, mark := (s1.core c).cm } ∧
             (NoSnap s1 → StoredAt s1 u t.pa (toBytes 8 (s.rg s.cur src).toNat)))))

/-- 08 R190, R191, 03 R62: an atomic that is plain, or ordered at .grp, .team or .core and not performed by the host, at each of its
places, outside the stack region and the window: gD gets the old value, and the new one is stored, unless it is a cas whose compare
fails; a near one that may not have its line in the L1 is performed at the home. On a window page it is sent, and waits; a page whose
placement does not allow it takes ACCESS 3. 08 R191, 04 R91, R92, R95, R109: atomics with acquire or release at .deck or wider. A
release waits for the stream's earlier window writes, takes the core's mark and leaves a record of it; an acquire has another core's
record settled before the atomic is performed (log 14), and makes the clean lines of shared pages invalid unless the record was its own.
A host atomic is ordered at .sys: its release settles the core. On a window page the mark and the acquire go with the write that is
sent. 08 R191, 02 R49: a plain atomic at the home on a word of the stack region that the bay's stack cache holds: the line's stores are
written back first and the line is given up, so that the atomic works on them (log 78). -/
def Obligations.ControlAtomics : Prop :=
  (∀ (s s1 : State) (d a : GReg) (bn : Slot) (off : BitVec 10) (x : AtomExt) (b : BufRec) (t : Tr),
     x.ord = .plain ∨ (wideScope x.sc = false ∧ pteApl t.e ≠ 2) →
     let w : Nat := if x.w32 then 4 else 8
     let o := (s.rg s.cur a).toInt + w * off.toInt
     CtlAcc s bn o w .atomic b s1 t → Undisturbed s1 (coreOf s.cur) t →
     let c := coreOf s.cur
     let i : Instr := .gatom d a bn off x
     let line := t.pa / 128
     let y := (s.rg s.cur x.b).toNat % 2 ^ (8 * w)
     let z := (s.rg s.cur x.c).toNat % 2 ^ (8 * w)
     let writes (old : Nat) : Bool := !(x.op == .cas && old != z)
     let new (old : Nat) : List Byte := toBytes w (atomNew x.op w old y z)
     (atomBad s1 c x.op w false t = true → CtlTraps s i 0x11 3 (BitVec.ofNat 64 (b.address o).toNat)) ∧
     (atomBad s1 c x.op w false t = false → s1.inStack s.cur (b.address o).toNat = false → pteHome t.e ≠ 4 →
       (pteApl t.e = 1 → s1.poisonedIn (s1.codeOfCore c) t.pa w = false → (s1.core c).l1.find line = none →
         let old := s1.homeNat t.pa w
         s.stackBad s.cur d (BitVec.ofNat 64 old) = false →
         ∃ u, exec i s = .next u ∧ u.rg s.cur d = (if d = 0 then 0 else BitVec.ofNat 64 old) ∧ Past s u 8 ∧ AccFrame s1 u [d]
           ∧ (NoSnap s1 → if writes old then StoredAt s1 u t.pa (new old) else ∀ p, u.homeByte p = s1.homeByte p)) ∧
       (atomPoisoned s1 c w t = true → CtlTraps s i 0x0B 0 (BitVec.ofNat 64 (b.address o).toNat)) ∧
       (pteApl t.e = 0 → (s1.core c).l1.find line = none → s1.poisonedIn (s1.codeOfCore c) t.pa w = false →
           b.noalloc = true ∨ s1.poisonedIn (s1.codeOfCore c) (line * 128) 128 = true →
         let old := s1.homeNat t.pa w
         s.stackBad s.cur d (BitVec.ofNat 64 old) = false →
         ∃ u, exec i s = .next u ∧ u.rg s.cur d = (if d = 0 then 0 else BitVec.ofNat 64 old) ∧ Past s u 8 ∧ AccFrame s1 u [d]
           ∧ (NoSnap s1 → if writes old then StoredAt s1 u t.pa (new old) else ∀ p, u.homeByte p = s1.homeByte p)) ∧
       (pteApl t.e = 0 → atomPoisoned s1 c w t = false → ∀ data, ((s1.core c).l1.find line).map (fun k => k.data) = some data ∨
           ((s1.core c).l1.find line = none ∧ b.noalloc = false ∧ s1.poisonedIn (s1.codeOfCore c) (line * 128) 128 = false ∧
             s1.poisonedIn (s1.codeOfCore c) t.pa w = false ∧ data = s1.homeBytes (line * 128) 128) →
         let old := ofBytes ((data.drop (t.pa % 128)).take w)
         s.stackBad s.cur d (BitVec.ofNat 64 old) = false →
         ∃ u, exec i s = .next u ∧ u.rg s.cur d = (if d = 0 then 0 else BitVec.ofNat 64 old) ∧ Past s u 8 ∧ AccFrame s1 u [d]
           ∧ (∀ p, u.homeByte p = s1.homeByte p) ∧ OtherLines s1 u c line
           ∧ (((u.core c).l1.find line).map (fun k => k.data)) = some (if writes old then patch data (t.pa % 128) (new old) else data)) ∧
       (pteApl t.e = 2 → s1.poisonedIn (s1.codeOfCore c) t.pa w = false → (s1.core c).l1.find line = none →
         let old := s1.homeNat t.pa w
         s.stackBad s.cur d (BitVec.ofNat 64 old) = false →
         ∃ u, exec i s = .next u ∧ u.rg s.cur d = (if d = 0 then 0 else BitVec.ofNat 64 old) ∧ Past s u 8 ∧ AccFrame s1 u [d]
           ∧ if writes old then StoredAt s1 u t.pa (new old) else ∀ p, u.homeByte p = s1.homeByte p)) ∧
     (atomBad s1 c x.op w false t = false → pteHome t.e = 4 → s1.reinStale s.cur = false →
       (s1.deck (deckOf s.cur)).sendQ.length < 64 →
       ∃ u k, exec i s = .next u ∧ (u.grp s.cur).cwait = .rein ∧ (u.grp s.cur).pc = (s.grp s.cur).pc
         ∧ (u.deck (deckOf s.cur)).sendQ = (s1.deck (deckOf s.cur)).sendQ ++ [k] ∧ k.kind = 3 ∧ k.gid = s.cur ∧ k.lane = false
         ∧ k.line = t.pa % 2 ^ 18 / 128 ∧ k.aop = x.op.code.toNat ∧ k.mask = 1#32 <<< (t.pa % 128 / 4)
         ∧ k.data.getD (t.pa % 128 / 4) 0 = BitVec.ofNat 32 y ∧ k.dest = .g d.toNat)) ∧
  (∀ (s s1 : State) (d a : GReg) (bn : Slot) (off : BitVec 10) (x : AtomExt) (b : BufRec) (t : Tr), x.ord ≠ .plain →
     wideScope x.sc = true ∨ pteApl t.e = 2 →
     let w : Nat := if x.w32 then 4 else 8
     let o := (s.rg s.cur a).toInt + w * off.toInt
     CtlAcc s bn o w .atomic b s1 t → Undisturbed s1 (coreOf s.cur) t → s1.inStack s.cur (b.address o).toNat = false →
     let c := coreOf s.cur
     let i : Instr := .gatom d a bn off x
     let line := t.pa / 128
     let y := (s.rg s.cur x.b).toNat % 2 ^ (8 * w)
     let z := (s.rg s.cur x.c).toNat % 2 ^ (8 * w)
     let writes (old : Nat) : Bool := !(x.op == .cas && old != z)
     let k := recKey (s1.codeOfCore c) t.pa
     let m := (s1.core c).cm
     atomBad s1 c x.op w (wideScope x.sc) t = false → (pteHome t.e = 4 ∨ (x.sc = .rein ∧ pteApl t.e ≠ 2) → s1.reinStale s.cur = false) →
     (ordRel x.ord = true → s1.reinEarlier s.cur false = true → exec i s = .next (s1.stallC s.cur .latency)) ∧
     ((ordRel x.ord = true → s1.reinEarlier s.cur false = false) →
       (pteHome t.e ≠ 4 → atomPoisoned s1 c w t = false → (s1.core c).l1.find line = none →
         (∀ r, ordAcq x.ord = true → (s.grp s.cur).cwait.acked = false → s1.foreignRec c t.pa = some r →
           s1.netOk (s1.codeOfCore c) (deckOfCore c) (deckOfCore r.core) = true → Does s i (fun u => AsksSettle s s1 u r (.presettle r false))) ∧
         ((ordAcq x.ord = true → s1.foreignRec c t.pa = none) →
           let old := s1.homeNat t.pa w
           s.stackBad s.cur d (BitVec.ofNat 64 old) = false →
           (pteApl t.e = 1 → (x.sc = .sys → isHost t.pa = false) →
             (ordRel x.ord = true → s1.recs.find k = none ∧ s1.dirFull (s1.codeOfCore c) t.pa = false ∧ s1.hostBias (s1.codeOfCore c) t.pa = false) →
             ∃ u, exec i s = .next u ∧ u.rg s.cur d = (if d = 0 then 0 else BitVec.ofNat 64 old) ∧ Past s u 8
               ∧ (NoSnap s1 → if writes old then StoredAt s1 u t.pa (toBytes w (atomNew x.op w old y z)) else ∀ p, u.homeByte p = s1.homeByte p)
               ∧ (ordRel x.ord = true → u.recs.find k = some { core := c, mark := m } ∧ (u.core c).cm = m + 1)
               ∧ (ordRel x.ord = false → u.recs = s1.recs ∧ (u.core c).cm = m)
               ∧ (ordAcq x.ord = true → s1.ownRec c t.pa = false → u.NoneShared c)
               ∧ (ordAcq x.ord = false → (u.core c).l1 = (s1.core c).l1)
               ∧ (∀ r, r ≠ d → u.rg s.cur r = s.rg s.cur r) ∧ ∀ g, g ≠ s.cur → u.grp g = s.grp g) ∧
           (pteApl t.e = 2 → ordRel x.ord = true → s1.recs.find k = none → markLe m (s1.core c).settled = false →
             (∀ l v, (l, v) ∈ (s1.core c).l1 → v.dirty = 0) →
             ∃ u, exec i s = .next u ∧ u.rg s.cur d = (if d = 0 then 0 else BitVec.ofNat 64 old) ∧ Past s u 8
               ∧ u.homeNat t.pa w = (if writes old then atomNew x.op w old y z % 2 ^ (8 * w) else old)
               ∧ (u.core c).settled = m ∧ (u.core c).cm = m + 1 ∧ u.recs.find k = none))) ∧
       (pteHome t.e = 4 → (s1.deck (deckOf s.cur)).sendQ.length < 64 →
         ∃ u j, exec i s = .next u ∧ (u.grp s.cur).cwait = .rein ∧ (u.grp s.cur).pc = (s.grp s.cur).pc
           ∧ (u.deck (deckOf s.cur)).sendQ = (s1.deck (deckOf s.cur)).sendQ ++ [j] ∧ j.kind = (if ordRel x.ord then 4 else 3)
           ∧ j.acq = ordAcq x.ord ∧ j.mark = (if ordRel x.ord then m else 0) ∧ (u.core c).cm = (if ordRel x.ord then m + 1 else m)
           ∧ j.gid = s.cur ∧ j.lane = false ∧ j.line = t.pa % 2 ^ 18 / 128 ∧ j.aop = x.op.code.toNat ∧ j.dest = .g d.toNat))) ∧
  (∀ (s s1 : State) (d a : GReg) (bn : Slot) (off : BitVec 10) (x : AtomExt) (b : BufRec) (t : Tr) (e : Line), x.ord = .plain →
     let w : Nat := if x.w32 then 4 else 8
     let o := (s.rg s.cur a).toInt + w * off.toInt
     CtlAcc s bn o w .atomic b s1 t → Undisturbed s1 (coreOf s.cur) t → s1.inStack s.cur (b.address o).toNat = true → NoSnap s1 →
     let c := coreOf s.cur
     let key := stackKey (bayOf s.cur) (t.pa / 128)
     pteHome t.e ≠ 4 → pteApl t.e = 1 → (s1.core c).l1.find (t.pa / 128) = none → (s1.core c).stackc.find key = some e → e.bad = 0 →
     t.pa / 128 < 2 ^ 46 → s1.Reaches c (t.pa / 128) → atomBad s1 c x.op w false t = false → s1.poisonedIn (s1.codeOfCore c) t.pa w = false →
     let old := ofBytes ((List.range w).map (fun j =>
       if e.dirty.getLsbD (t.pa % 128 + j) then e.data.getD (t.pa % 128 + j) 0 else s1.homeByte (t.pa + j)))
     let y := (s.rg s.cur x.b).toNat % 2 ^ (8 * w)
     let z := (s.rg s.cur x.c).toNat % 2 ^ (8 * w)
     s.stackBad s.cur d (BitVec.ofNat 64 old) = false →
     ∃ u, exec (.gatom d a bn off x) s = .next u ∧ u.rg s.cur d = (if d = 0 then 0 else BitVec.ofNat 64 old) ∧ Past s u 8 ∧ AccFrame s1 u [d]
       ∧ (u.core c).stackc.find key = none
       ∧ u.homeNat t.pa w = (if x.op = .cas ∧ old ≠ z then old else atomNew x.op w old y z % 2 ^ (8 * w))
       ∧ (∀ p, p / 128 ≠ t.pa / 128 → u.homeByte p = s1.homeByte p)
       ∧ ∀ j, j < 128 → e.dirty.getLsbD j = true → (t.pa / 128 * 128 + j < t.pa ∨ t.pa + w ≤ t.pa / 128 * 128 + j) →
           u.homeByte (t.pa / 128 * 128 + j) = e.data.getD j 0)

/-- 08 R193, 04 R85, R93: the Farrier's fence, which has no access to order, only goes on (log 62); on a core a fence at .grp, .team or
.core goes on, the bay's stack cache written back (log 78); a wider one settles the core in full and makes the clean lines of shared
pages in its L1 invalid; both wait as latency for the stream's earlier window writes where they are wide. -/
def Obligations.Fences : Prop :=
  ∀ (s : State) (sc : Scope),
    let c := coreOf s.cur
    let m := (s.core c).cm
    (s.cur = farrierId → JumpsTo s (.fence sc) ((s.grp s.cur).pc + 4)) ∧
    (s.cur ≠ farrierId → wideScope sc = false → Does s (.fence sc) (fun t => Past s t 4
      ∧ (stackLines (s.core c) (bayOf s.cur) = [] → CtlFrame s t [] []) ∧ stackLines (t.core c) (bayOf s.cur) = []
      ∧ (∀ r, t.rg s.cur r = s.rg s.cur r) ∧ ∀ g, g ≠ s.cur → t.grp g = s.grp g)) ∧
    (s.cur ≠ farrierId → wideScope sc = true →
      (s.reinEarlier s.cur false = true ∨ (sc = .rein ∧ s.reinStale s.cur = true) → Waits s (.fence sc) .latency) ∧
      (s.reinEarlier s.cur false = false → (sc = .rein → s.reinStale s.cur = false) → markLe m (s.core c).settled = false →
          (s.core c).l1.rising = true →
        ∃ t, exec (.fence sc) s = .next t ∧ (t.core c).cm = m + 1 ∧ (t.core c).settled = m ∧ Past s t 4
          ∧ (∀ l x, (t.core c).l1.find l = some x → x.dirty ≠ 0 → markLe x.stamp m = false)
          ∧ t.NoneShared c
          ∧ (∀ r, t.rg s.cur r = s.rg s.cur r) ∧ ∀ g, g ≠ s.cur → t.grp g = s.grp g))

/-- 08 R194, 03 R57: bufset builds a record, bufld loads one of 32 bytes, bufinv makes a slot invalid, once every block enqueued before
has ended, in a handler those of the frozen queue among them (the letter of R194, log 67); a byte that the stream has loaded early has
the value that it had then (log 3); a record that a slot does not accept traps ILLEGAL. No other slot changes. -/
def Obligations.BufferSlots : Prop :=
  ∀ (s s1 : State) (n m : Slot) (a b : GReg),
    let sets (i : Instr) (r : Option BufRec) : Prop := ∃ u, exec i s = .next u ∧ Past s u 4 ∧ u.slotRec s.cur n = r
      ∧ (∀ k, k ≠ n → u.slotRec s.cur k = s.slotRec s.cur k) ∧ (∀ r, u.rg s.cur r = s.rg s.cur r)
      ∧ { u.grp s.cur with buf := [], pc := 0, cwait := .none } = { s.grp s.cur with buf := [], pc := 0, cwait := .none }
      ∧ (∀ g, g ≠ s.cur → u.grp g = s.grp g) ∧ ∀ p, u.homeByte p = s1.homeByte p
    let x := s.rg s.cur b
    let y := s.rg s.cur (b + 1)
    let r : BufRec := { base := s.rg s.cur a, extent := BitVec.ofNat 40 x.toNat, stride := BitVec.ofNat 32 y.toNat,
                        esize := BitVec.ofNat 3 (x.toNat / 2 ^ 40), swz := BitVec.ofNat 4 (x.toNat / 2 ^ 44), rdok := x.getLsbD 48,
                        wrok := x.getLsbD 49, noalloc := x.getLsbD 50, idem := x.getLsbD 51 }
    let zeros : Prop := x.getLsbD 43 = false ∧ x.toNat < 2 ^ 52 ∧ y.toNat < 2 ^ 32
    (s.blocksEnded s.cur = false → Waits s (.bufinv n) .laneq ∧ Waits s (.bufld n a m) .laneq
      ∧ (b.toNat % 2 = 0 → Waits s (.bufset n a b) .laneq)) ∧
    (s.blocksEnded s.cur = true →
      (s1 = s → sets (.bufinv n) none) ∧
      (b.toNat % 2 = 0 → (s1 = s → zeros → r.accept = true → sets (.bufset n a b) (some r)) ∧
        (s.cur ≠ farrierId → ¬ (zeros ∧ r.accept = true) → CtlTraps s (.bufset n a b) 0x01 0 0)) ∧
      (s.cur ≠ farrierId → b.toNat % 2 = 1 → CtlTraps s (.bufset n a b) 0x01 0 0) ∧
      (∀ k t, CtlAcc s m (s.rg s.cur a).toInt 32 .load k s1 t → pteHome t.e ≠ 4 →
        s1.inStack s.cur (k.address (s.rg s.cur a).toInt).toNat = false → Undisturbed s1 (coreOf s.cur) t →
        ∀ v, ((∃ l, viaL1 s1 (coreOf s.cur) t = true ∧ (s1.core (coreOf s.cur)).l1.find (t.pa / 128) = some l
                ∧ l.badIn (t.pa % 128) 32 = false ∧ v = ofBytes (s1.heed false t.pa ((l.data.drop (t.pa % 128)).take 32))) ∨
              ((viaL1 s1 (coreOf s.cur) t = false ∨ (s1.core (coreOf s.cur)).l1.find (t.pa / 128) = none)
                ∧ s1.poisonedIn (s1.codeOfCore (coreOf s.cur)) t.pa 32 = false ∧ v = ofBytes (s1.heed false t.pa (s1.homeBytes t.pa 32)))) →
          (∀ q, BufRec.ofNat v = some q → q.accept = true → sets (.bufld n a m) (some q)) ∧
          ((BufRec.ofNat v).any (fun q => q.accept) = false → CtlTraps s (.bufld n a m) 0x01 0 0)))

/-- 04 R98, R100: the range entries of a command go into a core's table of 64 in one step, or none does; they displace none. -/
def Obligations.RangeLocks : Prop :=
  ∀ (s : State) (c : Nat) (l : List LockE),
    let n := (s.core c).locks.length + l.length
    (64 < n → l ≠ [] → s.registerLocks (l.map (fun e => (c, e))) = none) ∧
    (n ≤ 64 → ∃ u, s.registerLocks (l.map (fun e => (c, e))) = some u
      ∧ (∀ e, e ∈ l → ∃ k, k < 64 ∧ (u.core c).locks.find k = some e)
      ∧ (∀ k e, (s.core c).locks.find k = some e → (u.core c).locks.find k = some e)
      ∧ { u.core c with locks := [] } = { s.core c with locks := [] } ∧ (∀ j, j ≠ c → u.core j = s.core j)
      ∧ { u with cores := [] } = { s with cores := [] })

/-- 11 R249 to R252, 10 R235: mma and mma.v with operands that pass their checks join the core's matrix queue in the group's open batch,
with the fmt and the operand registers of the moment, and register their ranges; a queue of 64 or a full table waits with BATCH. 11
R253: mmv takes its weights from global memory, whose lines it translates at issue and has written back from the L1. 11 R255, 15 R319:
mfence closes the open batch and gives its number; mwait goes on when the batch has completed, or its failure has been reported, waits
with BATCH while it has not, traps ILLEGAL for a batch that is not closed, and once for each failed batch it covers, with INFO 1. -/
def Obligations.MatrixWords : Prop :=
  (∀ (s : State) (e a b : GReg) (z : Bool) (eb w : Nat) (q : Bool) (xa xb : Scr), s.cur ≠ farrierId →
     let x := s.grp s.cur
     let y := s.teamOf s.cur
     let c := coreOf s.cur
     let r := (s.rg s.cur e).toNat
     let k := r / 2 ^ 14 % 2 ^ 9
     let rm := 16 * (r / 2 ^ 9 % 4 + 1)
     let rn := 16 * (r / 2 ^ 11 % 8 + 1)
     let bytes := k * eb / 8
     let gw := gwBytes x.fmt.toNat k q
     let m (kind : MatKind) (regs : List GWord) : MatOp :=
       { id := s.freeCtr, kind := kind, gid := s.cur, team := x.team, batch := x.bc + 1, region := s.rg s.cur e, regs := regs, rcd := none,
         tr := [], fmt := x.fmt, zero := z, chunks := 0, ran := false, bad := false, pre := [] }
     matK x.fmt.toNat k 256 = .ok (eb, w, q) → r % 2 ^ 9 + rm / 16 * (rn / 16) ≤ y.acc → b.toNat % 2 = 0 →
     scrOf (s.rg s.cur b) (s.rg s.cur (b + 1)) = .ok xb → matBounds xb y.scratch rn bytes gw = .ok () →
     (∀ l, a.toNat % 2 = 0 → r < 2 ^ 23 → scrOf (s.rg s.cur a) (s.rg s.cur (a + 1)) = .ok xa → matBounds xa y.scratch rm bytes gw = .ok () →
       l = [scrLock x.team (xa.range (matEnd xa rm bytes gw)) false (2 * s.freeCtr),
            scrLock x.team (xb.range (matEnd xb rn bytes gw)) false (2 * s.freeCtr)] →
       (∀ s2, (s.core c).matq.length < 64 → s.registerLocks (l.map (fun f => (c, f))) = some s2 →
         AddsMat s s2 (.mma e a b z) (m .mma [s.rg s.cur a, s.rg s.cur (a + 1), s.rg s.cur b, s.rg s.cur (b + 1)])) ∧
       (64 ≤ (s.core c).matq.length ∨ s.registerLocks (l.map (fun f => (c, f))) = none → Waits s (.mma e a b z) .batch)) ∧
     (∀ l, r < 2 ^ 31 → rm ≤ 32 → q = false → r / 2 ^ 23 % 4 = 0 → r / 2 ^ 23 + k * eb / 32 ≤ x.count →
       l = [scrLock x.team (xb.range (matEnd xb rn bytes 0)) false (2 * s.freeCtr)] →
       (s.blocksEnded s.cur = false → Waits s (.mmaV e b z) .laneq) ∧
       (∀ s2, s.blocksEnded s.cur = true → (s.core c).matq.length < 64 → s.registerLocks (l.map (fun f => (c, f))) = some s2 →
         AddsMat s s2 (.mmaV e b z) (m .mmaV [0, 0, s.rg s.cur b, s.rg s.cur (b + 1)])))) ∧
  (∀ (s s1 s2 : State) (e v w : GReg) (z : Bool) (eb cw : Nat) (q : Bool) (xv : Scr) (wt ws : Glob) (l : List Acc), s.cur ≠ farrierId →
     let x := s.grp s.cur
     let y := s.teamOf s.cur
     let c := coreOf s.cur
     let r := (s.rg s.cur e).toNat
     let k := r / 2 ^ 18 % 2 ^ 14
     let nv := r / 2 ^ 15 % 8 + 1
     let tiles := r / 2 ^ 9 % 64 + 1
     let bytes := k * eb / 8
     let gw := gwBytes x.fmt.toNat k q
     let w1 := s.rg s.cur (w + 1)
     v.toNat % 2 = 0 → w.toNat % 2 = 0 → r < 2 ^ 36 → matK x.fmt.toNat k 8192 = .ok (eb, cw, q) → r % 2 ^ 9 + tiles ≤ y.acc →
     (q = true ∨ w1 = 0) → scrOf (s.rg s.cur v) (s.rg s.cur (v + 1)) = .ok xv → matBounds xv y.scratch nv bytes gw = .ok () →
     globOf s s.cur (r / 2 ^ 32 % 16) (s.rg s.cur w).toInt (fun b => b.stride.toNat) (16 * tiles) bytes = .ok wt →
     globOf s s.cur (r / 2 ^ 32 % 16) w1.toInt (fun _ => gw) (if q then 16 * tiles else 0) gw = .ok ws →
     wt.check .engRead = .ok () → ws.check .engRead = .ok () → wt.align 16 = .ok () → (q = true → w1.toNat % 4 = 0) →
     translateLines s s.cur (wt.lines ++ ws.lines) [] = .ok (s1, l, []) → (s1.core c).matq.length < 64 →
     let rng := if q then [wt.range, ws.range] else [wt.range]
     let u := engineL1 s1 s.cur l [] rng []
     u.flipTouches (u.codeOf s.cur) (u.ctxOf s.cur) rng = false →
     u.registerLocks (([scrLock x.team (xv.range (matEnd xv nv bytes gw)) false (2 * s.freeCtr),
         globLock (s.ctxOf s.cur) wt.range false (2 * s.freeCtr)]
       ++ (if q then [globLock (s.ctxOf s.cur) ws.range false (2 * s.freeCtr)] else [])).map (fun f => (c, f))) = some s2 →
     AddsMat s s2 (.mmv e v w z)
       { id := s.freeCtr, kind := .mmv, gid := s.cur, team := x.team, batch := x.bc + 1, region := s.rg s.cur e,
         regs := [s.rg s.cur v, s.rg s.cur (v + 1), s.rg s.cur w, w1], rcd := some wt.rcd, tr := lineMap l, fmt := x.fmt, zero := z,
         chunks := 0, ran := false, bad := false, pre := [] }) ∧
  (∀ (s : State) (d a : GReg), s.cur ≠ farrierId →
     let x := s.grp s.cur
     let n : Word := BitVec.ofNat 32 (s.rg s.cur a).toNat
     (s.stackBad s.cur d ((x.bc + 1).zeroExtend 64) = false → ∃ t, exec (.mfence d) s = .next t
       ∧ t.rg s.cur d = (if d = 0 then 0 else (x.bc + 1).zeroExtend 64) ∧ (t.grp s.cur).bc = x.bc + 1 ∧ Past s t 4
       ∧ CtlFrame (s.setGrp s.cur { x with bc := x.bc + 1 }) t [d] []) ∧
     (1 ≤ (n - x.bc).toNat ∧ (n - x.bc).toNat < 2 ^ 31 → CtlTraps s (.mwait a) 0x01 0 0) ∧
     (¬ (1 ≤ (n - x.bc).toNat ∧ (n - x.bc).toNat < 2 ^ 31) →
       (x.failed.any (fun b => markLe b n) = true →
         exec (.mwait a) s = .next ((s.setGrp s.cur { x with
             failed := x.failed.filter (fun b => !markLe b n), reported := x.reported ++ x.failed.filter (fun b => markLe b n) }).takeTrap s.cur false
           { code := 0x01, info := 1, lane := none, va := 0 })) ∧
       (x.failed.any (fun b => markLe b n) = false →
         (markLe n x.lastDone = true ∨ n ∈ x.reported → JumpsTo s (.mwait a) (x.pc + 4)) ∧
         (markLe n x.lastDone = false → n ∉ x.reported → Waits s (.mwait a) .batch))))

/-- 11 R256, R257, R248: tcopy and tcopy.t between any two kinds of location, when the steps of R248 pass, become outstanding with their
ranges registered, the lines of their ranges written back and a destination's invalidated (the lines between the rows' among them, log
80); while a page of theirs is being flipped (16 R339), or with the tables full, they wait with BATCH. -/
def Obligations.CopyIssue : Prop :=
  ∀ (s s1 : State) (src dst c : GReg) (dk sk : Loc) (trans : Bool) (ls ld : CopyLoc) (la lb : List Acc), s.cur ≠ farrierId →
    let g := s.cur
    let w := (s.rg g c).toNat
    let rows := w % 2 ^ 11
    let rowb := w / 2 ^ 11 % 2 ^ 14
    let es := 2 ^ (w / 2 ^ 25 % 4)
    let aw := w / 2 ^ 35 % 2 ^ 23
    let drows := if trans then rowb / es else rows
    let dn := if trans then rows * es else rowb
    let i : Instr := if trans then .tcopyT src dst c dk sk else .tcopy src dst c dk sk
    let lines (r n : Nat) (l : CopyLoc) : List Nat := match copyGlob s g r n l with
      | some x => x.lines
      | none => []
    src.toNat % 2 = 0 → dst.toNat % 2 = 0 → w < 2 ^ 58 → 1 ≤ rows → rows ≤ 1024 → 16 ≤ rowb → rowb ≤ 8192 → rowb % 16 = 0 →
    (if trans then es ≠ 8 ∧ dk ≠ .glob ∧ dn % 16 = 0 ∧ dn ≤ 8192 ∧ drows ≤ 1024 else es = 1) →
    copyLoc s g sk src (w / 2 ^ 27 % 16) = .ok ls → copyLoc s g dk dst (w / 2 ^ 31 % 16) = .ok ld →
    copyPipe s g false ls = .ok () → copyPipe s g true ld = .ok () → copyBounds s g false rows rowb ls = .ok () →
    copyBounds s g true drows dn ld = .ok () → aw + 16 ≤ (s.teamOf g).scratch → copyAlign s g rows rowb ls = .ok () →
    copyAlign s g drows dn ld = .ok () → aw % 16 = 0 →
    translateLines s g (lines rows rowb ls) (lines drows dn ld) = .ok (s1, la, lb) →
    let range (r n : Nat) (l : CopyLoc) : List (Nat × Nat) := (copyGlob s1 g r n l).toList.map Glob.range
    let u := engineL1 s1 g la lb (range rows rowb ls) (range drows dn ld)
    let n := 2 * u.freeCtr + 1
    let held := u.flipTouches (u.codeOf g) (u.ctxOf g) (range rows rowb ls ++ range drows dn ld)
    let locks := (copyLocks u g false rows rowb n ls ++ copyLocks u g true drows dn n ld).map (fun e => (coreOf g, e))
    (∀ s2, held = false → u.registerLocks locks = some s2 →
      AddsCmd s s2 i
        { kind := .copy, team := (s.grp g).team, gid := g, src := copyPlace s g false ls, dst := copyPlace s g true ld, rows := rows,
          rowb := rowb, esz := es, trans := trans, aw := aw, fmt := 0, acc := false, len := rows * rowb, pos := 0, st := 0, done := [],
          recvs := [], tr := lineMap (la ++ lb), ar := 0, staged := 0, pre := [], wrote := [], never := neverLines (la ++ lb) }) ∧
    (held = true → exec i s = .next (u.onGrp g (fun x => { x with cwait := .flip .batch }))) ∧
    (held = false → u.registerLocks locks = none → exec i s = .next (u.stallC g .batch))

/-- 11 R260, 04 R96, R104, 16 R338: hstream.out and hstream.in, when their checks pass, become outstanding, the lines of their ranges
written back; a page that is being flipped, or a full table, holds them; a rerunnable team traps PIPEFAULT. The lines are those that the
page tables map (log 80). 11 R258, R259: a multicast to the cores that its mask selects, when its checks pass, becomes outstanding; each
receiver is the team of the grid that is placed on its core. 11 R261, R262, 05 R131: qhist becomes outstanding with its rows as a source
range and its 528 bytes as a destination range; qclip gives the group word that the counts and the fraction make, 0x3C00 where every
count is 0 (that gH is a multiple of 16: log 95). -/
def Obligations.EngineCommands : Prop :=
  (∀ (s : State) (src dst c : GReg) (xs xd : Glob) (out : Bool), s.cur ≠ farrierId →
     let g := s.cur
     let w := (s.rg g c).toNat
     let w1 := (s.rg g (c + 1)).toNat
     let len := w % 2 ^ 40
     let i : Instr := if out then .hstreamOut src dst c else .hstreamIn src dst c
     let rng (x : Glob) : Nat × Nat := ((x.rcd.address x.off).toNat, (x.rcd.address x.off).toNat + len)
     c.toNat % 2 = 0 → w < 2 ^ 48 → w1 < 2 ^ 23 → 128 ≤ len → len % 128 = 0 →
     ((s.teamOf g).rerun = true → CtlTraps s i 0x0A 0 0) ∧
     ((s.teamOf g).rerun = false → globOf s g (w / 2 ^ 40 % 16) (s.rg g src).toInt (fun _ => 0) 1 len = .ok xs →
       globOf s g (w / 2 ^ 44 % 16) (s.rg g dst).toInt (fun _ => 0) 1 len = .ok xd → xs.check .engRead = .ok () →
       xd.check .engWrite = .ok () → w1 + 16 ≤ (s.teamOf g).scratch → xs.align 128 = .ok () → xd.align 128 = .ok () → w1 % 16 = 0 →
       let u := engineL1 s g [] [] [rng xs] [rng xd]
       let n := 2 * u.freeCtr + 1
       let locks := [(coreOf g, globLock (s.ctxOf g) (rng xs) false n), (coreOf g, globLock (s.ctxOf g) (rng xd) true n)]
       let held := u.flipTouches (s.codeOf g) (s.ctxOf g) [rng xs, rng xd]
       (∀ s2, held = false → u.registerLocks locks = some s2 →
         AddsCmd s s2 i
           { kind := if out then .hostOut else .hostIn, team := (s.grp g).team, gid := g, src := .glob xs.rcd xs.off,
             dst := .glob xd.rcd xd.off, rows := 1, rowb := len, esz := 0, trans := false, aw := w1, fmt := 0, acc := false, len := len,
             pos := 0, st := 0, done := [], recvs := [], tr := [], ar := 0, staged := 0, pre := [], wrote := [], never := [] }) ∧
       (held = true → exec i s = .next (u.onGrp g (fun x => { x with cwait := .flip .batch }))) ∧
       (held = false → u.registerLocks locks = none → exec i s = .next (u.stallC g .batch)))) ∧
  (∀ (s s2 : State) (src t c : GReg) (tower : Bool) (xs xd : Scr), s.cur ≠ farrierId →
     let g := s.cur
     let y := s.teamOf g
     let mask := (s.rg g t).toNat
     let w0 := (s.rg g c).toNat
     let w1 := (s.rg g (c + 1)).toNat
     let rows := w0 % 2 ^ 11
     let rowb := w0 / 2 ^ 11 % 2 ^ 14
     let aw := w0 / 2 ^ 25
     let ar := w1 % 2 ^ 23
     let st := w1 / 2 ^ 23
     let n := 2 * s.freeCtr + 1
     let cores := mcastCores g mask tower
     let uid (k : Nat) : Nat := ((s.teamOn y k).map (fun j => (s.team j).uid)).getD 0
     let recvs : List Recv := cores.map (fun k => { core := k, team := s.teamOn y k, uid := uid k, done := [] })
     let i : Instr := if tower then .tmcastTower src t c else .tmcastDeck src t c
     src.toNat % 2 = 0 → c.toNat % 4 = 0 → mask < (if tower then 2 ^ 52 else 2 ^ 48) → cores ≠ [] →
     cores.all (fun k => s.codeOfCore k == s.codeOf g) = true → w0 < 2 ^ 48 → 1 ≤ rows → rows ≤ 1024 → 16 ≤ rowb → rowb ≤ 8192 →
     rowb % 16 = 0 → w1 < 2 ^ 41 → (if tower then st % 128 = 0 else st = 0) → (s.rg g (c + 2)).toNat < 2 ^ 23 → y.mcast = true →
     scrOf (s.rg g src) (s.rg g (src + 1)) = .ok xs → scrOf (s.rg g (c + 2)) (s.rg g (c + 3)) = .ok xd → y.rerun = false →
     xs.check y.scratch 0 rows rowb = .ok () → xd.check y.scratch 0 rows rowb = .ok () → aw + 16 ≤ y.scratch → ar + 16 ≤ y.scratch →
     (tower = true → st + rows * rowb ≤ 2 ^ 18) → aw % 16 = 0 → ar % 16 = 0 →
     (tower = true → (s.tower (towerOf g)).reinSplit.getLsbD 0 = false) →
     s.registerLocks ((coreOf g, scrLock (s.grp g).team (xs.range (xs.endOf 0 rows rowb)) false n)
       :: (if tower then [(coreOf g, globLock (stageOwner (towerOf g)) (st, st + rows * rowb) true n)] else [])
       ++ recvs.filterMap (fun r => r.team.map (fun k => (r.core, scrLock k (xd.range (xd.endOf 0 rows rowb)) true n)))) = some s2 →
     AddsCmd s s2 i
       { kind := if tower then .mcastTower else .mcastDeck, team := (s.grp g).team, gid := g,
         src := .scr (s.grp g).team xs.off xs.rowp xs.tilep xs.rot, dst := .scr 0 xd.off xd.rowp xd.tilep xd.rot, rows := rows, rowb := rowb,
         esz := 0, trans := false, aw := aw, fmt := 0, acc := false, len := rows * rowb * cores.length, pos := 0, st := st, done := [],
         recvs := recvs, tr := [], ar := ar, staged := 0, pre := [], wrote := [], never := [] }) ∧
  (∀ (s : State) (d src h c p : GReg) (acc : Bool) (x : Scr), s.cur ≠ farrierId →
     let g := s.cur
     let y := s.teamOf g
     let w := (s.rg g c).toNat
     let rows := w % 2 ^ 11
     let rowb := w / 2 ^ 11 % 2 ^ 14
     let aw := w / 2 ^ 29
     let gh := (s.rg g h).toNat
     let gp := (s.rg g p).toNat
     let n := 2 * s.freeCtr + 1
     let k := (s.grp g).team
     let counts (o : Nat) : List Nat := (List.range 64).map (fun b => (y.winW (gh + o + 4 * b)).toNat)
     (src.toNat % 2 = 0 → w < 2 ^ 52 → 1 ≤ rows → rows ≤ 1024 → 16 ≤ rowb → rowb ≤ 8192 → rowb % 16 = 0 → w / 2 ^ 25 % 16 ≤ 2 →
       scrOf (s.rg g src) (s.rg g (src + 1)) = .ok x → x.check y.scratch 0 rows rowb = .ok () → gh + 528 ≤ y.scratch →
       aw + 16 ≤ y.scratch → gh % 16 = 0 → aw % 16 = 0 →
       let locks := [(coreOf g, scrLock k (x.range (x.endOf 0 rows rowb)) false n), (coreOf g, scrLock k (gh, gh + 528) true n)]
       (∀ s2, s.registerLocks locks = some s2 →
         AddsCmd s s2 (.qhist src h c acc)
           { kind := .hist, team := k, gid := g, src := .scr k x.off x.rowp x.tilep x.rot, dst := .scr k gh 0 0 0, rows := rows, rowb := rowb,
             esz := 0, trans := false, aw := aw, fmt := w / 2 ^ 25 % 16, acc := acc, len := rows * rowb, pos := 0, st := 0, done := [],
             recvs := [], tr := [], ar := 0, staged := 0, pre := [], wrote := [], never := [] }) ∧
       (s.registerLocks locks = none → Waits s (.qhist src h c acc) .batch)) ∧
     (gp < 2 ^ 17 → gh + 528 ≤ y.scratch → gh % 16 = 0 → lockHit (s.core (coreOf g)).locks false k gh (gh + 528) false = none →
       (y.winBad gh 528 = true → CtlTraps s (.qclip d h p) 0x0B 0 (s.rg g h)) ∧
       (y.winBad gh 528 = false → WritesG s (.qclip d h p) d (BitVec.ofNat 64 (clipWord (counts 0) (counts 256) (gp % 2 ^ 16) (gp.testBit 16)))) ∧
       (y.winBad gh 528 = false → (∀ b, b < 64 → y.winW (gh + 4 * b) = 0 ∧ y.winW (gh + 256 + 4 * b) = 0) → WritesG s (.qclip d h p) d 0x3C00)) ∧
     (2 ^ 17 ≤ gp → CtlTraps s (.qclip d h p) 0x01 0 0) ∧
     (gp < 2 ^ 17 → y.scratch < gh + 528 → CtlTraps s (.qclip d h p) 0x03 16 (s.rg g h)))

/-- 06 R139, R141: a producer's pacq takes a FREE slot under the pipe's next sequence number and gives its handle; with none FREE
pacq.try gives 0 and pacq waits with PIPEFULL; a stage that is no producer of the pipe traps PIPEFAULT. 06 R143, R139, R148, 16 R331: a
consumer's pget takes the next tile and gives its handle and tag, at once when no settle is owed; a tile of the package with no record
makes the clean shared lines invalid; nothing but a RETURNED tile comes while the far end's port is down; it gives 0 from a closed pipe
that is empty, pget.try from any empty pipe, and pget waits with PIPEEMPTY. -/
def Obligations.PipesTake : Prop :=
  (∀ (s : State) (d : GReg) (n : BitVec 6) (try_ : Bool), s.cur ≠ farrierId → 1 ≤ d.toNat → d.toNat ≤ 60 →
     let g := s.cur
     let y := s.teamOf g
     let k := 64 * y.launch + n.toNat
     let i : Instr := if try_ then .pacqTry d n else .pacq d n
     (s.pipe k = none → CtlTraps s i 0x0A 0 0) ∧
     (∀ x, s.pipe k = some x →
       (¬ (y.stage ∈ x.prods ∧ x.xlink ≠ 2) → CtlTraps s i 0x0A 0 0) ∧
       (y.stage ∈ x.prods → x.xlink ≠ 2 → s.teamHandles g < 64 → (y.rerun = false ∨ x.depthHeld (s.holder g) < x.depth) →
         (∀ slot rest, s.freeSlots y.part x = slot :: rest → s.ahead g .pipeFull x.acqWait = [] →
           ∃ t p, exec i s = .next t ∧ t.rg g d = BitVec.ofNat 64 (x.seq.toNat * 2 ^ 16 + 2 ^ 14 + n.toNat * 2 ^ 6 + slot) ∧ Past s t 4
             ∧ (∀ r, r ≠ d → t.rg g r = s.rg g r)
             ∧ t.pipe k = some p ∧ p.seq = x.seq + 1 ∧ p.tiles = x.tiles ++ [newTile s g x.seq slot]
             ∧ p.credits = (if x.xlink = 1 then x.credits - 1 else x.credits)
             ∧ { p with seq := 0, tiles := [], credits := 0, acqWait := [], getWait := [] } =
               { x with seq := 0, tiles := [], credits := 0, acqWait := [], getWait := [] }) ∧
         (s.freeSlots y.part x = [] → if try_ then WritesG s i d 0
           else ∃ t, exec i s = .next t ∧ (t.grp g).cwait = .stall .pipeFull ∧ (t.grp g).pc = (s.grp g).pc ∧ (∀ r, t.rg g r = s.rg g r)
             ∧ (t.pipe k).map (fun p => p.acqWait) = some (joinWait x.acqWait g))))) ∧
  (∀ (s : State) (d : GReg) (n : BitVec 6) (try_ : Bool), s.cur ≠ farrierId → d.toNat % 2 = 0 → 2 ≤ d.toNat → d.toNat ≤ 58 →
     let g := s.cur
     let y := s.teamOf g
     let k := 64 * y.launch + n.toNat
     let i : Instr := if try_ then .pgetTry d n else .pget d n
     ∀ x, s.pipe k = some x →
       (¬ (x.cons = y.stage ∧ x.xlink ≠ 1) → CtlTraps s i 0x0A 0 0) ∧
       (x.cons = y.stage → x.xlink ≠ 1 → s.teamHandles g < 64 →
         (∀ t, s.tileFor g x = some t → (s.ahead g .pipeEmpty x.getWait = [] ∨ t.st = .returned) →
           let h := BitVec.ofNat 64 (t.seq.toNat * 2 ^ 16 + 2 ^ 15 + (if t.spill then 2 ^ 13 else 0) + n.toNat * 2 ^ 6 + (if t.spill then 0 else t.slot))
           let tiles := x.tiles.map (fun u => if u.seq == t.seq then { u with st := .taken, team := s.holder g } else u)
           ((∀ r, t.rcd = some r → r.core = coreOf g) →
             ∃ u, exec i s = .next u ∧ u.rg g d = h ∧ u.rg g (d + 1) = t.tag ∧ Past s u 4 ∧ (u.pipe k).map (fun p => p.tiles) = some tiles
               ∧ (t.rcd = none → x.xlink ≠ 2 → u.NoneShared (coreOf g))
               ∧ ∀ r, r ≠ d → r ≠ d + 1 → u.rg g r = s.rg g r) ∧
           (∀ r, t.rcd = some r → r.core ≠ coreOf g →
             s.netOk (s.codeOfCore (coreOf g)) (deckOfCore (coreOf g)) (deckOfCore r.core) = true →
             ∃ u, exec i s = .next u ∧ (u.grp g).cwait = .settle r [(d.toNat, h), (d.toNat + 1, t.tag)] 4 ∧ (∀ r, u.rg g r = s.rg g r)
               ∧ (u.pipe k).map (fun p => p.tiles) = some tiles
               ∧ (u.core r.core).settleReqs = (s.core r.core).settleReqs ++ [{ mark := r.mark, who := some (g, false) }])) ∧
         (s.tileFor g x = none →
           ((x.closed = true ∧ s.pipeDown g x = false) ∨ try_ = true → ∃ u, exec i s = .next u ∧ u.rg g d = 0 ∧ u.rg g (d + 1) = 0 ∧ Past s u 4
             ∧ (∀ r, r ≠ d → r ≠ d + 1 → u.rg g r = s.rg g r) ∧ (u.pipe k).map (fun p => p.tiles) = some x.tiles) ∧
           (x.closed = false ∨ s.pipeDown g x = true → try_ = false → ∃ u, exec i s = .next u ∧ (u.grp g).cwait = .stall .pipeEmpty
             ∧ (u.grp g).pc = (s.grp g).pc ∧ (u.pipe k).map (fun p => p.getWait) = some (joinWait x.getWait g)))))

/-- 06 R142, R144, R145, R149 (that a commit's tile joins the queue in its own step: log 100): pcommit releases a held tile with its tag
and commits it, or makes it PENDING in a rerunnable team; pfree frees a taken tile, or makes it DONE there; a handle that the team does
not hold, or that a copy names, traps PIPEFAULT. -/
def Obligations.PipeCommitFree : Prop :=
  ∀ (s : State) (tg h : GReg) (k : Nat) (t : Tile) (x : Pipe), s.cur ≠ farrierId →
    let g := s.cur
    let m := (s.core (coreOf g)).cm
    let w := s.rg g h
    (s.handleTile g w 1 = none → CtlTraps s (.pcommit tg h) 0x0A 0 0) ∧ (s.handleTile g w 2 = none → CtlTraps s (.pfree h) 0x0A 0 0) ∧
    (s.handleTile g w 1 = some (k, t) → s.pipe k = some x →
      let u : Tile := { t with tag := s.rg g tg, rcd := some { core := coreOf g, mark := m } }
      let rest := x.tiles.filter (fun v => v.seq != t.seq)
      (s.tileInUse g k t.seq = true → CtlTraps s (.pcommit tg h) 0x0A 0 0) ∧
      (s.tileInUse g k t.seq = false → s.reinEarlier g false = true → Waits s (.pcommit tg h) .latency) ∧
      (s.tileInUse g k t.seq = false → s.reinEarlier g false = false →
        ∃ v p, exec (.pcommit tg h) s = .next v ∧ Past s v 4 ∧ (∀ r, v.rg g r = s.rg g r) ∧ (v.core (coreOf g)).cm = m + 1
          ∧ v.pipe k = some p
          ∧ ((s.teamOf g).rerun = true → p.tiles = rest ++ [{ u with st := .pending }] ∧ p.order = x.order)
          ∧ ((s.teamOf g).rerun = false → x.xlink ≠ 1 → p.tiles = rest ++ [{ u with st := .committed, order := x.order }] ∧ p.order = x.order + 1)
          ∧ ((s.teamOf g).rerun = false → x.xlink = 1 → p.tiles = rest ++ [{ u with st := .committed }] ∧ p.sent = x.sent + 1))) ∧
    (s.handleTile g w 2 = some (k, t) → s.pipe k = some x →
      (s.tileInUse g k t.seq = true → CtlTraps s (.pfree h) 0x0A 0 0) ∧
      (s.tileInUse g k t.seq = false →
        ∃ v p, exec (.pfree h) s = .next v ∧ Past s v 4 ∧ (∀ r, v.rg g r = s.rg g r) ∧ v.pipe k = some p
          ∧ ((s.teamOf g).rerun = true → p.tiles = x.tiles.map (fun u => if u.seq == t.seq then { u with st := .done } else u))
          ∧ ((s.teamOf g).rerun = false → p.tiles = x.tiles.filter (fun u => u.seq != t.seq))))

/-- 11 R264, R265, 04 R106, R110: rput puts 128 bytes of the scratchpad, under their word mask, into the deck's send queue, rput.rel
with the mark of a release; rseq gives the number of the last slot that the deck has applied. -/
def Obligations.ReinWords : Prop :=
  ∀ (s s1 : State) (d src o m : GReg) (bn : Slot) (b : BufRec) (t : Tr) (rel : Bool), s.cur ≠ farrierId →
    let g := s.cur
    let from_ := (s.rg g src).toNat
    let mask := s.rg g m
    let i : Instr := if rel then .rputRel src o m bn else .rput src o m bn
    let q := (s1.deck (deckOf g)).sendQ
    let c := coreOf g
    (mask = 0 ∨ 2 ^ 32 ≤ mask.toNat → CtlTraps s i 0x01 0 0) ∧
    (mask ≠ 0 → mask.toNat < 2 ^ 32 → CtlAcc s bn (s.rg g o).toInt 128 .store b s1 t → pteHome t.e = 4 →
      from_ + 128 ≤ (s.teamOf g).scratch → from_ % 16 = 0 → lockHit (s1.core c).locks false (s.grp g).team from_ (from_ + 128) false = none →
      ((s.teamOf g).winBad from_ 128 = true → CtlTraps s i 0x0B 0 (s.rg g src)) ∧
      ((s.teamOf g).winBad from_ 128 = false →
      (s1.reinStale g = true ∨ (rel = true ∧ s1.reinEarlier g false = true) ∨ 64 ≤ q.length → exec i s = .next (s1.stallC g .latency)) ∧
      (s1.reinStale g = false → (rel = true → s1.reinEarlier g false = false) → q.length < 64 →
        ∃ u k, exec i s = .next u ∧ Past s u 4 ∧ (∀ r, u.rg g r = s.rg g r) ∧ (u.deck (deckOf g)).sendQ = q ++ [k]
          ∧ k.gid = g ∧ k.lane = false ∧ k.core = c ∧ k.line = t.pa % 2 ^ 18 / 128 ∧ k.kind = (if rel then 2 else 1)
          ∧ k.mask = BitVec.ofNat 32 mask.toNat ∧ k.data = (List.range 32).map (fun j => (s.teamOf g).winW (from_ + 4 * j))
          ∧ k.mark = (if rel then (s1.core c).cm else 0) ∧ (u.core c).cm = (if rel then (s1.core c).cm + 1 else (s1.core c).cm)))) ∧
    (s.reinStale g = false → WritesG s (.rseq d) d (BitVec.ofNat 64 (s.deck (deckOf g)).lastQ)) ∧
    (s.reinStale g = true → Waits s (.rseq d) .latency)

/-- 09 R204 to R209: the integer forms write their register in the lanes that take part, from sources that are all read first; a
register that the group may not use traps ILLEGAL. -/
def Obligations.LaneIntegers : Prop :=
  ∀ (s : State) (h : Hdr) (d a : VReg) (b : SrcB) (bc : SrcBC) (imm : Word),
    let g := s.cur
    let x (l : Nat) : Word := s.rv g a.toNat l
    let y (l : Nat) : Word := s.srcB g b l
    let n (l : Nat) : Nat := (y l).toNat % 32
    let len (w : Word) : Nat := min (w.toNat / 2 ^ 8 % 2 ^ 6) (32 - w.toNat % 32)
    let i32 (v : Int) : Word := BitVec.ofInt 32 v
    let n32 (v : Nat) : Word := BitVec.ofNat 32 v
    (LaneOk s ((d, 1) :: (a, 1) :: srcBRegs b) →
      WritesV s (.vaddI32 h d a b) h d (fun l => n32 ((x l).toNat + (y l).toNat)) ∧
      WritesV s (.vsubI32 h d a b) h d (fun l => i32 ((x l).toNat - (y l).toNat)) ∧
      WritesV s (.vaddSatI32 h d a b) h d (fun l => i32 (max (-(2 ^ 31)) (min ((x l).toInt + (y l).toInt) (2 ^ 31 - 1)))) ∧
      WritesV s (.vsubSatI32 h d a b) h d (fun l => i32 (max (-(2 ^ 31)) (min ((x l).toInt - (y l).toInt) (2 ^ 31 - 1)))) ∧
      WritesV s (.vaddSatN32 h d a b) h d (fun l => n32 (min ((x l).toNat + (y l).toNat) (2 ^ 32 - 1))) ∧
      WritesV s (.vsubSatN32 h d a b) h d (fun l => n32 ((x l).toNat - (y l).toNat)) ∧
      WritesV s (.vmulI32 h d a b) h d (fun l => n32 ((x l).toNat * (y l).toNat)) ∧
      WritesV s (.vmulhI32 h d a b) h d (fun l => i32 ((x l).toInt * (y l).toInt / 2 ^ 32)) ∧
      WritesV s (.vmulhN32 h d a b) h d (fun l => n32 ((x l).toNat * (y l).toNat / 2 ^ 32)) ∧
      WritesV s (.vdivI32 h d a b) h d (fun l => if y l = 0 then BitVec.allOnes 32 else i32 ((x l).toInt.tdiv (y l).toInt)) ∧
      WritesV s (.vdivN32 h d a b) h d (fun l => if y l = 0 then BitVec.allOnes 32 else n32 ((x l).toNat / (y l).toNat)) ∧
      WritesV s (.vremI32 h d a b) h d (fun l => if y l = 0 then x l else i32 ((x l).toInt.tmod (y l).toInt)) ∧
      WritesV s (.vremN32 h d a b) h d (fun l => if y l = 0 then x l else n32 ((x l).toNat % (y l).toNat)) ∧
      WritesV s (.vminI32 h d a b) h d (fun l => i32 (min (x l).toInt (y l).toInt)) ∧
      WritesV s (.vmaxI32 h d a b) h d (fun l => i32 (max (x l).toInt (y l).toInt)) ∧
      WritesV s (.vminN32 h d a b) h d (fun l => n32 (min (x l).toNat (y l).toNat)) ∧
      WritesV s (.vmaxN32 h d a b) h d (fun l => n32 (max (x l).toNat (y l).toNat)) ∧
      WritesV s (.vand h d a b) h d (fun l => x l &&& y l) ∧ WritesV s (.vor h d a b) h d (fun l => x l ||| y l) ∧
      WritesV s (.vxor h d a b) h d (fun l => x l ^^^ y l) ∧ WritesV s (.vandn h d a b) h d (fun l => x l &&& ~~~(y l)) ∧
      WritesV s (.vshl h d a b) h d (fun l => n32 ((x l).toNat * 2 ^ n l)) ∧
      WritesV s (.vshr h d a b) h d (fun l => n32 ((x l).toNat / 2 ^ n l)) ∧
      WritesV s (.vsra h d a b) h d (fun l => i32 ((x l).toInt / 2 ^ n l)) ∧
      WritesV s (.vbfxN32 h d a b) h d (fun l => n32 ((x l).toNat / 2 ^ n l % 2 ^ len (y l))) ∧
      WritesV s (.vbfxI32 h d a b) h d (fun l => let f := (x l).toNat / 2 ^ n l % 2 ^ len (y l)
        if 2 * f < 2 ^ len (y l) then n32 f else i32 (f - 2 ^ len (y l)))) ∧
    (LaneOk s ((d, 1) :: (a, 1) :: srcBCRegs bc) →
      WritesV s (.vmadI32 h d a bc) h d (fun l => n32 ((x l).toNat * (s.srcOfBC g bc l).toNat + (s.srcCofBC g bc l).toNat)) ∧
      ∃ f : Nat → Word, WritesV s (.vbfi h d a bc) h d f ∧ ∀ l j, j < 32 →
        let w := s.srcOfBC g bc l
        (f l).getLsbD j = if w.toNat % 32 ≤ j ∧ j < w.toNat % 32 + len w then (x l).getLsbD (j - w.toNat % 32) else (s.srcCofBC g bc l).getLsbD j) ∧
    (LaneOk s [(d, 1), (a, 1)] →
      WritesV s (.vabsI32 h d a) h d (fun l => n32 (x l).toInt.natAbs) ∧
      WritesV s (.vclz h d a) h d (fun l => if x l = 0 then 32 else n32 (31 - (x l).toNat.log2)) ∧
      WritesV s (.vpopc h d a) h d (fun l => n32 ((List.range 32).countP (fun j => (x l).getLsbD j))) ∧
      WritesV s (.vbrev h d a) h d (fun l => (x l).reverse) ∧ WritesV s (.vmov h d a) h d x) ∧
    (LaneOk s [(d, 1)] →
      WritesV s (.vmovi h d imm) h d (fun _ => imm) ∧ WritesV s (.vlaneid h d) h d (fun l => n32 l) ∧
      ∀ e, s.block g = some e → WritesV s (.vargl h d) h d (fun _ => n32 e.arg.toNat) ∧
        WritesV s (.vargh h d) h d (fun _ => n32 (e.arg.toNat / 2 ^ 32))) ∧
    (g ≠ farrierId → s.vOk g d.toNat = false → LaneTraps s (.vaddI32 h d a b) 0x01 0 none 0 ∧ LaneTraps s (.vmov h d a) 0x01 0 none 0
      ∧ LaneTraps s (.vmovi h d imm) 0x01 0 none 0)

/-- 09 R210, R211: compares and predicate logic in the lanes that take part, and the forms that read a predicate. -/
def Obligations.LanePredicates : Prop :=
  ∀ (s : State) (h : Hdr) (d p q : PReg) (r a : VReg) (b : SrcB) (c : ICond), s.cur ≠ farrierId →
    let g := s.cur
    let x (l : Nat) : Word := s.rv g a.toNat l
    let y (l : Nat) : Word := s.srcB g b l
    let test (l : Nat) : Bool := match c with
      | .eq => x l == y l
      | .ne => x l != y l
      | .ltI => decide ((x l).toInt < (y l).toInt)
      | .leI => decide ((x l).toInt ≤ (y l).toInt)
      | .gtI => decide ((y l).toInt < (x l).toInt)
      | .geI => decide ((y l).toInt ≤ (x l).toInt)
      | .ltN => decide ((x l).toNat < (y l).toNat)
      | .leN => decide ((x l).toNat ≤ (y l).toNat)
      | .gtN => decide ((y l).toNat < (x l).toNat)
      | .geN => decide ((y l).toNat ≤ (x l).toNat)
    (LaneOk s ((a, 1) :: srcBRegs b) → WritesP s (.vcmp h c d a b) h d test) ∧
    WritesP s (.pand h d p q) h d (fun l => s.rp g p l && s.rp g q l) ∧ WritesP s (.por h d p q) h d (fun l => s.rp g p l || s.rp g q l) ∧
    WritesP s (.pxor h d p q) h d (fun l => xor (s.rp g p l) (s.rp g q l)) ∧
    WritesP s (.pandn h d p q) h d (fun l => s.rp g p l && !s.rp g q l) ∧ WritesP s (.pnot h d p) h d (fun l => !s.rp g p l) ∧
    (LaneOk s [(r, 1)] → WritesV s (.vfromp h r p) h r (fun l => if s.rp g p l then 1 else 0)) ∧
    (LaneOk s ((r, 1) :: (a, 1) :: srcBRegs b) → WritesV s (.vsel h r a b q) h r (fun l => if s.rp g q l then x l else y l))

/-- 02 R37 to R40, 09 R212, R213: divergence by depth counts: each word's new count of every lane, its marks to continue, and the word
at which the stream goes on; a count past 255 (of the lowest lane), n = 255 and a branch before word 0 trap ILLEGAL. 02 R42 to R44, 09
R214: a refill loop gives the items of its queue, oldest first, to the lanes that ask, lowest first; its closer goes back while a lane
is active, or one that asks could have an item. -/
def Obligations.LaneFlow : Prop :=
  (∀ (s : State) (h : Hdr) (k : Sched) (off : BitVec 20) (n : BitVec 8), s.cur ≠ farrierId →
     let g := s.cur
     let w := s.lpc g
     let dc (l : Nat) : Nat := s.dcOf g l
     let cm (l : Nat) : Bool := (s.grp g).cm.getLsbD l
     let take (l : Nat) : Bool := dc l == 0 && s.guard g h l
     let goes (i : Instr) (f : Nat → Nat) (c : Nat → Bool) (w : Nat) : Prop := ∃ t, exec i s = .next t
       ∧ (∀ l, l < 32 → t.dcOf g l = f l ∧ (t.grp g).cm.getLsbD l = c l) ∧ AtWord s t w
       ∧ { t.grp g with dc := [], cm := 0, lpc := 0, hlpc := 0, lwait := .none, refillArr := false } =
         { s.grp g with dc := [], cm := 0, lpc := 0, hlpc := 0, lwait := .none, refillArr := false }
       ∧ (∀ j, j ≠ g → t.grp j = s.grp j) ∧ { t with groups := [] } = { s with groups := [] }
     let deepest (l : Nat) : Prop := l < 32 ∧ dc l = 255 ∧ ∀ j, j < l → dc j ≠ 255
     let skip (f : Nat → Nat) : Nat := if (List.range 32).any (fun l => f l == 0) then w + 1 else w + off.toNat
     let fif (l : Nat) : Nat := if dc l = 0 then (if s.guard g h l then 0 else 1) else dc l + 1
     let felse (l : Nat) : Nat := if dc l = 0 then 1 else if dc l = 1 then 0 else dc l
     let fcont (l : Nat) : Nat := if cm l then 0 else dc l
     ((∀ l, l < 32 → dc l ≠ 255) → goes (.lif h off) fif cm (skip fif) ∧ goes (.lloop k) (fun l => if dc l = 0 then 0 else dc l + 1) cm (w + 1)) ∧
     (∀ l, deepest l → LaneTraps s (.lif h off) 0x01 0 (some l) 0 ∧ LaneTraps s (.lloop k) 0x01 0 (some l) 0) ∧
     goes (.lelse k off) felse cm (skip felse) ∧ goes (.lendif k) (fun l => dc l - 1) cm (w + 1) ∧
     (n ≠ 255 → goes (.lbreak h n) (fun l => if take l then n.toNat + 1 else dc l) cm (w + 1) ∧
       goes (.lcont h n) (fun l => if take l then n.toNat + 1 else dc l) (fun l => cm l || take l) (w + 1)) ∧
     (n = 255 → LaneTraps s (.lbreak h n) 0x01 0 none 0 ∧ LaneTraps s (.lcont h n) 0x01 0 none 0) ∧
     ((List.range 32).any (fun l => fcont l == 0) = true →
       (off.toNat ≤ w → goes (.lendloop k off) fcont (fun _ => false) (w - off.toNat)) ∧
       (w < off.toNat → LaneTraps s (.lendloop k off) 0x01 0 none 0)) ∧
     ((List.range 32).any (fun l => fcont l == 0) = false → goes (.lendloop k off) (fun l => fcont l - 1) (fun _ => false) (w + 1))) ∧
  (∀ (s : State) (k : Sched) (iq : BitVec 5) (d : VReg) (off : BitVec 20), s.cur ≠ farrierId → iq.toNat < (s.teamOf s.cur).niq →
     let g := s.cur
     let w := s.lpc g
     let x := s.grp g
     let q := (s.teamOf g).iqs.get [] iq.toNat
     let dc (l : Nat) : Nat := s.dcOf g l
     let want : List Nat := (List.range 32).filter (fun l => if x.refillArr then dc l == 1 && !x.cm.getLsbD l else dc l == 0)
     let got := want.zip q
     let fcont (l : Nat) : Nat := if x.cm.getLsbD l then 0 else dc l
     let back : Bool := (List.range 32).any (fun l => fcont l == 0) || ((List.range 32).any (fun l => fcont l == 1) && !q.isEmpty)
     (regsOk s g d 2 = true → (x.refillArr = false → ∀ l, l < 32 → dc l ≠ 255) →
       ∃ t, exec (.lloopRefill k iq d) s = .next t ∧ AtWord s t (w + 1)
         ∧ (t.teamOf g).iqs.get [] iq.toNat = q.drop want.length
         ∧ (∀ l v, (l, v) ∈ got → t.rv g d.toNat l = v.setWidth 32 ∧ t.rv g (d.toNat + 1) l = (v >>> 32).setWidth 32 ∧ t.dcOf g l = 0)
         ∧ (∀ l, l ∈ want → (∀ v, (l, v) ∉ got) → t.dcOf g l = 1)
         ∧ (∀ l, l < 32 → l ∉ want → t.dcOf g l = if x.refillArr || dc l == 0 then dc l else dc l + 1)
         ∧ (∀ r l, l < 32 → (r ≠ d.toNat ∧ r ≠ d.toNat + 1) ∨ (∀ v, (l, v) ∉ got) → t.rv g r l = s.rv g r l)
         ∧ (∀ j, j ≠ g → t.grp j = s.grp j)) ∧
     (back = true → off.toNat ≤ w → ∃ t, exec (.lendloopRefill k iq off) s = .next t ∧ AtWord s t (w - off.toNat)
       ∧ (t.grp g).refillArr = true ∧ (∀ l, l < 32 → t.dcOf g l = fcont l) ∧ (t.grp g).cm = 0 ∧ t.teams = s.teams
       ∧ (∀ r l, l < 32 → t.rv g r l = s.rv g r l)) ∧
     (back = true → w < off.toNat → LaneTraps s (.lendloopRefill k iq off) 0x01 0 none 0) ∧
     (back = false → ∃ t, exec (.lendloopRefill k iq off) s = .next t ∧ AtWord s t (w + 1)
       ∧ (∀ l, l < 32 → t.dcOf g l = fcont l - 1) ∧ (t.grp g).cm = 0 ∧ t.teams = s.teams ∧ (∀ r l, l < 32 → t.rv g r l = s.rv g r l)))

/-- 02 R30, R31, R45, 09 R215 to R217: lend ends the block and posts its result unless it is .nr, and stalls FUTURE for a deferred
future load; vyield sets the result from the lowest lane that takes part; lcall.q posts one item a lane to a bound queue (all that have
room in one step, log 100); vfence is the lane stream's fence, and waits as FUTURE for a deferred future load of the stream, which is
one of its earlier accesses. -/
def Obligations.LaneBlocks : Prop :=
  ∀ (s : State) (h : Hdr) (k : Sched) (a t' : VReg) (sc : Scope), s.cur ≠ farrierId →
    let g := s.cur
    let x := s.grp g
    let y := s.teamOf g
    let c := coreOf g
    let m := (s.core c).cm
    (x.sys = false → ∀ p e r, x.laneQ = p ++ e :: r → p.all (fun b => b.posted) = true → e.posted = false →
      (retireF x.ringF = [] → ∃ t, exec .lend s = .next t ∧ OnlyGroup s t { x with
        laneQ := p ++ (if e.nr then [] else [{ e with posted := true }]) ++ r, started := false, lwait := .none, hazards := [], ringM := 0,
        ringL := 0, ringF := [], refillArr := false }) ∧
      (∀ l ls, (List.range 32).filter (fun l => s.active g l && s.guard g h l) = l :: ls → regsOk s g a 1 = true →
        ∃ t, exec (.vyield h a) s = .next t ∧ OnlyGroup s t { x with
          laneQ := p ++ { e with result := s.rv g a.toNat l } :: r, lpc := (x.lpc + 1) % 2 ^ 20, lwait := .none, refillArr := false })) ∧
    (retireF x.ringF ≠ [] → ∃ t, exec .lend s = .next t ∧ OnlyGroup s t { x with lwait := .stall .future }) ∧
    ((∀ l, l < 32 → (s.active g l && s.guard g h l) = false) → regsOk s g a 1 = true →
      ∃ t, exec (.vyield h a) s = .next t ∧ AtWord s t (s.lpc g + 1) ∧ LaneFrame s t [] []) ∧
    (∀ j, j < y.niq → j < 32 → y.boundQ j = true → LaneOk s [(t', 1), (a, 2)] → x.posted = 0 →
      (∀ l, l < 32 → (s.active g l && s.guard g h l) = true → s.rv g t'.toNat l = BitVec.ofNat 32 j) →
      let lanes := (List.range 32).filter (fun l => s.active g l && s.guard g h l)
      lanes ≠ [] → (y.iqs.get [] j).length + lanes.length ≤ 256 →
      ∃ t, exec (.lcallQ h t' a) s = .next t ∧ AtWord s t (s.lpc g + 1)
        ∧ (t.teamOf g).iqs.get [] j = y.iqs.get [] j ++ lanes.map (fun l => s.rv g (a.toNat + 1) l ++ s.rv g a.toNat l)
        ∧ (∀ i, i ≠ j → (t.teamOf g).iqs.get [] i = y.iqs.get [] i)
        ∧ LaneFrame (s.setTeam x.team (t.teamOf g)) t [] []) ∧
    (s.unanswered g = true → ∃ t, exec (.vfence k sc) s = .next t ∧ OnlyGroup s t { x with lwait := .stall .future }) ∧
    (s.unanswered g = false → wideScope sc = false → ∃ t, exec (.vfence k sc) s = .next t ∧ AtWord s t (s.lpc g + 1) ∧ LaneFrame s t [] []) ∧
    (s.unanswered g = false → wideScope sc = true →
      (s.reinEarlier g true = true ∨ (sc = .rein ∧ s.reinStale g = true) →
        ∃ t, exec (.vfence k sc) s = .next t ∧ OnlyGroup s t { x with lwait := .stall .latency }) ∧
      (s.reinEarlier g true = false → (sc = .rein → s.reinStale g = false) → markLe m (s.core c).settled = false →
        (s.core c).l1.rising = true →
        ∃ t, exec (.vfence k sc) s = .next t ∧ (t.core c).cm = m + 1 ∧ (t.core c).settled = m ∧ AtWord s t (s.lpc g + 1)
          ∧ (∀ l z, (t.core c).l1.find l = some z → z.dirty ≠ 0 → markLe z.stamp m = false)
          ∧ t.NoneShared c
          ∧ (∀ r l, l < 32 → t.rv g r l = s.rv g r l) ∧ ∀ j, j ≠ g → t.grp j = s.grp j))

/-- 03 R58, R59, R66, 09 R218: the traps of lane accesses, each of the lowest lane that raises it. 09 R218, R219, 03 R60, R66: loads and
gathers of the lanes that take part, from the places that their checks give; a narrow value is zero-extended, or sign-extended in the
signed forms. Bytes that the stream has loaded early have the value that they had then (log 3; of a global load it is stated for one
lane). The lowest lane that reads a poisoned sector, or one of a cached line whose check does not match, takes CHECKFAIL. -/
def Obligations.LaneLoads : Prop :=
  (∀ (s : State) (h : Hdr) (d a : VReg) (sz : Size) (bn : Slot) (off : BitVec 23) (na : Bool) (l : Nat) (lo hi : List Nat),
     let g := s.cur
     let n := sizeBytes sz
     let o (k : Nat) : Int := (s.rv g a.toNat k).toNat + off.toInt
     LaneOk s [(a, 1), (d, (n + 3) / 4)] → (List.range 32).filter (fun k => s.active g k && s.guard g h k) = lo ++ l :: hi →
     (s.slotRec g bn = none → lo = [] → LaneTraps s (.vld h d sz bn a off na) 0x03 bn.toNat (some l) (BitVec.ofInt 64 (o l))
       ∧ LaneTraps s (.vst h d sz bn a off na) 0x03 bn.toNat (some l) (BitVec.ofInt 64 (o l))) ∧
     (∀ b, s.slotRec g bn = some b →
       let good (k : Nat) : Prop := 0 ≤ o k ∧ o k + n ≤ b.extent.toNat
       ((∀ k, k ∈ lo → good k) → ¬ good l →
         (b.rdok = true → LaneTraps s (.vld h d sz bn a off na) 0x03 bn.toNat (some l) (BitVec.ofInt 64 (o l))) ∧
         (b.wrok = true → LaneTraps s (.vst h d sz bn a off na) 0x03 bn.toNat (some l) (BitVec.ofInt 64 (o l)))) ∧
       ((∀ k, k ∈ lo ++ l :: hi → good k) → (∀ k, k ∈ lo → (b.address (o k)).toNat % n = 0) → (b.address (o l)).toNat % n ≠ 0 →
         (b.rdok = true → LaneTraps s (.vld h d sz bn a off na) 0x04 0 (some l) (BitVec.ofInt 64 (b.address (o l)))) ∧
         (b.wrok = true → LaneTraps s (.vst h d sz bn a off na) 0x04 0 (some l) (BitVec.ofInt 64 (b.address (o l)))))) ∧
     (let good (k : Nat) : Prop := 0 ≤ o k ∧ o k + n ≤ (s.teamOf g).scratch
      ((∀ k, k ∈ lo → good k) → ¬ good l → LaneTraps s (.sld h d sz a off) 0x03 16 (some l) (BitVec.ofInt 64 (o l))
        ∧ LaneTraps s (.sst h d sz a off) 0x03 16 (some l) (BitVec.ofInt 64 (o l))) ∧
      ((∀ k, k ∈ lo ++ l :: hi → good k) → (∀ k, k ∈ lo → (o k).toNat % n = 0) → (o l).toNat % n ≠ 0 →
        LaneTraps s (.sld h d sz a off) 0x04 0 (some l) (BitVec.ofInt 64 (o l)) ∧ LaneTraps s (.sst h d sz a off) 0x04 0 (some l) (BitVec.ofInt 64 (o l))))) ∧
  (∀ (s s1 : State) (h : Hdr) (d a b : VReg) (sz : Size) (bn : Slot) (off : BitVec 23) (na : Bool) (acc : List Acc),
     let g := s.cur
     let n := sizeBytes sz
     let word (bs : List Byte) (k : Nat) : Word := BitVec.ofNat 32 (ofBytes ((bs.drop (4 * k)).take 4))
     let sext (bs : List Byte) : Word := BitVec.ofInt 32 (let v := ofBytes bs; if 2 * v < 2 ^ (8 * n) then (v : Int) else (v : Int) - 2 ^ (8 * n))
     let lanes := (List.range 32).filter (fun k => s.active g k && s.guard g h k)
     let loads (i : Instr) (w : Nat) (val : Acc → Nat → Word) : Prop := ∃ t, exec i s = .next t ∧ AtWord s t (s.lpc g + 1)
       ∧ (∀ x, x ∈ acc → ∀ k, k < w → t.rv g (d.toNat + k) x.laneNo = val x k)
       ∧ (∀ r l, l < 32 → l ∉ lanes ∨ r < d.toNat ∨ d.toNat + w ≤ r → t.rv g r l = s.rv g r l)
       ∧ LaneAccFrame s1 t ((List.range w).map (fun k => d.toNat + k)) [] ∧ ∀ p, t.homeByte p = s1.homeByte p
     let c := coreOf g
     let fails (x : Acc) : Bool :=
       if x.tr.rein then s1.replicaBad (deckOf g) x.tr.pa n
       else match (if viaL1 s1 c x.tr then (s1.core c).l1.find (x.tr.pa / 128) else none) with
         | some y => y.badIn (x.tr.pa % 128) n
         | none => s1.poisonedIn (s1.codeOfCore c) x.tr.pa n
     let got (x : Acc) : List Byte := if x.tr.rein then s1.seen x.tr n else s1.heed false x.tr.pa (s1.seen x.tr n)
     let passed (f : Nat → Int) : Prop :=
       checkGlobal s g bn .load (fun q => q.n) anyPage (laneReqs s g h n f) = .ok (s1, acc) ∧
       (∀ x, x ∈ acc → s1.reinWait g x.tr n = false ∧ x.tr.pa % n = 0 ∧ s1.snoop.contains (x.tr.pa / 128) = false) ∧
       (s1.core c).l1.length + acc.length ≤ 2048 ∧ s1.hostL2.rising = true
     let reqs (f : Nat → Int) : Prop := passed f ∧ (∀ x, x ∈ acc → fails x = false) ∧ (s1.early = [] ∨ (s.grp g).sys = true ∨ acc.length ≤ 1)
     (LaneOk s [(a, 1), (d, regsOf n)] → reqs (laneOff s g a off) →
       loads (.vld h d sz bn a off na) (regsOf n) (fun x k => word (got x) k)) ∧
     (LaneOk s [(a, 1), (d, regsOf n)] → passed (laneOff s g a off) → ∀ lo x hi, acc = lo ++ x :: hi → (∀ y, y ∈ lo → fails y = false) →
       fails x = true → LaneTraps s (.vld h d sz bn a off na) 0x0B 0 x.lane (BitVec.ofNat 64 x.va)) ∧
     (LaneOk s [(a, 1), (d, regsOf n)] → checkGlobal s g bn .load (fun q => q.n) anyPage (laneReqs s g h n (laneOff s g a off)) = .ok (s1, acc) →
       acc.any (fun x => s1.reinWait g x.tr n) = true → exec (.vld h d sz bn a off na) s = .next (s1.stallL g .latency)) ∧
     (LaneOk s [(a, 1), (d, 1)] → n ≤ 2 → reqs (laneOff s g a off) →
       loads (.vldSigned h d sz bn a off na) 1 (fun x _ => sext (got x))) ∧
     (LaneOk s [(a, 1), (b, 1), (d, regsOf n)] → reqs (gatherOff s g bn a b off) →
       loads (.vgath h d b sz bn a off na) (regsOf n) (fun x k => word (got x) k)) ∧
     (LaneOk s [(a, 1), (d, regsOf n)] → s1 = s → acc = [] → checkScratch s g .load (laneReqs s g h n (laneOff s g a off)) = .ok () →
       let bytes (l : Nat) : List Byte :=
         let o := (laneOff s g a off l).toNat
         s.heed true o ((s.teamOf g).winBytes o n)
       let scr (i : Instr) (w : Nat) (val : Nat → Nat → Word) : Prop := ∃ t, exec i s = .next t ∧ AtWord s t (s.lpc g + 1)
         ∧ (∀ l k, l ∈ lanes → k < w → t.rv g (d.toNat + k) l = val l k)
         ∧ (∀ r l, l < 32 → l ∉ lanes → t.rv g r l = s.rv g r l)
         ∧ t.early = s.early.filter (fun e => lanes.all (fun l => !s.ownEarly true (laneOff s g a off l).toNat n e))
         ∧ LaneFrame { s with early := t.early } t ((List.range w).map (fun k => d.toNat + k)) []
       scr (.sld h d sz a off) (regsOf n) (fun l k => word (bytes l) k) ∧
       (n ≤ 2 → scr (.sldSigned h d sz a off) 1 (fun l _ => sext (bytes l)))))

/-- 09 R218, R219, 03 R60, R61, R66, 04 R106: stores and scatters of the lanes that take part: where two lanes write a byte, the higher
lane's stands. They go to the homes, or into the core's L1, or to the deck's send queue for window pages; sst writes the team's window.
The stream's own early loads of the bytes are dropped (log 3). -/
def Obligations.LaneStores : Prop :=
  ∀ (s s1 : State) (h : Hdr) (src a b : VReg) (sz : Size) (bn : Slot) (off : BitVec 23) (na : Bool) (acc : List Acc),
    let g := s.cur
    let c := coreOf g
    let n := sizeBytes sz
    let bytes (l : Nat) : List Byte := ((List.range (regsOf n)).flatMap (fun k => toBytes 4 (s.rv g (src.toNat + k) l).toNat)).take n
    let lanes := (List.range 32).filter (fun k => s.active g k && s.guard g h k)
    let writes := acc.map (fun x => (x.tr.pa, bytes x.laneNo))
    let stores (i : Instr) (f : Nat → Int) : Prop :=
      checkGlobal s g bn .store (fun q => q.n) reinNarrow (laneReqs s g h n f) = .ok (s1, acc) →
      (∀ x, x ∈ acc → x.tr.pa % n = 0 ∧ s1.snoop.contains (x.tr.pa / 128) = false) →
      (s1.core c).l1.length + acc.length ≤ 2048 → s1.hostL2.rising = true → (s1.part (s1.codeOfCore c)).biasbase.getLsbD 0 = false →
      ((∀ x, x ∈ acc → pteHome x.tr.e ≠ 4) → ∃ t, exec i s = .next t ∧ AtWord s t (s.lpc g + 1) ∧ LaneAccFrame s1 t [] []
        ∧ (NoSnap s1 → (∀ x, x ∈ acc → viaL1 s1 c x.tr = false) → ∀ p, t.homeByte p = written s1.homeByte writes p)
        ∧ (NoSnap s1 → (∀ x, x ∈ acc → viaL1 s1 c x.tr = true) → (∀ k x, (s1.core c).l1.find k = some x → x.data.length = 128) →
            ∀ p, t.coreByte c p = written (s1.coreByte c) writes p)) ∧
      ((∀ x, x ∈ acc → pteHome x.tr.e = 4) → acc ≠ [] → s1.reinStale g = false →
        let l := reinStores s1 g (acc.map (fun x => (x, bytes x.laneNo)))
        (s1.deck (deckOf g)).sendQ.length + l.length ≤ 64 → ∃ t, exec i s = .next t ∧ AtWord s t (s.lpc g + 1) ∧ LaneAccFrame s1 t [] []
          ∧ (t.deck (deckOf g)).sendQ = (s1.deck (deckOf g)).sendQ ++ l ∧ ∀ p, t.homeByte p = s1.homeByte p)
    (LaneOk s [(a, 1), (src, regsOf n)] → stores (.vst h src sz bn a off na) (laneOff s g a off)) ∧
    (LaneOk s [(a, 1), (b, 1), (src, regsOf n)] → stores (.vscat h src b sz bn a off na) (gatherOff s g bn a b off)) ∧
    (LaneOk s [(a, 1), (src, regsOf n)] → checkScratch s g .store (laneReqs s g h n (laneOff s g a off)) = .ok () →
      ∃ t, exec (.sst h src sz a off) s = .next t ∧ AtWord s t (s.lpc g + 1)
        ∧ (∀ p, (t.teamOf g).winByte p = written (s.teamOf g).winByte (lanes.map (fun l => ((laneOff s g a off l).toNat, bytes l))) p)
        ∧ t.early = s.early.filter (fun e => lanes.all (fun l => !s.ownEarly true (laneOff s g a off l).toNat n e))
        ∧ { t.teamOf g with win := [], bad := [] } = { s.teamOf g with win := [], bad := [] }
        ∧ LaneFrame { s.setTeam (s.grp g).team (t.teamOf g) with early := t.early } t [] [])

/-- 09 R220, 08 R190, 03 R62: a lane atomic that is plain, or ordered at .grp, .team or .core and not performed by the host: the lanes
act in rising order, each on what the one before leaves, at the homes, at the host, or near in the core's L1, and each gets the old
value it saw. On window pages the lanes' writes are sent together and the stream waits for their values. 09 R220, 04 R80, R83, R91, R92,
R95, R109: lane atomics with acquire or release at .deck or wider. A release waits as FUTURE for a deferred future load of the stream,
and as latency for its earlier window writes; it takes one mark and leaves a record of it at each line. An acquire that meets another
core's record has it settled before the atomics are performed (log 14), and makes the clean lines of shared pages invalid. On window
pages the mark and the acquire go with the writes that are sent. -/
def Obligations.LaneAtomics : Prop :=
  (∀ (s s1 : State) (h : Hdr) (op : AtomOp) (w64 : Bool) (ord : Ord) (sc : Scope) (d b c : VReg) (bn : Slot) (a : VReg) (off : BitVec 23)
     (acc : List Acc),
     let g := s.cur
     let w := if w64 then 8 else 4
     let k := coreOf g
     let i : Instr := .vatom h op w64 ord sc d bn a off b c
     let val (r : VReg) (l : Nat) : Nat := if w64 then (s.rv g r.toNat l).toNat + (s.rv g (r.toNat + 1) l).toNat * 2 ^ 32 else (s.rv g r.toNat l).toNat
     let run (m : Nat → Byte) := atomRun op w (val b) (val c) m (acc.map (fun x => (x.laneNo, x.tr.pa)))
     let does (m : Nat → Byte) (n : State → Nat → Byte) : Prop := ∃ t, exec i s = .next t ∧ AtWord s t (s.lpc g + 1)
       ∧ (∀ p, n t p = (run m).1 p)
       ∧ (∀ l old, (l, old) ∈ (run m).2 → t.rv g d.toNat l = BitVec.ofNat 32 old ∧ (w64 = true → t.rv g (d.toNat + 1) l = BitVec.ofNat 32 (old / 2 ^ 32)))
       ∧ (∀ r l, l < 32 → (s.active g l && s.guard g h l) = false → t.rv g r l = s.rv g r l)
       ∧ LaneAccFrame s1 t ((List.range (regsOf w)).map (fun j => d.toNat + j)) []
     LaneOk s ([(a, 1), (d, regsOf w), (b, regsOf w)] ++ (if op == .cas then [(c, regsOf w)] else [])) →
     checkGlobal s g bn .atomic (fun q => q.n) (fun s y => atomBad s k op w false y.tr) (laneReqs s g h w (laneOff s g a off)) = .ok (s1, acc) →
     (ord = .plain ∨ (wideScope sc = false ∧ (ordRel ord = true → s1.unanswered g = false) ∧ ∀ x, x ∈ acc → pteApl x.tr.e ≠ 2)) →
     (∀ x, x ∈ acc → x.tr.pa % w = 0 ∧ s1.snoop.contains (x.tr.pa / 128) = false) → s1.hostL2.rising = true →
     ((∀ x, x ∈ acc → pteHome x.tr.e ≠ 4 ∧ pteApl x.tr.e ≠ 0 ∧ (s1.core k).l1.find (x.tr.pa / 128) = none ∧
         s1.poisonedIn (s1.codeOfCore k) x.tr.pa w = false) → NoSnap s1 → does s1.homeByte State.homeByte) ∧
     ((∀ x, x ∈ acc → pteHome x.tr.e ≠ 4 ∧ pteApl x.tr.e = 0 ∧ atomPoisoned s1 k w x.tr = false) → NoSnap s1 →
       (s1.core k).l1.length + acc.length ≤ 2048 → (∀ j x, (s1.core k).l1.find j = some x → x.data.length = 128) →
       does (s1.coreByte k) (fun t => t.coreByte k)) ∧
     ((∀ x, x ∈ acc → pteHome x.tr.e ≠ 4) → ∀ lo x hi, acc = lo ++ x :: hi → (∀ y, y ∈ lo → atomPoisoned s1 k w y.tr = false) →
       atomPoisoned s1 k w x.tr = true → (sc = .rein → s1.reinStale g = false) → LaneTraps s i 0x0B 0 x.lane (BitVec.ofNat 64 x.va)) ∧
     ((∀ x, x ∈ acc → pteHome x.tr.e = 4) → acc ≠ [] →
       (s1.reinStale g = true → exec i s = .next (s1.stallL g .latency)) ∧
       (s1.reinStale g = false → (s1.deck (deckOf g)).sendQ.length + acc.length ≤ 64 →
         ∃ t l, exec i s = .next t ∧ (t.grp g).lwait = .rein acc.length [] i ∧ t.lpc g = s.lpc g
           ∧ (t.deck (deckOf g)).sendQ = (s1.deck (deckOf g)).sendQ ++ l ∧ l.length = acc.length
           ∧ (∀ x u, (x, u) ∈ acc.zip l → u.kind = 3 ∧ u.gid = g ∧ u.lane = true ∧ u.line = x.tr.pa % 2 ^ 18 / 128 ∧ u.aop = op.code.toNat
               ∧ u.mask = 1#32 <<< (x.tr.pa % 128 / 4) ∧ u.data.getD (x.tr.pa % 128 / 4) 0 = BitVec.ofNat 32 (val b x.laneNo)
               ∧ u.acq = false ∧ u.dest = .v d.toNat x.laneNo)
           ∧ (∀ r j, j < 32 → t.rv g r j = s.rv g r j) ∧ ∀ p, t.homeByte p = s1.homeByte p))) ∧
  (∀ (s s1 : State) (h : Hdr) (op : AtomOp) (w64 : Bool) (ord : Ord) (sc : Scope) (d b c : VReg) (bn : Slot) (a : VReg) (off : BitVec 23)
     (acc : List Acc), ord ≠ .plain → wideScope sc = true → acc ≠ [] →
     let g := s.cur
     let w := if w64 then 8 else 4
     let k := coreOf g
     let q := s1.codeOfCore k
     let m := (s1.core k).cm
     let i : Instr := .vatom h op w64 ord sc d bn a off b c
     let val (r : VReg) (l : Nat) : Nat := if w64 then (s.rv g r.toNat l).toNat + (s.rv g (r.toNat + 1) l).toNat * 2 ^ 32 else (s.rv g r.toNat l).toNat
     let run := atomRun op w (val b) (val c) s1.homeByte (acc.map (fun x => (x.laneNo, x.tr.pa)))
     LaneOk s ([(a, 1), (d, regsOf w), (b, regsOf w)] ++ (if op == .cas then [(c, regsOf w)] else [])) →
     checkGlobal s g bn .atomic (fun q => q.n) (fun s y => atomBad s k op w true y.tr) (laneReqs s g h w (laneOff s g a off)) = .ok (s1, acc) →
     (ordRel ord = true → s1.unanswered g = true → exec i s = .next (s1.stallL g .future)) ∧
     (ordRel ord = true → s1.unanswered g = false → s1.reinEarlier g true = true → exec i s = .next (s1.stallL g .latency)) ∧
     ((ordRel ord = true → s1.unanswered g = false ∧ s1.reinEarlier g true = false) →
       ((∀ x, x ∈ acc → pteApl x.tr.e = 1 ∧ pteHome x.tr.e ≠ 4 ∧ x.tr.pa % w = 0 ∧ (s1.core k).l1.find (x.tr.pa / 128) = none ∧
           s1.poisonedIn q x.tr.pa w = false ∧ s1.snoop.contains (x.tr.pa / 128) = false) → (sc = .rein → s1.reinStale g = false) →
         (∀ lo x hi r, ordAcq ord = true → (s.grp g).lwait.acked = false → acc = lo ++ x :: hi → (∀ y, y ∈ lo → s1.foreignRec k y.tr.pa = none) →
           s1.foreignRec k x.tr.pa = some r → s1.netOk q (deckOfCore k) (deckOfCore r.core) = true →
           ∃ u, exec i s = .next u ∧ (u.grp g).lwait = .presettle r false ∧ u.lpc g = s.lpc g
             ∧ (u.core r.core).settleReqs = (s1.core r.core).settleReqs ++ [{ mark := r.mark, who := some (g, true) }]
             ∧ (∀ n j, j < 32 → u.rv g n j = s.rv g n j) ∧ ∀ p, u.homeByte p = s1.homeByte p) ∧
         ((∀ x, x ∈ acc → s1.recs.find (recKey q x.tr.pa) = none ∧ s1.hostBias q x.tr.pa = false ∧ (sc = .sys → isHost x.tr.pa = false) ∧
             (s1.recs.filter (fun e => dirSet (keyPa e.1) == dirSet x.tr.pa &&
               s1.lineSlice (s1.keyPart e.1) (keyPa e.1) == s1.lineSlice q x.tr.pa)).length + acc.length ≤ 12) →
           s1.hostL2.rising = true → NoSnap s1 → (s1.part q).biasbase.getLsbD 0 = false →
           ∃ t, exec i s = .next t ∧ AtWord s t (s.lpc g + 1) ∧ (∀ p, t.homeByte p = run.1 p)
             ∧ (∀ l old, (l, old) ∈ run.2 → t.rv g d.toNat l = BitVec.ofNat 32 old ∧
                 (w64 = true → t.rv g (d.toNat + 1) l = BitVec.ofNat 32 (old / 2 ^ 32)))
             ∧ (∀ r l, l < 32 → (s.active g l && s.guard g h l) = false → t.rv g r l = s.rv g r l)
             ∧ (ordRel ord = true → (t.core k).cm = m + 1 ∧ ∀ x, x ∈ acc → t.recs.find (recKey q x.tr.pa) = some { core := k, mark := m })
             ∧ (ordRel ord = false → (t.core k).cm = m ∧ t.recs = s1.recs)
             ∧ (ordAcq ord = true → t.NoneShared k) ∧ (ordAcq ord = false → (t.core k).l1 = (s1.core k).l1)
             ∧ ∀ j, j ≠ g → t.grp j = s.grp j)) ∧
       ((∀ x, x ∈ acc → pteHome x.tr.e = 4) → s1.reinStale g = false → (s1.deck (deckOf g)).sendQ.length + acc.length ≤ 64 →
         ∃ t l, exec i s = .next t ∧ (t.grp g).lwait = .rein acc.length [] i ∧ t.lpc g = s.lpc g
           ∧ (t.deck (deckOf g)).sendQ = (s1.deck (deckOf g)).sendQ ++ l ∧ l.length = acc.length
           ∧ (t.core k).cm = (if ordRel ord then m + 1 else m)
           ∧ ∀ x u, (x, u) ∈ acc.zip l → u.kind = (if ordRel ord then 4 else 3) ∧ u.mark = (if ordRel ord then m else 0) ∧ u.acq = ordAcq ord
               ∧ u.gid = g ∧ u.lane = true ∧ u.line = x.tr.pa % 2 ^ 18 / 128 ∧ u.aop = op.code.toNat ∧ u.dest = .v d.toNat x.laneNo)))

/-- 03 R73 to R75, 09 R222, R223: a future load of one lane: of a full word it gets the 16 bytes and true, and a take leaves the word
empty; of an empty one it is deferred at its slice, or gets false where the slice holds 256. A future store of one lane fills an empty
word under a release and gets true; of a full one it gets false and changes no byte. The release waits as FUTURE for a deferred future
load of the stream (04 R80, R83, R91), and as latency for its earlier window writes. 03 R76 to R78, 09 R224: vmark loads from the homes
and leaves the group's one mark, over the lines it touched; vcommit stores at the homes where the mark still stands and gives true in
its lanes, otherwise false and no store; the mark is gone. The trap for lanes in more than one block, or outside the marked lines, names
the lowest such lane (log 79). -/
def Obligations.FuturesAndMarks : Prop :=
  (∀ (s s1 : State) (h : Hdr) (sc : Scope) (d a : VReg) (p : PReg) (bn : Slot) (off : BitVec 23) (x : Acc) (take : Bool),
     let g := s.cur
     let c := coreOf g
     let l := x.laneNo
     let w := x.tr.pa / 16
     let i : Instr := if take then .vldfTake h sc d p bn a off else .vldf h sc d p bn a off
     let word (k : Nat) : Word := BitVec.ofNat 32 (s1.homeNat (16 * w + 4 * k) 4)
     LaneOk s [(a, 1), (d, 4)] → l < 32 → (s1.core c).l1.find (x.tr.pa / 128) = none → x.tr.pa % 16 = 0 → s1.hostL2.rising = true →
     (checkGlobal s g bn .load (fun q => q.n) futBad (laneReqs s g h 16 (laneOff s g a off)) = .ok (s1, [x]) →
       s1.poisonedIn (s1.codeOf g) x.tr.pa 16 = false → s1.varRec g x.tr = none →
       (w ∈ s1.fullWords → ∃ t, exec i s = .next t ∧ AtWord s t (s.lpc g + 1) ∧ (∀ k, k < 4 → t.rv g (d.toNat + k) l = word k)
         ∧ (∀ r j, j < 32 → j ≠ l ∨ r < d.toNat ∨ d.toNat + 4 ≤ r → t.rv g r j = s.rv g r j) ∧ (p ≠ 0 → t.rp g p l = true)
         ∧ t.fullWords = (if take then s1.fullWords.filter (fun v => v != w) else s1.fullWords) ∧ ∀ q, t.homeByte q = s1.homeByte q) ∧
       (w ∉ s1.fullWords → (∀ e, e ∈ s1.deferred → e.fid ≠ s1.freeCtr ∧ e.fid ≠ s1.freeCtr + 1) →
         (s1.deferCount (s1.wordSlice g w) < 256 → ∃ t e, exec i s = .next t ∧ AtWord s t (s.lpc g + 1) ∧ t.deferred = s1.deferred ++ [e]
           ∧ e.pa = 16 * w ∧ e.gid = g ∧ e.take = take ∧ e.lanes = 1#32 <<< l ∧ e.d = d.toNat ∧ e.p = p.toNat
           ∧ (e.fid, 1#32 <<< l) ∈ (t.grp g).ringF ∧ (∀ r j, j < 32 → t.rv g r j = s.rv g r j) ∧ t.fullWords = s1.fullWords) ∧
         (256 ≤ s1.deferCount (s1.wordSlice g w) → ∃ t, exec i s = .next t ∧ AtWord s t (s.lpc g + 1) ∧ t.deferred = s1.deferred
           ∧ (p ≠ 0 → t.rp g p l = false) ∧ (∀ r j, j < 32 → t.rv g r j = s.rv g r j) ∧ t.fullWords = s1.fullWords))) ∧
     (checkGlobal s g bn .store (fun q => q.n) futBad (laneReqs s g h 16 (laneOff s g a off)) = .ok (s1, [x]) →
       (s1.unanswered g = true → exec (.vstf h sc d p bn a off) s = .next (s1.stallL g .future)) ∧
       (s1.unanswered g = false → s1.reinEarlier g true = true → exec (.vstf h sc d p bn a off) s = .next (s1.stallL g .latency)) ∧
       (s1.unanswered g = false → s1.reinEarlier g true = false →
         (w ∈ s1.fullWords → ∃ t, exec (.vstf h sc d p bn a off) s = .next t ∧ AtWord s t (s.lpc g + 1) ∧ (p ≠ 0 → t.rp g p l = false)
           ∧ (t.core c).cm = (s1.core c).cm + 1 ∧ (∀ q, t.homeByte q = s1.homeByte q) ∧ ∀ r j, j < 32 → t.rv g r j = s.rv g r j) ∧
         (w ∉ s1.fullWords → (∀ e, e ∈ s1.deferred → e.pa ≠ 16 * w) → s1.recs.find (recKey (s1.codeOfCore c) x.tr.pa) = none →
           s1.hostBias (s1.codeOfCore c) x.tr.pa = false → s1.dirFull (s1.codeOfCore c) x.tr.pa = false →
           ∃ t, exec (.vstf h sc d p bn a off) s = .next t ∧ AtWord s t (s.lpc g + 1) ∧ (p ≠ 0 → t.rp g p l = true)
             ∧ w ∈ t.fullWords ∧ t.recs.find (recKey (s1.codeOfCore c) x.tr.pa) = some { core := c, mark := (s1.core c).cm } ∧ (t.core c).cm = (s1.core c).cm + 1
             ∧ (∀ k, k < 4 → t.homeNat (16 * w + 4 * k) 4 = (s.rv g (d.toNat + k) l).toNat)
             ∧ (NoSnap s1 → ∀ q, q < 16 * w ∨ 16 * w + 16 ≤ q → t.homeByte q = s1.homeByte q))))) ∧
  (∀ (s s1 : State) (h : Hdr) (d a : VReg) (p : PReg) (sz : Size) (bn : Slot) (off : BitVec 23) (acc : List Acc),
     let g := s.cur
     let c := coreOf g
     let n := sizeBytes sz
     let vas := laneVas s g h bn (laneOff s g a off)
     let bytes (l : Nat) : List Byte := ((List.range (regsOf n)).flatMap (fun k => toBytes 4 (s.rv g (d.toNat + k) l).toNat)).take n
     LaneOk s [(a, 1), (d, regsOf n)] → (∀ x, x ∈ acc → (s1.core c).l1.find (x.tr.pa / 128) = none ∧ x.tr.pa % n = 0
       ∧ s1.snoop.contains (x.tr.pa / 128) = false) → acc ≠ [] → s1.hostL2.rising = true →
     (∀ l r, (((s.taking g h).zip vas).filter (fun e => e.2 / 512 != vas.headD 0 / 512)).map Prod.fst = l :: r →
       LaneTraps s (.vmark h d sz bn a off) 0x01 0 (some l) 0) ∧
     (∀ m l r, s.markOf g = some m → (((s.taking g h).zip vas).filter (fun e => !m.vlines.contains (e.2 / 128).toNat)).map Prod.fst = l :: r →
       LaneTraps s (.vcommit h d p sz bn a off) 0x01 0 (some l) 0) ∧
     (vas.all (fun v => v / 512 == vas.headD 0 / 512) = true →
       checkGlobal s g bn .load (fun q => q.n) markBad (laneReqs s g h n (laneOff s g a off)) = .ok (s1, acc) →
       (∀ x, x ∈ acc → s1.poisonedIn (s1.codeOf g) x.tr.pa n = false) →
       ∃ t m, exec (.vmark h d sz bn a off) s = .next t ∧ AtWord s t (s.lpc g + 1)
         ∧ (∀ x, x ∈ acc → ∀ k, k < regsOf n → t.rv g (d.toNat + k) x.laneNo = BitVec.ofNat 32 (ofBytes (((s1.homeBytes x.tr.pa n).drop (4 * k)).take 4)))
         ∧ t.marks.filter (fun y => y.gid == g) = [m] ∧ (∀ x, x ∈ acc → x.tr.pa / 128 ∈ m.lines) ∧ ∀ q, t.homeByte q = s1.homeByte q) ∧
     (checkGlobal s g bn .store (fun q => q.n) markBad (laneReqs s g h n (laneOff s g a off)) = .ok (s1, acc) →
       (s1.marks.all (fun m => m.gid != g) = true → s1.marks = s.marks →
         ∃ t, exec (.vcommit h d p sz bn a off) s = .next t ∧ AtWord s t (s.lpc g + 1) ∧ (∀ q, t.homeByte q = s1.homeByte q)
           ∧ (p ≠ 0 → ∀ x, x ∈ acc → x.laneNo < 32 → t.rp g p x.laneNo = false) ∧ ∀ r l, l < 32 → t.rv g r l = s.rv g r l) ∧
       (∀ m, s1.markOf g = some m → s1.marks = s.marks → vas.all (fun v => m.vlines.contains (v / 128).toNat) = true →
         ∃ t, exec (.vcommit h d p sz bn a off) s = .next t ∧ AtWord s t (s.lpc g + 1)
           ∧ (NoSnap s1 → ∀ q, t.homeByte q = written s1.homeByte (acc.map (fun x => (x.tr.pa, bytes x.laneNo))) q)
           ∧ (p ≠ 0 → ∀ x, x ∈ acc → x.laneNo < 32 → t.rp g p x.laneNo = true) ∧ t.marks.all (fun y => y.gid != g) = true
           ∧ ∀ r l, l < 32 → t.rv g r l = s.rv g r l)))

/-- 10 R227 to R233: the floating-point forms decode their elements, compute exactly, and round each result element once, element 0
first, in the mode and with the saturation of the block's fmt; minimum, maximum, sign forms and compares do not round. 10 R232, R233:
each approximation is one function of the operand and the saturation of the block's fmt, with the special results of R233, and the
canonical NaN of a NaN; vrcp's result is within 1 ulp of 1/a, or that quotient rounded to nearest. Which value the device gives
elsewhere within the bounds is the model's free value (Config.approx, log 8). -/
def Obligations.LaneFloats : Prop :=
  (∀ (s : State) (h : Hdr) (ty : FTy) (d a : VReg) (p : PReg) (b : SrcB) (bc : SrcBC) (c : FCond) (bf : Bool),
     let g := s.cur
     let fmt := s.bfmt g
     let mode := fmtMode fmt
     let sat := fmtSat fmt
     let dn := modeDn mode
     let f : FFmt := match ty with
       | .f32 => fFP32
       | .f16 => fFP16
       | .bf16 => fBF16
     let el (f : FFmt) (w : Word) (k : Nat) : FV := f.decode (w.toNat / 2 ^ (f.width * k) % 2 ^ f.width)
     let x (l k : Nat) : FV := el f (s.rv g a.toNat l) k
     let y (l k : Nat) : FV := el f (s.srcB g b l) k
     let y3 (l k : Nat) : FV := el f (s.srcOfBC g bc l) k
     let z3 (l k : Nat) : FV := el f (s.srcCofBC g bc l) k
     let single (gen : Word) (r : FR) : List Word × Word := ([BitVec.ofNat 32 (fFP32.roundGen sat mode gen r).1], (fFP32.roundGen sat mode gen r).2)
     let res (r : Nat → FR) (gen : Word) : List Word × Word :=
       if ty = .f32 then single gen (r 0)
       else
         let u := f.roundGen sat mode gen (r 0)
         let v := f.roundGen sat mode u.2 (r 1)
         ([BitVec.ofNat 32 (u.1 + v.1 * 2 ^ 16)], v.2)
     let codes (k : Nat → Nat) : Word := if ty = .f32 then BitVec.ofNat 32 (k 0) else BitVec.ofNat 32 (k 0 + k 1 * 2 ^ 16)
     let sign : Word := if ty = .f32 then 0x80000000 else 0x80008000
     (LaneOk s ((d, 1) :: (a, 1) :: srcBRegs b) →
       WritesR s (.vfadd h ty d a b) h d 1 (fun l => res (fun k => (FV.add dn (x l k) (y l k)).toR)) ∧
       WritesR s (.vfsub h ty d a b) h d 1 (fun l => res (fun k => (FV.add dn (x l k) (y l k).neg).toR)) ∧
       WritesR s (.vfmul h ty d a b) h d 1 (fun l => res (fun k => (FV.mul (x l k) (y l k)).toR)) ∧
       (ty = .f32 → WritesR s (.vfdiv h d a b) h d 1 (fun l gen => single gen (FV.div (x l 0) (y l 0)))) ∧
       WritesV s (.vfmin h ty d a b) h d (fun l => codes (fun k => f.encode (FV.minmax false (x l k) (y l k)))) ∧
       WritesV s (.vfmax h ty d a b) h d (fun l => codes (fun k => f.encode (FV.minmax true (x l k) (y l k))))) ∧
     (LaneOk s ((d, 1) :: (a, 1) :: srcBCRegs bc) →
       WritesR s (.vffma h ty d a bc) h d 1 (fun l => res (fun k => (FV.add dn (FV.mul (x l k) (y3 l k)) (z3 l k)).toR)) ∧
       ((bf = true ∧ ty = .bf16) ∨ (bf = false ∧ ty = .f16) →
         WritesR s (.vfdot2 h bf d a bc) h d 1 (fun l gen => single gen
           (FV.add dn (fFP32.decode (s.srcCofBC g bc l).toNat) (FV.add false (FV.mul (x l 0) (y3 l 0)) (FV.mul (x l 1) (y3 l 1)))).toR))) ∧
     (LaneOk s ((a, 1) :: srcBRegs b) →
       WritesP s (.vfcmp h ty c p a b) h p (fun l =>
         let o := FV.cmp (x l 0) (y l 0)
         match c with
         | .eq => o == some .eq
         | .ne => o != some .eq
         | .lt => o == some .lt
         | .le => o == some .lt || o == some .eq
         | .gt => o == some .gt
         | .ge => o == some .gt || o == some .eq
         | .unord => o == none
         | .ord => o != none)) ∧
     (LaneOk s [(d, 1), (a, 1)] →
       WritesV s (.vfabs h ty d a) h d (fun l => s.rv g a.toNat l &&& ~~~sign) ∧
       WritesV s (.vfneg h ty d a) h d (fun l => s.rv g a.toNat l ^^^ sign) ∧
       WritesR s (.vsqrt h d a) h d 1 (fun l gen => single gen (FV.sqrt (fFP32.decode (s.rv g a.toNat l).toNat))))) ∧
  (∃ rcp rsqrt ex lg sn cs th : Bool → Nat → Nat,
     (∀ (s : State) (h : Hdr) (d a : VReg), LaneOk s [(d, 1), (a, 1)] →
       let of (f : Bool → Nat → Nat) (l : Nat) : Word := BitVec.ofNat 32 (f (fmtSat (s.bfmt s.cur)) (s.rv s.cur a.toNat l).toNat)
       WritesV s (.vrcp h d a) h d (of rcp) ∧ WritesV s (.vrsqrt h d a) h d (of rsqrt) ∧ WritesV s (.vexp2 h d a) h d (of ex) ∧
       WritesV s (.vlog2 h d a) h d (of lg) ∧ WritesV s (.vsinpi h d a) h d (of sn) ∧ WritesV s (.vcospi h d a) h d (of cs) ∧
       WritesV s (.vtanh h d a) h d (of th)) ∧
     (let val (v : FV) : Option Rat := match v with
        | .fin s m e => some ((if s then -1 else 1) * m * (2 : Rat) ^ e)
        | .nan => none
        | .inf _ => none
      let big (sat neg : Bool) : Nat := (if neg then 2 ^ 31 else 0) + if sat then 0x7F7FFFFF else 0x7F800000
      let one (neg : Bool) : Nat := (if neg then 2 ^ 31 else 0) + 0x3F800000
      ∀ (sat : Bool) (a : Nat), a < 2 ^ 32 →
        (fFP32.decode a = .nan → ∀ f, f ∈ [rcp, rsqrt, ex, lg, sn, cs, th] → f sat a = 0x7FC00000) ∧
        (∀ neg, fFP32.decode a = .inf neg →
          rcp sat a = (if neg then 2 ^ 31 else 0) ∧ rsqrt sat a = (if neg then 0x7FC00000 else 0) ∧ ex sat a = (if neg then 0 else big sat false) ∧
          lg sat a = (if neg then 0x7FC00000 else big sat false) ∧ sn sat a = 0x7FC00000 ∧ cs sat a = 0x7FC00000 ∧ th sat a = one neg) ∧
        (∀ neg, a = (if neg then 2 ^ 31 else 0) →
          rcp sat a = big sat neg ∧ rsqrt sat a = big sat neg ∧ lg sat a = big sat true ∧ sn sat a = a ∧ th sat a = a) ∧
        (∀ x : Rat, val (fFP32.decode a) = some x →
          (x < 0 → rsqrt sat a = 0x7FC00000 ∧ lg sat a = 0x7FC00000) ∧
          (x ≤ -150 → ex sat a = 0) ∧ (128 ≤ x → ex sat a = big sat false) ∧
          (∀ n : Int, -149 ≤ n → n ≤ 127 → (x = n → ex sat a = if n < -126 then 2 ^ (n + 149).toNat else (n + 127).toNat * 2 ^ 23) ∧
            (x = 2 ^ n → val (fFP32.decode (lg sat a)) = some (n : Rat) ∧ (n = 0 → lg sat a = 0))) ∧
          (∀ n : Int, (x = n → sn sat a = a / 2 ^ 31 * 2 ^ 31 ∧ cs sat a = one (n % 2 == 1)) ∧
            (x = n + 1 / 2 → sn sat a = one (n % 2 == 1) ∧ cs sat a = 0)) ∧
          (|x| < 1 / 4096 → th sat a = a) ∧ (10 ≤ |x| → th sat a = one (decide (x < 0))) ∧
          (x ≠ 0 → (2 ^ 24 - 1) * 2 ^ 104 < |1 / x| → rcp sat a = big sat (decide (x < 0))) ∧
          (x ≠ 0 → |1 / x| ≤ (2 ^ 24 - 1) * 2 ^ 104 →
            (∃ neg m e, fFP32.decode a = .fin neg m e ∧
              rcp sat a = fFP32.round sat .rne 0 (.fin neg (2 ^ (-e).toNat) (m * 2 ^ e.toNat))) ∨
            ∃ (c : Rat) (k : Int), val (fFP32.decode (rcp sat a)) = some c ∧ (k = -126 ∨ (2 : Rat) ^ k ≤ |1 / x|) ∧ |c - 1 / x| ≤ 2 ^ (k - 23)))))

/-- 05 R126 to R129, 10 R234 to R238: conversions, packing and quantisation; a group word that is not well formed in a lane that takes
part traps ILLEGAL at the lowest such lane. -/
def Obligations.LaneConversions : Prop :=
  ∀ (s : State) (h : Hdr) (st dt : VType) (rm : RmSel) (ss : SatSel) (d a b : VReg) (k : Bool),
    let g := s.cur
    let fmt := s.bfmt g
    let mode := rmOf rm fmt
    let sat := satOf ss fmt
    let v (r : VReg) (j l : Nat) : Word := s.rv g (r.toNat + j) l
    let pair (a : VReg) (l : Nat) : Nat := (v a 0 l).toNat + (if typeRegN st = 2 then (v a 1 l).toNat * 2 ^ 32 else 0)
    let half (f : FFmt) (w : Word) (j : Nat) : FV := f.decode (w.toNat / 2 ^ (f.width * j) % 2 ^ f.width)
    let f16 : FFmt := if k then fBF16 else fFP16
    let f8 : FFmt := if k then fE5M2 else fE4M3
    let ok (l : Nat) : Bool := groupWordOk k (v b 0 l)
    (LaneOk s [(d, typeRegN dt), (a, typeRegN st)] →
      WritesR s (.vcvt h st dt rm ss d a) h d (typeRegN dt) (fun l gen =>
        (fillType dt (cvt st dt sat mode gen (pair a l)).1, (cvt st dt sat mode gen (pair a l)).2)) ∧
      (st = .i32 → dt = .f32 → WritesR s (.vcvt h st dt rm ss d a) h d 1 (fun l gen =>
        ([BitVec.ofNat 32 (fFP32.roundGen sat mode gen (FV.ofInt (v a 0 l).toInt).toR).1],
          (fFP32.roundGen sat mode gen (FV.ofInt (v a 0 l).toInt).toR).2))) ∧
      (st = .f32 → dt = .i32 → WritesR s (.vcvt h st dt rm ss d a) h d 1 (fun l gen =>
        ([BitVec.ofInt 32 (match (roundIntGen mode gen (fFP32.decode (v a 0 l).toNat).toR).1 with
          | .nan => 0
          | .inf neg => if neg then -(2 ^ 31) else 2 ^ 31 - 1
          | .val x => max (-(2 ^ 31)) (min x (2 ^ 31 - 1)))], (roundIntGen mode gen (fFP32.decode (v a 0 l).toNat).toR).2))) ∧
      (st = .f32 → dt = .f16 → WritesR s (.vcvt h st dt rm ss d a) h d 1 (fun l gen =>
        ([BitVec.ofNat 32 (fFP16.roundGen sat mode gen (fFP32.decode (v a 0 l).toNat).toR).1],
          (fFP16.roundGen sat mode gen (fFP32.decode (v a 0 l).toNat).toR).2))) ∧
      (st = .f16 → dt = .f32 → WritesR s (.vcvt h st dt rm ss d a) h d 1 (fun l gen =>
        ([BitVec.ofNat 32 (fFP32.encode (fFP16.decode ((v a 0 l).toNat % 2 ^ 16)))], gen)))) ∧
    (LaneOk s [(d, 1), (a, 1), (b, 1)] →
      WritesR s (.vcvtPk h k rm ss d a b) h d 1 (fun l gen =>
        let x := f16.roundGen sat mode gen (fFP32.decode (v a 0 l).toNat).toR
        let y := f16.roundGen sat mode x.2 (fFP32.decode (v b 0 l).toNat).toR
        ([BitVec.ofNat 32 (x.1 + y.1 * 2 ^ 16)], y.2)) ∧
      ((∀ l, l < 32 → (s.active g l && s.guard g h l) = true → ok l = true) →
        (∀ f, typeFmt st = some f → WritesR s (.vqnt h st k rm d a b) h d 1 (fun l gen =>
          let gen' := if mode = .stoch then stochNext gen else gen
          ([BitVec.ofNat 32 (quant k (v b 0 l) mode (gen'.toNat / 65536) (half f (v a 0 l) 0))], gen'))) ∧
        WritesR s (.vdeq h k d a b) h d 1 (fun l gen =>
          ([BitVec.ofNat 32 (dequant (fmtSat fmt) (v b 0 l) ((v a 0 l).toNat % (if k then 16 else 256)))], gen))) ∧
      (∀ l r, (List.range 32).filter (fun l => s.active g l && s.guard g h l && !ok l) = l :: r →
        LaneTraps s (.vqnt h st k rm d a b) 0x01 0 (some l) 0 ∧ LaneTraps s (.vdeq h k d a b) 0x01 0 (some l) 0)) ∧
    (LaneOk s [(d, 1), (a, 4)] →
      WritesR s (.vcvtPk4 h k rm ss d a) h d 1 (fun l gen =>
        let r (j : Nat) (gen : Word) : Nat × Word := f8.roundGen sat mode gen (fFP32.decode (v a j l).toNat).toR
        let e0 := r 0 gen
        let e1 := r 1 e0.2
        let e2 := r 2 e1.2
        let e3 := r 3 e2.2
        ([BitVec.ofNat 32 (e0.1 + e1.1 * 2 ^ 8 + e2.1 * 2 ^ 16 + e3.1 * 2 ^ 24)], e3.2))) ∧
    (LaneOk s [(d, 4), (a, 1)] → WritesR s (.vcvtUnpk4 h k d a) h d 4 (fun l gen =>
      ((List.range 4).map (fun j => BitVec.ofNat 32 (fFP32.encode (half f8 (v a 0 l) j))), gen))) ∧
    (LaneOk s [(d, 2), (a, 1)] → WritesR s (.vcvtUnpk h k d a) h d 2 (fun l gen =>
      ((List.range 2).map (fun j => BitVec.ofNat 32 (fFP32.encode (half f16 (v a 0 l) j))), gen)))

/-- 10 R239 to R241, 05 R135, R136: shuffles, votes, ballots, reductions and scans over the lanes that take part. -/
def Obligations.LaneCollectives : Prop :=
  ∀ (s : State) (h : Hdr) (m : ShflMode) (d a : VReg) (b : SrcB) (p q : PReg) (op : RedOp), s.cur ≠ farrierId →
    let g := s.cur
    let lanes := (List.range 32).filter (fun l => s.active g l && s.guard g h l)
    let x (l : Nat) : Word := s.rv g a.toNat l
    let n (l : Nat) : Nat := (s.srcB g b l).toNat % 32
    let src (l : Nat) : Nat := match m with
      | .idx => n l
      | .up => if l < n l then l else l - n l
      | .down => if 31 < l + n l then l else l + n l
      | .xor => l ^^^ n l
    let f : Word → Word → Word := redOp op (fmtSat (s.bfmt g)) (detMode (fmtMode (s.bfmt g)))
    let int : Prop := op ≠ .addF ∧ op ≠ .maxF ∧ op ≠ .minF
    (LaneOk s ((d, 1) :: (a, 1) :: srcBRegs b) → WritesV s (.vshfl h m d a b) h d (fun l => x (src l))) ∧
    WritesP s (.vvoteAny h p q) h p (fun _ => lanes.any (fun l => s.rp g q l)) ∧
    WritesP s (.vvoteAll h p q) h p (fun _ => lanes.all (fun l => s.rp g q l)) ∧
    WritesP s (.vvoteUni h p q) h p (fun _ => lanes.all (fun l => s.rp g q l) || lanes.all (fun l => !s.rp g q l)) ∧
    (LaneOk s [(d, 1)] → ∃ w : Word, (∀ l, l < 32 → w.getLsbD l = (lanes.contains l && s.rp g q l)) ∧
      WritesV s (.vballot h d q) h d (fun _ => w)) ∧
    (LaneOk s [(d, 1), (a, 1)] →
      WritesV s (.vred h op d a q) h d (fun _ => (tree f 5
        ((List.range 32).map (fun l => if lanes.contains l && s.rp g q l then some (x l) else none))).getD (redId op)) ∧
      (int → WritesV s (.vred h op d a q) h d (fun _ => ((lanes.filter (fun l => s.rp g q l)).map x).foldl f (redId op))) ∧
      (op = .addI → ∃ w : Word, w = BitVec.ofNat 32 (((lanes.filter (fun l => s.rp g q l)).map (fun l => (x l).toNat)).sum) ∧
        WritesV s (.vred h op d a q) h d (fun _ => w)) ∧
      (int → WritesV s (.vscan h op d a) h d (fun l => ((lanes.filter (fun k => k ≤ l)).map x).foldl f (redId op))) ∧
      WritesV s (.vscan h op d a) h d (fun l => match (lanes.filter (fun k => k ≤ l)).map x with
        | [] => 0
        | v :: vs => vs.foldl f v))

/-- 10 R242 to R244, 11 R270: amov reads a tile into a quad or eight registers, amovw and azero write it, in the lanes that take part; a
tile that the team has not traps ILLEGAL, one in use ACCBUSY. That azero, which has no width, takes the layout of the 32-bit moves under
a guard is the model's reading (log 47), and so is that ACCBUSY names no lane (log 101). lbrk traps BREAK at the lowest lane that takes
part. -/
def Obligations.AccumulatorMoves : Prop :=
  ∀ (s : State) (h : Hdr) (d : VReg) (n : BitVec 9) (code : BitVec 8), s.cur ≠ farrierId →
    let g := s.cur
    let y := s.teamOf g
    let lanes := (List.range 32).filter (fun l => s.active g l && s.guard g h l)
    let el (r c : Nat) : Word := y.tileElem n.toNat r c
    let packs (f : FFmt) (l : Nat) : Word → List Word × Word := fun gen =>
      packTile f (fmtSat (s.bfmt g)) (fmtMode (s.bfmt g)) (fun k e => el (4 * k + l / 8) (2 * (l % 8) + e)) [0, 1, 2, 3] gen
    let sets (i : Instr) (val : Nat → Nat → Word) : Prop := ∃ t, exec i s = .next t ∧ AtWord s t (s.lpc g + 1)
      ∧ (∀ k r c, r < 16 → c < 16 → (t.teamOf g).tileElem k r c = if k = n.toNat then val r c else y.tileElem k r c)
      ∧ { t.teamOf g with tiles := [] } = { y with tiles := [] } ∧ LaneFrame (s.setTeam (s.grp g).team (t.teamOf g)) t [] []
    let lane32 (r c : Nat) : Nat := r % 2 * 16 + c
    let lane16 (r c : Nat) : Nat := r % 4 * 8 + c / 2
    let half (f : FFmt) (r c : Nat) : Word := BitVec.ofNat 32 (fFP32.encode (f.decode ((s.rv g (d.toNat + r / 4) (lane16 r c)).toNat / 2 ^ (16 * (c % 2)) % 2 ^ 16)))
    let free : Prop := n.toNat < y.acc ∧ (lanes = [] ∨ s.tileBusy (s.grp g).team n.toNat = false)
    (free →
      (LaneOk s [(d, 8)] → WritesR s (.amov h .w32 d n) h d 8 (fun l gen => ((List.range 8).map (fun k => el (2 * k + l / 16) (l % 16)), gen)) ∧
        sets (.amovw h .w32 d n) (fun r c => if lanes.contains (lane32 r c) then s.rv g (d.toNat + r / 2) (lane32 r c) else el r c)) ∧
      (LaneOk s [(d, 4)] → WritesR s (.amov h .bf16x2 d n) h d 4 (packs fBF16) ∧ WritesR s (.amov h .f16x2 d n) h d 4 (packs fFP16) ∧
        sets (.amovw h .bf16x2 d n) (fun r c => if lanes.contains (lane16 r c) then half fBF16 r c else el r c) ∧
        sets (.amovw h .f16x2 d n) (fun r c => if lanes.contains (lane16 r c) then half fFP16 r c else el r c)) ∧
      sets (.azero h n) (fun r c => if lanes.contains (lane32 r c) then 0 else el r c)) ∧
    (y.acc ≤ n.toNat → LaneTraps s (.azero h n) 0x01 0 none 0 ∧
      (LaneOk s [(d, 8)] → LaneTraps s (.amov h .w32 d n) 0x01 0 none 0 ∧ LaneTraps s (.amovw h .w32 d n) 0x01 0 none 0) ∧
      (LaneOk s [(d, 4)] → LaneTraps s (.amov h .bf16x2 d n) 0x01 0 none 0 ∧ LaneTraps s (.amovw h .bf16x2 d n) 0x01 0 none 0 ∧
        LaneTraps s (.amov h .f16x2 d n) 0x01 0 none 0 ∧ LaneTraps s (.amovw h .f16x2 d n) 0x01 0 none 0)) ∧
    (n.toNat < y.acc → lanes ≠ [] → s.tileBusy (s.grp g).team n.toNat = true →
      LaneTraps s (.azero h n) 0x06 0 none 0 ∧ (LaneOk s [(d, 8)] →
        LaneTraps s (.amov h .w32 d n) 0x06 0 none 0 ∧ LaneTraps s (.amovw h .w32 d n) 0x06 0 none 0) ∧ (LaneOk s [(d, 4)] →
        LaneTraps s (.amov h .bf16x2 d n) 0x06 0 none 0 ∧ LaneTraps s (.amovw h .bf16x2 d n) 0x06 0 none 0 ∧
        LaneTraps s (.amov h .f16x2 d n) 0x06 0 none 0 ∧ LaneTraps s (.amovw h .f16x2 d n) 0x06 0 none 0)) ∧
    (lanes = [] → ∃ t, exec (.lbrk h code) s = .next t ∧ AtWord s t (s.lpc g + 1) ∧ LaneFrame s t [] []) ∧
    (∀ l ls, lanes = l :: ls → LaneTraps s (.lbrk h code) 0x0C code.toNat (some l) 0)

/-- 08 R199, 11 R268, R269, 10 R234 to R238: barriers, translation invalidation, the full settle, snapshot words and conversions run to
their end. A barrier arrival does so with a count that its barrier takes, `nbsync` when it is the last to arrive or its phase has ended;
a system word in system mode, on a core; a conversion where its lane registers are claimed, and its group words are well formed. -/
def Obligations.BarrierSystemConversionRuns : Prop :=
  (∀ (s : State) (k : BitVec 4) (a : GReg), s.cur ≠ farrierId →
    let x := s.grp s.cur
    let y := s.teamOf s.cur
    let b := y.bars.get barEmpty k.toNat
    let n := (s.rg s.cur a).toNat
    let b1 : Barrier := { b with arrived := b.arrived + 1, expect := if b.arrived = 0 then n else b.expect }
    (n ≤ 16 → b.arrived = 0 ∨ b.expect = n →
      (∃ t, exec (.nbarrive k a) s = .next t ∧ Past s t 4 ∧ t.mem = s.mem) ∧
      (x.bphase = none → y.barNeed b1 ≤ b1.arrived → ∃ t, exec (.nbsync k a) s = .next t ∧ Past s t 4 ∧ t.mem = s.mem)) ∧
    (∀ j ph, x.bphase = some (j, ph) → (y.bars.get barEmpty j).phase ≠ ph →
      ∃ t, exec (.nbsync k a) s = .next t ∧ Past s t 4 ∧ (t.grp s.cur).bphase = none ∧ t.teams = s.teams)) ∧
  (∀ (s : State) (d a : GReg) (h : Reach), (s.grp s.cur).sys = true → s.sysCore s.cur < 384 →
    (s.cur ≠ farrierId → ∃ t, exec (.tlbinvVa a h) s = .next t ∧ Past s t 4 ∧ t.mem = s.mem) ∧
    ((s.rg s.cur a).toNat < 2 ^ 16 → ∃ t, exec (.tlbinvCtx a h) s = .next t ∧ Past s t 4 ∧ t.mem = s.mem) ∧
    (∃ t, exec (.tlbinvAll h) s = .next t ∧ Past s t 4 ∧ t.mem = s.mem) ∧
    (∃ t, exec .sysettle s = .next t ∧ Past s t 4) ∧
    ((∀ v, s.stackBad s.cur d v = false) →
      (∃ t, exec (.snapreq d a) s = .next t ∧ Past s t 4) ∧ (∃ t, exec (.snapstat d) s = .next t ∧ Past s t 4 ∧ t.mem = s.mem))) ∧
  (∀ (s : State) (h : Hdr) (st dt : VType) (rm : RmSel) (ss : SatSel) (d a b : VReg) (k : Bool),
    let ends (i : Instr) : Prop := ∃ t, exec i s = .next t ∧ AtWord s t (s.lpc s.cur + 1) ∧ t.mem = s.mem
    (LaneOk s [(d, typeRegN dt), (a, typeRegN st)] → ends (.vcvt h st dt rm ss d a)) ∧
    (LaneOk s [(d, 1), (a, 1), (b, 1)] → ends (.vcvtPk h k rm ss d a b) ∧
      ((∀ l, l < 32 → (s.active s.cur l && s.guard s.cur h l) = true → groupWordOk k (s.rv s.cur b.toNat l) = true) →
        ((typeFmt st).isSome → ends (.vqnt h st k rm d a b)) ∧ ends (.vdeq h k d a b))) ∧
    (LaneOk s [(d, 1), (a, 4)] → ends (.vcvtPk4 h k rm ss d a)) ∧
    (LaneOk s [(d, 4), (a, 1)] → ends (.vcvtUnpk4 h k d a)) ∧
    (LaneOk s [(d, 2), (a, 1)] → ends (.vcvtUnpk h k d a)))

/-- 02 R35, 04 R92, R97, 15 R314: a waiting trap enters its handler once the bank is free; the oldest claim is met whole; the
acknowledgement of a settle ends an acquire, and a group that was stopped meanwhile then stands stalled; an atomic's settle comes before
the atomic, whose word is then tried again (log 14); a home that does not answer fails it (its INFO is a free value, log 22), unless the
partition is mirrored. -/
def Obligations.StreamEvents : Prop :=
  ∀ (s : State) (g : Nat), s.pkg.halted = false → s.occupied g = true →
    let x := s.grp g
    let b := bayOf g
    let others (t : State) : Prop := ∀ h, h ≠ g → t.grp h = s.grp h
    (∀ lane code info l va, x.pend = some (.trap lane code info l va) → x.sys = false → (s.bank g).owner = none → x.boundary = true →
      Does s (.trapEntry g) (fun t =>
        let y := t.grp g
        y.sys = true ∧ y.laneTrap = lane ∧ y.pend = none ∧ y.trappc = x.pc ∧ y.trapva = va
          ∧ y.cause = BitVec.ofNat 64 (code + info * 2 ^ 32 + (match l with
              | some n => n * 2 ^ 8 + 2 ^ 13
              | none => 0))
          ∧ y.pc = BitVec.ofNat 64 ((s.core (coreOf g)).handlerBase.toNat / 2 ^ 14 % 2 ^ 38 * 2 ^ 14 + 64 * code)
          ∧ (t.bank g).owner = some g ∧ others t ∧ ∀ a, t.homeByte a = s.homeByte a)) ∧
    (∀ c, (s.teamOf g).headClaim b = some c → c.gid = g → c.n ≤ (s.teamOf g).free.get 0 b → x.cwait = .claim →
      (∀ e ∈ (s.teamOf g).claims, e.bay = b → e.gid = g) →
      Does s (.claimGrant x.team b) (fun t =>
        (t.grp g).count = x.count + c.n ∧ (t.grp g).pc = x.pc + 4 ∧ (t.grp g).cwait = .none
          ∧ (∀ r l, l < 32 → r < x.count + c.n → (t.grp g).v.get 0 (32 * r + l) = if x.count ≤ r then 0 else x.v.get 0 (32 * r + l))
          ∧ (t.team x.team).free.get 0 b = (s.teamOf g).free.get 0 b - c.n ∧ (t.team x.team).headClaim b = none
          ∧ others t ∧ ∀ a, t.homeByte a = s.homeByte a)) ∧
    (∀ r (d : GReg) v n, x.cwait = .settle r [(d.toNat, v)] n → s.settledRec r = true → s.stackBad g d v = false →
      Does s (.settleAck g false) (fun t =>
        t.rg g d = (if d = 0 then 0 else v) ∧ (∀ e, e ≠ d → t.rg g e = s.rg g e) ∧ (t.grp g).pc = x.pc + BitVec.ofNat 64 n
          ∧ (t.grp g).cwait = (if x.halted then .stall .fault else .none) ∧ others t
          ∧ t.NoneShared (coreOf g)
          ∧ (∀ l y, (s.core (coreOf g)).l1.find l = some y → y.dirty ≠ 0 ∨ y.priv = true →
              ∃ z, (t.core (coreOf g)).l1.find l = some z ∧ z.dirty = y.dirty ∧ (y.priv = true → z = y))
          ∧ ∀ a, t.homeByte a = s.homeByte a)) ∧
    (∀ r, s.settledRec r = true →
      (x.cwait = .presettle r false →
        Does s (.settleAck g false) (fun t => t.grp g = { x with cwait := .presettle r true } ∧ others t)) ∧
      (x.lwait = .presettle r false →
        Does s (.settleAck g true) (fun t => t.grp g = { x with lwait := .presettle r true } ∧ others t))) ∧
    (∀ lane r, s.acquiring g lane = some r →
      ((s.part (s.codeOf g)).intcfg.getLsbD 0 = true → markLe r.mark (s.core r.core).settled = false →
        Does s (.homeTimeout g lane) (fun t => (t.core r.core).settled = r.mark ∧ t.grp g = x ∧ others t)) ∧
      ((s.part (s.codeOf g)).intcfg.getLsbD 0 = false → x.sys = false → (s.bank g).owner = none →
        (if lane then { x with lwait := .none } else { x with cwait := .none } : Group).boundary = true →
        Does s (.homeTimeout g lane) (fun t =>
          let y := t.grp g
          y.sys = true ∧ y.laneTrap = lane ∧ y.cause.toNat % 256 = 0x11 ∧ y.trapva = x.acqVa ∧ y.trappc = x.pc ∧ others t)))

/-- 02 R49, 04 R93, R94, 15 R309, 17 R379: a settle cleans the lines of its mark and drops the records that it covers, at an acquire's
request or when CM has passed a multiple of 2^20; the stack cache writes its dirty line that was used longest ago back; a line of a
record that allows it is prefetched into the L1; a walk fills the TLB. -/
def Obligations.CoreEvents : Prop :=
  ∀ (s : State) (c : Nat), s.pkg.halted = false → (s.core c).l1.rising = true → s.hostL2.rising = true →
    let k := s.core c
    let settled (t : State) (m : Word) : Prop :=
      (t.core c).settled = m ∧ (∀ l x, (t.core c).l1.find l = some x → x.dirty ≠ 0 → markLe x.stamp m = false)
        ∧ (∀ l r, t.recs.find l = some r → r.core = c → markLe r.mark m = false) ∧ t.groups = s.groups ∧ t.teams = s.teams
    (∀ q l, k.settleReqs = q :: l → markLe q.mark k.settled = false →
      Does s (.settle c) (fun t => settled t q.mark
        ∧ (t.core c).settleReqs = (q :: l).filter (fun r => !markLe r.mark q.mark))) ∧
    (k.cm >>> 20 ≠ (k.settled + 1) >>> 20 → markLe (k.cm - 1) k.settled = false →
      Does s (.backgroundSettle c) (fun t => settled t (k.cm - 1))) ∧
    (∀ bay line y, line < 2 ^ 46 → k.stackc.find (stackKey bay line) = some y → oldestDirty k bay = some (stackKey bay line) → NoSnap s →
      s.Reaches c line → y.bad = 0 →
      Does s (.stackWriteback c bay line) (fun t =>
        (t.core c).stackc.find (stackKey bay line) = some { y with dirty := 0 } ∧ t.groups = s.groups
          ∧ ∀ a, t.homeByte a = if a / 128 = line ∧ y.dirty.getLsbD (a % 128) = true then y.data.getD (a % 128) 0 else s.homeByte a)) ∧
    (∀ g (bn : Slot) (off : Nat) b e, coreOf g = c → s.occupied g = true → (s.ctr.get 0 (0x8000F0 + 0x200 * c)).getLsbD 1 = false →
      s.slotRec g bn = some b → b.inBounds off 1 = true → b.rdok = true → b.noalloc = false →
      let va := (b.address off).toNat / 128 * 128
      let tr := e.tr va
      tlbFind k.tlb (s.ctxOf g) va = some e → pteR tr.e = true → viaL1 s c tr = true → s.homeBad c (s.codeOf g) tr = none →
      s.flipping (s.codeOf g) tr.pa = false → s.poisonedIn (s.codeOf g) tr.pa 128 = false → k.l1.find (tr.pa / 128) = none →
      k.l1.length < 2048 → s.inBound c tr .load = true →
      (pteHome tr.e = 0 ∧ (pteCls tr.e = true ∨ pteOwner tr.e = c) ∨ pteHome tr.e = 2 ∧ (s.pinned.find (tr.pa / 128)).isSome) →
      Does s (.prefetch g bn.toNat off) (fun t =>
        (t.core c).l1.find (tr.pa / 128)
            = some { data := s.homeBytes tr.pa 128, dirty := 0, stamp := 0, priv := tr.privTo c, pf := .flying, bad := 0 }
          ∧ t.groups = s.groups ∧ ∀ a, t.homeByte a = s.homeByte a)) ∧
    (∀ g va h s1 tr, coreOf g = c → s.occupied g = true → tlbFind k.tlb (s.ctxOf g) va = none →
      s.translate c (s.ctxOf g) va h = .ok (s1, tr) → Does s (.translateWalk g va h) (fun t => t = s1))

/-- 02 R21 to R26, R46, 14 R289, R299: the start of a group by a bound queue, the placement of a team on the lowest core of a deck that
can take it, and its retirement. That a drain group may start in a slot at any time after it emptied is the model's choice (log 46). -/
def Obligations.TeamEvents : Prop :=
  ∀ (s : State) (k : Nat), s.pkg.halted = false →
    (let t0 := s.team k
     ∀ slot h q b, t0.slots.find? (fun h => h.slot == slot && !h.occ) = some h → t0.fullest = some q → t0.binds[q]? = some b →
      t0.saving = 0 → (s.part t0.part).halting = false → t0.vregs ≤ t0.free.get 0 (bayOf (64 * t0.core + slot)) →
      t0.headClaim (bayOf (64 * t0.core + slot)) = none →
      let g := 64 * t0.core + slot
      Does s (.drainGroupStart k slot) (fun t =>
        let y := t.grp g
        y.team = k ∧ y.gidx = h.gidx ∧ y.pc = b.entry ∧ y.count = t0.vregs ∧ y.fmt = t0.fmt0 ∧ y.v = [] ∧ y.q = 0 ∧ y.laneQ = []
          ∧ y.role = BitVec.ofNat 32 (b.role + h.gidx * 2 ^ 8 + t0.groups * 2 ^ 12)
          ∧ (t.team k).free.get 0 (bayOf g) = t0.free.get 0 (bayOf g) - t0.vregs
          ∧ (t.team k).slots = t0.slots.map (fun x => if x.slot = slot then { x with occ := true } else x) ∧ (t.team k).iqs = t0.iqs
          ∧ (∀ j, j ≠ g → t.grp j = s.grp j) ∧ ∀ a, t.homeByte a = s.homeByte a)) ∧
    (∀ l d x z lin area c slots tid, s.launch l = some x → s.stage l k = some z → z.lowest d = some lin → z.area = some area →
      c < 384 → deckOfCore c = d → s.canPlace l x k z c = some slots → s.outranked l x c = false →
      (∀ e, e < c → deckOfCore e = d → s.canPlace l x k z e = none ∨ s.outranked l x e = true) →
      tid / 16 = c → s.teams.find tid = none → (∀ e, e / 16 = c → e < tid → (s.teams.find e).isSome) →
      Does s (.teamPlace l k d) (fun t =>
        let y := t.team tid
        y.core = c ∧ y.part = x.part ∧ y.launch = l ∧ y.stage = k ∧ y.lin = lin ∧ y.ctx = x.ctx ∧ y.area = area
          ∧ y.lv.x = BitVec.ofNat 32 (lin % z.grid.gx) ∧ y.lv.y = BitVec.ofNat 32 (lin / z.grid.gx % z.grid.gy)
          ∧ y.lv.z = BitVec.ofNat 32 (lin / (z.grid.gx * z.grid.gy)) ∧ y.lv.args = x.args ∧ y.lv.shape = x.shape
          ∧ (∀ n p, slots[n]? = some p →
              (t.grp (64 * c + p)).team = tid ∧ (t.grp (64 * c + p)).gidx = n ∧ (t.grp (64 * c + p)).pc = z.grid.entry
                ∧ (t.grp (64 * c + p)).count = z.grid.vregs)
          ∧ (∀ j, j ≠ tid → t.team j = s.team j)
          ∧ ∃ w, t.stage l k = some w ∧ ∀ r ∈ w.pools, ¬(r.lo ≤ lin ∧ lin ≤ r.hi))) ∧
    (∀ t0 z, s.teams.find k = some t0 → s.stage t0.launch t0.stage = some z → t0.gids = [] → t0.fullest = none →
      (s.core t0.core).matq.all (fun m => m.team != k) = true → (s.core t0.core).cmds.all (fun e => e.2.team != k) = true →
      Does s (.teamRetire k) (fun t =>
        t.teams.find k = none ∧ (∀ j, j ≠ k → t.teams.find j = s.teams.find j)
          ∧ ∃ w, t.stage t0.launch t0.stage = some w ∧ w.retired = t0.lin :: z.retired.filter (· != t0.lin)))

/-- 03 R70, 11 R254, R257, R260, R261, 15 R319, 17 R370: a piece of a copy lands and is posted, PARTIAL where a sector of its source
fails its check, or on the Rein window waits for its write; a histogram is written; a host stream moves a line, or ends with a record
where it does not translate; bytes have the values that the engine has read early, and those that it wrote early stay (log 42). A batch
whose operations have run completes, with its range entries; a bad group word fails its batch and is reported. -/
def Obligations.EngineEvents : Prop :=
  ∀ (s : State) (c id : Nat), s.pkg.halted = false →
    let ended (t : State) : Prop := (t.core c).cmds.find id = none ∧ ∀ k e, e ∈ (t.core k).locks → e.2.cmd ≠ 2 * id + 1
    (∀ x piece s1, (s.core c).cmds.find id = some x → x.kind = .copy →
      let l := s.pieceOf x.dst (segments x.dstRows.1 x.dstRows.2 (s.rowStart x.dst)) piece
      let len := pieceLen l
      let lines := s.pieceLines x l
      let u := lines.foldl (fun s k => s.engSee c k (x.never.contains k)) s
      let good := u.goodBytes c x l
      let flags := if good.length < len then 2 else 0
      let rein := l.any (fun e => x.landsInRein e.2.1 e.2.2.1)
      l ≠ [] → x.done.contains piece = false → (x.usesRein && (s.deck (deckOfCore c)).stale) = false → s.pieceUnapplied c x l = false →
      s.srcAborted x = false → (∀ k ∈ lines, isRein (k * 128) = true ∨ s.homeOk (s.codeOfCore c) (deckOfCore c) (k * 128) = true) → 0 < len →
      u.landBytes c id x len flags (u.landing x 0 none good) = some s1 →
      (rein = false ∨ good = [] → Does s (.engineLanding c id piece) (fun t =>
        t.team x.team = (s1.team x.team).post x.aw len flags ∧ (x.len ≤ x.pos + len → ended t)
          ∧ (x.pos + len < x.len → (t.core c).cmds.find id = some { x with pos := x.pos + len, done := l.map Prod.fst ++ x.done })
          ∧ (good.length = len → ∀ a, t.homeByte a = s1.homeByte a))) ∧
      (rein = true → good ≠ [] → Does s (.engineLanding c id piece) (fun t =>
        (t.core c).cmds.find id = some { x with done := l.map Prod.fst ++ x.done } ∧ t.teams = s1.teams
          ∧ (good.length = len → ∀ a, t.homeByte a = s1.homeByte a)))) ∧
    (∀ x piece, (s.core c).cmds.find id = some x → x.kind = .copy →
      let l := s.pieceOf x.dst (segments x.dstRows.1 x.dstRows.2 (s.rowStart x.dst)) piece
      l ≠ [] → x.done.contains piece = false → (x.usesRein && (s.deck (deckOfCore c)).stale) = false →
      (s.pieceUnapplied c x l = true → Does s (.engineLanding c id piece) (fun t => t = s)) ∧
      (s.pieceUnapplied c x l = false → s.srcAborted x = true →
        Does s (.engineLanding c id piece) (fun t => t.team x.team = (s.team x.team).post x.aw (pieceLen l) 3 ∧ ∀ a, t.homeByte a = s.homeByte a))) ∧
    (∀ x gh a b d, (s.core c).cmds.find id = some x → x.kind = .hist → x.dst = .scr x.team gh a b d →
      x.aw + 16 ≤ gh ∨ gh + 528 ≤ x.aw → x.wrote = [] →
      Does s (.qhistDone c id) (fun t => ended t
        ∧ ∀ k, k < 130 → (t.team x.team).winW (gh + 4 * k) = BitVec.ofNat 32 (min 0xFFFFFFFF
            ((if x.acc then ((s.team x.team).winW (gh + 4 * k)).toNat else 0)
              + (((s.histElems c x).map histSlot).filter (· == k)).length)))) ∧
    (∀ x s2 ts td, (s.core c).cmds.find id = some x → (x.kind = .hostOut ∨ x.kind = .hostIn) → x.wrote = [] →
      s.streamTr c x = .ok (s2, ts, td) → ts.pa % 128 = 0 → td.pa % 128 = 0 →
      let u := s2.streamSee c ts td
      u.snoop.contains (td.pa / 128) = false → u.hostL2.rising = true →
      NoSnap u → (∀ k, k < 128 → (u.engPre c x.pre (ts.pa + k)).2 = false) →
      Does s (.hstreamLine c id) (fun t =>
        t.team x.team = (s.team x.team).post x.aw 128 0
          ∧ (∀ k, k < 128 → t.homeByte (td.pa + k) = (u.engPre c x.pre (ts.pa + k)).1)
          ∧ (x.pre = [] → ∀ k, k < 128 → (u.engPre c x.pre (ts.pa + k)).1 = u.homeByte (ts.pa + k))
          ∧ (x.kind = .hostOut → ∀ k, k < 128 → t.hostMem.find (td.pa + k) = some (u.engPre c x.pre (ts.pa + k)).1)
          ∧ (x.len ≤ x.pos + 128 → ended t))) ∧
    (∀ x va, (s.core c).cmds.find id = some x → (x.kind = .hostOut ∨ x.kind = .hostIn) → s.streamTr c x = .error (some va) →
      s.canPost (s.codeOfCore c) = true → x.pos ≤ x.len →
      Does s (.hstreamLine c id) (fun t => ended t ∧ t.team x.team = (s.team x.team).post x.aw (x.len - x.pos) 2
        ∧ (t.part (s.codeOfCore c)).fqtail = (s.part (s.codeOfCore c)).fqtail + 1)) ∧
    (∀ g, coreOf g = c → g < 2 ^ 32 → s.occupied g = true → (s.grp g).lastDone ≠ (s.grp g).bc →
      (∀ m m', m ∈ (s.core c).matq → m' ∈ (s.core c).matq → m.id = m'.id → m = m') →
      let n := (s.grp g).lastDone + 1
      (∀ m ∈ (s.core c).matq, m.gid = g → m.batch = n → m.ran = true) →
      Does s (.batchComplete g) (fun t =>
        t.grp g = { s.grp g with lastDone := n, reported := (s.grp g).reported.filter (· != n) } ∧ (∀ h, h ≠ g → t.grp h = s.grp h)
          ∧ (t.core c).matq = (s.core c).matq.filter (fun m => !(m.gid == g && m.batch == n))
          ∧ (∀ m ∈ (s.core c).matq, m.gid = g → m.batch = n → ∀ k e, e ∈ (t.core k).locks → e.2.cmd ≠ 2 * m.id)
          ∧ ∀ a, t.homeByte a = s.homeByte a)) ∧
    (∀ m, s.nextMat c = some m → s.matBad m = true → s.canPost (s.codeOfCore c) = true → (s.groups.find m.gid).isSome →
      Does s (.groupword c) (fun t =>
        t.grp m.gid = { s.grp m.gid with failed := (s.grp m.gid).failed ++ [m.batch] } ∧ (∀ h, h ≠ m.gid → t.grp h = s.grp h)
          ∧ (t.core c).matq = (s.core c).matq.map (fun y => if y.id = m.id then { y with ran := true, bad := true } else y)
          ∧ (t.part (s.codeOfCore c)).fqtail = (s.part (s.codeOfCore c)).fqtail + 1))

/-- 04 R105 to R107, R111: a slot goes round, and every deck whose replica is current applies what it carries at the same sequence, or
finds its replica stale where the check of what it received fails; a header that names a core of another tower alarms the REIN sensor
(17 R376). A stale replica is replayed from the base die or copied, and is current again: the copy is of State.copySource, which prefers
a deck that can be brought up to the lowest-numbered awake one, as it stands at State.copiedAt (log 49). -/
def Obligations.ReinEvents : Prop :=
  ∀ (s : State), s.pkg.halted = false →
    (∀ k, let q := (s.tower k).q
      let decks := s.slotDecks k (q % 1024)
      (s.slotWrite k (q % 1024) = none →
        Does s (.reinSlot k []) (fun t => (t.tower k).q = q + 1 ∧ t.groups = s.groups ∧
          (∀ d ∈ decks, (s.deck d).applies = true → t.deck d = { s.deck d with lastQ := q })
          ∧ ∀ d, d ∉ decks ∨ (s.deck d).applies = false → t.deck d = s.deck d)) ∧
      (∀ e w, s.slotWrite k (q % 1024) = some (e, w) → 1 ≤ w.kind → w.kind ≤ 2 → w.dest = .none → w.cmd = none → (s.deck e).own = [] →
        towerOfDeck (deckOfCore w.core) = k →
        Does s (.reinSlot k []) (fun t => (t.tower k).q = q + 1 ∧ (t.tower k).held.find q = some w ∧ t.groups = s.groups
          ∧ (t.deck e).sendQ = (s.deck e).sendQ.erase w
          ∧ ∀ d ∈ decks, (s.deck d).applies = true →
            (t.deck d).lastQ = q
            ∧ (∀ line j, j < 32 → (t.deck d).rep.get 0 (32 * line + j) =
                if line = w.line ∧ w.mask.getLsbD j = true then w.data.getD j 0 else (s.deck d).rep.get 0 (32 * line + j))
            ∧ (t.deck d).recs.find w.line = if w.kind = 2 then some { core := w.core, mark := w.mark } else (s.deck d).recs.find w.line)) ∧
      (∀ e w, s.slotWrite k (q % 1024) = some (e, w) → 1 ≤ w.kind → w.kind ≤ 4 → towerOfDeck (deckOfCore w.core) ≠ k →
        decks.any (fun d => (s.deck d).applies) = true →
        Does s (.reinSlot k []) (fun t => t.pkg.tamperstat.getLsbD 3 = true ∧ (t.tower k).q = q + 1)) ∧
      ∀ flips, let bits (d : Nat) : List Nat := (flips.filter (fun e => e.1 == d)).map Prod.snd
        Does s (.reinSlot k flips) (fun t => (t.tower k).q = q + 1 ∧ ∀ d ∈ decks, (s.deck d).applies = true → bits d ≠ [] →
          (((s.slotWrite k (q % 1024)).map Prod.snd).getD (emptySlot q)).received (bits d) = none →
          (t.deck d).stale = true ∧ (t.deck d).rep = (s.deck d).rep ∧ (t.deck d).lastQ = (s.deck d).lastQ)) ∧
    (∀ d, (s.deck d).stale = true → (s.deck d).awake = true → (s.deck d).live = true → (s.deck d).copying = none →
      ((s.tower (d / 4)).holds (s.deck d).lastQ = true →
        Does s (.refill d) (fun t => t.deck d = { s.deck d with copying := some d } ∧ ∀ e, e ≠ d → t.deck e = s.deck e)) ∧
      (∀ k n, (s.tower (d / 4)).holds (s.deck d).lastQ = false → s.copySource d = some k → k ≠ d → s.copiedAt k = some n → (s.deck d).own = [] →
        Does s (.refill d) (fun t => (t.deck d).lastQ = n ∧ (t.deck d).rep = (s.deck k).rep ∧ (t.deck d).recs = (s.deck k).recs ∧ (t.deck d).copying = some k
          ∧ ∀ e, e ≠ d → t.deck e = s.deck e))) ∧
    (∀ d, (s.deck d).stale = true → (s.deck d).awake = true → (s.deck d).live = true → (s.deck d).copying.isSome →
      (s.tower (d / 4)).holds (s.deck d).lastQ = true →
      Does s (.refillEnd d) (fun t =>
        (t.deck d).stale = false ∧ (t.deck d).copying = none ∧ (t.deck d).lastQ = (s.tower (d / 4)).q - 1
          ∧ (s.heldAfter d (s.deck d).lastQ = [] → (t.deck d).rep = (s.deck d).rep) ∧ ((s.deck d).waking = true → t.pkg.fstate = 2)))

/-- 15 R321, R322: the places of a frame's areas: the lane area of each group after the records, then the accumulators, the window and
the team's area at multiples of 4 KiB, the whole in chunks of 64 KiB; and what the team of a group that takes a page fault does: it
stops, is saved once it has drained into the lowest free chunks, is answered by the driver, and is placed and read back on a core that
can take it. Which core that is, is open (log 27); that the save writes the core's caches back and the restore invalidates them is log
96. 15 R325, 17 R371: an error of a team's state ends the team with its record, and discards it where its stage may run again; a
corrected error is counted, another poisons its sector, ends its team or rebuilds its directory entry; a scrub changes nothing; a line
of a snapshot is copied before its first write, and a snapshot whose lines are all copied is done. To which counter an error goes, and
what it leaves, is log 89. -/
def Obligations.SaveEvents : Prop :=
  ((∀ (counts : List Nat) (acc scratch niq : Nat),
     let y := layoutOf counts acc scratch niq
     (∀ i, i ≤ counts.length → y.lane.getD i 0 = 0xA000 + ((counts.take i).map (fun c => 128 * c + 512)).sum)
       ∧ y.acc % 4096 = 0 ∧ y.lane.getD counts.length 0 ≤ y.acc ∧ y.acc < y.lane.getD counts.length 0 + 4096
       ∧ y.win % 4096 = 0 ∧ y.acc + 1024 * acc ≤ y.win ∧ y.win < y.acc + 1024 * acc + 4096
       ∧ y.team % 4096 = 0 ∧ y.win + scratch ≤ y.team ∧ y.team < y.win + scratch + 4096
       ∧ y.size % 65536 = 0 ∧ y.team + 256 + 2056 * niq ≤ y.size ∧ y.size < y.team + 256 + 2056 * niq + 65536) ∧
   (∀ (s : State) (k : Nat), s.pkg.halted = false →
     (∀ g lane va h l, s.occupied g = true → (s.grp g).team = k → (s.grp g).sys = false → (s.grp g).pend = some (.pf lane va h l) →
       (s.team k).saving = 0 →
       let u := s.stopTeam k 2
       let p := (s.team k).part
       (u.saveTeam k = none → Does s (.pagefault g) (fun t => (t.team k).saving = 2 ∧ (t.team k).blocked = s.teamStalls (s.team k)
         ∧ (∀ j ∈ (s.team k).gids, (s.grp j).sys = false → (s.grp j).pend = none ∨ j = g → (t.grp j).halted = true)
         ∧ ∀ a, t.homeByte a = s.homeByte a)) ∧
       (u.saveTeam k ≠ none → s.CacheGood (s.team k).core → Does s (.pagefault g) (fun t => t.teams.find k = none ∧ (t.part p).fqtail = (s.part p).fqtail + 1
         ∧ ∃ v, (t.part p).saved = (s.part p).saved ++ [v] ∧ v.reason = 2 ∧ v.ready = false ∧ v.team.lin = (s.team k).lin))) ∧
     (∀ t0 f, s.teams.find k = some t0 → t0.saving = 1 → t0.groups ≤ 16 → s.drained k = true →
       (let n (i : Nat) : Nat := ((t0.slots.find? (fun h => h.occ && h.gidx == i)).map (fun h => (s.grp (64 * t0.core + h.slot)).count)).getD 0
        (s.part t0.part).alloc ((layoutOf ((List.range t0.groups).map n) t0.acc t0.scratch t0.niq).size / 65536) = some f) →
       Does s (.save k) (fun t => t.teams.find k = none ∧ (∀ j, j ≠ k → t.teams.find j = s.teams.find j)
         ∧ ∃ v, (t.part t0.part).saved = (s.part t0.part).saved ++ [v] ∧ v.frame = f ∧ v.team = t0 ∧ v.ready = true ∧ v.reason = 1)) ∧
     (∀ t0, s.teams.find k = some t0 → t0.saving ≠ 0 →
       Does s (.drainBound k) (fun t =>
         (t.core (k / 16)).cmds.all (fun e => e.2.team != k) = true
           ∧ (t.core t0.core).locks.all (fun e => e.2.glob || e.2.owner != k || e.2.cmd % 2 == 0) = true ∧ t.groups = s.groups)) ∧
     (∀ p frame v, (s.part p).saved.find? (fun v => v.frame == frame) = some v → v.ready = true →
       s.framesOk p = true → (∃ c ∈ s.coresOf p, (s.canRestore v c).isSome) → (v.gids.map Prod.fst).Nodup → (∀ e ∈ v.gids, e.1 < v.team.groups) →
       Does s (.restore p frame) (fun t => ∃ c slots tid, c ∈ s.coresOf p ∧ s.canRestore v c = some slots ∧ tid / 16 = c
         ∧ (t.team tid).lin = v.team.lin ∧ (t.team tid).launch = v.team.launch ∧ (t.team tid).stage = v.team.stage
         ∧ (t.team tid).saving = 0 ∧ (t.part p).saved = (s.part p).saved.filter (fun w => w.frame != frame)
         ∧ ∀ e ∈ v.gids,
             let y := t.grp (64 * c + slots.getD e.1 0)
             let r := (s.part p).frameBase frame + 0x2000 + 2048 * e.1
             y.team = tid ∧ y.pc = BitVec.ofNat 64 (s.homeNat r 8) ∧ y.count = s.homeNat (r + 0x21C) 4
               ∧ (∀ n, 1 ≤ n → n < 64 → y.g.get 0 n = BitVec.ofNat 64 (s.homeNat (r + 0x10 + 8 * n) 8))
               ∧ y.cwait = .none ∧ y.lwait = .none ∧ y.halted = false))) ∧
   (∀ (s : State) (p : Nat), s.answers p = true →
     (∀ frame,
       let answer (act : Nat) (t : State) : Prop :=
         (t.part p).fresume = BitVec.ofNat 64 (act * 2 ^ 32 + frame % 2 ^ 32) ∧ t.groups = s.groups ∧ t.teams = s.teams
           ∧ (t.part p).saved = (s.part p).saved.map (fun v =>
               if v.frame = frame ∧ v.reason = 2 ∧ v.ready = false then { v with ready := true, fail := act == 2 } else v)
       Does s (.fresumeRetry p frame) (answer 1) ∧ Does s (.fresumeFail p frame) (answer 2)) ∧
     ((s.part p).preState = 0 → Tab.rising s.teams = true →
       Does s (.preemptReq p) (fun t => (t.part p).preReq = true ∧ (t.part p).halting = true
         ∧ (t.part p).preState = (if s.teams.all (fun e => e.2.part != p) then 2 else 1)
         ∧ ∀ k x, s.teams.find k = some x → x.part = p → x.saving = 0 → (t.team k).saving = 1)) ∧
     ((s.part p).preState = 2 →
       Does s (.preemptRestore p) (fun t => (t.part p).preReq = false ∧ (t.part p).halting = false
         ∧ (t.part p).preState = (if (s.part p).saved.all (fun v => !v.ready) then 0 else 3))) ∧
     ((s.part p).preState ≠ 0 → Does s (.preemptReq p) (fun t => t = s.onPart p (fun x => { x with preReq := true }))) ∧
     ((s.part p).preState ≠ 2 → Does s (.preemptRestore p) (fun t => t = s.onPart p (fun x => { x with preReq := false }))))) ∧
  (∀ (s : State), s.pkg.halted = false →
     (∀ k x z, s.teams.find k = some x → x.rerun = true → s.canPost x.part = true → s.CacheGood x.core →
       s.stage x.launch x.stage = some z → z.discards.get 0 x.lin < z.retry →
       Does s (.stateError k) (fun t => t.teams.find k = none ∧ (t.part x.part).fqtail = (s.part x.part).fqtail + 1
         ∧ ∃ w, t.stage x.launch x.stage = some w ∧ w.ended = z.ended ∧ w.discards.get 0 x.lin = z.discards.get 0 x.lin + 1
           ∧ w.returned = z.returned ++ [{ lo := x.lin, hi := x.lin, deck := deckOfCore x.core }])) ∧
     (∀ k x, s.teams.find k = some x →
       (x.acc ≠ 0 → Does s (.softError (.acc k) true) (fun t => t = s.bumpCore x.core 0xE8 1)
         ∧ exec (.softError (.acc k) false) s = exec (.stateError k) s) ∧
       (x.niq ≠ 0 → Does s (.softError (.items k) true) (fun t => t = s.bumpCore x.core 0xE8 1)
         ∧ exec (.softError (.items k) false) s = exec (.stateError k) s) ∧
       ((∃ e ∈ (s.core x.core).locks, e.2.glob = false ∧ e.2.owner = k) →
         Does s (.softError (.locks k) true) (fun t => t = s.bumpCore x.core 0xE8 1)
           ∧ exec (.softError (.locks k) false) s = exec (.stateError k) s)) ∧
     (∀ sl, sl < 768 → Does s (.softError (.directory sl) true) (fun t => t = s.bumpDeck (sl / 96) 0x20 1)
       ∧ Does s (.softError (.directory sl) false) (fun t => t = s.bumpDeck (sl / 96) 0x38 1)) ∧
     (∀ c pa, (s.core c).l1.keys.contains (pa / 128) = true →
       Does s (.softError (.cache c pa) true) (fun t => t = s.bumpCore c 0xE8 1)) ∧
     (∀ k q o, s.slotHas k q o = true →
       Does s (.softError (.slot k q o) true) (fun t => t = s.bumpDeck (s.slotSlice k q / 96) 0x20 1)) ∧
     (∀ k x, s.teams.find k = some x → x.rerun = false → s.canPost x.part = true → s.CacheGood x.core →
       Does s (.stateError k) (fun t => t.teams.find k = none ∧ (t.part x.part).fqtail = (s.part x.part).fqtail + 1
         ∧ (∀ z, s.stage x.launch x.stage = some z →
             ∃ w, t.stage x.launch x.stage = some w ∧ w.ended = x.lin :: z.ended.filter (· != x.lin)))) ∧
     (let cnt (t : State) (d off : Nat) : GWord := t.ctr.get 0 (0x780000 + 0x100 * d + off)
      let room (p pa : Nat) : Prop := s.canPost p = true
        ∧ bits (s.part p).fqcfg.toNat 12 40 * 4096 + 32 * ((s.part p).fqtail.toNat % 2 ^ bits (s.part p).fqcfg.toNat 8 4) ≠ pa / 32 * 32
      (∀ pa p, s.partAt pa = some p →
        let d := s.lineSlice p pa / 96
        Does s (.softError (.home pa) true) (fun t => cnt t d 0x20 = cnt s d 0x20 + 1 ∧ t.poison = s.poison ∧ ∀ a, t.homeByte a = s.homeByte a) ∧
        (room p pa → NoSnap s → Does s (.softError (.home pa) false) (fun t =>
          cnt t d 0x28 = cnt s d 0x28 + 1 ∧ pa / 32 ∈ t.poison ∧ (t.part p).fqtail = (s.part p).fqtail + 1)) ∧
        ((s.part p).intcfg.getLsbD 1 = true → Does s (.scrub pa) (fun t => t = s))) ∧
      (∀ d pa, d < 8 → isRein pa = true → reinTower pa = towerOfDeck d →
        Does s (.softError (.replica d pa) true) (fun t => cnt t d 0x20 = cnt s d 0x20 + 1 ∧ t.deck d = s.deck d) ∧
        (s.canPost (s.codeOfDeck d) = true → Does s (.softError (.replica d pa) false) (fun t =>
          cnt t d 0x28 = cnt s d 0x28 + 1 ∧ pa % 2 ^ 18 / 32 ∈ (t.deck d).bad ∧ (t.deck d).rep = (s.deck d).rep))) ∧
      (∀ k x o, s.teams.find k = some x → o < x.scratch → s.canPost x.part = true →
        Does s (.softError (.window k o) false) (fun t => o / 32 ∈ (t.team k).bad ∧ (t.team k).win = x.win
          ∧ (t.part x.part).fqtail = (s.part x.part).fqtail + 1))) ∧
     (∀ p pa e, (s.part p).snap.running = true → (s.part p).snap.copied.contains (pa / 128) = false →
       (s.part p).snap.pages.find? (fun e => decide (e.2.1 ≤ pa / 128 * 128) && decide (pa / 128 * 128 < e.2.1 + snapSize e.2.2.1)) = some e →
       e.2.2.2 ≠ 0 → isRein (pa / 128 * 128) = false → s.hostL2.rising = true →
       s.homeOk p (s.masterDeck p) ((s.part p).snap.area + e.2.2.2 + (pa / 128 * 128 - e.2.1)) = true →
       Does s (.snapCopyOnWrite p pa) (fun t =>
         (t.part p).snap.copied = pa / 128 :: (s.part p).snap.copied ∧ (t.part p).snap.running = true
           ∧ StoredAt s t ((s.part p).snap.area + e.2.2.2 + (pa / 128 * 128 - e.2.1)) (s.homeBytes (pa / 128 * 128) 128))) ∧
     (∀ p, (s.part p).snap.running = true → s.hostL2.rising = true → s.homeOk p (s.masterDeck p) ((s.part p).snap.area + 8) = true →
       (∀ e ∈ (s.part p).snap.pages, ∀ n, n < snapSize e.2.2.1 / 128 → (s.part p).snap.copied.contains (e.2.1 / 128 + n) = true) →
       Does s (.snapEnd p) (fun t =>
         (t.part p).snap = { (s.part p).snap with running := false } ∧ (t.part p).intstat.getLsbD 3 = true
           ∧ StoredAt s t ((s.part p).snap.area + 8) [1, 0, 0, 0, 0, 0, 0, 0])))

/-- 14 R280 to R284, R290, R296, R297: queues and their tails; the master takes the head of a ready queue and launches it, or refuses it
with a record; a hitch becomes active when its cores fit; a launch ends, and its status word is written, once its teams are done. That a
head record is read only where it lies inside the partition, and by DEP_POLL later, is log 82; that a launch whose halt waits for its
record keeps its state is log 97. -/
def Obligations.LaunchEvents : Prop :=
  (∀ (s : State) (q : Nat) (v : GWord), q < 64 → s.mgmt = true →
    let x := s.queue q
    (s.formatting (if x.en then x.part else bits v.toNat 2 3) = false →
      (x.en = true → Does s (.lqcfgWrite q v) (fun t => (t.queue q).cfg.getLsbD 0 = v.getLsbD 0 ∧ (t.queue q).cfg >>> 1 = x.cfg >>> 1
        ∧ (t.queue q).tail = x.tail ∧ (t.queue q).head = x.head ∧ ∀ r, r ≠ q → t.queue r = s.queue r)) ∧
      (x.en = false → v.getLsbD 0 = true → 4 ≤ bits v.toNat 8 4 → bits v.toNat 2 3 < 7 → s.liveCode (bits v.toNat 2 3) = true →
        Does s (.lqcfgWrite q v) (fun t => (t.queue q).en = true ∧ (t.queue q).base = bits v.toNat 12 40 * 4096
          ∧ (t.queue q).log2n = bits v.toNat 8 4 ∧ (t.queue q).prio = bits v.toNat 5 3 ∧ (t.queue q).part = bits v.toNat 2 3
          ∧ (t.queue q).tail = 0 ∧ (t.queue q).head = 0)) ∧
      (x.en = false → v.getLsbD 0 = false → Does s (.lqcfgWrite q v) (fun t => (t.queue q).en = false))) ∧
    (x.en = true → s.answers x.part = true →
      let n := (v.setWidth 32 - x.head).toNat
      (n ≤ 2 ^ x.log2n → (v.setWidth 32 - x.tail).toNat < 2 ^ 31 →
        Does s (.lqtailWrite q v) (fun t => t.queue q = { x with tail := v.setWidth 32, rcd := (t.queue q).rcd } ∧ t.parts = s.parts
          ∧ (∀ w, x.rcd = some w → (t.queue q).rcd = some w)
          ∧ (x.rcd = none → v.setWidth 32 ≠ x.head → s.inPart x.part x.headAt = true → (t.queue q).rcd = some (s.homeNat x.headAt 64)))) ∧
      (2 ^ x.log2n < n ∨ 2 ^ 31 ≤ (v.setWidth 32 - x.tail).toNat → s.canPost x.part = true →
        Does s (.lqtailWrite q v) (fun t => t.queue q = x ∧ (t.part x.part).fqtail = (s.part x.part).fqtail + 1)))) ∧
  (∀ (s : State) (q : Nat),
    let x := s.queue q
    Does s (.depPoll q) (fun t => { t with queues := [] } = { s with queues := [] } ∧ (∀ r, r ≠ q → t.queue r = s.queue r)
      ∧ t.queue q = { x with rcd := (t.queue q).rcd } ∧ (∀ w, x.rcd = some w → (t.queue q).rcd = some w)
      ∧ (s.pkg.halted = false → x.en = true → x.tail ≠ x.head → x.rcd = none → s.inPart x.part x.headAt = true →
          (t.queue q).rcd = some (s.homeNat x.headAt 64)))) ∧
  (∀ (s : State) (p : Nat), s.pkg.halted = false →
    (∀ q, s.liveCode p = true → (s.part p).halting = false → (s.launches.filter (fun e => e.2.part == p)).length < 256 →
      s.pickQueue p = some q →
      (∀ n, s.checkRecord p q (s.headRec q) = .error n → s.canPost p = true →
        Does s (.launchTake p) (fun t => (t.queue q).head = (s.queue q).head + 1 ∧ t.launches = s.launches
          ∧ (t.part p).fqtail = (s.part p).fqtail + 1 ∧ (t.part p).nextQueue = (q + 1) % 64)) ∧
      (∀ x pipes, s.checkRecord p q (s.headRec q) = .ok (x, pipes) →
        Does s (.launchTake p) (fun t => (t.queue q).head = (s.queue q).head + 1 ∧ t.nextLaunch = s.nextLaunch + 1
          ∧ (t.part p).fqtail = (s.part p).fqtail
          ∧ ∃ y, t.launch s.nextLaunch = some y ∧ y.stages = x.stages ∧ y.part = x.part ∧ y.desc = x.desc
            ∧ (x.hitch = false → y = x)))) ∧
    (∀ l x m z, s.launch l = some x → x.part = p → x.active = false → s.isDoomed l = false → x.stages = m :: z →
      (x.stages.map (fun g => g.shareMin)).sum ≤ (s.freeCores p).length →
      (∀ k y, s.launch k = some y → y.part = p → k ≠ l → y.active = true) →
      Does s (.hitchActivate p) (fun t => (∃ y, t.launch l = some y ∧ y.active = true ∧ y.stages = x.stages)
        ∧ (∀ c ∈ (s.freeCores p).take m.shareMin, (t.core c).heldBy = some (l, 0))
        ∧ ∀ c, c ∉ s.freeCores p → (t.core c).heldBy = (s.core c).heldBy)) ∧
    (∀ l x, s.launch l = some x → x.active = true → s.isDoomed l = false → x.stages.all Stage.isDone = true →
      Does s (.launchComplete l) (fun t => t.launch l = none ∧ (∀ c, (t.core c).heldBy.map Prod.fst ≠ some l)
        ∧ (∀ tr, x.hitch = false → x.status ≠ 0 → x.status.toNat % 8 = 0 → s.devTr x.part x.ctx x.status.toNat true = some tr →
            NoSnap s → s.hostL2.rising = true → StoredAt s t tr.pa (toBytes 8 (if x.faulted then 0x60 else 1))))) ∧
    (∀ l x g tr, s.launch l = some x → x.hitch = true → x.active = true → x.lastDone + 10 ≤ s.us → x.stages = [g] →
      s.devTr x.part x.ctx (x.desc.toNat + 88) true = some tr → NoSnap s → s.hostL2.rising = true →
      Does s (.donewWrite l) (fun t => (∃ y, t.launch l = some y ∧ y.lastDone = s.us)
        ∧ StoredAt s t tr.pa (toBytes 4 g.watermark))))

/-- 14 R299, R303, R304, R384: ranges go to decks whose pool runs low; the Teamster begins and ends the move of a core; the monitor sees
no deadlock, spills a tile of one that has lasted, or halts the hitch. That ranges that have come back go first is log 98; that a launch
whose halt waits for its record gets none is log 97. 14 R301, R302: a deck with an empty pool has the upper half of a victim's largest
run; the landing, its acknowledgement, the transfer, the confirmation and the refusal; what is reclaimed, and what is asked of the
master. A message that leaves the partition's NETBOUND is dropped (17 R358; whence the device's own go is log 85). -/
def Obligations.ScheduleEvents : Prop :=
  (∀ (s : State) (l : Nat) (x : Launch), s.pkg.halted = false → s.launch l = some x → x.active = true →
     (∀ k d z, s.isDoomed l = false → s.stage l k = some z → (s.part x.part).halting = false → s.ableDeck x l k d = true → x.poolSize d < 16 →
       (∀ r rs, z.returned = r :: rs → Does s (.rangeIssue l k d) (fun t => ∃ w, t.stage l k = some w
         ∧ w.pools = z.pools ++ [{ lo := r.lo, hi := r.hi, deck := d }] ∧ w.returned = rs ∧ w.next = z.next
         ∧ ∀ n, r.lo ≤ n → n ≤ r.hi → w.holder n = some d)) ∧
       (z.returned = [] → z.next < z.total → Does s (.rangeIssue l k d) (fun t => ∃ w, t.stage l k = some w
         ∧ w.pools = z.pools ++ [{ lo := z.next, hi := min (z.next + 64) z.total - 1, deck := d }]
         ∧ w.next = min (z.next + 64) z.total ∧ ∀ n, z.next ≤ n → n < w.next → w.holder n = some d))) ∧
     (∀ c dn vn, s.isDoomed l = false → x.tms = true → x.move = none → s.moveOf l x = some (c, dn, vn) →
       Does s (.teamsterTick l) (fun t => (∃ y, t.launch l = some y ∧ y.move = some (c, dn, vn))
         ∧ t.core c = { s.core c with moving := true } ∧ ∀ k, k ≠ c → t.core k = s.core k)) ∧
     (∀ c dn vn, x.move = some (c, dn, vn) → s.stageTeamsOn l dn c = [] →
       Does s (.moveEnd l) (fun t => (∃ y, t.launch l = some y ∧ y.move = none)
         ∧ t.core c = { s.core c with heldBy := some (l, vn), moving := false } ∧ ∀ k, k ≠ c → t.core k = s.core k)) ∧
     (s.isDoomed l = false → x.hitch = true → s.deadSet l x = [] →
       Does s (.deadlockTick l) (fun t => ∃ y, t.launch l = some y ∧ y.since = none ∧ y.stages = x.stages)) ∧
     (∀ k ks t0, s.isDoomed l = false → x.hitch = true → s.deadSet l x = k :: ks → x.lastD = k :: ks → x.seenCommits = s.commitsAt l (k :: ks) → x.since = some t0 →
       (s.us < t0 + x.hold → Does s (.deadlockTick l) (fun t => ∃ y, t.launch l = some y ∧ y.since = some t0)) ∧
       (t0 + x.hold ≤ s.us →
         (s.spillPipes l x (k :: ks) = [] → s.canPost x.part = true → (∀ e ∈ s.teams, e.2.launch = l → s.CacheGood e.2.core) →
           Does s (.deadlockTick l) (fun t => t.launch l = none ∧ (∀ e ∈ t.teams, e.2.launch ≠ l)
             ∧ (t.part x.part).fqtail = (s.part x.part).fqtail + 1)) ∧
         (∀ p ps y u, s.spillPipes l x (k :: ks) = p :: ps → x.spills.fresh x.spillN 0 < x.spillN → s.pipe p = some y →
           y.spillable = some u →
           Does s (.deadlockTick l) (fun t => ∃ w z, t.pipe p = some w ∧ t.launch l = some z ∧ w.seq = y.seq + 1
             ∧ w.tiles = y.tiles.map (fun v => if v.seq = u.seq then { v with spill := true, slot := 0 } else v)
             ∧ z.spills.find (x.spills.fresh x.spillN 0) = some { pipe := p % 64, seq := u.seq }))))) ∧
  (∀ (s : State) (l : Nat) (x : Launch), s.pkg.halted = false → s.launch l = some x →
     (∀ thief vic k r, x.active = true → (∀ g ∈ x.stages, g.nextRange = none) → x.poolSize thief = 0 → thief < 8 →
       s.idleFor l x thief = true → (∀ v ∈ s.victims x.part thief, s.netOk x.part thief v.1 = true) →
       (s.victims x.part thief).findSome? (fun v => (x.largest v.1 v.2).map (fun e => (v.1, e))) = some (vic, k, r) →
       Does s (.stealRequest l thief) (fun t => ∃ y n, t.launch l = some y ∧ y.lends = x.lends ++ [n] ∧ n.victim = vic ∧ n.thief = thief
         ∧ n.stage = k ∧ n.hi = r.hi ∧ n.lo = r.hi + 1 - (r.hi + 1 - r.lo + 1) / 2 ∧ n.seq = (s.deck vic).lendSeq.toNat ∧ n.lent = true
         ∧ n.mLanding = true ∧ n.shipped = s.us ∧ (t.deck vic).lendSeq = (s.deck vic).lendSeq + 1)) ∧
     (∀ thief v vs, x.active = true → (∀ g ∈ x.stages, g.nextRange = none) → x.poolSize thief = 0 → thief < 8 →
       s.idleFor l x thief = true → s.victims x.part thief = v :: vs → s.netOk x.part thief v.1 = false →
       Does s (.stealRequest l thief) (fun t => t = s.dropPacket x.part)) ∧
     (∀ v q e, s.lend l v q = some e →
       let m := s.masterDeck x.part
       let ok (a b : Nat) : Prop := s.netOk x.part a b = true
       let pools (t : State) (d : Nat) : Prop := ∀ z, s.stage l e.stage = some z →
         ∃ w, t.stage l e.stage = some w ∧ w.pools = z.pools ++ [{ lo := e.lo, hi := e.hi, deck := d }]
       (e.mLanding = true → ¬ ok e.victim e.thief →
         Does s (.landing l v q) (fun t => (∀ k, t.stage l k = s.stage l k) ∧ ∀ y, t.lend l v q = some y → y.mLanding = false ∧ y.mAck = e.mAck)) ∧
       (e.mLanding = true → ok e.victim e.thief → (s.deck e.thief).receives = true →
         Does s (.landing l v q) (fun t => t.lend l v q = some { e with mLanding := false, landed := some s.us, mAck := true })) ∧
       (e.mAck = true → ok e.thief e.victim → Does s (.lendAck l v q) (fun t => t.lend l v q = some (if e.lent
         then { e with mAck := false, lent := false, mTransfer := true } else { e with mAck := false, mRefuse := true }))) ∧
       (e.mTransfer = true → ok e.victim m → (s.deck e.thief).live = true →
         Does s (.transfer l v q) (fun t => t.lend l v q = some { e with mTransfer := false, mConfirm := true, named := true }
           ∧ ∀ z, s.stage l e.stage = some z →
               ∃ w, t.stage l e.stage = some w ∧ ∀ n, e.lo ≤ n → n ≤ e.hi → w.holder n = some e.thief)) ∧
       (e.mConfirm = true → ok m e.thief → e.landed.isSome → Does s (.confirmation l v q) (fun t => pools t e.thief
         ∧ ∀ y, t.lend l v q = some y → y.mConfirm = false ∧ y.landed = none)) ∧
       (e.mRefuse = true → ok e.victim e.thief → Does s (.lendRefusal l v q) (fun t => ∀ y, t.lend l v q = some y → y.mRefuse = false ∧ y.landed = none)) ∧
       (e.lent = true → e.shipped + 2 ≤ s.us → Does s (.lendReclaim l v q) (fun t => pools t e.victim
         ∧ ∀ y, t.lend l v q = some y → y.lent = false)) ∧
       (∀ t0, e.landed = some t0 → t0 + 4 ≤ s.us → ok e.thief m →
         (e.named = true → (∃ z, s.stage l e.stage = some z ∧ z.holder e.lo = some e.thief) →
           Does s (.landedTimeout l v q) (fun t => pools t e.thief ∧ ∀ y, t.lend l v q = some y → y.landed = none)) ∧
         (e.named = false → Does s (.landedTimeout l v q) (fun t => (∀ k, t.stage l k = s.stage l k)
           ∧ ∀ y, t.lend l v q = some y → y.landed = none)))))

/-- 00 R3, 15 R306, R307, 16 R326, R328, R345: what a write of the host changes of the fault queue and of the registers that have no row
of their own; a record that waited is posted when there is room and goes on waiting when there is none (log 23, DEDUCED), and so is the
halt of a launch made (log 97); FCMD starts a command. -/
def Obligations.HostRegisterEvents : Prop :=
  ∀ (s : State) (p : Nat) (v : GWord), s.mgmt = true →
    (s.answers p = true →
      let x := s.part p
      let only (t : State) (y : Part) : Prop := t.part p = y ∧ (∀ j, j ≠ p → t.part j = s.part j) ∧ { t with parts := [] } = { s with parts := [] }
      (x.heldRecs = [] → x.doomed = [] → x.fqcfg.getLsbD 0 = true → Does s (.fqcfgWrite p v) (fun t =>
        only t { x with fqcfg := BitVec.ofNat 64 (x.fqcfg.toNat / 2 * 2 + v.toNat % 2) })) ∧
      (x.heldRecs = [] → x.doomed = [] → x.fqcfg.getLsbD 0 = false → v.getLsbD 0 = true → 6 ≤ bits v.toNat 8 4 → Does s (.fqcfgWrite p v) (fun t =>
        only t { x with fqcfg := BitVec.ofNat 64 (bits v.toNat 8 44 * 2 ^ 8 + 1), fqtail := 0, fqhead := 0 })) ∧
      (x.heldRecs = [] → x.doomed = [] → x.fqcfg.getLsbD 0 = false → v.getLsbD 0 = false ∨ bits v.toNat 8 4 < 6 → Does s (.fqcfgWrite p v) (fun t =>
        only t { x with fqcfg := BitVec.ofNat 64 (bits v.toNat 8 44 * 2 ^ 8) })) ∧
      (x.heldRecs = [] → x.doomed = [] → Does s (.fqheadWrite p v) (fun t => only t { x with fqhead := v.setWidth 32 })) ∧
      (∀ w ws, x.heldRecs = w :: ws → x.doomed = [] →
        let room := (x.fqtail - v.setWidth 32).toNat < 2 ^ bits x.fqcfg.toNat 8 4
        (x.fqcfg.getLsbD 0 = true → room → ws = [] → Does s (.fqheadWrite p v) (fun t =>
          (t.part p).heldRecs = [] ∧ (t.part p).fqtail = x.fqtail + 1 ∧ (t.part p).fqhead = v.setWidth 32 ∧ (t.part p).fqcfg = x.fqcfg)) ∧
        (x.fqcfg.getLsbD 0 = false ∨ ¬ room → Does s (.fqheadWrite p v) (fun t => only t { x with fqhead := v.setWidth 32 }))) ∧
      (∀ d y, x.heldRecs = [] → x.doomed = [d] → s.launch d.launch = some y → y.part = p → (∀ e ∈ s.teams, e.2.launch ≠ d.launch) →
        x.fqcfg.getLsbD 0 = true → (x.fqtail - v.setWidth 32).toNat < 2 ^ bits x.fqcfg.toNat 8 4 →
        Does s (.fqheadWrite p v) (fun t => t.launch d.launch = none ∧ (t.part p).doomed = [] ∧ (t.part p).fqtail = x.fqtail + 1)) ∧
      (p < 7 →
        Does s (.registerWrite (0x20000 + 0x40 * p) v) (fun t => only t { x with ctxtab := BitVec.ofNat 64 (bits v.toNat 19 33 * 2 ^ 19) }) ∧
        Does s (.registerWrite (0x30000 + 0x40 * p) v) (fun t =>
          only t { x with biasbase := BitVec.ofNat 64 (bits v.toNat 12 40 * 2 ^ 12 + v.toNat % 2) }) ∧
        Does s (.registerWrite (0x30018 + 0x40 * p) v) (fun t => only t { x with holdlim := v.setWidth 32 }) ∧
        Does s (.registerWrite (0x60000 + 0x40 * p) v) (fun t => only t (if s.unquiet p = 0 then { x with intcfg := v.setWidth 2 } else x)) ∧
        Does s (.registerWrite (0x60008 + 0x40 * p) v) (fun t => only t { x with intstat := x.intstat &&& ~~~(v.setWidth 4) }))) ∧
    (s.pkg.ports.all (fun e => e.2.state != 1 && e.2.state != 2) = true →
      Does s (.registerWrite 0x40008 v) (fun t => t = { s with pkg := { s.pkg with ualid := v.setWidth 10 } })) ∧
    Does s (.registerWrite 0x50010 v) (fun t => t = { s with pkg := { s.pkg with fbuf := BitVec.ofNat 64 (bits v.toNat 12 40 * 2 ^ 12) } }) ∧
    Does s (.registerWrite 0x50028 v) (fun t => t = { s with pkg := { s.pkg with tamperstat := s.pkg.tamperstat &&& ~~~(v.setWidth 4) } }) ∧
    Does s (.registerWrite 0x50038 v) (fun t => t = { s with pkg := { s.pkg with fintstat := s.pkg.fintstat &&& ~~~(v.setWidth 3) } }) ∧
    (∀ n, n < 128 → Does s (.registerWrite (0x41000 + 8 * n) v) (fun t =>
      (t.pkg.fabgraph.get 0 n) >>> 1 = BitVec.ofNat 64 (bits v.toNat 1 20)
        ∧ ((t.pkg.fabgraph.get 0 n).getLsbD 0 = true ↔ v.getLsbD 0 = true ∧ bits v.toNat 13 2 ≠ 3 ∧ bits v.toNat 11 2 < 2
            ∧ bits v.toNat 8 2 ≠ 3 ∧ (bits v.toNat 8 2 = 0 ∨ v.getLsbD 7 = false)))) ∧
    (s.pkg.fstate ≠ 1 → fcmdKnown (bits v.toNat 0 8) = true → Does s (.registerWrite 0x50000 v) (fun t => t = { s with pkg := { s.pkg with
      fcmd := BitVec.ofNat 64 (bits v.toNat 16 48 * 2 ^ 16 + bits v.toNat 0 8), fstate := 1, freason := 0 } })) ∧
    (s.pkg.fstate ≠ 1 → fcmdKnown (bits v.toNat 0 8) = false → Does s (.registerWrite 0x50000 v) (fun t =>
      t.pkg.fstate = 3 ∧ t.pkg.freason = 1 ∧ t.pkg.fintstat.getLsbD 0 = true))

/-- 17 R353 to R365: power up and package reset boot the package from its flash (whose contents are open, log 4, and so is whether its
checks pass, log 9); attestation writes its report; MERGE and SPLIT change the layout of quiesced partitions and RESET formats one in
place, their memory reads 0, and the held requests are served at the end. That layout and memory change when the command is taken and
FORMAT_COMPLETE comes later is the model's choice (log 54). -/
def Obligations.PartitionEvents : Prop :=
  ∀ (s : State),
    let answered (t : State) (st reason : Nat) : Prop := t.pkg.fstate = st ∧ t.pkg.freason = reason ∧ t.pkg.fintstat.getLsbD 0 = true
    let fresh (t : State) : Prop := t.teams = [] ∧ t.launches = [] ∧ t.queues = [] ∧ t.mem = [] ∧ t.cores = [] ∧ t.pkg.codes = s.pkg.recordLayout
      ∧ t.pkg.booted = bootOk s.pkg ∧ t.pkg.halted = !bootOk s.pkg ∧ t.pkg.clockMhz = 2250 ∧ t.pkg.tamperpol = none ∧ t.pkg.pwrcap = 2200
      ∧ t.pkg.keyErased = s.pkg.keyErased ∧ (bootOk s.pkg = false → t.pkg.fstate = 3 ∧ t.pkg.freason = 0x0F)
    (s.pkg.lidLatched = false → Does s .powerUp (fun t => fresh t ∧ t.pkg.tamperstat = 0 ∧ (bootOk s.pkg = true → t.pkg.fstate = 0))) ∧
    (s.farg 0x13 = some 0xA5A5 → s.pkg.halted = true ∨ s.unquietAny (indices 7 s.liveCode) = 0 →
      Does s .pkgreset (fun t => fresh t ∧ (bootOk s.pkg = true → t.pkg.fstate = 2 ∧ t.pkg.freason = 0))) ∧
    (s.farg 0x01 = some 0 → s.pkg.keyErased = false → NoSnap s → s.hostL2.rising = true → Does s .attest (fun t => answered t 2 0
      ∧ (∀ k, k < 32 → t.homeByte (s.pkg.fbuf.toNat + 64 + k) = s.homeByte (s.pkg.fbuf.toNat + k))
      ∧ ∀ a, a < s.pkg.fbuf.toNat + 64 ∨ s.pkg.fbuf.toNat + 1504 ≤ a → t.homeByte a = s.homeByte a)) ∧
    (let gone (t : State) (ps : List Nat) : Prop :=
        (∀ p ∈ ps, ∀ a, (s.part p).inHbm a = true → isHost a = false → t.homeByte a = 0) ∧ t.pkg.format.isSome ∧ t.pkg.fstate = 1
     (s.pkg.codes = [1, 1, 2, 2] → s.farg 0x10 = some 0 → s.unquiet 1 = 0 → s.unquiet 2 = 0 →
        Does s .merge (fun t => t.pkg.codes = [0, 0, 0, 0] ∧ gone t [1, 2])) ∧
     (∀ c d, s.pkg.codes = [3, 4, c, d] → s.farg 0x10 = some 1 → s.unquiet 3 = 0 → s.unquiet 4 = 0 →
        Does s .merge (fun t => t.pkg.codes = [1, 1, c, d] ∧ gone t [3, 4])) ∧
     (∀ c d, s.pkg.codes = [c, d, 5, 6] → s.farg 0x10 = some 2 → s.unquiet 5 = 0 → s.unquiet 6 = 0 →
        Does s .merge (fun t => t.pkg.codes = [c, d, 2, 2] ∧ gone t [5, 6])) ∧
     (s.pkg.codes = [0, 0, 0, 0] → s.farg 0x11 = some 0 → s.unquiet 0 = 0 →
        Does s .split (fun t => t.pkg.codes = [1, 1, 2, 2] ∧ gone t [0])) ∧
     (∀ c d, s.pkg.codes = [1, 1, c, d] → s.farg 0x11 = some 1 → s.unquiet 1 = 0 →
        Does s .split (fun t => t.pkg.codes = [3, 4, c, d] ∧ gone t [1])) ∧
     (∀ c d, s.pkg.codes = [c, d, 2, 2] → s.farg 0x11 = some 2 → s.unquiet 2 = 0 →
        Does s .split (fun t => t.pkg.codes = [c, d, 5, 6] ∧ gone t [2])) ∧
     (∀ p, s.farg 0x12 = some p → s.liveCode p = true → s.pkg.codes.length = 4 → s.unquiet p = 0 →
        Does s .reset (fun t => t.pkg.codes = s.pkg.codes ∧ gone t [p]))) ∧
    (∀ l, s.pkg.format = some l → Does s .formatComplete (fun t => answered t 2 0 ∧ t.pkg.format = none
      ∧ t.pkg.heldHost = s.pkg.heldHost.filter (fun e => !l.any (fun p => (s.part p).inHbm e.1)))) ∧
    (∀ code, s.farg code = some 0x10000 →
      (code = 0x01 → Does s .attest (fun t => answered t 3 1)) ∧ (code = 0x10 → Does s .merge (fun t => answered t 3 1)) ∧
      (code = 0x11 → Does s .split (fun t => answered t 3 1)) ∧ (code = 0x13 → Does s .pkgreset (fun t => answered t 3 1)) ∧
      (code = 0x30 → Does s .erase (fun t => answered t 3 1)))

/-- 17 R353, R375 to R382: fencing a deck; tamper policies and alarms, the power cap, the clock and the thermal halt; ERASE, SLEEP and
WAKE. That the clock comes back up in the same steps is the model's (log 32), and so are the value that extends M2, the written one
masked to its field, and that a later write of TAMPERPOL leaves M2 (log 53). -/
def Obligations.PowerEvents : Prop :=
  ∀ (s : State),
    (∀ d, s.pkg.halted = false → d < 8 → (s.deck d).live = true →
      let p := s.codeOfDeck d
      (∃ e ∈ s.decksOf p, e ≠ d ∧ (s.deck e).live = true) → (∀ e ∈ s.teams, deckOfCore e.2.core ≠ d) → (s.part p).saved = [] →
      (s.part p).intcfg.getLsbD 0 = false → s.canPost p = true → (∀ g lane r, s.acquiring g lane = some r → deckOfCore r.core ≠ d) →
      Does s (.fenceDeck [d]) (fun t =>
        (t.deck d).live = false ∧ (t.deck d).sendQ = [] ∧ (t.part p).fqtail = (s.part p).fqtail + 1 ∧ t.teams = s.teams
          ∧ (∀ i, i < 48 → t.core (48 * d + i) = Core.empty) ∧ (∀ a r, t.recs.find a = some r → deckOfCore r.core ≠ d)
          ∧ ∀ l x, t.launch l = some x → x.part = p → s.isDoomed l = false → ∀ g ∈ x.stages, ∀ r ∈ g.pools, r.deck ≠ d)) ∧
    (∀ v, s.mgmt = true →
      (s.pkg.tamperpol = none → Does s (.tamperpolWrite v) (fun t => t.pkg.tamperpol = some (v.setWidth 8)
        ∧ t.pkg.m2log = s.pkg.m2log ++ [v &&& 0xFF] ∧ { t with pkg := s.pkg } = s)) ∧
      (s.pkg.tamperpol.isSome → Does s (.tamperpolWrite v) (fun t => t = s)) ∧
      Does s (.pwrcapWrite v) (fun t => t.pkg.pwrcap = v.setWidth 12 ∧ t.pkg.m2log = s.pkg.m2log ++ [v &&& 0xFFF]
        ∧ { t with pkg := s.pkg } = s)) ∧
    (∀ n, n < 4 → s.pkg.booted = true →
      let pol := (match s.pkg.tamperpol with
        | some w => w.toNat
        | none => 0) / 4 ^ n % 4
      Does s (.tamperAlarm n) (fun t => t.pkg.tamperstat = s.pkg.tamperstat ||| 1#4 <<< n ∧ t.pkg.halted = (s.pkg.halted || pol != 0)
        ∧ t.pkg.keyErased = (s.pkg.keyErased || decide (2 ≤ pol)))) ∧
    (∀ w j, s.pkg.halted = false → Does s (.powerControl w j) (fun t => t = { s with pkg := { s.pkg with
      clockMhz := if 105 < j then 1500 else if max 900 s.pkg.pwrcap.toNat < w then max 1500 (s.pkg.clockMhz - 75)
        else min 2250 (s.pkg.clockMhz + 75) } })) ∧
    (s.mgmt = true → Does s .thermalHalt (fun t => t.pkg.halted = true ∧ t.pkg.tamperstat = s.pkg.tamperstat)) ∧
    (s.farg 0x30 = some 0x5A5A → Does s .erase (fun t => t.pkg.keyErased = true ∧ t.pkg.fstate = 2)) ∧
    (∀ d, s.pkg.halted = false → d < 8 →
      (s.farg 0x20 = some d → (s.deck d).awake = true → (s.deck d).sleeping = false → s.noSleep d = false → (s.deck d).sendQ = [] →
        Does s .sleep (fun t => (t.deck d).awake = false ∧ (t.deck d).rep = (s.deck d).rep ∧ t.pkg.fstate = 2
          ∧ ∀ c, c / 48 = d → (t.core c).l1 = [])) ∧
      (s.farg 0x20 = some d → (s.deck d).awake = true → (s.deck d).sleeping = false → s.noSleep d = true →
        Does s .sleep (fun t => t.deck d = s.deck d ∧ t.pkg.fstate = 3 ∧ t.pkg.freason = 7)) ∧
      (s.farg 0x21 = some d → (s.deck d).awake = false → (s.deck d).live = true →
        Does s .wake (fun t => t.deck d = { s.deck d with awake := true, stale := true, copying := none, waking := true }
          ∧ t.pkg = s.pkg)))

/-- 16 R327 to R332, R334 to R341: the link trains, comes up and is reset; the host reads and writes device memory through its HDM
decoders (log 105), held while its page is flipped; a snoop gives its line back; a page changes its bias; a pending vector is sent. What
the bounds of a partition say of the host's requests, by their home slice, is log 85; that an interrupt waits for the link is log 55. 06
R153, 16 R330, R331, R342 to R348: ports; the tiles and the messages of pipes that leave the package; what is dropped and counted. A
tile here passes no graph; a merge here misses a sender. What waits for a port that is not up is sent when it is, and lost when it fails
(log 93); that a pipe is on every port from which its tiles are gathered, and which number a SEQ stands for, are logs 33 and 84. -/
def Obligations.LinkEvents : Prop :=
  (∀ (s : State),
     (s.mgmt = true → s.linkState = 0 → Does s .perstDeassert (fun t => t.pkg.cxlstat = 1 ∧ t.pkg.fintstat.getLsbD 2 = true)) ∧
     (∀ cxl flit width speed, s.mgmt = true → s.linkState = 1 → (width = 4 ∨ width = 8 ∨ width = 16) → 1 ≤ speed → speed ≤ 6 →
       Does s (.linkUp cxl flit width speed) (fun t => t.linkState = (if cxl then 3 else 2) ∧ t.pkg.cxlstat.toNat / 2 ^ 16 = width
         ∧ t.pkg.cxlstat.toNat / 2 ^ 12 % 16 = speed ∧ t.pkg.cxlstat.getLsbD 4 = flit)) ∧
     (s.linkState ≠ 0 → Does s .hostLinkReset (fun t => t.linkState = 0 ∧ t.pkg.heldHost = [] ∧ t.pkg.biReqs = [] ∧ t.snoop = [])) ∧
     (∀ a pa p, s.cxlUp = true → s.hdmDpa a = some pa → s.partAt pa = some p → s.heldBack pa = false →
       (s.part p).netbound.getLsbD (s.lineSlice p pa / 96) = false → Does s (.hostMemRead a) (fun t => { t with pkg := s.pkg } = s.dropPacket p)) ∧
     (∀ a pa p, s.cxlUp = true → s.hdmDpa a = some pa → s.partAt pa = some p → s.heldBack pa = false →
       (s.part p).netbound.getLsbD (s.lineSlice p pa / 96) = true → s.hostL2.rising = true →
       s.hostBias p pa = true ∨ s.recs.find (pa / 128) = none →
       (s.snoop.filter (fun l => s.lineSlice p (128 * l) == s.lineSlice p (128 * (pa / 128)))).length < 8192 →
       Does s (.hostMemRead a) (fun t => t.pkg.hostOut = s.pkg.hostOut
           ++ [(pa / 64 * 64, s.homeBytes (pa / 64 * 64) 64, s.poisonedIn p (pa / 64 * 64) 64)]
         ∧ (s.hostBias p pa = true → pa / 128 ∈ t.snoop) ∧ t.groups = s.groups ∧ ∀ a, t.homeByte a = s.homeByte a)) ∧
     (∀ a pa p r, s.cxlUp = true → s.hdmDpa a = some pa → s.partAt pa = some p → s.heldBack pa = false → s.hostBias p pa = false →
       (s.part p).netbound.getLsbD (s.lineSlice p pa / 96) = true → s.recs.find (pa / 128) = some r →
       s.netOk p (s.lineSlice p (pa / 128 * 128) / 96) (deckOfCore r.core) = true →
       markLe r.mark (s.core r.core).settled = false → Does s (.hostMemRead a) (fun t => (t.core r.core).settled = r.mark
         ∧ t.pkg.hostOut = s.pkg.hostOut ++ [(pa / 64 * 64, t.homeBytes (pa / 64 * 64) 64, t.poisonedIn p (pa / 64 * 64) 64)])) ∧
     (∀ a pa p bs, s.cxlUp = true → s.hdmDpa a = some pa → s.partAt pa = some p → s.heldBack pa = false → bs ≠ [] →
       a % 64 + bs.length ≤ 64 → pa % 64 = a % 64 → (s.part p).netbound.getLsbD (s.lineSlice p pa / 96) = true → NoSnap s →
       s.hostL2.rising = true → Does s (.hostMemWrite a bs) (fun t => StoredAt s t pa bs ∧ t.groups = s.groups)) ∧
     (∀ a pa bs, s.cxlUp = true → s.hdmDpa a = some pa → s.heldBack pa = true →
       Does s (.hostMemRead a) (fun t => t = { s with pkg := { s.pkg with heldHost := s.pkg.heldHost ++ [(pa, none)] } }) ∧
       (bs ≠ [] → a % 64 + bs.length ≤ 64 →
         Does s (.hostMemWrite a bs) (fun t => t = { s with pkg := { s.pkg with heldHost := s.pkg.heldHost ++ [(pa, some bs)] } }))) ∧
     (∀ pa, s.cxlUp = true → s.snoop.contains (pa / 128) = true →
       (∀ p, p < 7 → (s.part p).flip = some (pa / 4096, false) →
         Does s (.biconflict pa) (fun t => t = { s with pkg := { s.pkg with biAcks := s.pkg.biAcks ++ [pa / 128] } })) ∧
       ((∀ p, p < 7 → (s.part p).flip ≠ some (pa / 4096, false)) → s.pkg.biReqs.contains (pa / 128) = false →
         Does s (.biconflict pa) (fun t => t = { s with pkg := { s.pkg with biReqs := pa / 128 :: s.pkg.biReqs } }))) ∧
     (∀ pa inv, s.cxlUp = true → Tab.rising s.hostL2 = true →
       Does s (.hostSnoop pa inv) (fun t => (isHost pa = true → ∀ a, a / 128 = pa / 128 → t.hostL2.find a = none)
         ∧ ∀ a, t.homeByte a = s.homeByte a)) ∧
     (∀ p (v : GWord), s.answers p = true → v.getLsbD 0 = true → (s.part p).flipState ≠ 1 →
       let x := s.part p
       let pg := bits v.toNat 12 40
       let state (t : State) (st reason : Nat) : Prop := (t.part p).flipState = st ∧ (t.part p).flipReason = reason
       (x.inHbm (pg * 4096) = false → Does s (.flip p v) (fun t => state t 3 1)) ∧
       (x.inHbm (pg * 4096) = true → x.biasbase.getLsbD 0 = false → Does s (.flip p v) (fun t => state t 3 2)) ∧
       (x.inHbm (pg * 4096) = true → x.biasbase.getLsbD 0 = true →
         (x.flipForbidden pg = true → Does s (.flip p v) (fun t => state t 3 3)) ∧
         (x.flipForbidden pg = false →
           (s.hostBias p (pg * 4096) = v.getLsbD 1 → Does s (.flip p v) (fun t => state t 2 0)) ∧
           (s.hostBias p (pg * 4096) ≠ v.getLsbD 1 →
             Does s (.flip p v) (fun t => state t 1 0 ∧ (t.part p).flip = some (pg, v.getLsbD 1)))))) ∧
     (∀ p pg dir, s.pkg.halted = false → (s.part p).flip = some (pg, dir) → dir = false ∨ s.pageLocked p pg = false →
       (s.part p).biasbase.getLsbD 0 = true → (s.part p).inHbm (pg * 4096) = true → NoSnap s →
       (let a := ((s.part p).biasAt pg).1
        isHost a = false ∧ isRein a = false ∧ (s.part p).inHbm a = true ∧ s.homeOk p (s.masterDeck p) a = true) →
       (∀ e ∈ s.pkg.heldHost, e.1 / 4096 ≠ pg) →
       Does s (.flipComplete p) (fun t => (t.part p).flip = none
         ∧ (s.cmdsHeld p = false → (t.part p).flipState = 2 ∧ (t.part p).flipped = none)
         ∧ (s.cmdsHeld p = true → (t.part p).flipState = (s.part p).flipState ∧ (t.part p).flipped = some pg) ∧ t.hostBias p (pg * 4096) = dir
         ∧ (dir = true → ∀ a r, t.recs.find a = some r → a / 32 ≠ pg) ∧ (dir = false → ∀ a ∈ t.snoop, a / 32 ≠ pg))) ∧
     (∀ p pg, s.pkg.halted = false → (s.part p).flip = none → (s.part p).flipped = some pg → s.cmdsHeld p = false →
       (∀ e ∈ s.pkg.heldHost, e.1 / 4096 ≠ pg) →
       Does s (.flipComplete p) (fun t => (t.part p).flipState = 2 ∧ (t.part p).flipReason = 0 ∧ (t.part p).flipped = none
         ∧ t.pkg.heldHost = s.pkg.heldHost)) ∧
     (∀ n, s.pkg.msixPend.contains n = true → s.pkg.msixMasked.contains n = false → s.vectorUp n = true →
       Does s (.msixSend n) (fun t => t = { s with pkg := { s.pkg with
         msixPend := s.pkg.msixPend.filter (· != n), msixSent := s.pkg.msixSent ++ [n] } }))) ∧
  (∀ (s : State) (n : Nat), n < 16 →
     let p := s.portPart n
     (∀ v, s.answers p = true → (s.port n).en ≠ v.getLsbD 0 →
       Does s (.portcfgWrite n v) (fun t => t.port n = { s.port n with en := v.getLsbD 0, state := if v.getLsbD 0 then 1 else 0 }
         ∧ (∀ k, k ≠ n → t.port k = s.port k) ∧ t.pkg.fintstat.getLsbD 2 = true)) ∧
     (s.pkg.halted = false →
       (∀ peer, peer < 1024 → (s.port n).state = 1 →
         Does s (.portUp n peer) (fun t => t.port n = { s.port n with state := 2, peer := peer, held := [] }
           ∧ t.pkg.outbox = s.pkg.outbox ++ (s.port n).held.map (fun m => (n, m.1.getD peer, m.2)) ∧ ∀ k, k ≠ n → t.port k = s.port k)) ∧
       ((s.port n).state = 1 ∨ (s.port n).state = 2 ∧ s.hitchesOn p n = [] →
         Does s (.portFail n) (fun t => t.port n = { s.port n with state := 3, held := [] } ∧ t.launches = s.launches)) ∧
       ((s.port n).state = 2 → s.canPost p = false → (∀ e ∈ s.launches, s.isDoomed e.1 = false) → (s.hitchesOn p n).length = 1 →
         Does s (.portFail n) (fun t => (t.port n).state = 3 ∧ t.launches = s.launches
           ∧ ∀ e ∈ s.hitchesOn p n, ∃ d ∈ (t.part p).doomed, d.launch = e.1 ∧ d.code = 0x55 ∧ d.pipe = e.2)) ∧
       ((s.port n).state = 2 →
         Does s (.errorCompletion n) (fun t => t.port n = { s.port n with errs := (s.port n).errs + 1 }
           ∧ t.pkg.errOut = s.pkg.errOut ++ [n]) ∧
         (∀ m, m.hok = true → m.kind = 0 ∨ 7 < m.kind →
           Does s (.droppedMessage n m) (fun t => t = s.bumpPipe p m.xpipe 24)) ∧
         (∀ m, m.hok = true → (s.part p).netbound.getLsbD (16 + n) = false → 1 ≤ m.kind → m.kind ≤ 7 →
           (m.kind = 1 → Does s (.tile n m) (fun t => t = s.dropPacket p)) ∧ (m.kind = 2 → Does s (.commit n m) (fun t => t = s.dropPacket p))) ∧
         (∀ m, m.hok = true → (s.part p).netbound.getLsbD (16 + n) = true →
           (s.inPipe n m false = none →
             (m.kind = 1 → Does s (.tile n m) (fun t => t = s.bumpPipe p m.xpipe 24)) ∧
             (m.kind = 2 → Does s (.commit n m) (fun t => t = s.bumpPipe p m.xpipe 24))) ∧
           (∀ k x, m.kind = 3 → s.inPipe n m true = some (k, x) → s.pipe k = some x →
             Does s (.credit n m) (fun t => t.pipe k = some { x with credits := x.credits + 1 })) ∧
           (∀ k x, s.inPipe n m false = some (k, x) → s.pipe k = some x →
             let num := x.numOf (s.inGraph k x) m
             (m.kind = 4 → Does s (.close n m) (fun t => ∃ y, t.pipe k = some y ∧ y.closedBy.find m.sender = some num)) ∧
             (m.kind = 5 → Does s (.pause n m) (fun t => ∃ y, t.pipe k = some y ∧ m.sender ∈ y.paused ∧ y.tiles = x.tiles)) ∧
             (m.kind = 6 → Does s (.resume n m) (fun t => ∃ y, t.pipe k = some y ∧ m.sender ∉ y.paused ∧ y.tiles = x.tiles)) ∧
             (s.inGraph k x = 0 → x.passed.get 0 m.sender = num → x.senders.contains m.sender = true →
               (m.kind = 1 → x.inTiles = [] → x.tiles.length < x.depth →
                 Does s (.tile n m) (fun t => ∃ y u, t.pipe k = some y ∧ y.inTiles = [u] ∧ u.sender = m.sender ∧ u.seq = num
                   ∧ u.tag = none ∧ y.tiles = x.tiles
                   ∧ ∀ j, j < min m.bytes.length (min m.len 224) → u.data.find (16 * m.off + j) = m.bytes[j]?)) ∧
               (m.kind = 2 → m.abortF = false → ∀ u, x.inTiles = [u] → u.sender = m.sender → u.seq = num → u.abort = false →
                 u.skip = false → (runFrom 0 u.data).length = x.rows * x.rowBytes →
                 Does s (.commit n m) (fun t => ∃ y w, t.pipe k = some y ∧ y.tiles = x.tiles ++ [w] ∧ y.inTiles = []
                   ∧ w.st = .committed ∧ w.seq = x.seq ∧ w.order = x.order ∧ w.tag = BitVec.ofNat 64 (ofBytes (m.bytes.take 8))
                   ∧ w.rcd = none ∧ w.bad = u.bad
                   ∧ ∀ j, j < x.rows * x.rowBytes → w.data.find j = (runFrom 0 u.data)[j]?)) ∧
               (m.kind = 7 → x.inTiles = [] → (s.part (s.codeOfQuarter (x.xport / 4))).netbound.getLsbD (16 + x.xport) = true →
                 (s.port x.xport).state = 2 → Does s (.abort n m) (fun t => ∃ c, t.pkg.outbox = s.pkg.outbox ++ [(x.xport, m.sender, c)] ∧ c.kind = 3
                   ∧ c.xpipe = x.xpipe % 64 ∧ c.hok = true))) ∧
             (m.kind = 7 → merges (s.inGraph k x) = true → fabNprod (s.inGraph k x) ≠ 0 → x.inTiles = [] → x.abandoned = [] →
               x.senders.contains m.sender = true → x.merged < num → x.tiles.length < x.depth →
               Does s (.abort n m) (fun t => ∃ y, t.pipe k = some y ∧ (y.abandoned.find num).isSome))))) ∧
       (∀ k j x l, s.pipe k = some x → s.launch (k / 64) = some l → l.active = true → x.xlink = 2 → merges (s.inGraph k x) = true →
         x.merged ≤ j → x.abandoned.find j = none → x.inTiles.any (fun t => t.seq == j) = true →
         x.paused.any (fun d => x.inTiles.all (fun t => !(t.sender == d && t.seq == j && t.tag.isSome))) = true →
         (s.part l.part).holdlim.toNat ≤ x.timers.get 0 j →
         Does s (.mergeHoldExpiry k j) (fun t => ∃ y, t.pipe k = some y ∧ ((y.abandoned.find j).isSome ∨ j < y.merged)))))
end

