-- ==== Sys2Proof/Laws/Dispatch.lean ====
section
/-! SUPPORT. The meaning of each instruction, one lemma for each constructor, so that no proof unfolds the dispatch. -/

namespace Sys2Proof.Machine

open Sys2Proof

theorem exec_gadd (d : GReg) (a : GReg) (b : GReg) (s : State) : exec (.gadd d a b) s = execGadd d a b s := rfl
theorem exec_gsub (d : GReg) (a : GReg) (b : GReg) (s : State) : exec (.gsub d a b) s = execGsub d a b s := rfl
theorem exec_gand (d : GReg) (a : GReg) (b : GReg) (s : State) : exec (.gand d a b) s = execGand d a b s := rfl
theorem exec_gor (d : GReg) (a : GReg) (b : GReg) (s : State) : exec (.gor d a b) s = execGor d a b s := rfl
theorem exec_gxor (d : GReg) (a : GReg) (b : GReg) (s : State) : exec (.gxor d a b) s = execGxor d a b s := rfl
theorem exec_gandn (d : GReg) (a : GReg) (b : GReg) (s : State) : exec (.gandn d a b) s = execGandn d a b s := rfl
theorem exec_gshl (d : GReg) (a : GReg) (b : GReg) (s : State) : exec (.gshl d a b) s = execGshl d a b s := rfl
theorem exec_gshr (d : GReg) (a : GReg) (b : GReg) (s : State) : exec (.gshr d a b) s = execGshr d a b s := rfl
theorem exec_gsra (d : GReg) (a : GReg) (b : GReg) (s : State) : exec (.gsra d a b) s = execGsra d a b s := rfl
theorem exec_gminI64 (d : GReg) (a : GReg) (b : GReg) (s : State) : exec (.gminI64 d a b) s = execGminI64 d a b s := rfl
theorem exec_gmaxI64 (d : GReg) (a : GReg) (b : GReg) (s : State) : exec (.gmaxI64 d a b) s = execGmaxI64 d a b s := rfl
theorem exec_gminN64 (d : GReg) (a : GReg) (b : GReg) (s : State) : exec (.gminN64 d a b) s = execGminN64 d a b s := rfl
theorem exec_gmaxN64 (d : GReg) (a : GReg) (b : GReg) (s : State) : exec (.gmaxN64 d a b) s = execGmaxN64 d a b s := rfl
theorem exec_gaddsh (d : GReg) (a : GReg) (b : GReg) (k : BitVec 2) (s : State) : exec (.gaddsh d a b k) s = execGaddsh d a b k s := rfl
theorem exec_gbfx (d : GReg) (a : GReg) (b : GReg) (s : State) : exec (.gbfx d a b) s = execGbfx d a b s := rfl
theorem exec_gbfxI64 (d : GReg) (a : GReg) (b : GReg) (s : State) : exec (.gbfxI64 d a b) s = execGbfxI64 d a b s := rfl
theorem exec_gclz (d : GReg) (a : GReg) (s : State) : exec (.gclz d a) s = execGclz d a s := rfl
theorem exec_gpopc (d : GReg) (a : GReg) (s : State) : exec (.gpopc d a) s = execGpopc d a s := rfl
theorem exec_gcmpEq (d : QReg) (a : GReg) (b : GReg) (s : State) : exec (.gcmpEq d a b) s = execGcmpEq d a b s := rfl
theorem exec_gcmpNe (d : QReg) (a : GReg) (b : GReg) (s : State) : exec (.gcmpNe d a b) s = execGcmpNe d a b s := rfl
theorem exec_gcmpLtI64 (d : QReg) (a : GReg) (b : GReg) (s : State) : exec (.gcmpLtI64 d a b) s = execGcmpLtI64 d a b s := rfl
theorem exec_gcmpLeI64 (d : QReg) (a : GReg) (b : GReg) (s : State) : exec (.gcmpLeI64 d a b) s = execGcmpLeI64 d a b s := rfl
theorem exec_gcmpLtN64 (d : QReg) (a : GReg) (b : GReg) (s : State) : exec (.gcmpLtN64 d a b) s = execGcmpLtN64 d a b s := rfl
theorem exec_gcmpLeN64 (d : QReg) (a : GReg) (b : GReg) (s : State) : exec (.gcmpLeN64 d a b) s = execGcmpLeN64 d a b s := rfl
theorem exec_qand (d : QReg) (a : QReg) (b : QReg) (s : State) : exec (.qand d a b) s = execQand d a b s := rfl
theorem exec_qor (d : QReg) (a : QReg) (b : QReg) (s : State) : exec (.qor d a b) s = execQor d a b s := rfl
theorem exec_qxor (d : QReg) (a : QReg) (b : QReg) (s : State) : exec (.qxor d a b) s = execQxor d a b s := rfl
theorem exec_qandn (d : QReg) (a : QReg) (b : QReg) (s : State) : exec (.qandn d a b) s = execQandn d a b s := rfl
theorem exec_qnot (d : QReg) (a : QReg) (s : State) : exec (.qnot d a) s = execQnot d a s := rfl
theorem exec_gsetq (d : GReg) (a : QReg) (s : State) : exec (.gsetq d a) s = execGsetq d a s := rfl
theorem exec_gmul (d : GReg) (a : GReg) (b : GReg) (s : State) : exec (.gmul d a b) s = execGmul d a b s := rfl
theorem exec_gmulhI64 (d : GReg) (a : GReg) (b : GReg) (s : State) : exec (.gmulhI64 d a b) s = execGmulhI64 d a b s := rfl
theorem exec_gmulhN64 (d : GReg) (a : GReg) (b : GReg) (s : State) : exec (.gmulhN64 d a b) s = execGmulhN64 d a b s := rfl
theorem exec_gdivI64 (d : GReg) (a : GReg) (b : GReg) (s : State) : exec (.gdivI64 d a b) s = execGdivI64 d a b s := rfl
theorem exec_gdivN64 (d : GReg) (a : GReg) (b : GReg) (s : State) : exec (.gdivN64 d a b) s = execGdivN64 d a b s := rfl
theorem exec_gremI64 (d : GReg) (a : GReg) (b : GReg) (s : State) : exec (.gremI64 d a b) s = execGremI64 d a b s := rfl
theorem exec_gremN64 (d : GReg) (a : GReg) (b : GReg) (s : State) : exec (.gremN64 d a b) s = execGremN64 d a b s := rfl
theorem exec_gaddi (d : GReg) (a : GReg) (imm : BitVec 14) (s : State) : exec (.gaddi d a imm) s = execGaddi d a imm s := rfl
theorem exec_gandi (d : GReg) (a : GReg) (imm : BitVec 14) (s : State) : exec (.gandi d a imm) s = execGandi d a imm s := rfl
theorem exec_gori (d : GReg) (a : GReg) (imm : BitVec 14) (s : State) : exec (.gori d a imm) s = execGori d a imm s := rfl
theorem exec_gxori (d : GReg) (a : GReg) (imm : BitVec 14) (s : State) : exec (.gxori d a imm) s = execGxori d a imm s := rfl
theorem exec_gshli (d : GReg) (a : GReg) (sh : BitVec 6) (s : State) : exec (.gshli d a sh) s = execGshli d a sh s := rfl
theorem exec_gshri (d : GReg) (a : GReg) (sh : BitVec 6) (s : State) : exec (.gshri d a sh) s = execGshri d a sh s := rfl
theorem exec_gsrai (d : GReg) (a : GReg) (sh : BitVec 6) (s : State) : exec (.gsrai d a sh) s = execGsrai d a sh s := rfl
theorem exec_gbfxi (d : GReg) (a : GReg) (n : BitVec 6) (lo : BitVec 6) (s : State) : exec (.gbfxi d a n lo) s = execGbfxi d a n lo s := rfl
theorem exec_gbfxiI64 (d : GReg) (a : GReg) (n : BitVec 6) (lo : BitVec 6) (s : State) : exec (.gbfxiI64 d a n lo) s = execGbfxiI64 d a n lo s := rfl
theorem exec_gcmpiEq (d : QReg) (a : GReg) (imm : BitVec 14) (s : State) : exec (.gcmpiEq d a imm) s = execGcmpiEq d a imm s := rfl
theorem exec_gcmpiLtI64 (d : QReg) (a : GReg) (imm : BitVec 14) (s : State) : exec (.gcmpiLtI64 d a imm) s = execGcmpiLtI64 d a imm s := rfl
theorem exec_gcmpiLtN64 (d : QReg) (a : GReg) (imm : BitVec 14) (s : State) : exec (.gcmpiLtN64 d a imm) s = execGcmpiLtN64 d a imm s := rfl
theorem exec_gupi (d : GReg) (a : GReg) (imm : BitVec 14) (s : State) : exec (.gupi d a imm) s = execGupi d a imm s := rfl
theorem exec_br (q : QReg) (neg : Bool) (off : BitVec 22) (s : State) : exec (.br q neg off) s = execBr q neg off s := rfl
theorem exec_call (q : QReg) (neg : Bool) (off : BitVec 22) (s : State) : exec (.call q neg off) s = execCall q neg off s := rfl
theorem exec_bloop (q : QReg) (neg : Bool) (off : BitVec 22) (s : State) : exec (.bloop q neg off) s = execBloop q neg off s := rfl
theorem exec_jmp (a : GReg) (s : State) : exec (.jmp a) s = execJmp a s := rfl
theorem exec_callr (a : GReg) (s : State) : exec (.callr a) s = execCallr a s := rfl
theorem exec_ret (s : State) : exec .ret s = execRet s := rfl
theorem exec_gld64 (d : GReg) (a : GReg) (bn : Slot) (off : BitVec 10) (s : State) : exec (.gld64 d a bn off) s = execGld64 d a bn off s := rfl
theorem exec_gst64 (src : GReg) (a : GReg) (bn : Slot) (off : BitVec 10) (s : State) : exec (.gst64 src a bn off) s = execGst64 src a bn off s := rfl
theorem exec_gatom (d : GReg) (a : GReg) (bn : Slot) (off : BitVec 10) (x : AtomExt) (s : State) : exec (.gatom d a bn off x) s = execGatom d a bn off x s := rfl
theorem exec_acq (d : GReg) (a : GReg) (bn : Slot) (off : BitVec 10) (sc : Scope) (s : State) : exec (.acq d a bn off sc) s = execAcq d a bn off sc s := rfl
theorem exec_rel (src : GReg) (a : GReg) (bn : Slot) (off : BitVec 10) (sc : Scope) (s : State) : exec (.rel src a bn off sc) s = execRel src a bn off sc s := rfl
theorem exec_fence (sc : Scope) (s : State) : exec (.fence sc) s = execFence sc s := rfl
theorem exec_bufld (n : Slot) (a : GReg) (m : Slot) (s : State) : exec (.bufld n a m) s = execBufld n a m s := rfl
theorem exec_bufset (n : Slot) (a : GReg) (b : GReg) (s : State) : exec (.bufset n a b) s = execBufset n a b s := rfl
theorem exec_bufinv (n : Slot) (s : State) : exec (.bufinv n) s = execBufinv n s := rfl
theorem exec_lrun (w : BitVec 19) (a : GReg) (s : State) : exec (.lrun w a) s = execLrun w a s := rfl
theorem exec_lrunNr (w : BitVec 19) (a : GReg) (s : State) : exec (.lrunNr w a) s = execLrunNr w a s := rfl
theorem exec_lres (d : GReg) (s : State) : exec (.lres d) s = execLres d s := rfl
theorem exec_lwait (s : State) : exec .lwait s = execLwait s := rfl
theorem exec_gend (s : State) : exec .gend s = execGend s := rfl
theorem exec_gloc (d : GReg) (s : State) : exec (.gloc d) s = execGloc d s := rfl
theorem exec_grole (d : GReg) (s : State) : exec (.grole d) s = execGrole d s := rfl
theorem exec_glv (d : GReg) (n : BitVec 4) (s : State) : exec (.glv d n) s = execGlv d n s := rfl
theorem exec_fmtset (a : GReg) (s : State) : exec (.fmtset a) s = execFmtset a s := rfl
theorem exec_fmtget (d : GReg) (s : State) : exec (.fmtget d) s = execFmtget d s := rfl
theorem exec_gseed (a : GReg) (s : State) : exec (.gseed a) s = execGseed a s := rfl
theorem exec_vgive (n : BitVec 6) (s : State) : exec (.vgive n) s = execVgive n s := rfl
theorem exec_vclaim (n : BitVec 6) (s : State) : exec (.vclaim n) s = execVclaim n s := rfl
theorem exec_vcount (d : GReg) (s : State) : exec (.vcount d) s = execVcount d s := rfl
theorem exec_nbsync (k : BitVec 4) (a : GReg) (s : State) : exec (.nbsync k a) s = execNbsync k a s := rfl
theorem exec_nbarrive (k : BitVec 4) (a : GReg) (s : State) : exec (.nbarrive k a) s = execNbarrive k a s := rfl
theorem exec_aset (d : GReg) (a : GReg) (b : GReg) (s : State) : exec (.aset d a b) s = execAset d a b s := rfl
theorem exec_await (a : GReg) (b : GReg) (s : State) : exec (.await a b) s = execAwait a b s := rfl
theorem exec_aread (d : GReg) (a : GReg) (s : State) : exec (.aread d a) s = execAread d a s := rfl
theorem exec_apost (a : GReg) (b : GReg) (s : State) : exec (.apost a b) s = execApost a b s := rfl
theorem exec_iqpush (d : QReg) (k : BitVec 5) (a : GReg) (s : State) : exec (.iqpush d k a) s = execIqpush d k a s := rfl
theorem exec_iqstat (d : GReg) (k : BitVec 5) (s : State) : exec (.iqstat d k) s = execIqstat d k s := rfl
theorem exec_mma (e : GReg) (a : GReg) (b : GReg) (z : Bool) (s : State) : exec (.mma e a b z) s = execMma e a b z s := rfl
theorem exec_mmaV (e : GReg) (b : GReg) (z : Bool) (s : State) : exec (.mmaV e b z) s = execMmaV e b z s := rfl
theorem exec_mmv (e : GReg) (v : GReg) (w : GReg) (z : Bool) (s : State) : exec (.mmv e v w z) s = execMmv e v w z s := rfl
theorem exec_mfence (d : GReg) (s : State) : exec (.mfence d) s = execMfence d s := rfl
theorem exec_mwait (a : GReg) (s : State) : exec (.mwait a) s = execMwait a s := rfl
theorem exec_tcopy (src : GReg) (dst : GReg) (c : GReg) (dk : Loc) (sk : Loc) (s : State) : exec (.tcopy src dst c dk sk) s = execTcopy src dst c dk sk s := rfl
theorem exec_tcopyT (src : GReg) (dst : GReg) (c : GReg) (dk : Loc) (sk : Loc) (s : State) : exec (.tcopyT src dst c dk sk) s = execTcopyT src dst c dk sk s := rfl
theorem exec_tmcastDeck (src : GReg) (t : GReg) (c : GReg) (s : State) : exec (.tmcastDeck src t c) s = execTmcastDeck src t c s := rfl
theorem exec_tmcastTower (src : GReg) (t : GReg) (c : GReg) (s : State) : exec (.tmcastTower src t c) s = execTmcastTower src t c s := rfl
theorem exec_hstreamOut (src : GReg) (dst : GReg) (c : GReg) (s : State) : exec (.hstreamOut src dst c) s = execHstreamOut src dst c s := rfl
theorem exec_hstreamIn (src : GReg) (dst : GReg) (c : GReg) (s : State) : exec (.hstreamIn src dst c) s = execHstreamIn src dst c s := rfl
theorem exec_qhist (src : GReg) (h : GReg) (c : GReg) (acc : Bool) (s : State) : exec (.qhist src h c acc) s = execQhist src h c acc s := rfl
theorem exec_qclip (d : GReg) (h : GReg) (p : GReg) (s : State) : exec (.qclip d h p) s = execQclip d h p s := rfl
theorem exec_pacq (d : GReg) (n : BitVec 6) (s : State) : exec (.pacq d n) s = execPacq d n s := rfl
theorem exec_pacqTry (d : GReg) (n : BitVec 6) (s : State) : exec (.pacqTry d n) s = execPacqTry d n s := rfl
theorem exec_pget (d : GReg) (n : BitVec 6) (s : State) : exec (.pget d n) s = execPget d n s := rfl
theorem exec_pgetTry (d : GReg) (n : BitVec 6) (s : State) : exec (.pgetTry d n) s = execPgetTry d n s := rfl
theorem exec_pcommit (t : GReg) (h : GReg) (s : State) : exec (.pcommit t h) s = execPcommit t h s := rfl
theorem exec_pfree (h : GReg) (s : State) : exec (.pfree h) s = execPfree h s := rfl
theorem exec_rput (src : GReg) (o : GReg) (m : GReg) (bn : Slot) (s : State) : exec (.rput src o m bn) s = execRput src o m bn s := rfl
theorem exec_rputRel (src : GReg) (o : GReg) (m : GReg) (bn : Slot) (s : State) : exec (.rputRel src o m bn) s = execRputRel src o m bn s := rfl
theorem exec_rseq (d : GReg) (s : State) : exec (.rseq d) s = execRseq d s := rfl
theorem exec_sysrd (d : GReg) (r : SysReg) (s : State) : exec (.sysrd d r) s = execSysrd d r s := rfl
theorem exec_syswr (r : SysReg) (a : GReg) (s : State) : exec (.syswr r a) s = execSyswr r a s := rfl
theorem exec_tret (s : State) : exec .tret s = execTret s := rfl
theorem exec_tabort (s : State) : exec .tabort s = execTabort s := rfl
theorem exec_tlbinvVa (a : GReg) (reach : Reach) (s : State) : exec (.tlbinvVa a reach) s = execTlbinvVa a reach s := rfl
theorem exec_tlbinvCtx (a : GReg) (reach : Reach) (s : State) : exec (.tlbinvCtx a reach) s = execTlbinvCtx a reach s := rfl
theorem exec_tlbinvAll (reach : Reach) (s : State) : exec (.tlbinvAll reach) s = execTlbinvAll reach s := rfl
theorem exec_sysettle (s : State) : exec .sysettle s = execSysettle s := rfl
theorem exec_snapreq (d : GReg) (a : GReg) (s : State) : exec (.snapreq d a) s = execSnapreq d a s := rfl
theorem exec_snapstat (d : GReg) (s : State) : exec (.snapstat d) s = execSnapstat d s := rfl
theorem exec_brk (code : BitVec 10) (s : State) : exec (.brk code) s = execBrk code s := rfl
theorem exec_vaddI32 (h : Hdr) (d : VReg) (a : VReg) (b : SrcB) (s : State) : exec (.vaddI32 h d a b) s = execVaddI32 h d a b s := rfl
theorem exec_vsubI32 (h : Hdr) (d : VReg) (a : VReg) (b : SrcB) (s : State) : exec (.vsubI32 h d a b) s = execVsubI32 h d a b s := rfl
theorem exec_vaddSatI32 (h : Hdr) (d : VReg) (a : VReg) (b : SrcB) (s : State) : exec (.vaddSatI32 h d a b) s = execVaddSatI32 h d a b s := rfl
theorem exec_vsubSatI32 (h : Hdr) (d : VReg) (a : VReg) (b : SrcB) (s : State) : exec (.vsubSatI32 h d a b) s = execVsubSatI32 h d a b s := rfl
theorem exec_vaddSatN32 (h : Hdr) (d : VReg) (a : VReg) (b : SrcB) (s : State) : exec (.vaddSatN32 h d a b) s = execVaddSatN32 h d a b s := rfl
theorem exec_vsubSatN32 (h : Hdr) (d : VReg) (a : VReg) (b : SrcB) (s : State) : exec (.vsubSatN32 h d a b) s = execVsubSatN32 h d a b s := rfl
theorem exec_vmulI32 (h : Hdr) (d : VReg) (a : VReg) (b : SrcB) (s : State) : exec (.vmulI32 h d a b) s = execVmulI32 h d a b s := rfl
theorem exec_vmulhI32 (h : Hdr) (d : VReg) (a : VReg) (b : SrcB) (s : State) : exec (.vmulhI32 h d a b) s = execVmulhI32 h d a b s := rfl
theorem exec_vmulhN32 (h : Hdr) (d : VReg) (a : VReg) (b : SrcB) (s : State) : exec (.vmulhN32 h d a b) s = execVmulhN32 h d a b s := rfl
theorem exec_vmadI32 (h : Hdr) (d : VReg) (a : VReg) (bc : SrcBC) (s : State) : exec (.vmadI32 h d a bc) s = execVmadI32 h d a bc s := rfl
theorem exec_vdivI32 (h : Hdr) (d : VReg) (a : VReg) (b : SrcB) (s : State) : exec (.vdivI32 h d a b) s = execVdivI32 h d a b s := rfl
theorem exec_vdivN32 (h : Hdr) (d : VReg) (a : VReg) (b : SrcB) (s : State) : exec (.vdivN32 h d a b) s = execVdivN32 h d a b s := rfl
theorem exec_vremI32 (h : Hdr) (d : VReg) (a : VReg) (b : SrcB) (s : State) : exec (.vremI32 h d a b) s = execVremI32 h d a b s := rfl
theorem exec_vremN32 (h : Hdr) (d : VReg) (a : VReg) (b : SrcB) (s : State) : exec (.vremN32 h d a b) s = execVremN32 h d a b s := rfl
theorem exec_vminI32 (h : Hdr) (d : VReg) (a : VReg) (b : SrcB) (s : State) : exec (.vminI32 h d a b) s = execVminI32 h d a b s := rfl
theorem exec_vmaxI32 (h : Hdr) (d : VReg) (a : VReg) (b : SrcB) (s : State) : exec (.vmaxI32 h d a b) s = execVmaxI32 h d a b s := rfl
theorem exec_vminN32 (h : Hdr) (d : VReg) (a : VReg) (b : SrcB) (s : State) : exec (.vminN32 h d a b) s = execVminN32 h d a b s := rfl
theorem exec_vmaxN32 (h : Hdr) (d : VReg) (a : VReg) (b : SrcB) (s : State) : exec (.vmaxN32 h d a b) s = execVmaxN32 h d a b s := rfl
theorem exec_vabsI32 (h : Hdr) (d : VReg) (a : VReg) (s : State) : exec (.vabsI32 h d a) s = execVabsI32 h d a s := rfl
theorem exec_vand (h : Hdr) (d : VReg) (a : VReg) (b : SrcB) (s : State) : exec (.vand h d a b) s = execVand h d a b s := rfl
theorem exec_vor (h : Hdr) (d : VReg) (a : VReg) (b : SrcB) (s : State) : exec (.vor h d a b) s = execVor h d a b s := rfl
theorem exec_vxor (h : Hdr) (d : VReg) (a : VReg) (b : SrcB) (s : State) : exec (.vxor h d a b) s = execVxor h d a b s := rfl
theorem exec_vandn (h : Hdr) (d : VReg) (a : VReg) (b : SrcB) (s : State) : exec (.vandn h d a b) s = execVandn h d a b s := rfl
theorem exec_vshl (h : Hdr) (d : VReg) (a : VReg) (b : SrcB) (s : State) : exec (.vshl h d a b) s = execVshl h d a b s := rfl
theorem exec_vshr (h : Hdr) (d : VReg) (a : VReg) (b : SrcB) (s : State) : exec (.vshr h d a b) s = execVshr h d a b s := rfl
theorem exec_vsra (h : Hdr) (d : VReg) (a : VReg) (b : SrcB) (s : State) : exec (.vsra h d a b) s = execVsra h d a b s := rfl
theorem exec_vbfxN32 (h : Hdr) (d : VReg) (a : VReg) (b : SrcB) (s : State) : exec (.vbfxN32 h d a b) s = execVbfxN32 h d a b s := rfl
theorem exec_vbfxI32 (h : Hdr) (d : VReg) (a : VReg) (b : SrcB) (s : State) : exec (.vbfxI32 h d a b) s = execVbfxI32 h d a b s := rfl
theorem exec_vbfi (h : Hdr) (d : VReg) (a : VReg) (bc : SrcBC) (s : State) : exec (.vbfi h d a bc) s = execVbfi h d a bc s := rfl
theorem exec_vclz (h : Hdr) (d : VReg) (a : VReg) (s : State) : exec (.vclz h d a) s = execVclz h d a s := rfl
theorem exec_vpopc (h : Hdr) (d : VReg) (a : VReg) (s : State) : exec (.vpopc h d a) s = execVpopc h d a s := rfl
theorem exec_vbrev (h : Hdr) (d : VReg) (a : VReg) (s : State) : exec (.vbrev h d a) s = execVbrev h d a s := rfl
theorem exec_vmov (h : Hdr) (d : VReg) (a : VReg) (s : State) : exec (.vmov h d a) s = execVmov h d a s := rfl
theorem exec_vmovi (h : Hdr) (d : VReg) (imm : Word) (s : State) : exec (.vmovi h d imm) s = execVmovi h d imm s := rfl
theorem exec_vlaneid (h : Hdr) (d : VReg) (s : State) : exec (.vlaneid h d) s = execVlaneid h d s := rfl
theorem exec_vargl (h : Hdr) (d : VReg) (s : State) : exec (.vargl h d) s = execVargl h d s := rfl
theorem exec_vargh (h : Hdr) (d : VReg) (s : State) : exec (.vargh h d) s = execVargh h d s := rfl
theorem exec_vcmp (h : Hdr) (c : ICond) (d : PReg) (a : VReg) (b : SrcB) (s : State) : exec (.vcmp h c d a b) s = execVcmp h c d a b s := rfl
theorem exec_pand (h : Hdr) (d : PReg) (a : PReg) (b : PReg) (s : State) : exec (.pand h d a b) s = execPand h d a b s := rfl
theorem exec_por (h : Hdr) (d : PReg) (a : PReg) (b : PReg) (s : State) : exec (.por h d a b) s = execPor h d a b s := rfl
theorem exec_pxor (h : Hdr) (d : PReg) (a : PReg) (b : PReg) (s : State) : exec (.pxor h d a b) s = execPxor h d a b s := rfl
theorem exec_pandn (h : Hdr) (d : PReg) (a : PReg) (b : PReg) (s : State) : exec (.pandn h d a b) s = execPandn h d a b s := rfl
theorem exec_pnot (h : Hdr) (d : PReg) (a : PReg) (s : State) : exec (.pnot h d a) s = execPnot h d a s := rfl
theorem exec_vfromp (h : Hdr) (d : VReg) (a : PReg) (s : State) : exec (.vfromp h d a) s = execVfromp h d a s := rfl
theorem exec_vsel (h : Hdr) (d : VReg) (a : VReg) (b : SrcB) (c : PReg) (s : State) : exec (.vsel h d a b c) s = execVsel h d a b c s := rfl
theorem exec_lif (h : Hdr) (off : BitVec 20) (s : State) : exec (.lif h off) s = execLif h off s := rfl
theorem exec_lelse (t : Sched) (off : BitVec 20) (s : State) : exec (.lelse t off) s = execLelse t off s := rfl
theorem exec_lendif (t : Sched) (s : State) : exec (.lendif t) s = execLendif t s := rfl
theorem exec_lloop (t : Sched) (s : State) : exec (.lloop t) s = execLloop t s := rfl
theorem exec_lloopRefill (t : Sched) (iq : BitVec 5) (d : VReg) (s : State) : exec (.lloopRefill t iq d) s = execLloopRefill t iq d s := rfl
theorem exec_lbreak (h : Hdr) (n : BitVec 8) (s : State) : exec (.lbreak h n) s = execLbreak h n s := rfl
theorem exec_lcont (h : Hdr) (n : BitVec 8) (s : State) : exec (.lcont h n) s = execLcont h n s := rfl
theorem exec_lendloop (t : Sched) (off : BitVec 20) (s : State) : exec (.lendloop t off) s = execLendloop t off s := rfl
theorem exec_lendloopRefill (t : Sched) (iq : BitVec 5) (off : BitVec 20) (s : State) : exec (.lendloopRefill t iq off) s = execLendloopRefill t iq off s := rfl
theorem exec_lend (s : State) : exec .lend s = execLend s := rfl
theorem exec_vyield (h : Hdr) (a : VReg) (s : State) : exec (.vyield h a) s = execVyield h a s := rfl
theorem exec_lcallQ (h : Hdr) (t : VReg) (a : VReg) (s : State) : exec (.lcallQ h t a) s = execLcallQ h t a s := rfl
theorem exec_vfence (t : Sched) (sc : Scope) (s : State) : exec (.vfence t sc) s = execVfence t sc s := rfl
theorem exec_vld (h : Hdr) (d : VReg) (sz : Size) (bn : Slot) (a : VReg) (off : BitVec 23) (na : Bool) (s : State) : exec (.vld h d sz bn a off na) s = execVld h d sz bn a off na s := rfl
theorem exec_vldSigned (h : Hdr) (d : VReg) (sz : Size) (bn : Slot) (a : VReg) (off : BitVec 23) (na : Bool) (s : State) : exec (.vldSigned h d sz bn a off na) s = execVldSigned h d sz bn a off na s := rfl
theorem exec_vst (h : Hdr) (src : VReg) (sz : Size) (bn : Slot) (a : VReg) (off : BitVec 23) (na : Bool) (s : State) : exec (.vst h src sz bn a off na) s = execVst h src sz bn a off na s := rfl
theorem exec_sld (h : Hdr) (d : VReg) (sz : Size) (a : VReg) (off : BitVec 23) (s : State) : exec (.sld h d sz a off) s = execSld h d sz a off s := rfl
theorem exec_sldSigned (h : Hdr) (d : VReg) (sz : Size) (a : VReg) (off : BitVec 23) (s : State) : exec (.sldSigned h d sz a off) s = execSldSigned h d sz a off s := rfl
theorem exec_sst (h : Hdr) (src : VReg) (sz : Size) (a : VReg) (off : BitVec 23) (s : State) : exec (.sst h src sz a off) s = execSst h src sz a off s := rfl
theorem exec_vgath (h : Hdr) (d : VReg) (b : VReg) (sz : Size) (bn : Slot) (a : VReg) (off : BitVec 23) (na : Bool) (s : State) : exec (.vgath h d b sz bn a off na) s = execVgath h d b sz bn a off na s := rfl
theorem exec_vscat (h : Hdr) (src : VReg) (b : VReg) (sz : Size) (bn : Slot) (a : VReg) (off : BitVec 23) (na : Bool) (s : State) : exec (.vscat h src b sz bn a off na) s = execVscat h src b sz bn a off na s := rfl
theorem exec_vatom (h : Hdr) (op : AtomOp) (w64 : Bool) (ord : Ord) (sc : Scope) (d : VReg) (bn : Slot) (a : VReg) (off : BitVec 23) (b : VReg) (c : VReg) (s : State) : exec (.vatom h op w64 ord sc d bn a off b c) s = execVatom h op w64 ord sc d bn a off b c s := rfl
theorem exec_vldf (h : Hdr) (sc : Scope) (d : VReg) (p : PReg) (bn : Slot) (a : VReg) (off : BitVec 23) (s : State) : exec (.vldf h sc d p bn a off) s = execVldf h sc d p bn a off s := rfl
theorem exec_vldfTake (h : Hdr) (sc : Scope) (d : VReg) (p : PReg) (bn : Slot) (a : VReg) (off : BitVec 23) (s : State) : exec (.vldfTake h sc d p bn a off) s = execVldfTake h sc d p bn a off s := rfl
theorem exec_vstf (h : Hdr) (sc : Scope) (src : VReg) (p : PReg) (bn : Slot) (a : VReg) (off : BitVec 23) (s : State) : exec (.vstf h sc src p bn a off) s = execVstf h sc src p bn a off s := rfl
theorem exec_vmark (h : Hdr) (d : VReg) (sz : Size) (bn : Slot) (a : VReg) (off : BitVec 23) (s : State) : exec (.vmark h d sz bn a off) s = execVmark h d sz bn a off s := rfl
theorem exec_vcommit (h : Hdr) (src : VReg) (p : PReg) (sz : Size) (bn : Slot) (a : VReg) (off : BitVec 23) (s : State) : exec (.vcommit h src p sz bn a off) s = execVcommit h src p sz bn a off s := rfl
theorem exec_vfadd (h : Hdr) (ty : FTy) (d : VReg) (a : VReg) (b : SrcB) (s : State) : exec (.vfadd h ty d a b) s = execVfadd h ty d a b s := rfl
theorem exec_vfsub (h : Hdr) (ty : FTy) (d : VReg) (a : VReg) (b : SrcB) (s : State) : exec (.vfsub h ty d a b) s = execVfsub h ty d a b s := rfl
theorem exec_vfmul (h : Hdr) (ty : FTy) (d : VReg) (a : VReg) (b : SrcB) (s : State) : exec (.vfmul h ty d a b) s = execVfmul h ty d a b s := rfl
theorem exec_vffma (h : Hdr) (ty : FTy) (d : VReg) (a : VReg) (bc : SrcBC) (s : State) : exec (.vffma h ty d a bc) s = execVffma h ty d a bc s := rfl
theorem exec_vfmin (h : Hdr) (ty : FTy) (d : VReg) (a : VReg) (b : SrcB) (s : State) : exec (.vfmin h ty d a b) s = execVfmin h ty d a b s := rfl
theorem exec_vfmax (h : Hdr) (ty : FTy) (d : VReg) (a : VReg) (b : SrcB) (s : State) : exec (.vfmax h ty d a b) s = execVfmax h ty d a b s := rfl
theorem exec_vfabs (h : Hdr) (ty : FTy) (d : VReg) (a : VReg) (s : State) : exec (.vfabs h ty d a) s = execVfabs h ty d a s := rfl
theorem exec_vfneg (h : Hdr) (ty : FTy) (d : VReg) (a : VReg) (s : State) : exec (.vfneg h ty d a) s = execVfneg h ty d a s := rfl
theorem exec_vfcmp (h : Hdr) (ty : FTy) (c : FCond) (d : PReg) (a : VReg) (b : SrcB) (s : State) : exec (.vfcmp h ty c d a b) s = execVfcmp h ty c d a b s := rfl
theorem exec_vfdot2 (h : Hdr) (bf : Bool) (d : VReg) (a : VReg) (bc : SrcBC) (s : State) : exec (.vfdot2 h bf d a bc) s = execVfdot2 h bf d a bc s := rfl
theorem exec_vrcp (h : Hdr) (d : VReg) (a : VReg) (s : State) : exec (.vrcp h d a) s = execVrcp h d a s := rfl
theorem exec_vrsqrt (h : Hdr) (d : VReg) (a : VReg) (s : State) : exec (.vrsqrt h d a) s = execVrsqrt h d a s := rfl
theorem exec_vsqrt (h : Hdr) (d : VReg) (a : VReg) (s : State) : exec (.vsqrt h d a) s = execVsqrt h d a s := rfl
theorem exec_vfdiv (h : Hdr) (d : VReg) (a : VReg) (b : SrcB) (s : State) : exec (.vfdiv h d a b) s = execVfdiv h d a b s := rfl
theorem exec_vexp2 (h : Hdr) (d : VReg) (a : VReg) (s : State) : exec (.vexp2 h d a) s = execVexp2 h d a s := rfl
theorem exec_vlog2 (h : Hdr) (d : VReg) (a : VReg) (s : State) : exec (.vlog2 h d a) s = execVlog2 h d a s := rfl
theorem exec_vsinpi (h : Hdr) (d : VReg) (a : VReg) (s : State) : exec (.vsinpi h d a) s = execVsinpi h d a s := rfl
theorem exec_vcospi (h : Hdr) (d : VReg) (a : VReg) (s : State) : exec (.vcospi h d a) s = execVcospi h d a s := rfl
theorem exec_vtanh (h : Hdr) (d : VReg) (a : VReg) (s : State) : exec (.vtanh h d a) s = execVtanh h d a s := rfl
theorem exec_vcvt (h : Hdr) (st : VType) (dt : VType) (rm : RmSel) (ss : SatSel) (d : VReg) (a : VReg) (s : State) : exec (.vcvt h st dt rm ss d a) s = execVcvt h st dt rm ss d a s := rfl
theorem exec_vcvtPk (h : Hdr) (bf : Bool) (rm : RmSel) (ss : SatSel) (d : VReg) (a : VReg) (b : VReg) (s : State) : exec (.vcvtPk h bf rm ss d a b) s = execVcvtPk h bf rm ss d a b s := rfl
theorem exec_vcvtPk4 (h : Hdr) (e5 : Bool) (rm : RmSel) (ss : SatSel) (d : VReg) (a : VReg) (s : State) : exec (.vcvtPk4 h e5 rm ss d a) s = execVcvtPk4 h e5 rm ss d a s := rfl
theorem exec_vcvtUnpk4 (h : Hdr) (e5 : Bool) (d : VReg) (a : VReg) (s : State) : exec (.vcvtUnpk4 h e5 d a) s = execVcvtUnpk4 h e5 d a s := rfl
theorem exec_vcvtUnpk (h : Hdr) (bf : Bool) (d : VReg) (a : VReg) (s : State) : exec (.vcvtUnpk h bf d a) s = execVcvtUnpk h bf d a s := rfl
theorem exec_vqnt (h : Hdr) (st : VType) (q4 : Bool) (rm : RmSel) (d : VReg) (a : VReg) (g : VReg) (s : State) : exec (.vqnt h st q4 rm d a g) s = execVqnt h st q4 rm d a g s := rfl
theorem exec_vdeq (h : Hdr) (q4 : Bool) (d : VReg) (a : VReg) (g : VReg) (s : State) : exec (.vdeq h q4 d a g) s = execVdeq h q4 d a g s := rfl
theorem exec_vshfl (h : Hdr) (m : ShflMode) (d : VReg) (a : VReg) (b : SrcB) (s : State) : exec (.vshfl h m d a b) s = execVshfl h m d a b s := rfl
theorem exec_vvoteAny (h : Hdr) (d : PReg) (a : PReg) (s : State) : exec (.vvoteAny h d a) s = execVvoteAny h d a s := rfl
theorem exec_vvoteAll (h : Hdr) (d : PReg) (a : PReg) (s : State) : exec (.vvoteAll h d a) s = execVvoteAll h d a s := rfl
theorem exec_vvoteUni (h : Hdr) (d : PReg) (a : PReg) (s : State) : exec (.vvoteUni h d a) s = execVvoteUni h d a s := rfl
theorem exec_vballot (h : Hdr) (d : VReg) (a : PReg) (s : State) : exec (.vballot h d a) s = execVballot h d a s := rfl
theorem exec_vred (h : Hdr) (op : RedOp) (d : VReg) (a : VReg) (p : PReg) (s : State) : exec (.vred h op d a p) s = execVred h op d a p s := rfl
theorem exec_vscan (h : Hdr) (op : RedOp) (d : VReg) (a : VReg) (s : State) : exec (.vscan h op d a) s = execVscan h op d a s := rfl
theorem exec_amov (h : Hdr) (w : TileW) (d : VReg) (n : BitVec 9) (s : State) : exec (.amov h w d n) s = execAmov h w d n s := rfl
theorem exec_amovw (h : Hdr) (w : TileW) (src : VReg) (n : BitVec 9) (s : State) : exec (.amovw h w src n) s = execAmovw h w src n s := rfl
theorem exec_azero (h : Hdr) (n : BitVec 9) (s : State) : exec (.azero h n) s = execAzero h n s := rfl
theorem exec_lbrk (h : Hdr) (code : BitVec 8) (s : State) : exec (.lbrk h code) s = execLbrk h code s := rfl
theorem exec_trapEntry (g : Nat) (s : State) : exec (.trapEntry g) s = execTrapEntry g s := rfl
theorem exec_claimGrant (team : Nat) (bay : Nat) (s : State) : exec (.claimGrant team bay) s = execClaimGrant team bay s := rfl
theorem exec_drainGroupStart (team : Nat) (slot : Nat) (s : State) : exec (.drainGroupStart team slot) s = execDrainGroupStart team slot s := rfl
theorem exec_teamPlace (launch : Nat) (stage : Nat) (deck : Nat) (s : State) : exec (.teamPlace launch stage deck) s = execTeamPlace launch stage deck s := rfl
theorem exec_teamRetire (team : Nat) (s : State) : exec (.teamRetire team) s = execTeamRetire team s := rfl
theorem exec_engineLanding (core : Nat) (cmd : Nat) (piece : Nat) (s : State) : exec (.engineLanding core cmd piece) s = execEngineLanding core cmd piece s := rfl
theorem exec_qhistDone (core : Nat) (cmd : Nat) (s : State) : exec (.qhistDone core cmd) s = execQhistDone core cmd s := rfl
theorem exec_hstreamLine (core : Nat) (cmd : Nat) (s : State) : exec (.hstreamLine core cmd) s = execHstreamLine core cmd s := rfl
theorem exec_batchComplete (g : Nat) (s : State) : exec (.batchComplete g) s = execBatchComplete g s := rfl
theorem exec_groupword (core : Nat) (s : State) : exec (.groupword core) s = execGroupword core s := rfl
theorem exec_settle (core : Nat) (s : State) : exec (.settle core) s = execSettle core s := rfl
theorem exec_settleAck (g : Nat) (lane : Bool) (s : State) : exec (.settleAck g lane) s = execSettleAck g lane s := rfl
theorem exec_backgroundSettle (core : Nat) (s : State) : exec (.backgroundSettle core) s = execBackgroundSettle core s := rfl
theorem exec_homeTimeout (g : Nat) (lane : Bool) (s : State) : exec (.homeTimeout g lane) s = execHomeTimeout g lane s := rfl
theorem exec_reinSlot (tower : Nat) (flips : List (Nat × Nat)) (s : State) :
    exec (.reinSlot tower flips) s = execReinSlot tower flips s := rfl
theorem exec_refill (deck : Nat) (s : State) : exec (.refill deck) s = execRefill deck s := rfl
theorem exec_refillEnd (deck : Nat) (s : State) : exec (.refillEnd deck) s = execRefillEnd deck s := rfl
theorem exec_stackWriteback (core : Nat) (bay : Nat) (line : Nat) (s : State) : exec (.stackWriteback core bay line) s = execStackWriteback core bay line s := rfl
theorem exec_prefetch (g : Nat) (bn : Nat) (off : Nat) (s : State) : exec (.prefetch g bn off) s = execPrefetch g bn off s := rfl
theorem exec_translateWalk (g : Nat) (va : Nat) (k : AccKind) (s : State) : exec (.translateWalk g va k) s = execTranslateWalk g va k s := rfl
theorem exec_pagefault (g : Nat) (s : State) : exec (.pagefault g) s = execPagefault g s := rfl
theorem exec_fresumeRetry (part : Nat) (frame : Nat) (s : State) : exec (.fresumeRetry part frame) s = execFresumeRetry part frame s := rfl
theorem exec_fresumeFail (part : Nat) (frame : Nat) (s : State) : exec (.fresumeFail part frame) s = execFresumeFail part frame s := rfl
theorem exec_preemptReq (part : Nat) (s : State) : exec (.preemptReq part) s = execPreemptReq part s := rfl
theorem exec_preemptRestore (part : Nat) (s : State) : exec (.preemptRestore part) s = execPreemptRestore part s := rfl
theorem exec_drainBound (team : Nat) (s : State) : exec (.drainBound team) s = execDrainBound team s := rfl
theorem exec_save (team : Nat) (s : State) : exec (.save team) s = execSave team s := rfl
theorem exec_restore (part : Nat) (frame : Nat) (s : State) : exec (.restore part frame) s = execRestore part frame s := rfl
theorem exec_stateError (team : Nat) (s : State) : exec (.stateError team) s = execStateError team s := rfl
theorem exec_softError (site : ErrSite) (corrected : Bool) (s : State) :
    exec (.softError site corrected) s = execSoftError site corrected s := rfl
theorem exec_scrub (pa : Nat) (s : State) : exec (.scrub pa) s = execScrub pa s := rfl
theorem exec_snapCopyOnWrite (part : Nat) (pa : Nat) (s : State) : exec (.snapCopyOnWrite part pa) s = execSnapCopyOnWrite part pa s := rfl
theorem exec_snapEnd (part : Nat) (s : State) : exec (.snapEnd part) s = execSnapEnd part s := rfl
theorem exec_lqcfgWrite (q : Nat) (v : GWord) (s : State) : exec (.lqcfgWrite q v) s = execLqcfgWrite q v s := rfl
theorem exec_lqtailWrite (q : Nat) (v : GWord) (s : State) : exec (.lqtailWrite q v) s = execLqtailWrite q v s := rfl
theorem exec_depPoll (q : Nat) (s : State) : exec (.depPoll q) s = execDepPoll q s := rfl
theorem exec_launchTake (part : Nat) (s : State) : exec (.launchTake part) s = execLaunchTake part s := rfl
theorem exec_hitchActivate (part : Nat) (s : State) : exec (.hitchActivate part) s = execHitchActivate part s := rfl
theorem exec_launchComplete (launch : Nat) (s : State) : exec (.launchComplete launch) s = execLaunchComplete launch s := rfl
theorem exec_rangeIssue (launch : Nat) (stage : Nat) (deck : Nat) (s : State) : exec (.rangeIssue launch stage deck) s = execRangeIssue launch stage deck s := rfl
theorem exec_stealRequest (launch : Nat) (thief : Nat) (s : State) : exec (.stealRequest launch thief) s = execStealRequest launch thief s := rfl
theorem exec_landing (launch : Nat) (victim : Nat) (seq : Nat) (s : State) : exec (.landing launch victim seq) s = execLanding launch victim seq s := rfl
theorem exec_lendAck (launch : Nat) (victim : Nat) (seq : Nat) (s : State) : exec (.lendAck launch victim seq) s = execLendAck launch victim seq s := rfl
theorem exec_transfer (launch : Nat) (victim : Nat) (seq : Nat) (s : State) : exec (.transfer launch victim seq) s = execTransfer launch victim seq s := rfl
theorem exec_confirmation (launch : Nat) (victim : Nat) (seq : Nat) (s : State) : exec (.confirmation launch victim seq) s = execConfirmation launch victim seq s := rfl
theorem exec_lendRefusal (launch : Nat) (victim : Nat) (seq : Nat) (s : State) : exec (.lendRefusal launch victim seq) s = execLendRefusal launch victim seq s := rfl
theorem exec_lendReclaim (launch : Nat) (victim : Nat) (seq : Nat) (s : State) : exec (.lendReclaim launch victim seq) s = execLendReclaim launch victim seq s := rfl
theorem exec_landedTimeout (launch : Nat) (victim : Nat) (seq : Nat) (s : State) : exec (.landedTimeout launch victim seq) s = execLandedTimeout launch victim seq s := rfl
theorem exec_teamsterTick (launch : Nat) (s : State) : exec (.teamsterTick launch) s = execTeamsterTick launch s := rfl
theorem exec_moveEnd (launch : Nat) (s : State) : exec (.moveEnd launch) s = execMoveEnd launch s := rfl
theorem exec_deadlockTick (launch : Nat) (s : State) : exec (.deadlockTick launch) s = execDeadlockTick launch s := rfl
theorem exec_donewWrite (launch : Nat) (s : State) : exec (.donewWrite launch) s = execDonewWrite launch s := rfl
theorem exec_fenceDeck (decks : List Nat) (s : State) : exec (.fenceDeck decks) s = execFenceDeck decks s := rfl
theorem exec_fqcfgWrite (part : Nat) (v : GWord) (s : State) : exec (.fqcfgWrite part v) s = execFqcfgWrite part v s := rfl
theorem exec_fqheadWrite (part : Nat) (v : GWord) (s : State) : exec (.fqheadWrite part v) s = execFqheadWrite part v s := rfl
theorem exec_registerWrite (addr : Nat) (v : GWord) (s : State) : exec (.registerWrite addr v) s = execRegisterWrite addr v s := rfl
theorem exec_powerUp (s : State) : exec .powerUp s = execPowerUp s := rfl
theorem exec_attest (s : State) : exec .attest s = execAttest s := rfl
theorem exec_merge (s : State) : exec .merge s = execMerge s := rfl
theorem exec_split (s : State) : exec .split s = execSplit s := rfl
theorem exec_reset (s : State) : exec .reset s = execReset s := rfl
theorem exec_pkgreset (s : State) : exec .pkgreset s = execPkgreset s := rfl
theorem exec_sleep (s : State) : exec .sleep s = execSleep s := rfl
theorem exec_wake (s : State) : exec .wake s = execWake s := rfl
theorem exec_erase (s : State) : exec .erase s = execErase s := rfl
theorem exec_tamperpolWrite (v : GWord) (s : State) : exec (.tamperpolWrite v) s = execTamperpolWrite v s := rfl
theorem exec_pwrcapWrite (v : GWord) (s : State) : exec (.pwrcapWrite v) s = execPwrcapWrite v s := rfl
theorem exec_tamperAlarm (sensor : Nat) (s : State) : exec (.tamperAlarm sensor) s = execTamperAlarm sensor s := rfl
theorem exec_powerControl (watts : Nat) (junction : Nat) (s : State) : exec (.powerControl watts junction) s = execPowerControl watts junction s := rfl
theorem exec_thermalHalt (s : State) : exec .thermalHalt s = execThermalHalt s := rfl
theorem exec_perstDeassert (s : State) : exec .perstDeassert s = execPerstDeassert s := rfl
theorem exec_linkUp (cxl : Bool) (flit : Bool) (width : Nat) (speed : Nat) (s : State) : exec (.linkUp cxl flit width speed) s = execLinkUp cxl flit width speed s := rfl
theorem exec_hostLinkReset (s : State) : exec .hostLinkReset s = execHostLinkReset s := rfl
theorem exec_portcfgWrite (port : Nat) (v : GWord) (s : State) : exec (.portcfgWrite port v) s = execPortcfgWrite port v s := rfl
theorem exec_portUp (port : Nat) (peer : Nat) (s : State) : exec (.portUp port peer) s = execPortUp port peer s := rfl
theorem exec_portFail (port : Nat) (s : State) : exec (.portFail port) s = execPortFail port s := rfl
theorem exec_hostMemRead (pa : Nat) (s : State) : exec (.hostMemRead pa) s = execHostMemRead pa s := rfl
theorem exec_hostMemWrite (pa : Nat) (bytes : List Byte) (s : State) : exec (.hostMemWrite pa bytes) s = execHostMemWrite pa bytes s := rfl
theorem exec_biconflict (pa : Nat) (s : State) : exec (.biconflict pa) s = execBiconflict pa s := rfl
theorem exec_hostSnoop (pa : Nat) (inv : Bool) (s : State) : exec (.hostSnoop pa inv) s = execHostSnoop pa inv s := rfl
theorem exec_flip (part : Nat) (v : GWord) (s : State) : exec (.flip part v) s = execFlip part v s := rfl
theorem exec_flipComplete (part : Nat) (s : State) : exec (.flipComplete part) s = execFlipComplete part s := rfl
theorem exec_msixSend (vec : Nat) (s : State) : exec (.msixSend vec) s = execMsixSend vec s := rfl
theorem exec_tile (port : Nat) (m : Msg) (s : State) : exec (.tile port m) s = execTile port m s := rfl
theorem exec_commit (port : Nat) (m : Msg) (s : State) : exec (.commit port m) s = execCommit port m s := rfl
theorem exec_credit (port : Nat) (m : Msg) (s : State) : exec (.credit port m) s = execCredit port m s := rfl
theorem exec_close (port : Nat) (m : Msg) (s : State) : exec (.close port m) s = execClose port m s := rfl
theorem exec_pause (port : Nat) (m : Msg) (s : State) : exec (.pause port m) s = execPause port m s := rfl
theorem exec_resume (port : Nat) (m : Msg) (s : State) : exec (.resume port m) s = execResume port m s := rfl
theorem exec_abort (port : Nat) (m : Msg) (s : State) : exec (.abort port m) s = execAbort port m s := rfl
theorem exec_mergeHoldExpiry (pipe : Nat) (k : Nat) (s : State) : exec (.mergeHoldExpiry pipe k) s = execMergeHoldExpiry pipe k s := rfl
theorem exec_formatComplete (s : State) : exec .formatComplete s = execFormatComplete s := rfl
theorem exec_errorCompletion (port : Nat) (s : State) : exec (.errorCompletion port) s = execErrorCompletion port s := rfl
theorem exec_droppedMessage (port : Nat) (m : Msg) (s : State) : exec (.droppedMessage port m) s = execDroppedMessage port m s := rfl

end Sys2Proof.Machine
end

