-- ==== Sys2Proof/Laws/Encoding.lean ====
section
/-! SUPPORT. The fields of the words that the encoder builds, one lemma for each field of each format, and the codes that the
decoder reads back. -/

namespace Sys2Proof.Laws

open Sys2Proof

section Control

variable (op d a b : BitVec 6) (fn : BitVec 8) (imm : BitVec 14) (bn : BitVec 4) (off : BitVec 10) (sub md : BitVec 4)
  (sel : BitVec 10)

theorem creg_op : BitVec.extractLsb' (n := 32) 26 6 (op ++ d ++ a ++ b ++ fn) = op := by ext i h; simp; grind
theorem creg_d : BitVec.extractLsb' (n := 32) 20 6 (op ++ d ++ a ++ b ++ fn) = d := by ext i h; simp; grind
theorem creg_a : BitVec.extractLsb' (n := 32) 14 6 (op ++ d ++ a ++ b ++ fn) = a := by ext i h; simp; grind
theorem creg_b : BitVec.extractLsb' (n := 32) 8 6 (op ++ d ++ a ++ b ++ fn) = b := by ext i h; simp; grind
theorem creg_fn : BitVec.extractLsb' (n := 32) 0 8 (op ++ d ++ a ++ b ++ fn) = fn := by ext i h; simp; grind

theorem cimm_op : BitVec.extractLsb' (n := 32) 26 6 (op ++ d ++ a ++ imm) = op := by ext i h; simp; grind
theorem cimm_d : BitVec.extractLsb' (n := 32) 20 6 (op ++ d ++ a ++ imm) = d := by ext i h; simp; grind
theorem cimm_a : BitVec.extractLsb' (n := 32) 14 6 (op ++ d ++ a ++ imm) = a := by ext i h; simp; grind
theorem cimm_imm : BitVec.extractLsb' (n := 32) 0 14 (op ++ d ++ a ++ imm) = imm := by ext i h; simp; grind

theorem cmem_op : BitVec.extractLsb' (n := 32) 26 6 (op ++ d ++ a ++ bn ++ off) = op := by ext i h; simp; grind
theorem cmem_d : BitVec.extractLsb' (n := 32) 20 6 (op ++ d ++ a ++ bn ++ off) = d := by ext i h; simp; grind
theorem cmem_a : BitVec.extractLsb' (n := 32) 14 6 (op ++ d ++ a ++ bn ++ off) = a := by ext i h; simp; grind
theorem cmem_bn : BitVec.extractLsb' (n := 32) 10 4 (op ++ d ++ a ++ bn ++ off) = bn := by ext i h; simp; grind
theorem cmem_off : BitVec.extractLsb' (n := 32) 0 10 (op ++ d ++ a ++ bn ++ off) = off := by ext i h; simp; grind

theorem ceng_op : BitVec.extractLsb' (n := 32) 26 6 (op ++ d ++ a ++ b ++ sub ++ md) = op := by ext i h; simp; grind
theorem ceng_d : BitVec.extractLsb' (n := 32) 20 6 (op ++ d ++ a ++ b ++ sub ++ md) = d := by ext i h; simp; grind
theorem ceng_a : BitVec.extractLsb' (n := 32) 14 6 (op ++ d ++ a ++ b ++ sub ++ md) = a := by ext i h; simp; grind
theorem ceng_b : BitVec.extractLsb' (n := 32) 8 6 (op ++ d ++ a ++ b ++ sub ++ md) = b := by ext i h; simp; grind
theorem ceng_sub : BitVec.extractLsb' (n := 32) 4 4 (op ++ d ++ a ++ b ++ sub ++ md) = sub := by ext i h; simp; grind
theorem ceng_md : BitVec.extractLsb' (n := 32) 0 4 (op ++ d ++ a ++ b ++ sub ++ md) = md := by ext i h; simp; grind

theorem csys_op : BitVec.extractLsb' (n := 32) 26 6 (op ++ d ++ a ++ sel ++ sub) = op := by ext i h; simp; grind
theorem csys_d : BitVec.extractLsb' (n := 32) 20 6 (op ++ d ++ a ++ sel ++ sub) = d := by ext i h; simp; grind
theorem csys_a : BitVec.extractLsb' (n := 32) 14 6 (op ++ d ++ a ++ sel ++ sub) = a := by ext i h; simp; grind
theorem csys_sel : BitVec.extractLsb' (n := 32) 4 10 (op ++ d ++ a ++ sel ++ sub) = sel := by ext i h; simp; grind
theorem csys_fn : BitVec.extractLsb' (n := 32) 0 4 (op ++ d ++ a ++ sel ++ sub) = sub := by ext i h; simp; grind

end Control

section Branch

variable (op : BitVec 6) (q : BitVec 3) (neg : Bool) (off : BitVec 22)

theorem cbr_op : BitVec.extractLsb' (n := 32) 26 6 (op ++ q ++ BitVec.ofBool neg ++ off) = op := by ext i h; simp; grind
theorem cbr_q : BitVec.extractLsb' (n := 32) 23 3 (op ++ q ++ BitVec.ofBool neg ++ off) = q := by ext i h; simp; grind
theorem cbr_neg : BitVec.getLsbD (w := 32) (op ++ q ++ BitVec.ofBool neg ++ off) 22 = neg := by
  have h : (op ++ q ++ BitVec.ofBool neg ++ off).getLsbD 22 = neg := by simp only [BitVec.getLsbD_append]; simp
  exact h
theorem cbr_off : BitVec.extractLsb' (n := 32) 0 22 (op ++ q ++ BitVec.ofBool neg ++ off) = off := by ext i h; simp; grind

end Branch

section Run

variable (op : BitVec 6) (nr : BitVec 1) (hi : BitVec 5) (a : BitVec 6) (lo : BitVec 14)

theorem crun_op : BitVec.extractLsb' (n := 32) 26 6 (op ++ nr ++ hi ++ a ++ lo) = op := by ext i h; simp; grind
theorem crun_d : BitVec.extractLsb' (n := 32) 20 6 (op ++ nr ++ hi ++ a ++ lo) = nr ++ hi := by ext i h; simp; grind
theorem crun_a : BitVec.extractLsb' (n := 32) 14 6 (op ++ nr ++ hi ++ a ++ lo) = a := by ext i h; simp; grind
theorem crun_lo : BitVec.extractLsb' (n := 32) 0 14 (op ++ nr ++ hi ++ a ++ lo) = lo := by ext i h; simp; grind

end Run

section Lane

variable (op : BitVec 8) (sub gap : BitVec 4) (cede : Bool) (wm : BitVec 4) (wl : BitVec 3) (wf : BitVec 2) (neg : Bool)
  (pred : BitVec 3) (d a b c : BitVec 8) (tx : BitVec 2) (imm : BitVec 32)

theorem laneWord_op :
    (op ++ sub ++ gap ++ BitVec.ofBool cede ++ wm ++ wl ++ wf ++ BitVec.ofBool neg ++ pred ++ d ++ a ++ b ++ c ++ tx ++ imm).extractLsb' 88 8 = op := by
  simp (disch := omega) only [BitVec.extractLsb'_append_eq_of_le]
  ext i h; simp

theorem laneWord_sub :
    (op ++ sub ++ gap ++ BitVec.ofBool cede ++ wm ++ wl ++ wf ++ BitVec.ofBool neg ++ pred ++ d ++ a ++ b ++ c ++ tx ++ imm).extractLsb' 84 4 = sub := by
  simp (disch := omega) only [BitVec.extractLsb'_append_eq_of_le, BitVec.extractLsb'_append_eq_of_add_le]
  ext i h; simp

theorem laneWord_gap :
    (op ++ sub ++ gap ++ BitVec.ofBool cede ++ wm ++ wl ++ wf ++ BitVec.ofBool neg ++ pred ++ d ++ a ++ b ++ c ++ tx ++ imm).extractLsb' 80 4 = gap := by
  simp (disch := omega) only [BitVec.extractLsb'_append_eq_of_le, BitVec.extractLsb'_append_eq_of_add_le]
  ext i h; simp

theorem laneWord_wm :
    (op ++ sub ++ gap ++ BitVec.ofBool cede ++ wm ++ wl ++ wf ++ BitVec.ofBool neg ++ pred ++ d ++ a ++ b ++ c ++ tx ++ imm).extractLsb' 75 4 = wm := by
  simp (disch := omega) only [BitVec.extractLsb'_append_eq_of_le, BitVec.extractLsb'_append_eq_of_add_le]
  ext i h; simp

theorem laneWord_wl :
    (op ++ sub ++ gap ++ BitVec.ofBool cede ++ wm ++ wl ++ wf ++ BitVec.ofBool neg ++ pred ++ d ++ a ++ b ++ c ++ tx ++ imm).extractLsb' 72 3 = wl := by
  simp (disch := omega) only [BitVec.extractLsb'_append_eq_of_le, BitVec.extractLsb'_append_eq_of_add_le]
  ext i h; simp

theorem laneWord_wf :
    (op ++ sub ++ gap ++ BitVec.ofBool cede ++ wm ++ wl ++ wf ++ BitVec.ofBool neg ++ pred ++ d ++ a ++ b ++ c ++ tx ++ imm).extractLsb' 70 2 = wf := by
  simp (disch := omega) only [BitVec.extractLsb'_append_eq_of_le, BitVec.extractLsb'_append_eq_of_add_le]
  ext i h; simp

theorem laneWord_pred :
    (op ++ sub ++ gap ++ BitVec.ofBool cede ++ wm ++ wl ++ wf ++ BitVec.ofBool neg ++ pred ++ d ++ a ++ b ++ c ++ tx ++ imm).extractLsb' 66 3 = pred := by
  simp (disch := omega) only [BitVec.extractLsb'_append_eq_of_le, BitVec.extractLsb'_append_eq_of_add_le]
  ext i h; simp

theorem laneWord_d :
    (op ++ sub ++ gap ++ BitVec.ofBool cede ++ wm ++ wl ++ wf ++ BitVec.ofBool neg ++ pred ++ d ++ a ++ b ++ c ++ tx ++ imm).extractLsb' 58 8 = d := by
  simp (disch := omega) only [BitVec.extractLsb'_append_eq_of_le, BitVec.extractLsb'_append_eq_of_add_le]
  ext i h; simp

theorem laneWord_a :
    (op ++ sub ++ gap ++ BitVec.ofBool cede ++ wm ++ wl ++ wf ++ BitVec.ofBool neg ++ pred ++ d ++ a ++ b ++ c ++ tx ++ imm).extractLsb' 50 8 = a := by
  simp (disch := omega) only [BitVec.extractLsb'_append_eq_of_le, BitVec.extractLsb'_append_eq_of_add_le]
  ext i h; simp

theorem laneWord_b :
    (op ++ sub ++ gap ++ BitVec.ofBool cede ++ wm ++ wl ++ wf ++ BitVec.ofBool neg ++ pred ++ d ++ a ++ b ++ c ++ tx ++ imm).extractLsb' 42 8 = b := by
  simp (disch := omega) only [BitVec.extractLsb'_append_eq_of_le, BitVec.extractLsb'_append_eq_of_add_le]
  ext i h; simp

theorem laneWord_c :
    (op ++ sub ++ gap ++ BitVec.ofBool cede ++ wm ++ wl ++ wf ++ BitVec.ofBool neg ++ pred ++ d ++ a ++ b ++ c ++ tx ++ imm).extractLsb' 34 8 = c := by
  simp (disch := omega) only [BitVec.extractLsb'_append_eq_of_le, BitVec.extractLsb'_append_eq_of_add_le]
  ext i h; simp

theorem laneWord_tx :
    (op ++ sub ++ gap ++ BitVec.ofBool cede ++ wm ++ wl ++ wf ++ BitVec.ofBool neg ++ pred ++ d ++ a ++ b ++ c ++ tx ++ imm).extractLsb' 32 2 = tx := by
  simp (disch := omega) only [BitVec.extractLsb'_append_eq_of_le, BitVec.extractLsb'_append_eq_of_add_le]
  ext i h; simp

theorem laneWord_imm :
    (op ++ sub ++ gap ++ BitVec.ofBool cede ++ wm ++ wl ++ wf ++ BitVec.ofBool neg ++ pred ++ d ++ a ++ b ++ c ++ tx ++ imm).extractLsb' 0 32 = imm := by
  simp (disch := omega) only [BitVec.extractLsb'_append_eq_of_add_le]
  ext i h; simp

theorem laneWord_cede :
    (op ++ sub ++ gap ++ BitVec.ofBool cede ++ wm ++ wl ++ wf ++ BitVec.ofBool neg ++ pred ++ d ++ a ++ b ++ c ++ tx ++ imm).getLsbD 79 = cede := by
  simp only [BitVec.getLsbD_append]; simp

theorem laneWord_neg :
    (op ++ sub ++ gap ++ BitVec.ofBool cede ++ wm ++ wl ++ wf ++ BitVec.ofBool neg ++ pred ++ d ++ a ++ b ++ c ++ tx ++ imm).getLsbD 69 = neg := by
  simp only [BitVec.getLsbD_append]; simp

end Lane

theorem lane_op (op : BitVec 8) (sub : BitVec 4) (f : LaneF) : (encLane op sub f).extractLsb' 88 8 = op := laneWord_op op ..

theorem lane_sub (op : BitVec 8) (sub : BitVec 4) (f : LaneF) : (encLane op sub f).extractLsb' 84 4 = sub := laneWord_sub op ..

/-- The decoder reads back every field of a lane word that the encoder built. -/
theorem lane_fields (op : BitVec 8) (sub : BitVec 4) (f : LaneF) : LaneF.ofWord (encLane op sub f) = f := by
  obtain ⟨⟨gap, cede, wm, wl, wf⟩, neg, pred, d, a, b, c, tx, imm⟩ := f
  simp only [LaneF.ofWord, LaneF.mk.injEq, Sched.mk.injEq]
  exact ⟨⟨laneWord_gap op .., laneWord_cede op .., laneWord_wm op .., laneWord_wl op .., laneWord_wf op ..⟩,
    laneWord_neg op .., laneWord_pred op .., laneWord_d op .., laneWord_a op .., laneWord_b op .., laneWord_c op ..,
    laneWord_tx op .., laneWord_imm op ..⟩

/-- A lane word decodes by its OP, SUB and fields. -/
theorem decodeLane_enc (op : BitVec 8) (sub : BitVec 4) (f : LaneF) : decodeLane (encLane op sub f) = decLane op.toNat sub f := by
  simp only [decodeLane, lane_op, lane_sub, lane_fields]

/-! ## Fields inside a field -/

theorem shift_hi (z : BitVec 8) (sh : BitVec 6) : BitVec.extractLsb' (n := 14) 6 8 (z ++ sh) = z := by ext i h; simp; grind
theorem shift_lo (z : BitVec 8) (sh : BitVec 6) : BitVec.extractLsb' (n := 14) 0 6 (z ++ sh) = sh := by ext i h; simp; grind

theorem field_n (k : BitVec 2) (n lo : BitVec 6) : BitVec.extractLsb' (n := 14) 6 6 (k ++ n ++ lo) = n := by ext i h; simp; grind
theorem field_lo (k : BitVec 2) (n lo : BitVec 6) : BitVec.extractLsb' (n := 14) 0 6 (k ++ n ++ lo) = lo := by ext i h; simp; grind
theorem field_bit13 (k : BitVec 2) (n lo : BitVec 6) : BitVec.getLsbD (w := 14) (k ++ n ++ lo) 13 = k.getLsbD 1 := by
  have h : (k ++ n ++ lo).getLsbD 13 = k.getLsbD 1 := by simp only [BitVec.getLsbD_append]; simp
  exact h
theorem field_bit12 (k : BitVec 2) (n lo : BitVec 6) : BitVec.getLsbD (w := 14) (k ++ n ++ lo) 12 = k.getLsbD 0 := by
  have h : (k ++ n ++ lo).getLsbD 12 = k.getLsbD 0 := by simp only [BitVec.getLsbD_append]; simp
  exact h

theorem pipe_k (k : BitVec 3) (z : BitVec 5) (n : BitVec 6) : BitVec.extractLsb' (n := 14) 11 3 (k ++ z ++ n) = k := by ext i h; simp; grind
theorem pipe_z (k : BitVec 3) (z : BitVec 5) (n : BitVec 6) : BitVec.extractLsb' (n := 14) 6 5 (k ++ z ++ n) = z := by ext i h; simp; grind
theorem pipe_n (k : BitVec 3) (z : BitVec 5) (n : BitVec 6) : BitVec.extractLsb' (n := 14) 0 6 (k ++ z ++ n) = n := by ext i h; simp; grind

theorem pipeH_k (k : BitVec 3) (z : BitVec 11) : BitVec.extractLsb' (n := 14) 11 3 (k ++ z) = k := by ext i h; simp; grind
theorem pipeH_z (k : BitVec 3) (z : BitVec 11) : BitVec.extractLsb' (n := 14) 0 11 (k ++ z) = z := by ext i h; simp; grind

theorem lmem_bn (bn : BitVec 4) (sc : BitVec 3) (o : BitVec 2) (off : BitVec 23) : BitVec.extractLsb' (n := 32) 28 4 (bn ++ sc ++ o ++ off) = bn := by ext i h; simp; grind
theorem lmem_sc (bn : BitVec 4) (sc : BitVec 3) (o : BitVec 2) (off : BitVec 23) : BitVec.extractLsb' (n := 32) 25 3 (bn ++ sc ++ o ++ off) = sc := by ext i h; simp; grind
theorem lmem_ord (bn : BitVec 4) (sc : BitVec 3) (o : BitVec 2) (off : BitVec 23) : BitVec.extractLsb' (n := 32) 23 2 (bn ++ sc ++ o ++ off) = o := by ext i h; simp; grind
theorem lmem_off (bn : BitVec 4) (sc : BitVec 3) (o : BitVec 2) (off : BitVec 23) : BitVec.extractLsb' (n := 32) 0 23 (bn ++ sc ++ o ++ off) = off := by ext i h; simp; grind
theorem lmem_plain (bn : BitVec 4) (sc : BitVec 3) (o : BitVec 2) (off : BitVec 23) : BitVec.extractLsb' (n := 32) 23 5 (bn ++ sc ++ o ++ off) = sc ++ o := by ext i h; simp; grind

theorem lctl_n (n : BitVec 8) (z : BitVec 4) (off : BitVec 20) : BitVec.extractLsb' (n := 32) 24 8 (n ++ z ++ off) = n := by ext i h; simp; grind
theorem lctl_z (n : BitVec 8) (z : BitVec 4) (off : BitVec 20) : BitVec.extractLsb' (n := 32) 20 4 (n ++ z ++ off) = z := by ext i h; simp; grind
theorem lctl_off (n : BitVec 8) (z : BitVec 4) (off : BitVec 20) : BitVec.extractLsb' (n := 32) 0 20 (n ++ z ++ off) = off := by ext i h; simp; grind

theorem lcvt_st (st dt : BitVec 5) (rm : BitVec 3) (ss : BitVec 2) (z : BitVec 17) : BitVec.extractLsb' (n := 32) 27 5 (st ++ dt ++ rm ++ ss ++ z) = st := by ext i h; simp; grind
theorem lcvt_dt (st dt : BitVec 5) (rm : BitVec 3) (ss : BitVec 2) (z : BitVec 17) : BitVec.extractLsb' (n := 32) 22 5 (st ++ dt ++ rm ++ ss ++ z) = dt := by ext i h; simp; grind
theorem lcvt_rm (st dt : BitVec 5) (rm : BitVec 3) (ss : BitVec 2) (z : BitVec 17) : BitVec.extractLsb' (n := 32) 19 3 (st ++ dt ++ rm ++ ss ++ z) = rm := by ext i h; simp; grind
theorem lcvt_ss (st dt : BitVec 5) (rm : BitVec 3) (ss : BitVec 2) (z : BitVec 17) : BitVec.extractLsb' (n := 32) 17 2 (st ++ dt ++ rm ++ ss ++ z) = ss := by ext i h; simp; grind
theorem lcvt_z (st dt : BitVec 5) (rm : BitVec 3) (ss : BitVec 2) (z : BitVec 17) : BitVec.extractLsb' (n := 32) 0 17 (st ++ dt ++ rm ++ ss ++ z) = z := by ext i h; simp; grind
theorem lcvt_exact (st dt : BitVec 5) (rm : BitVec 3) (ss : BitVec 2) (z : BitVec 17) : BitVec.extractLsb' (n := 32) 17 5 (st ++ dt ++ rm ++ ss ++ z) = rm ++ ss := by ext i h; simp; grind

theorem tile_z (z : BitVec 23) (n : BitVec 9) : BitVec.extractLsb' (n := 32) 9 23 (z ++ n) = z := by ext i h; simp; grind
theorem tile_n (z : BitVec 23) (n : BitVec 9) : BitVec.extractLsb' (n := 32) 0 9 (z ++ n) = n := by ext i h; simp; grind

theorem atom_z (z : BitVec 6) (b c : BitVec 6) (op : BitVec 4) (w : Bool) (o : BitVec 2) (sc : BitVec 3) (y : BitVec 4) : BitVec.extractLsb' (n := 32) 26 6 (z ++ b ++ c ++ op ++ BitVec.ofBool w ++ o ++ sc ++ y) = z := by ext i h; simp; grind
theorem atom_b (z : BitVec 6) (b c : BitVec 6) (op : BitVec 4) (w : Bool) (o : BitVec 2) (sc : BitVec 3) (y : BitVec 4) : BitVec.extractLsb' (n := 32) 20 6 (z ++ b ++ c ++ op ++ BitVec.ofBool w ++ o ++ sc ++ y) = b := by ext i h; simp; grind
theorem atom_c (z : BitVec 6) (b c : BitVec 6) (op : BitVec 4) (w : Bool) (o : BitVec 2) (sc : BitVec 3) (y : BitVec 4) : BitVec.extractLsb' (n := 32) 14 6 (z ++ b ++ c ++ op ++ BitVec.ofBool w ++ o ++ sc ++ y) = c := by ext i h; simp; grind
theorem atom_op (z : BitVec 6) (b c : BitVec 6) (op : BitVec 4) (w : Bool) (o : BitVec 2) (sc : BitVec 3) (y : BitVec 4) : BitVec.extractLsb' (n := 32) 10 4 (z ++ b ++ c ++ op ++ BitVec.ofBool w ++ o ++ sc ++ y) = op := by ext i h; simp; grind
theorem atom_ord (z : BitVec 6) (b c : BitVec 6) (op : BitVec 4) (w : Bool) (o : BitVec 2) (sc : BitVec 3) (y : BitVec 4) : BitVec.extractLsb' (n := 32) 7 2 (z ++ b ++ c ++ op ++ BitVec.ofBool w ++ o ++ sc ++ y) = o := by ext i h; simp; grind
theorem atom_sc (z : BitVec 6) (b c : BitVec 6) (op : BitVec 4) (w : Bool) (o : BitVec 2) (sc : BitVec 3) (y : BitVec 4) : BitVec.extractLsb' (n := 32) 4 3 (z ++ b ++ c ++ op ++ BitVec.ofBool w ++ o ++ sc ++ y) = sc := by ext i h; simp; grind
theorem atom_y (z : BitVec 6) (b c : BitVec 6) (op : BitVec 4) (w : Bool) (o : BitVec 2) (sc : BitVec 3) (y : BitVec 4) : BitVec.extractLsb' (n := 32) 0 4 (z ++ b ++ c ++ op ++ BitVec.ofBool w ++ o ++ sc ++ y) = y := by ext i h; simp; grind
theorem atom_bit9 (z : BitVec 6) (b c : BitVec 6) (op : BitVec 4) (w : Bool) (o : BitVec 2) (sc : BitVec 3) (y : BitVec 4) : BitVec.getLsbD (w := 32) (z ++ b ++ c ++ op ++ BitVec.ofBool w ++ o ++ sc ++ y) 9 = w := by
  have h : (z ++ b ++ c ++ op ++ BitVec.ofBool w ++ o ++ sc ++ y).getLsbD 9 = w := by simp only [BitVec.getLsbD_append]; simp
  exact h

theorem acq_z (sc : BitVec 3) (y : BitVec 4) : BitVec.extractLsb' (n := 32) 26 6 (0#25 ++ sc ++ y) = 0#6 := by
  revert sc y; decide
theorem acq_m (sc : BitVec 3) (y : BitVec 4) : BitVec.extractLsb' (n := 32) 8 18 (0#25 ++ sc ++ y) = 0#18 := by
  revert sc y; decide
theorem acq_sc (sc : BitVec 3) (y : BitVec 4) : BitVec.extractLsb' (n := 32) 4 3 (0#25 ++ sc ++ y) = sc := by
  revert sc y; decide
theorem acq_y (sc : BitVec 3) (y : BitVec 4) : BitVec.extractLsb' (n := 32) 0 4 (0#25 ++ sc ++ y) = y := by
  revert sc y; decide
theorem acq_bit7 (sc : BitVec 3) (y : BitVec 4) : BitVec.getLsbD (w := 32) (0#25 ++ sc ++ y) 7 = false := by
  revert sc y; decide

theorem rel_z (sc : BitVec 3) (y : BitVec 4) : BitVec.extractLsb' (n := 32) 26 6 (0#24 ++ 1#1 ++ sc ++ y) = 0#6 := by
  revert sc y; decide
theorem rel_m (sc : BitVec 3) (y : BitVec 4) : BitVec.extractLsb' (n := 32) 8 18 (0#24 ++ 1#1 ++ sc ++ y) = 0#18 := by
  revert sc y; decide
theorem rel_sc (sc : BitVec 3) (y : BitVec 4) : BitVec.extractLsb' (n := 32) 4 3 (0#24 ++ 1#1 ++ sc ++ y) = sc := by
  revert sc y; decide
theorem rel_y (sc : BitVec 3) (y : BitVec 4) : BitVec.extractLsb' (n := 32) 0 4 (0#24 ++ 1#1 ++ sc ++ y) = y := by
  revert sc y; decide
theorem rel_bit7 (sc : BitVec 3) (y : BitVec 4) : BitVec.getLsbD (w := 32) (0#24 ++ 1#1 ++ sc ++ y) 7 = true := by
  revert sc y; decide

theorem fence_op (sc : BitVec 3) : BitVec.extractLsb' (n := 32) 26 6 (25#6 ++ 0#23 ++ sc) = 25#6 := by
  revert sc; decide
theorem fence_d (sc : BitVec 3) : BitVec.extractLsb' (n := 32) 20 6 (25#6 ++ 0#23 ++ sc) = 0#6 := by
  revert sc; decide
theorem fence_a (sc : BitVec 3) : BitVec.extractLsb' (n := 32) 14 6 (25#6 ++ 0#23 ++ sc) = 0#6 := by
  revert sc; decide
theorem fence_b (sc : BitVec 3) : BitVec.extractLsb' (n := 32) 8 6 (25#6 ++ 0#23 ++ sc) = 0#6 := by
  revert sc; decide
theorem fence_m (sc : BitVec 3) : BitVec.extractLsb' (n := 32) 3 5 (25#6 ++ 0#23 ++ sc) = 0#5 := by
  revert sc; decide
theorem fence_sc (sc : BitVec 3) : BitVec.extractLsb' (n := 32) 0 3 (25#6 ++ 0#23 ++ sc) = sc := by
  revert sc; decide

theorem num5_k (k : BitVec 3) (n : BitVec 5) : BitVec.extractLsb' (n := 8) 5 3 (k ++ n) = k := by ext i h; simp; grind
theorem num5_n (k : BitVec 3) (n : BitVec 5) : BitVec.extractLsb' (n := 8) 0 5 (k ++ n) = n := by ext i h; simp; grind

theorem num4_k (k n : BitVec 4) : BitVec.extractLsb' (n := 8) 4 4 (k ++ n) = k := by ext i h; simp; grind
theorem num4_n (k n : BitVec 4) : BitVec.extractLsb' (n := 8) 0 4 (k ++ n) = n := by ext i h; simp; grind

theorem num3_k (k : BitVec 5) (n : BitVec 3) : BitVec.extractLsb' (n := 8) 3 5 (k ++ n) = k := by ext i h; simp; grind
theorem num3_n (k : BitVec 5) (n : BitVec 3) : BitVec.extractLsb' (n := 8) 0 3 (k ++ n) = n := by ext i h; simp; grind

theorem loc_d (d s : BitVec 2) : BitVec.extractLsb' (n := 4) 2 2 (d ++ s) = d := by ext i h; simp; grind
theorem loc_s (d s : BitVec 2) : BitVec.extractLsb' (n := 4) 0 2 (d ++ s) = s := by ext i h; simp; grind

theorem md_z (z : BitVec 3) (x : Bool) : BitVec.extractLsb' (n := 4) 1 3 (z ++ BitVec.ofBool x) = z := by ext i h; simp; grind
theorem md_bit0 (z : BitVec 3) (x : Bool) : BitVec.getLsbD (w := 4) (z ++ BitVec.ofBool x) 0 = x := by
  have h : (z ++ BitVec.ofBool x).getLsbD 0 = x := by simp only [BitVec.getLsbD_append]; simp
  exact h

theorem run_n (k : BitVec 1) (n : BitVec 5) : BitVec.extractLsb' (n := 6) 0 5 (k ++ n) = n := by ext i h; simp; grind
theorem run_bit5 (k : BitVec 1) (n : BitVec 5) : BitVec.getLsbD (w := 6) (k ++ n) 5 = k.getLsbD 0 := by
  have h : (k ++ n).getLsbD 5 = k.getLsbD 0 := by simp only [BitVec.getLsbD_append]; simp
  exact h

theorem qOf_qField (q : QReg) : qOf (qField q) = q := by revert q; decide
theorem isQ_qField (q : QReg) : isQ (qField q) = true := by revert q; decide
theorem pOf_pField (p : PReg) : pOf (pField p) = p := by revert p; decide
theorem isP_pField (p : PReg) : isP (pField p) = true := by revert p; decide
theorem lo4_append (x : BitVec 4) : lo4 (0#2 ++ x) = x := by revert x; decide
theorem is4_append (x : BitVec 4) : is4 (0#2 ++ x) = true := by revert x; decide

/-! ## Codes -/

theorem Scope_code (x : Scope) : Scope.ofCode x.code = x := by cases x <;> rfl
theorem Ord_code (x : Ord) : Ord.ofCode x.code = x := by cases x <;> rfl
theorem AtomOp_code (x : AtomOp) : AtomOp.ofCode x.code = some x := by cases x <;> rfl
theorem RmSel_code (x : RmSel) : RmSel.ofCode x.code = some x := by
  cases x with
  | own m => cases m <;> rfl
  | fmt => rfl
theorem SatSel_code (x : SatSel) : SatSel.ofCode x.code = some x := by cases x <;> rfl
theorem VType_code (x : VType) : VType.ofCode x.code = some x := by cases x <;> rfl
theorem FTy_code (x : FTy) : FTy.ofCode x.code = some x := by cases x <;> rfl
theorem ICond_code (x : ICond) : ICond.ofCode x.code = some x := by cases x <;> rfl
theorem FCond_code (x : FCond) : FCond.ofCode x.code = some x := by cases x <;> rfl
theorem ShflMode_code (x : ShflMode) : ShflMode.ofCode x.code = some x := by cases x <;> rfl
theorem RedOp_code (x : RedOp) : RedOp.ofCode x.code = some x := by cases x <;> rfl
theorem Size_code (x : Size) : Size.ofCode x.code = some x := by cases x <;> rfl
theorem Loc_code (x : Loc) : Loc.ofCode x.code = some x := by cases x <;> rfl
theorem Reach_code (x : Reach) : Reach.ofCode x.code = some x := by cases x <;> rfl
theorem SysReg_code (x : SysReg) : SysReg.ofCode x.code = some x := by cases x <;> rfl

end Sys2Proof.Laws
end

