-- ==== Sys2Proof/Laws/Tab.lean ====
section
/-! SUPPORT. The laws of tables and of memory: reading after writing, and that every memory operation keeps the canonical form. -/

namespace Sys2Proof.Machine

open Sys2Proof

variable {α : Type}

@[simp] theorem Tab.find_nil (k : Nat) : Tab.find ([] : Tab α) k = none := rfl

theorem Tab.find_del_self (t : Tab α) (k : Nat) : Tab.find (Tab.del t k) k = none := by
  induction t with
  | nil => rfl
  | cons e t ih =>
    obtain ⟨j, x⟩ := e
    by_cases h : j = k <;> simp [Tab.del, Tab.find, h, ih]

theorem Tab.find_del_other (t : Tab α) {k j : Nat} (h : j ≠ k) : Tab.find (Tab.del t k) j = Tab.find t j := by
  induction t with
  | nil => rfl
  | cons e t ih =>
    obtain ⟨i, x⟩ := e
    by_cases hk : i = k
    · subst hk
      simp [Tab.del, Tab.find, ih, Ne.symm h]
    · by_cases hj : i = j <;> simp [Tab.del, Tab.find, hk, hj, ih, h]

theorem Tab.find_put_self (t : Tab α) (k : Nat) (x : α) : Tab.find (Tab.put t k x) k = some x := by
  induction t with
  | nil => simp [Tab.put, Tab.find]
  | cons e t ih =>
    obtain ⟨j, y⟩ := e
    by_cases h : j = k
    · simp [Tab.put, Tab.find, h]
    · by_cases hl : k < j <;> simp [Tab.put, Tab.find, h, hl, ih]

theorem Tab.find_put_other (t : Tab α) {k j : Nat} (x : α) (h : j ≠ k) : Tab.find (Tab.put t k x) j = Tab.find t j := by
  induction t with
  | nil => simp [Tab.put, Tab.find, Ne.symm h]
  | cons e t ih =>
    obtain ⟨i, y⟩ := e
    by_cases hk : i = k
    · subst hk
      simp [Tab.put, Tab.find, Ne.symm h]
    · by_cases hl : k < i
      · simp [Tab.put, Tab.find, hk, hl, Ne.symm h, Tab.find_del_other t h]
      · simp [Tab.put, Tab.find, hk, hl, ih]

/-- Reading the key that was written. -/
@[simp] theorem Tab.get_set_self [DecidableEq α] (t : Tab α) (d : α) (k : Nat) (x : α) : Tab.get (Tab.set t d k x) d k = x := by
  by_cases h : x = d
  · simp [Tab.get, Tab.set, h, Tab.find_del_self]
  · simp [Tab.get, Tab.set, h, Tab.find_put_self]

/-- Reading any other key. -/
theorem Tab.get_set_other [DecidableEq α] (t : Tab α) (d : α) {k j : Nat} (x : α) (h : j ≠ k) :
    Tab.get (Tab.set t d k x) d j = Tab.get t d j := by
  by_cases hx : x = d
  · simp [Tab.get, Tab.set, hx, Tab.find_del_other t h]
  · simp [Tab.get, Tab.set, hx, Tab.find_put_other t x h]

@[simp] theorem Tab.get_put_self (t : Tab α) (d : α) (k : Nat) (x : α) : Tab.get (Tab.put t k x) d k = x := by
  simp [Tab.get, Tab.find_put_self]

theorem Tab.get_put_other (t : Tab α) (d : α) {k j : Nat} (x : α) (h : j ≠ k) : Tab.get (Tab.put t k x) d j = Tab.get t d j := by
  simp [Tab.get, Tab.find_put_other t x h]

@[simp] theorem Tab.get_modify_self [DecidableEq α] (t : Tab α) (d : α) (k : Nat) (f : α → α) :
    Tab.get (Tab.modify t d k f) d k = f (Tab.get t d k) := by simp [Tab.modify]

theorem Tab.get_modify_other [DecidableEq α] (t : Tab α) (d : α) {k j : Nat} (f : α → α) (h : j ≠ k) :
    Tab.get (Tab.modify t d k f) d j = Tab.get t d j := by simp [Tab.modify, Tab.get_set_other _ _ _ h]

/-! ## The canonical form -/

/-- Every key of the table is above lo. -/
def Tab.above (lo : Nat) (t : Tab α) : Prop := ∀ e ∈ t, lo < e.1

theorem Tab.rising_cons (e : Nat × α) (t : Tab α) : Tab.rising (e :: t) = true ↔ Tab.above e.1 t ∧ Tab.rising t = true := by
  induction t generalizing e with
  | nil => simp [Tab.rising, Tab.above]
  | cons f t ih =>
    have hf := ih f
    constructor
    · intro h
      simp only [Tab.rising, Bool.and_eq_true, decide_eq_true_eq] at h
      refine ⟨?_, h.2⟩
      intro x hx
      rcases List.mem_cons.1 hx with rfl | hx
      · exact h.1
      · exact lt_trans h.1 ((hf.1 h.2).1 x hx)
    · rintro ⟨ha, hr⟩
      simp only [Tab.rising, Bool.and_eq_true, decide_eq_true_eq]
      exact ⟨ha f (List.mem_cons_self ..), hr⟩

theorem Tab.mem_del {t : Tab α} {k : Nat} {e : Nat × α} (h : e ∈ Tab.del t k) : e ∈ t := by
  induction t with
  | nil => simp [Tab.del] at h
  | cons f t ih =>
    by_cases hk : f.1 = k
    · simp only [Tab.del, hk, beq_self_eq_true, if_true] at h
      exact List.mem_cons_of_mem _ (ih h)
    · simp only [Tab.del, beq_iff_eq, hk, if_false] at h
      rcases List.mem_cons.1 h with rfl | h
      · exact List.mem_cons_self ..
      · exact List.mem_cons_of_mem _ (ih h)

theorem Tab.mem_put {t : Tab α} {k : Nat} {x : α} {e : Nat × α} (h : e ∈ Tab.put t k x) : e = (k, x) ∨ e ∈ t := by
  induction t with
  | nil => simp [Tab.put] at h; exact .inl h
  | cons f t ih =>
    by_cases hk : f.1 = k
    · simp only [Tab.put, hk, beq_self_eq_true, if_true, List.mem_cons] at h
      exact h.imp_right (fun h => List.mem_cons_of_mem _ h)
    · by_cases hl : k < f.1
      · simp only [Tab.put, beq_iff_eq, hk, hl, if_false, if_true, List.mem_cons] at h
        rcases h with h | h | h
        · exact .inl h
        · exact .inr (h ▸ List.mem_cons_self ..)
        · exact .inr (List.mem_cons_of_mem _ (Tab.mem_del h))
      · simp only [Tab.put, beq_iff_eq, hk, hl, if_false, List.mem_cons] at h
        rcases h with h | h
        · exact .inr (h ▸ List.mem_cons_self ..)
        · exact (ih h).imp_right (fun h => List.mem_cons_of_mem _ h)

theorem Tab.rising_del {t : Tab α} (k : Nat) (h : Tab.rising t = true) : Tab.rising (Tab.del t k) = true := by
  induction t with
  | nil => rfl
  | cons e t ih =>
    obtain ⟨ha, hr⟩ := (Tab.rising_cons e t).1 h
    by_cases hk : e.1 = k
    · simp only [Tab.del, hk, beq_self_eq_true, if_true]
      exact ih hr
    · simp only [Tab.del, beq_iff_eq, hk, if_false]
      exact (Tab.rising_cons _ _).2 ⟨fun x hx => ha x (Tab.mem_del hx), ih hr⟩

theorem Tab.rising_put {t : Tab α} (k : Nat) (x : α) (h : Tab.rising t = true) : Tab.rising (Tab.put t k x) = true := by
  induction t with
  | nil => rfl
  | cons e t ih =>
    obtain ⟨ha, hr⟩ := (Tab.rising_cons e t).1 h
    by_cases hk : e.1 = k
    · simp only [Tab.put, hk, beq_self_eq_true, if_true]
      subst hk
      exact (Tab.rising_cons _ _).2 ⟨ha, hr⟩
    · by_cases hl : k < e.1
      · simp only [Tab.put, beq_iff_eq, hk, hl, if_false, if_true]
        have hd : Tab.above e.1 (Tab.del t k) := fun y hy => ha y (Tab.mem_del hy)
        refine (Tab.rising_cons _ _).2 ⟨?_, (Tab.rising_cons _ _).2 ⟨hd, Tab.rising_del k hr⟩⟩
        intro y hy
        rcases List.mem_cons.1 hy with rfl | hy
        · exact hl
        · exact lt_trans hl (hd y hy)
      · simp only [Tab.put, beq_iff_eq, hk, hl, if_false]
        refine (Tab.rising_cons _ _).2 ⟨?_, ih hr⟩
        intro y hy
        rcases Tab.mem_put hy with rfl | hy
        · exact lt_of_le_of_ne (Nat.le_of_not_lt hl) hk
        · exact ha y hy

/-! ## Memory -/

@[simp] theorem Memory.read_write_self (m : Memory) (a : Nat) (b : Byte) : (m.write a b).read a = b := Tab.get_set_self m 0 a b

theorem Memory.read_write_other (m : Memory) {a c : Nat} (b : Byte) (h : c ≠ a) : (m.write a b).read c = m.read c :=
  Tab.get_set_other m 0 b h

@[simp] theorem Memory.wf_nil : Memory.wf [] = true := rfl

theorem Memory.wf_iff (m : Memory) : m.wf = true ↔ Tab.rising m = true ∧ ∀ e ∈ m, e.2 ≠ 0 := by
  simp [Memory.wf]

/-- A write keeps the canonical form. -/
theorem Memory.wf_write {m : Memory} (a : Nat) (b : Byte) (h : m.wf = true) : (m.write a b).wf = true := by
  obtain ⟨hr, hz⟩ := (Memory.wf_iff m).1 h
  refine (Memory.wf_iff _).2 ?_
  by_cases hb : b = 0
  · simp only [Memory.write, Tab.set, hb, if_true]
    exact ⟨Tab.rising_del a hr, fun e he => hz e (Tab.mem_del he)⟩
  · simp only [Memory.write, Tab.set, hb, if_false]
    refine ⟨Tab.rising_put a b hr, fun e he => ?_⟩
    rcases Tab.mem_put he with rfl | he
    · exact hb
    · exact hz e he

/-- Dropping entries keeps the canonical form. -/
theorem Tab.rising_dropIf {t : Tab α} (f : Nat → α → Bool) (h : Tab.rising t = true) : Tab.rising (Tab.dropIf t f) = true := by
  induction t with
  | nil => rfl
  | cons e t ih =>
    obtain ⟨ha, hr⟩ := (Tab.rising_cons e t).1 h
    unfold Tab.dropIf at ih ⊢
    rw [List.filter_cons]
    split
    · exact (Tab.rising_cons _ _).2 ⟨fun x hx => ha x (List.mem_of_mem_filter hx), ih hr⟩
    · exact ih hr

theorem Memory.wf_dropIf {m : Memory} (f : Nat → Byte → Bool) (h : m.wf = true) : Memory.wf (Tab.dropIf m f) = true := by
  obtain ⟨hr, hz⟩ := (Memory.wf_iff m).1 h
  exact (Memory.wf_iff _).2 ⟨Tab.rising_dropIf f hr, fun e he => hz e (List.mem_of_mem_filter he)⟩

end Sys2Proof.Machine
end

