-- ==== Sys2Proof/Laws/State.lean ====
section
/-! SUPPORT. What each update of the state leaves as it is, one lemma for each field and update; and what each accessor reads after
each update. -/

namespace Sys2Proof.Machine

open Sys2Proof

@[simp] theorem State.setGrp_cur (s : State) (g : Nat) (x : Group) : (s.setGrp g x).cur = s.cur := rfl
@[simp] theorem State.setGrp_curLane (s : State) (g : Nat) (x : Group) : (s.setGrp g x).curLane = s.curLane := rfl
@[simp] theorem State.setGrp_agenda (s : State) (g : Nat) (x : Group) : (s.setGrp g x).agenda = s.agenda := rfl
@[simp] theorem State.setGrp_freeCtr (s : State) (g : Nat) (x : Group) : (s.setGrp g x).freeCtr = s.freeCtr := rfl
@[simp] theorem State.setGrp_clock (s : State) (g : Nat) (x : Group) : (s.setGrp g x).clock = s.clock := rfl
@[simp] theorem State.setGrp_us (s : State) (g : Nat) (x : Group) : (s.setGrp g x).us = s.us := rfl
@[simp] theorem State.setGrp_mem (s : State) (g : Nat) (x : Group) : (s.setGrp g x).mem = s.mem := rfl
@[simp] theorem State.setGrp_hostMem (s : State) (g : Nat) (x : Group) : (s.setGrp g x).hostMem = s.hostMem := rfl
@[simp] theorem State.setGrp_hostL2 (s : State) (g : Nat) (x : Group) : (s.setGrp g x).hostL2 = s.hostL2 := rfl
@[simp] theorem State.setGrp_l2 (s : State) (g : Nat) (x : Group) : (s.setGrp g x).l2 = s.l2 := rfl
@[simp] theorem State.setGrp_early (s : State) (g : Nat) (x : Group) : (s.setGrp g x).early = s.early := rfl
@[simp] theorem State.setGrp_poison (s : State) (g : Nat) (x : Group) : (s.setGrp g x).poison = s.poison := rfl
@[simp] theorem State.setGrp_mirror (s : State) (g : Nat) (x : Group) : (s.setGrp g x).mirror = s.mirror := rfl
@[simp] theorem State.setGrp_recs (s : State) (g : Nat) (x : Group) : (s.setGrp g x).recs = s.recs := rfl
@[simp] theorem State.setGrp_fullWords (s : State) (g : Nat) (x : Group) : (s.setGrp g x).fullWords = s.fullWords := rfl
@[simp] theorem State.setGrp_deferred (s : State) (g : Nat) (x : Group) : (s.setGrp g x).deferred = s.deferred := rfl
@[simp] theorem State.setGrp_marks (s : State) (g : Nat) (x : Group) : (s.setGrp g x).marks = s.marks := rfl
@[simp] theorem State.setGrp_pinned (s : State) (g : Nat) (x : Group) : (s.setGrp g x).pinned = s.pinned := rfl
@[simp] theorem State.setGrp_snoop (s : State) (g : Nat) (x : Group) : (s.setGrp g x).snoop = s.snoop := rfl
@[simp] theorem State.setGrp_teams (s : State) (g : Nat) (x : Group) : (s.setGrp g x).teams = s.teams := rfl
@[simp] theorem State.setGrp_cores (s : State) (g : Nat) (x : Group) : (s.setGrp g x).cores = s.cores := rfl
@[simp] theorem State.setGrp_decks (s : State) (g : Nat) (x : Group) : (s.setGrp g x).decks = s.decks := rfl
@[simp] theorem State.setGrp_towers (s : State) (g : Nat) (x : Group) : (s.setGrp g x).towers = s.towers := rfl
@[simp] theorem State.setGrp_parts (s : State) (g : Nat) (x : Group) : (s.setGrp g x).parts = s.parts := rfl
@[simp] theorem State.setGrp_queues (s : State) (g : Nat) (x : Group) : (s.setGrp g x).queues = s.queues := rfl
@[simp] theorem State.setGrp_launches (s : State) (g : Nat) (x : Group) : (s.setGrp g x).launches = s.launches := rfl
@[simp] theorem State.setGrp_nextLaunch (s : State) (g : Nat) (x : Group) : (s.setGrp g x).nextLaunch = s.nextLaunch := rfl
@[simp] theorem State.setGrp_pipes (s : State) (g : Nat) (x : Group) : (s.setGrp g x).pipes = s.pipes := rfl
@[simp] theorem State.setGrp_pkg (s : State) (g : Nat) (x : Group) : (s.setGrp g x).pkg = s.pkg := rfl
@[simp] theorem State.setGrp_ctr (s : State) (g : Nat) (x : Group) : (s.setGrp g x).ctr = s.ctr := rfl

@[simp] theorem State.onGrp_cur (s : State) (g : Nat) (f : Group → Group) : (s.onGrp g f).cur = s.cur := rfl
@[simp] theorem State.onGrp_curLane (s : State) (g : Nat) (f : Group → Group) : (s.onGrp g f).curLane = s.curLane := rfl
@[simp] theorem State.onGrp_agenda (s : State) (g : Nat) (f : Group → Group) : (s.onGrp g f).agenda = s.agenda := rfl
@[simp] theorem State.onGrp_freeCtr (s : State) (g : Nat) (f : Group → Group) : (s.onGrp g f).freeCtr = s.freeCtr := rfl
@[simp] theorem State.onGrp_clock (s : State) (g : Nat) (f : Group → Group) : (s.onGrp g f).clock = s.clock := rfl
@[simp] theorem State.onGrp_us (s : State) (g : Nat) (f : Group → Group) : (s.onGrp g f).us = s.us := rfl
@[simp] theorem State.onGrp_mem (s : State) (g : Nat) (f : Group → Group) : (s.onGrp g f).mem = s.mem := rfl
@[simp] theorem State.onGrp_hostMem (s : State) (g : Nat) (f : Group → Group) : (s.onGrp g f).hostMem = s.hostMem := rfl
@[simp] theorem State.onGrp_hostL2 (s : State) (g : Nat) (f : Group → Group) : (s.onGrp g f).hostL2 = s.hostL2 := rfl
@[simp] theorem State.onGrp_l2 (s : State) (g : Nat) (f : Group → Group) : (s.onGrp g f).l2 = s.l2 := rfl
@[simp] theorem State.onGrp_early (s : State) (g : Nat) (f : Group → Group) : (s.onGrp g f).early = s.early := rfl
@[simp] theorem State.onGrp_poison (s : State) (g : Nat) (f : Group → Group) : (s.onGrp g f).poison = s.poison := rfl
@[simp] theorem State.onGrp_mirror (s : State) (g : Nat) (f : Group → Group) : (s.onGrp g f).mirror = s.mirror := rfl
@[simp] theorem State.onGrp_recs (s : State) (g : Nat) (f : Group → Group) : (s.onGrp g f).recs = s.recs := rfl
@[simp] theorem State.onGrp_fullWords (s : State) (g : Nat) (f : Group → Group) : (s.onGrp g f).fullWords = s.fullWords := rfl
@[simp] theorem State.onGrp_deferred (s : State) (g : Nat) (f : Group → Group) : (s.onGrp g f).deferred = s.deferred := rfl
@[simp] theorem State.onGrp_marks (s : State) (g : Nat) (f : Group → Group) : (s.onGrp g f).marks = s.marks := rfl
@[simp] theorem State.onGrp_pinned (s : State) (g : Nat) (f : Group → Group) : (s.onGrp g f).pinned = s.pinned := rfl
@[simp] theorem State.onGrp_snoop (s : State) (g : Nat) (f : Group → Group) : (s.onGrp g f).snoop = s.snoop := rfl
@[simp] theorem State.onGrp_teams (s : State) (g : Nat) (f : Group → Group) : (s.onGrp g f).teams = s.teams := rfl
@[simp] theorem State.onGrp_cores (s : State) (g : Nat) (f : Group → Group) : (s.onGrp g f).cores = s.cores := rfl
@[simp] theorem State.onGrp_decks (s : State) (g : Nat) (f : Group → Group) : (s.onGrp g f).decks = s.decks := rfl
@[simp] theorem State.onGrp_towers (s : State) (g : Nat) (f : Group → Group) : (s.onGrp g f).towers = s.towers := rfl
@[simp] theorem State.onGrp_parts (s : State) (g : Nat) (f : Group → Group) : (s.onGrp g f).parts = s.parts := rfl
@[simp] theorem State.onGrp_queues (s : State) (g : Nat) (f : Group → Group) : (s.onGrp g f).queues = s.queues := rfl
@[simp] theorem State.onGrp_launches (s : State) (g : Nat) (f : Group → Group) : (s.onGrp g f).launches = s.launches := rfl
@[simp] theorem State.onGrp_nextLaunch (s : State) (g : Nat) (f : Group → Group) : (s.onGrp g f).nextLaunch = s.nextLaunch := rfl
@[simp] theorem State.onGrp_pipes (s : State) (g : Nat) (f : Group → Group) : (s.onGrp g f).pipes = s.pipes := rfl
@[simp] theorem State.onGrp_pkg (s : State) (g : Nat) (f : Group → Group) : (s.onGrp g f).pkg = s.pkg := rfl
@[simp] theorem State.onGrp_ctr (s : State) (g : Nat) (f : Group → Group) : (s.onGrp g f).ctr = s.ctr := rfl

@[simp] theorem State.setCore_cur (s : State) (c : Nat) (x : Core) : (s.setCore c x).cur = s.cur := rfl
@[simp] theorem State.setCore_curLane (s : State) (c : Nat) (x : Core) : (s.setCore c x).curLane = s.curLane := rfl
@[simp] theorem State.setCore_agenda (s : State) (c : Nat) (x : Core) : (s.setCore c x).agenda = s.agenda := rfl
@[simp] theorem State.setCore_freeCtr (s : State) (c : Nat) (x : Core) : (s.setCore c x).freeCtr = s.freeCtr := rfl
@[simp] theorem State.setCore_clock (s : State) (c : Nat) (x : Core) : (s.setCore c x).clock = s.clock := rfl
@[simp] theorem State.setCore_us (s : State) (c : Nat) (x : Core) : (s.setCore c x).us = s.us := rfl
@[simp] theorem State.setCore_mem (s : State) (c : Nat) (x : Core) : (s.setCore c x).mem = s.mem := rfl
@[simp] theorem State.setCore_hostMem (s : State) (c : Nat) (x : Core) : (s.setCore c x).hostMem = s.hostMem := rfl
@[simp] theorem State.setCore_hostL2 (s : State) (c : Nat) (x : Core) : (s.setCore c x).hostL2 = s.hostL2 := rfl
@[simp] theorem State.setCore_l2 (s : State) (c : Nat) (x : Core) : (s.setCore c x).l2 = s.l2 := rfl
@[simp] theorem State.setCore_early (s : State) (c : Nat) (x : Core) : (s.setCore c x).early = s.early := rfl
@[simp] theorem State.setCore_poison (s : State) (c : Nat) (x : Core) : (s.setCore c x).poison = s.poison := rfl
@[simp] theorem State.setCore_mirror (s : State) (c : Nat) (x : Core) : (s.setCore c x).mirror = s.mirror := rfl
@[simp] theorem State.setCore_recs (s : State) (c : Nat) (x : Core) : (s.setCore c x).recs = s.recs := rfl
@[simp] theorem State.setCore_fullWords (s : State) (c : Nat) (x : Core) : (s.setCore c x).fullWords = s.fullWords := rfl
@[simp] theorem State.setCore_deferred (s : State) (c : Nat) (x : Core) : (s.setCore c x).deferred = s.deferred := rfl
@[simp] theorem State.setCore_marks (s : State) (c : Nat) (x : Core) : (s.setCore c x).marks = s.marks := rfl
@[simp] theorem State.setCore_pinned (s : State) (c : Nat) (x : Core) : (s.setCore c x).pinned = s.pinned := rfl
@[simp] theorem State.setCore_snoop (s : State) (c : Nat) (x : Core) : (s.setCore c x).snoop = s.snoop := rfl
@[simp] theorem State.setCore_groups (s : State) (c : Nat) (x : Core) : (s.setCore c x).groups = s.groups := rfl
@[simp] theorem State.setCore_teams (s : State) (c : Nat) (x : Core) : (s.setCore c x).teams = s.teams := rfl
@[simp] theorem State.setCore_decks (s : State) (c : Nat) (x : Core) : (s.setCore c x).decks = s.decks := rfl
@[simp] theorem State.setCore_towers (s : State) (c : Nat) (x : Core) : (s.setCore c x).towers = s.towers := rfl
@[simp] theorem State.setCore_parts (s : State) (c : Nat) (x : Core) : (s.setCore c x).parts = s.parts := rfl
@[simp] theorem State.setCore_queues (s : State) (c : Nat) (x : Core) : (s.setCore c x).queues = s.queues := rfl
@[simp] theorem State.setCore_launches (s : State) (c : Nat) (x : Core) : (s.setCore c x).launches = s.launches := rfl
@[simp] theorem State.setCore_nextLaunch (s : State) (c : Nat) (x : Core) : (s.setCore c x).nextLaunch = s.nextLaunch := rfl
@[simp] theorem State.setCore_pipes (s : State) (c : Nat) (x : Core) : (s.setCore c x).pipes = s.pipes := rfl
@[simp] theorem State.setCore_pkg (s : State) (c : Nat) (x : Core) : (s.setCore c x).pkg = s.pkg := rfl
@[simp] theorem State.setCore_ctr (s : State) (c : Nat) (x : Core) : (s.setCore c x).ctr = s.ctr := rfl

@[simp] theorem State.onCore_cur (s : State) (c : Nat) (f : Core → Core) : (s.onCore c f).cur = s.cur := rfl
@[simp] theorem State.onCore_curLane (s : State) (c : Nat) (f : Core → Core) : (s.onCore c f).curLane = s.curLane := rfl
@[simp] theorem State.onCore_agenda (s : State) (c : Nat) (f : Core → Core) : (s.onCore c f).agenda = s.agenda := rfl
@[simp] theorem State.onCore_freeCtr (s : State) (c : Nat) (f : Core → Core) : (s.onCore c f).freeCtr = s.freeCtr := rfl
@[simp] theorem State.onCore_clock (s : State) (c : Nat) (f : Core → Core) : (s.onCore c f).clock = s.clock := rfl
@[simp] theorem State.onCore_us (s : State) (c : Nat) (f : Core → Core) : (s.onCore c f).us = s.us := rfl
@[simp] theorem State.onCore_mem (s : State) (c : Nat) (f : Core → Core) : (s.onCore c f).mem = s.mem := rfl
@[simp] theorem State.onCore_hostMem (s : State) (c : Nat) (f : Core → Core) : (s.onCore c f).hostMem = s.hostMem := rfl
@[simp] theorem State.onCore_hostL2 (s : State) (c : Nat) (f : Core → Core) : (s.onCore c f).hostL2 = s.hostL2 := rfl
@[simp] theorem State.onCore_l2 (s : State) (c : Nat) (f : Core → Core) : (s.onCore c f).l2 = s.l2 := rfl
@[simp] theorem State.onCore_early (s : State) (c : Nat) (f : Core → Core) : (s.onCore c f).early = s.early := rfl
@[simp] theorem State.onCore_poison (s : State) (c : Nat) (f : Core → Core) : (s.onCore c f).poison = s.poison := rfl
@[simp] theorem State.onCore_mirror (s : State) (c : Nat) (f : Core → Core) : (s.onCore c f).mirror = s.mirror := rfl
@[simp] theorem State.onCore_recs (s : State) (c : Nat) (f : Core → Core) : (s.onCore c f).recs = s.recs := rfl
@[simp] theorem State.onCore_fullWords (s : State) (c : Nat) (f : Core → Core) : (s.onCore c f).fullWords = s.fullWords := rfl
@[simp] theorem State.onCore_deferred (s : State) (c : Nat) (f : Core → Core) : (s.onCore c f).deferred = s.deferred := rfl
@[simp] theorem State.onCore_marks (s : State) (c : Nat) (f : Core → Core) : (s.onCore c f).marks = s.marks := rfl
@[simp] theorem State.onCore_pinned (s : State) (c : Nat) (f : Core → Core) : (s.onCore c f).pinned = s.pinned := rfl
@[simp] theorem State.onCore_snoop (s : State) (c : Nat) (f : Core → Core) : (s.onCore c f).snoop = s.snoop := rfl
@[simp] theorem State.onCore_groups (s : State) (c : Nat) (f : Core → Core) : (s.onCore c f).groups = s.groups := rfl
@[simp] theorem State.onCore_teams (s : State) (c : Nat) (f : Core → Core) : (s.onCore c f).teams = s.teams := rfl
@[simp] theorem State.onCore_decks (s : State) (c : Nat) (f : Core → Core) : (s.onCore c f).decks = s.decks := rfl
@[simp] theorem State.onCore_towers (s : State) (c : Nat) (f : Core → Core) : (s.onCore c f).towers = s.towers := rfl
@[simp] theorem State.onCore_parts (s : State) (c : Nat) (f : Core → Core) : (s.onCore c f).parts = s.parts := rfl
@[simp] theorem State.onCore_queues (s : State) (c : Nat) (f : Core → Core) : (s.onCore c f).queues = s.queues := rfl
@[simp] theorem State.onCore_launches (s : State) (c : Nat) (f : Core → Core) : (s.onCore c f).launches = s.launches := rfl
@[simp] theorem State.onCore_nextLaunch (s : State) (c : Nat) (f : Core → Core) : (s.onCore c f).nextLaunch = s.nextLaunch := rfl
@[simp] theorem State.onCore_pipes (s : State) (c : Nat) (f : Core → Core) : (s.onCore c f).pipes = s.pipes := rfl
@[simp] theorem State.onCore_pkg (s : State) (c : Nat) (f : Core → Core) : (s.onCore c f).pkg = s.pkg := rfl
@[simp] theorem State.onCore_ctr (s : State) (c : Nat) (f : Core → Core) : (s.onCore c f).ctr = s.ctr := rfl

@[simp] theorem State.onBank_cur (s : State) (g : Nat) (f : Bank → Bank) : (s.onBank g f).cur = s.cur := rfl
@[simp] theorem State.onBank_curLane (s : State) (g : Nat) (f : Bank → Bank) : (s.onBank g f).curLane = s.curLane := rfl
@[simp] theorem State.onBank_agenda (s : State) (g : Nat) (f : Bank → Bank) : (s.onBank g f).agenda = s.agenda := rfl
@[simp] theorem State.onBank_freeCtr (s : State) (g : Nat) (f : Bank → Bank) : (s.onBank g f).freeCtr = s.freeCtr := rfl
@[simp] theorem State.onBank_clock (s : State) (g : Nat) (f : Bank → Bank) : (s.onBank g f).clock = s.clock := rfl
@[simp] theorem State.onBank_us (s : State) (g : Nat) (f : Bank → Bank) : (s.onBank g f).us = s.us := rfl
@[simp] theorem State.onBank_mem (s : State) (g : Nat) (f : Bank → Bank) : (s.onBank g f).mem = s.mem := rfl
@[simp] theorem State.onBank_hostMem (s : State) (g : Nat) (f : Bank → Bank) : (s.onBank g f).hostMem = s.hostMem := rfl
@[simp] theorem State.onBank_hostL2 (s : State) (g : Nat) (f : Bank → Bank) : (s.onBank g f).hostL2 = s.hostL2 := rfl
@[simp] theorem State.onBank_l2 (s : State) (g : Nat) (f : Bank → Bank) : (s.onBank g f).l2 = s.l2 := rfl
@[simp] theorem State.onBank_early (s : State) (g : Nat) (f : Bank → Bank) : (s.onBank g f).early = s.early := rfl
@[simp] theorem State.onBank_poison (s : State) (g : Nat) (f : Bank → Bank) : (s.onBank g f).poison = s.poison := rfl
@[simp] theorem State.onBank_mirror (s : State) (g : Nat) (f : Bank → Bank) : (s.onBank g f).mirror = s.mirror := rfl
@[simp] theorem State.onBank_recs (s : State) (g : Nat) (f : Bank → Bank) : (s.onBank g f).recs = s.recs := rfl
@[simp] theorem State.onBank_fullWords (s : State) (g : Nat) (f : Bank → Bank) : (s.onBank g f).fullWords = s.fullWords := rfl
@[simp] theorem State.onBank_deferred (s : State) (g : Nat) (f : Bank → Bank) : (s.onBank g f).deferred = s.deferred := rfl
@[simp] theorem State.onBank_marks (s : State) (g : Nat) (f : Bank → Bank) : (s.onBank g f).marks = s.marks := rfl
@[simp] theorem State.onBank_pinned (s : State) (g : Nat) (f : Bank → Bank) : (s.onBank g f).pinned = s.pinned := rfl
@[simp] theorem State.onBank_snoop (s : State) (g : Nat) (f : Bank → Bank) : (s.onBank g f).snoop = s.snoop := rfl
@[simp] theorem State.onBank_groups (s : State) (g : Nat) (f : Bank → Bank) : (s.onBank g f).groups = s.groups := rfl
@[simp] theorem State.onBank_teams (s : State) (g : Nat) (f : Bank → Bank) : (s.onBank g f).teams = s.teams := rfl
@[simp] theorem State.onBank_decks (s : State) (g : Nat) (f : Bank → Bank) : (s.onBank g f).decks = s.decks := rfl
@[simp] theorem State.onBank_towers (s : State) (g : Nat) (f : Bank → Bank) : (s.onBank g f).towers = s.towers := rfl
@[simp] theorem State.onBank_parts (s : State) (g : Nat) (f : Bank → Bank) : (s.onBank g f).parts = s.parts := rfl
@[simp] theorem State.onBank_queues (s : State) (g : Nat) (f : Bank → Bank) : (s.onBank g f).queues = s.queues := rfl
@[simp] theorem State.onBank_launches (s : State) (g : Nat) (f : Bank → Bank) : (s.onBank g f).launches = s.launches := rfl
@[simp] theorem State.onBank_nextLaunch (s : State) (g : Nat) (f : Bank → Bank) : (s.onBank g f).nextLaunch = s.nextLaunch := rfl
@[simp] theorem State.onBank_pipes (s : State) (g : Nat) (f : Bank → Bank) : (s.onBank g f).pipes = s.pipes := rfl
@[simp] theorem State.onBank_pkg (s : State) (g : Nat) (f : Bank → Bank) : (s.onBank g f).pkg = s.pkg := rfl
@[simp] theorem State.onBank_ctr (s : State) (g : Nat) (f : Bank → Bank) : (s.onBank g f).ctr = s.ctr := rfl

@[simp] theorem State.setTeam_cur (s : State) (t : Nat) (x : Team) : (s.setTeam t x).cur = s.cur := rfl
@[simp] theorem State.setTeam_curLane (s : State) (t : Nat) (x : Team) : (s.setTeam t x).curLane = s.curLane := rfl
@[simp] theorem State.setTeam_agenda (s : State) (t : Nat) (x : Team) : (s.setTeam t x).agenda = s.agenda := rfl
@[simp] theorem State.setTeam_freeCtr (s : State) (t : Nat) (x : Team) : (s.setTeam t x).freeCtr = s.freeCtr := rfl
@[simp] theorem State.setTeam_clock (s : State) (t : Nat) (x : Team) : (s.setTeam t x).clock = s.clock := rfl
@[simp] theorem State.setTeam_us (s : State) (t : Nat) (x : Team) : (s.setTeam t x).us = s.us := rfl
@[simp] theorem State.setTeam_mem (s : State) (t : Nat) (x : Team) : (s.setTeam t x).mem = s.mem := rfl
@[simp] theorem State.setTeam_hostMem (s : State) (t : Nat) (x : Team) : (s.setTeam t x).hostMem = s.hostMem := rfl
@[simp] theorem State.setTeam_hostL2 (s : State) (t : Nat) (x : Team) : (s.setTeam t x).hostL2 = s.hostL2 := rfl
@[simp] theorem State.setTeam_l2 (s : State) (t : Nat) (x : Team) : (s.setTeam t x).l2 = s.l2 := rfl
@[simp] theorem State.setTeam_early (s : State) (t : Nat) (x : Team) : (s.setTeam t x).early = s.early := rfl
@[simp] theorem State.setTeam_poison (s : State) (t : Nat) (x : Team) : (s.setTeam t x).poison = s.poison := rfl
@[simp] theorem State.setTeam_mirror (s : State) (t : Nat) (x : Team) : (s.setTeam t x).mirror = s.mirror := rfl
@[simp] theorem State.setTeam_recs (s : State) (t : Nat) (x : Team) : (s.setTeam t x).recs = s.recs := rfl
@[simp] theorem State.setTeam_fullWords (s : State) (t : Nat) (x : Team) : (s.setTeam t x).fullWords = s.fullWords := rfl
@[simp] theorem State.setTeam_deferred (s : State) (t : Nat) (x : Team) : (s.setTeam t x).deferred = s.deferred := rfl
@[simp] theorem State.setTeam_marks (s : State) (t : Nat) (x : Team) : (s.setTeam t x).marks = s.marks := rfl
@[simp] theorem State.setTeam_pinned (s : State) (t : Nat) (x : Team) : (s.setTeam t x).pinned = s.pinned := rfl
@[simp] theorem State.setTeam_snoop (s : State) (t : Nat) (x : Team) : (s.setTeam t x).snoop = s.snoop := rfl
@[simp] theorem State.setTeam_groups (s : State) (t : Nat) (x : Team) : (s.setTeam t x).groups = s.groups := rfl
@[simp] theorem State.setTeam_cores (s : State) (t : Nat) (x : Team) : (s.setTeam t x).cores = s.cores := rfl
@[simp] theorem State.setTeam_decks (s : State) (t : Nat) (x : Team) : (s.setTeam t x).decks = s.decks := rfl
@[simp] theorem State.setTeam_towers (s : State) (t : Nat) (x : Team) : (s.setTeam t x).towers = s.towers := rfl
@[simp] theorem State.setTeam_parts (s : State) (t : Nat) (x : Team) : (s.setTeam t x).parts = s.parts := rfl
@[simp] theorem State.setTeam_queues (s : State) (t : Nat) (x : Team) : (s.setTeam t x).queues = s.queues := rfl
@[simp] theorem State.setTeam_launches (s : State) (t : Nat) (x : Team) : (s.setTeam t x).launches = s.launches := rfl
@[simp] theorem State.setTeam_nextLaunch (s : State) (t : Nat) (x : Team) : (s.setTeam t x).nextLaunch = s.nextLaunch := rfl
@[simp] theorem State.setTeam_pipes (s : State) (t : Nat) (x : Team) : (s.setTeam t x).pipes = s.pipes := rfl
@[simp] theorem State.setTeam_pkg (s : State) (t : Nat) (x : Team) : (s.setTeam t x).pkg = s.pkg := rfl
@[simp] theorem State.setTeam_ctr (s : State) (t : Nat) (x : Team) : (s.setTeam t x).ctr = s.ctr := rfl

@[simp] theorem State.onTeam_cur (s : State) (t : Nat) (f : Team → Team) : (s.onTeam t f).cur = s.cur := rfl
@[simp] theorem State.onTeam_curLane (s : State) (t : Nat) (f : Team → Team) : (s.onTeam t f).curLane = s.curLane := rfl
@[simp] theorem State.onTeam_agenda (s : State) (t : Nat) (f : Team → Team) : (s.onTeam t f).agenda = s.agenda := rfl
@[simp] theorem State.onTeam_freeCtr (s : State) (t : Nat) (f : Team → Team) : (s.onTeam t f).freeCtr = s.freeCtr := rfl
@[simp] theorem State.onTeam_clock (s : State) (t : Nat) (f : Team → Team) : (s.onTeam t f).clock = s.clock := rfl
@[simp] theorem State.onTeam_us (s : State) (t : Nat) (f : Team → Team) : (s.onTeam t f).us = s.us := rfl
@[simp] theorem State.onTeam_mem (s : State) (t : Nat) (f : Team → Team) : (s.onTeam t f).mem = s.mem := rfl
@[simp] theorem State.onTeam_hostMem (s : State) (t : Nat) (f : Team → Team) : (s.onTeam t f).hostMem = s.hostMem := rfl
@[simp] theorem State.onTeam_hostL2 (s : State) (t : Nat) (f : Team → Team) : (s.onTeam t f).hostL2 = s.hostL2 := rfl
@[simp] theorem State.onTeam_l2 (s : State) (t : Nat) (f : Team → Team) : (s.onTeam t f).l2 = s.l2 := rfl
@[simp] theorem State.onTeam_early (s : State) (t : Nat) (f : Team → Team) : (s.onTeam t f).early = s.early := rfl
@[simp] theorem State.onTeam_poison (s : State) (t : Nat) (f : Team → Team) : (s.onTeam t f).poison = s.poison := rfl
@[simp] theorem State.onTeam_mirror (s : State) (t : Nat) (f : Team → Team) : (s.onTeam t f).mirror = s.mirror := rfl
@[simp] theorem State.onTeam_recs (s : State) (t : Nat) (f : Team → Team) : (s.onTeam t f).recs = s.recs := rfl
@[simp] theorem State.onTeam_fullWords (s : State) (t : Nat) (f : Team → Team) : (s.onTeam t f).fullWords = s.fullWords := rfl
@[simp] theorem State.onTeam_deferred (s : State) (t : Nat) (f : Team → Team) : (s.onTeam t f).deferred = s.deferred := rfl
@[simp] theorem State.onTeam_marks (s : State) (t : Nat) (f : Team → Team) : (s.onTeam t f).marks = s.marks := rfl
@[simp] theorem State.onTeam_pinned (s : State) (t : Nat) (f : Team → Team) : (s.onTeam t f).pinned = s.pinned := rfl
@[simp] theorem State.onTeam_snoop (s : State) (t : Nat) (f : Team → Team) : (s.onTeam t f).snoop = s.snoop := rfl
@[simp] theorem State.onTeam_groups (s : State) (t : Nat) (f : Team → Team) : (s.onTeam t f).groups = s.groups := rfl
@[simp] theorem State.onTeam_cores (s : State) (t : Nat) (f : Team → Team) : (s.onTeam t f).cores = s.cores := rfl
@[simp] theorem State.onTeam_decks (s : State) (t : Nat) (f : Team → Team) : (s.onTeam t f).decks = s.decks := rfl
@[simp] theorem State.onTeam_towers (s : State) (t : Nat) (f : Team → Team) : (s.onTeam t f).towers = s.towers := rfl
@[simp] theorem State.onTeam_parts (s : State) (t : Nat) (f : Team → Team) : (s.onTeam t f).parts = s.parts := rfl
@[simp] theorem State.onTeam_queues (s : State) (t : Nat) (f : Team → Team) : (s.onTeam t f).queues = s.queues := rfl
@[simp] theorem State.onTeam_launches (s : State) (t : Nat) (f : Team → Team) : (s.onTeam t f).launches = s.launches := rfl
@[simp] theorem State.onTeam_nextLaunch (s : State) (t : Nat) (f : Team → Team) : (s.onTeam t f).nextLaunch = s.nextLaunch := rfl
@[simp] theorem State.onTeam_pipes (s : State) (t : Nat) (f : Team → Team) : (s.onTeam t f).pipes = s.pipes := rfl
@[simp] theorem State.onTeam_pkg (s : State) (t : Nat) (f : Team → Team) : (s.onTeam t f).pkg = s.pkg := rfl
@[simp] theorem State.onTeam_ctr (s : State) (t : Nat) (f : Team → Team) : (s.onTeam t f).ctr = s.ctr := rfl

@[simp] theorem State.onDeck_cur (s : State) (d : Nat) (f : Deck → Deck) : (s.onDeck d f).cur = s.cur := rfl
@[simp] theorem State.onDeck_curLane (s : State) (d : Nat) (f : Deck → Deck) : (s.onDeck d f).curLane = s.curLane := rfl
@[simp] theorem State.onDeck_agenda (s : State) (d : Nat) (f : Deck → Deck) : (s.onDeck d f).agenda = s.agenda := rfl
@[simp] theorem State.onDeck_freeCtr (s : State) (d : Nat) (f : Deck → Deck) : (s.onDeck d f).freeCtr = s.freeCtr := rfl
@[simp] theorem State.onDeck_clock (s : State) (d : Nat) (f : Deck → Deck) : (s.onDeck d f).clock = s.clock := rfl
@[simp] theorem State.onDeck_us (s : State) (d : Nat) (f : Deck → Deck) : (s.onDeck d f).us = s.us := rfl
@[simp] theorem State.onDeck_mem (s : State) (d : Nat) (f : Deck → Deck) : (s.onDeck d f).mem = s.mem := rfl
@[simp] theorem State.onDeck_hostMem (s : State) (d : Nat) (f : Deck → Deck) : (s.onDeck d f).hostMem = s.hostMem := rfl
@[simp] theorem State.onDeck_hostL2 (s : State) (d : Nat) (f : Deck → Deck) : (s.onDeck d f).hostL2 = s.hostL2 := rfl
@[simp] theorem State.onDeck_l2 (s : State) (d : Nat) (f : Deck → Deck) : (s.onDeck d f).l2 = s.l2 := rfl
@[simp] theorem State.onDeck_early (s : State) (d : Nat) (f : Deck → Deck) : (s.onDeck d f).early = s.early := rfl
@[simp] theorem State.onDeck_poison (s : State) (d : Nat) (f : Deck → Deck) : (s.onDeck d f).poison = s.poison := rfl
@[simp] theorem State.onDeck_mirror (s : State) (d : Nat) (f : Deck → Deck) : (s.onDeck d f).mirror = s.mirror := rfl
@[simp] theorem State.onDeck_recs (s : State) (d : Nat) (f : Deck → Deck) : (s.onDeck d f).recs = s.recs := rfl
@[simp] theorem State.onDeck_fullWords (s : State) (d : Nat) (f : Deck → Deck) : (s.onDeck d f).fullWords = s.fullWords := rfl
@[simp] theorem State.onDeck_deferred (s : State) (d : Nat) (f : Deck → Deck) : (s.onDeck d f).deferred = s.deferred := rfl
@[simp] theorem State.onDeck_marks (s : State) (d : Nat) (f : Deck → Deck) : (s.onDeck d f).marks = s.marks := rfl
@[simp] theorem State.onDeck_pinned (s : State) (d : Nat) (f : Deck → Deck) : (s.onDeck d f).pinned = s.pinned := rfl
@[simp] theorem State.onDeck_snoop (s : State) (d : Nat) (f : Deck → Deck) : (s.onDeck d f).snoop = s.snoop := rfl
@[simp] theorem State.onDeck_groups (s : State) (d : Nat) (f : Deck → Deck) : (s.onDeck d f).groups = s.groups := rfl
@[simp] theorem State.onDeck_teams (s : State) (d : Nat) (f : Deck → Deck) : (s.onDeck d f).teams = s.teams := rfl
@[simp] theorem State.onDeck_cores (s : State) (d : Nat) (f : Deck → Deck) : (s.onDeck d f).cores = s.cores := rfl
@[simp] theorem State.onDeck_towers (s : State) (d : Nat) (f : Deck → Deck) : (s.onDeck d f).towers = s.towers := rfl
@[simp] theorem State.onDeck_parts (s : State) (d : Nat) (f : Deck → Deck) : (s.onDeck d f).parts = s.parts := rfl
@[simp] theorem State.onDeck_queues (s : State) (d : Nat) (f : Deck → Deck) : (s.onDeck d f).queues = s.queues := rfl
@[simp] theorem State.onDeck_launches (s : State) (d : Nat) (f : Deck → Deck) : (s.onDeck d f).launches = s.launches := rfl
@[simp] theorem State.onDeck_nextLaunch (s : State) (d : Nat) (f : Deck → Deck) : (s.onDeck d f).nextLaunch = s.nextLaunch := rfl
@[simp] theorem State.onDeck_pipes (s : State) (d : Nat) (f : Deck → Deck) : (s.onDeck d f).pipes = s.pipes := rfl
@[simp] theorem State.onDeck_pkg (s : State) (d : Nat) (f : Deck → Deck) : (s.onDeck d f).pkg = s.pkg := rfl
@[simp] theorem State.onDeck_ctr (s : State) (d : Nat) (f : Deck → Deck) : (s.onDeck d f).ctr = s.ctr := rfl

@[simp] theorem State.onTower_cur (s : State) (k : Nat) (f : Tower → Tower) : (s.onTower k f).cur = s.cur := rfl
@[simp] theorem State.onTower_curLane (s : State) (k : Nat) (f : Tower → Tower) : (s.onTower k f).curLane = s.curLane := rfl
@[simp] theorem State.onTower_agenda (s : State) (k : Nat) (f : Tower → Tower) : (s.onTower k f).agenda = s.agenda := rfl
@[simp] theorem State.onTower_freeCtr (s : State) (k : Nat) (f : Tower → Tower) : (s.onTower k f).freeCtr = s.freeCtr := rfl
@[simp] theorem State.onTower_clock (s : State) (k : Nat) (f : Tower → Tower) : (s.onTower k f).clock = s.clock := rfl
@[simp] theorem State.onTower_us (s : State) (k : Nat) (f : Tower → Tower) : (s.onTower k f).us = s.us := rfl
@[simp] theorem State.onTower_mem (s : State) (k : Nat) (f : Tower → Tower) : (s.onTower k f).mem = s.mem := rfl
@[simp] theorem State.onTower_hostMem (s : State) (k : Nat) (f : Tower → Tower) : (s.onTower k f).hostMem = s.hostMem := rfl
@[simp] theorem State.onTower_hostL2 (s : State) (k : Nat) (f : Tower → Tower) : (s.onTower k f).hostL2 = s.hostL2 := rfl
@[simp] theorem State.onTower_l2 (s : State) (k : Nat) (f : Tower → Tower) : (s.onTower k f).l2 = s.l2 := rfl
@[simp] theorem State.onTower_early (s : State) (k : Nat) (f : Tower → Tower) : (s.onTower k f).early = s.early := rfl
@[simp] theorem State.onTower_poison (s : State) (k : Nat) (f : Tower → Tower) : (s.onTower k f).poison = s.poison := rfl
@[simp] theorem State.onTower_mirror (s : State) (k : Nat) (f : Tower → Tower) : (s.onTower k f).mirror = s.mirror := rfl
@[simp] theorem State.onTower_recs (s : State) (k : Nat) (f : Tower → Tower) : (s.onTower k f).recs = s.recs := rfl
@[simp] theorem State.onTower_fullWords (s : State) (k : Nat) (f : Tower → Tower) : (s.onTower k f).fullWords = s.fullWords := rfl
@[simp] theorem State.onTower_deferred (s : State) (k : Nat) (f : Tower → Tower) : (s.onTower k f).deferred = s.deferred := rfl
@[simp] theorem State.onTower_marks (s : State) (k : Nat) (f : Tower → Tower) : (s.onTower k f).marks = s.marks := rfl
@[simp] theorem State.onTower_pinned (s : State) (k : Nat) (f : Tower → Tower) : (s.onTower k f).pinned = s.pinned := rfl
@[simp] theorem State.onTower_snoop (s : State) (k : Nat) (f : Tower → Tower) : (s.onTower k f).snoop = s.snoop := rfl
@[simp] theorem State.onTower_groups (s : State) (k : Nat) (f : Tower → Tower) : (s.onTower k f).groups = s.groups := rfl
@[simp] theorem State.onTower_teams (s : State) (k : Nat) (f : Tower → Tower) : (s.onTower k f).teams = s.teams := rfl
@[simp] theorem State.onTower_cores (s : State) (k : Nat) (f : Tower → Tower) : (s.onTower k f).cores = s.cores := rfl
@[simp] theorem State.onTower_decks (s : State) (k : Nat) (f : Tower → Tower) : (s.onTower k f).decks = s.decks := rfl
@[simp] theorem State.onTower_parts (s : State) (k : Nat) (f : Tower → Tower) : (s.onTower k f).parts = s.parts := rfl
@[simp] theorem State.onTower_queues (s : State) (k : Nat) (f : Tower → Tower) : (s.onTower k f).queues = s.queues := rfl
@[simp] theorem State.onTower_launches (s : State) (k : Nat) (f : Tower → Tower) : (s.onTower k f).launches = s.launches := rfl
@[simp] theorem State.onTower_nextLaunch (s : State) (k : Nat) (f : Tower → Tower) : (s.onTower k f).nextLaunch = s.nextLaunch := rfl
@[simp] theorem State.onTower_pipes (s : State) (k : Nat) (f : Tower → Tower) : (s.onTower k f).pipes = s.pipes := rfl
@[simp] theorem State.onTower_pkg (s : State) (k : Nat) (f : Tower → Tower) : (s.onTower k f).pkg = s.pkg := rfl
@[simp] theorem State.onTower_ctr (s : State) (k : Nat) (f : Tower → Tower) : (s.onTower k f).ctr = s.ctr := rfl

@[simp] theorem State.setPart_cur (s : State) (p : Nat) (x : Part) : (s.setPart p x).cur = s.cur := rfl
@[simp] theorem State.setPart_curLane (s : State) (p : Nat) (x : Part) : (s.setPart p x).curLane = s.curLane := rfl
@[simp] theorem State.setPart_agenda (s : State) (p : Nat) (x : Part) : (s.setPart p x).agenda = s.agenda := rfl
@[simp] theorem State.setPart_freeCtr (s : State) (p : Nat) (x : Part) : (s.setPart p x).freeCtr = s.freeCtr := rfl
@[simp] theorem State.setPart_clock (s : State) (p : Nat) (x : Part) : (s.setPart p x).clock = s.clock := rfl
@[simp] theorem State.setPart_us (s : State) (p : Nat) (x : Part) : (s.setPart p x).us = s.us := rfl
@[simp] theorem State.setPart_mem (s : State) (p : Nat) (x : Part) : (s.setPart p x).mem = s.mem := rfl
@[simp] theorem State.setPart_hostMem (s : State) (p : Nat) (x : Part) : (s.setPart p x).hostMem = s.hostMem := rfl
@[simp] theorem State.setPart_hostL2 (s : State) (p : Nat) (x : Part) : (s.setPart p x).hostL2 = s.hostL2 := rfl
@[simp] theorem State.setPart_l2 (s : State) (p : Nat) (x : Part) : (s.setPart p x).l2 = s.l2 := rfl
@[simp] theorem State.setPart_early (s : State) (p : Nat) (x : Part) : (s.setPart p x).early = s.early := rfl
@[simp] theorem State.setPart_poison (s : State) (p : Nat) (x : Part) : (s.setPart p x).poison = s.poison := rfl
@[simp] theorem State.setPart_mirror (s : State) (p : Nat) (x : Part) : (s.setPart p x).mirror = s.mirror := rfl
@[simp] theorem State.setPart_recs (s : State) (p : Nat) (x : Part) : (s.setPart p x).recs = s.recs := rfl
@[simp] theorem State.setPart_fullWords (s : State) (p : Nat) (x : Part) : (s.setPart p x).fullWords = s.fullWords := rfl
@[simp] theorem State.setPart_deferred (s : State) (p : Nat) (x : Part) : (s.setPart p x).deferred = s.deferred := rfl
@[simp] theorem State.setPart_marks (s : State) (p : Nat) (x : Part) : (s.setPart p x).marks = s.marks := rfl
@[simp] theorem State.setPart_pinned (s : State) (p : Nat) (x : Part) : (s.setPart p x).pinned = s.pinned := rfl
@[simp] theorem State.setPart_snoop (s : State) (p : Nat) (x : Part) : (s.setPart p x).snoop = s.snoop := rfl
@[simp] theorem State.setPart_groups (s : State) (p : Nat) (x : Part) : (s.setPart p x).groups = s.groups := rfl
@[simp] theorem State.setPart_teams (s : State) (p : Nat) (x : Part) : (s.setPart p x).teams = s.teams := rfl
@[simp] theorem State.setPart_cores (s : State) (p : Nat) (x : Part) : (s.setPart p x).cores = s.cores := rfl
@[simp] theorem State.setPart_decks (s : State) (p : Nat) (x : Part) : (s.setPart p x).decks = s.decks := rfl
@[simp] theorem State.setPart_towers (s : State) (p : Nat) (x : Part) : (s.setPart p x).towers = s.towers := rfl
@[simp] theorem State.setPart_queues (s : State) (p : Nat) (x : Part) : (s.setPart p x).queues = s.queues := rfl
@[simp] theorem State.setPart_launches (s : State) (p : Nat) (x : Part) : (s.setPart p x).launches = s.launches := rfl
@[simp] theorem State.setPart_nextLaunch (s : State) (p : Nat) (x : Part) : (s.setPart p x).nextLaunch = s.nextLaunch := rfl
@[simp] theorem State.setPart_pipes (s : State) (p : Nat) (x : Part) : (s.setPart p x).pipes = s.pipes := rfl
@[simp] theorem State.setPart_pkg (s : State) (p : Nat) (x : Part) : (s.setPart p x).pkg = s.pkg := rfl
@[simp] theorem State.setPart_ctr (s : State) (p : Nat) (x : Part) : (s.setPart p x).ctr = s.ctr := rfl

@[simp] theorem State.onPart_cur (s : State) (p : Nat) (f : Part → Part) : (s.onPart p f).cur = s.cur := rfl
@[simp] theorem State.onPart_curLane (s : State) (p : Nat) (f : Part → Part) : (s.onPart p f).curLane = s.curLane := rfl
@[simp] theorem State.onPart_agenda (s : State) (p : Nat) (f : Part → Part) : (s.onPart p f).agenda = s.agenda := rfl
@[simp] theorem State.onPart_freeCtr (s : State) (p : Nat) (f : Part → Part) : (s.onPart p f).freeCtr = s.freeCtr := rfl
@[simp] theorem State.onPart_clock (s : State) (p : Nat) (f : Part → Part) : (s.onPart p f).clock = s.clock := rfl
@[simp] theorem State.onPart_us (s : State) (p : Nat) (f : Part → Part) : (s.onPart p f).us = s.us := rfl
@[simp] theorem State.onPart_mem (s : State) (p : Nat) (f : Part → Part) : (s.onPart p f).mem = s.mem := rfl
@[simp] theorem State.onPart_hostMem (s : State) (p : Nat) (f : Part → Part) : (s.onPart p f).hostMem = s.hostMem := rfl
@[simp] theorem State.onPart_hostL2 (s : State) (p : Nat) (f : Part → Part) : (s.onPart p f).hostL2 = s.hostL2 := rfl
@[simp] theorem State.onPart_l2 (s : State) (p : Nat) (f : Part → Part) : (s.onPart p f).l2 = s.l2 := rfl
@[simp] theorem State.onPart_early (s : State) (p : Nat) (f : Part → Part) : (s.onPart p f).early = s.early := rfl
@[simp] theorem State.onPart_poison (s : State) (p : Nat) (f : Part → Part) : (s.onPart p f).poison = s.poison := rfl
@[simp] theorem State.onPart_mirror (s : State) (p : Nat) (f : Part → Part) : (s.onPart p f).mirror = s.mirror := rfl
@[simp] theorem State.onPart_recs (s : State) (p : Nat) (f : Part → Part) : (s.onPart p f).recs = s.recs := rfl
@[simp] theorem State.onPart_fullWords (s : State) (p : Nat) (f : Part → Part) : (s.onPart p f).fullWords = s.fullWords := rfl
@[simp] theorem State.onPart_deferred (s : State) (p : Nat) (f : Part → Part) : (s.onPart p f).deferred = s.deferred := rfl
@[simp] theorem State.onPart_marks (s : State) (p : Nat) (f : Part → Part) : (s.onPart p f).marks = s.marks := rfl
@[simp] theorem State.onPart_pinned (s : State) (p : Nat) (f : Part → Part) : (s.onPart p f).pinned = s.pinned := rfl
@[simp] theorem State.onPart_snoop (s : State) (p : Nat) (f : Part → Part) : (s.onPart p f).snoop = s.snoop := rfl
@[simp] theorem State.onPart_groups (s : State) (p : Nat) (f : Part → Part) : (s.onPart p f).groups = s.groups := rfl
@[simp] theorem State.onPart_teams (s : State) (p : Nat) (f : Part → Part) : (s.onPart p f).teams = s.teams := rfl
@[simp] theorem State.onPart_cores (s : State) (p : Nat) (f : Part → Part) : (s.onPart p f).cores = s.cores := rfl
@[simp] theorem State.onPart_decks (s : State) (p : Nat) (f : Part → Part) : (s.onPart p f).decks = s.decks := rfl
@[simp] theorem State.onPart_towers (s : State) (p : Nat) (f : Part → Part) : (s.onPart p f).towers = s.towers := rfl
@[simp] theorem State.onPart_queues (s : State) (p : Nat) (f : Part → Part) : (s.onPart p f).queues = s.queues := rfl
@[simp] theorem State.onPart_launches (s : State) (p : Nat) (f : Part → Part) : (s.onPart p f).launches = s.launches := rfl
@[simp] theorem State.onPart_nextLaunch (s : State) (p : Nat) (f : Part → Part) : (s.onPart p f).nextLaunch = s.nextLaunch := rfl
@[simp] theorem State.onPart_pipes (s : State) (p : Nat) (f : Part → Part) : (s.onPart p f).pipes = s.pipes := rfl
@[simp] theorem State.onPart_pkg (s : State) (p : Nat) (f : Part → Part) : (s.onPart p f).pkg = s.pkg := rfl
@[simp] theorem State.onPart_ctr (s : State) (p : Nat) (f : Part → Part) : (s.onPart p f).ctr = s.ctr := rfl

@[simp] theorem State.bump_cur (s : State) (a n : Nat) : (s.bump a n).cur = s.cur := rfl
@[simp] theorem State.bump_curLane (s : State) (a n : Nat) : (s.bump a n).curLane = s.curLane := rfl
@[simp] theorem State.bump_agenda (s : State) (a n : Nat) : (s.bump a n).agenda = s.agenda := rfl
@[simp] theorem State.bump_freeCtr (s : State) (a n : Nat) : (s.bump a n).freeCtr = s.freeCtr := rfl
@[simp] theorem State.bump_clock (s : State) (a n : Nat) : (s.bump a n).clock = s.clock := rfl
@[simp] theorem State.bump_us (s : State) (a n : Nat) : (s.bump a n).us = s.us := rfl
@[simp] theorem State.bump_mem (s : State) (a n : Nat) : (s.bump a n).mem = s.mem := rfl
@[simp] theorem State.bump_hostMem (s : State) (a n : Nat) : (s.bump a n).hostMem = s.hostMem := rfl
@[simp] theorem State.bump_hostL2 (s : State) (a n : Nat) : (s.bump a n).hostL2 = s.hostL2 := rfl
@[simp] theorem State.bump_l2 (s : State) (a n : Nat) : (s.bump a n).l2 = s.l2 := rfl
@[simp] theorem State.bump_early (s : State) (a n : Nat) : (s.bump a n).early = s.early := rfl
@[simp] theorem State.bump_poison (s : State) (a n : Nat) : (s.bump a n).poison = s.poison := rfl
@[simp] theorem State.bump_mirror (s : State) (a n : Nat) : (s.bump a n).mirror = s.mirror := rfl
@[simp] theorem State.bump_recs (s : State) (a n : Nat) : (s.bump a n).recs = s.recs := rfl
@[simp] theorem State.bump_fullWords (s : State) (a n : Nat) : (s.bump a n).fullWords = s.fullWords := rfl
@[simp] theorem State.bump_deferred (s : State) (a n : Nat) : (s.bump a n).deferred = s.deferred := rfl
@[simp] theorem State.bump_marks (s : State) (a n : Nat) : (s.bump a n).marks = s.marks := rfl
@[simp] theorem State.bump_pinned (s : State) (a n : Nat) : (s.bump a n).pinned = s.pinned := rfl
@[simp] theorem State.bump_snoop (s : State) (a n : Nat) : (s.bump a n).snoop = s.snoop := rfl
@[simp] theorem State.bump_groups (s : State) (a n : Nat) : (s.bump a n).groups = s.groups := rfl
@[simp] theorem State.bump_teams (s : State) (a n : Nat) : (s.bump a n).teams = s.teams := rfl
@[simp] theorem State.bump_cores (s : State) (a n : Nat) : (s.bump a n).cores = s.cores := rfl
@[simp] theorem State.bump_decks (s : State) (a n : Nat) : (s.bump a n).decks = s.decks := rfl
@[simp] theorem State.bump_towers (s : State) (a n : Nat) : (s.bump a n).towers = s.towers := rfl
@[simp] theorem State.bump_parts (s : State) (a n : Nat) : (s.bump a n).parts = s.parts := rfl
@[simp] theorem State.bump_queues (s : State) (a n : Nat) : (s.bump a n).queues = s.queues := rfl
@[simp] theorem State.bump_launches (s : State) (a n : Nat) : (s.bump a n).launches = s.launches := rfl
@[simp] theorem State.bump_nextLaunch (s : State) (a n : Nat) : (s.bump a n).nextLaunch = s.nextLaunch := rfl
@[simp] theorem State.bump_pipes (s : State) (a n : Nat) : (s.bump a n).pipes = s.pipes := rfl
@[simp] theorem State.bump_pkg (s : State) (a n : Nat) : (s.bump a n).pkg = s.pkg := rfl

@[simp] theorem State.tick_cur (s : State) : (s.tick).cur = s.cur := rfl
@[simp] theorem State.tick_curLane (s : State) : (s.tick).curLane = s.curLane := rfl
@[simp] theorem State.tick_agenda (s : State) : (s.tick).agenda = s.agenda := rfl
@[simp] theorem State.tick_clock (s : State) : (s.tick).clock = s.clock := rfl
@[simp] theorem State.tick_us (s : State) : (s.tick).us = s.us := rfl
@[simp] theorem State.tick_mem (s : State) : (s.tick).mem = s.mem := rfl
@[simp] theorem State.tick_hostMem (s : State) : (s.tick).hostMem = s.hostMem := rfl
@[simp] theorem State.tick_hostL2 (s : State) : (s.tick).hostL2 = s.hostL2 := rfl
@[simp] theorem State.tick_l2 (s : State) : (s.tick).l2 = s.l2 := rfl
@[simp] theorem State.tick_early (s : State) : (s.tick).early = s.early := rfl
@[simp] theorem State.tick_poison (s : State) : (s.tick).poison = s.poison := rfl
@[simp] theorem State.tick_mirror (s : State) : (s.tick).mirror = s.mirror := rfl
@[simp] theorem State.tick_recs (s : State) : (s.tick).recs = s.recs := rfl
@[simp] theorem State.tick_fullWords (s : State) : (s.tick).fullWords = s.fullWords := rfl
@[simp] theorem State.tick_deferred (s : State) : (s.tick).deferred = s.deferred := rfl
@[simp] theorem State.tick_marks (s : State) : (s.tick).marks = s.marks := rfl
@[simp] theorem State.tick_pinned (s : State) : (s.tick).pinned = s.pinned := rfl
@[simp] theorem State.tick_snoop (s : State) : (s.tick).snoop = s.snoop := rfl
@[simp] theorem State.tick_groups (s : State) : (s.tick).groups = s.groups := rfl
@[simp] theorem State.tick_teams (s : State) : (s.tick).teams = s.teams := rfl
@[simp] theorem State.tick_cores (s : State) : (s.tick).cores = s.cores := rfl
@[simp] theorem State.tick_decks (s : State) : (s.tick).decks = s.decks := rfl
@[simp] theorem State.tick_towers (s : State) : (s.tick).towers = s.towers := rfl
@[simp] theorem State.tick_parts (s : State) : (s.tick).parts = s.parts := rfl
@[simp] theorem State.tick_queues (s : State) : (s.tick).queues = s.queues := rfl
@[simp] theorem State.tick_launches (s : State) : (s.tick).launches = s.launches := rfl
@[simp] theorem State.tick_nextLaunch (s : State) : (s.tick).nextLaunch = s.nextLaunch := rfl
@[simp] theorem State.tick_pipes (s : State) : (s.tick).pipes = s.pipes := rfl
@[simp] theorem State.tick_pkg (s : State) : (s.tick).pkg = s.pkg := rfl
@[simp] theorem State.tick_ctr (s : State) : (s.tick).ctr = s.ctr := rfl

@[simp] theorem State.goto_cur (s : State) (g : Nat) (pc : GWord) : (s.goto g pc).cur = s.cur := rfl
@[simp] theorem State.goto_curLane (s : State) (g : Nat) (pc : GWord) : (s.goto g pc).curLane = s.curLane := rfl
@[simp] theorem State.goto_agenda (s : State) (g : Nat) (pc : GWord) : (s.goto g pc).agenda = s.agenda := rfl
@[simp] theorem State.goto_freeCtr (s : State) (g : Nat) (pc : GWord) : (s.goto g pc).freeCtr = s.freeCtr := rfl
@[simp] theorem State.goto_clock (s : State) (g : Nat) (pc : GWord) : (s.goto g pc).clock = s.clock := rfl
@[simp] theorem State.goto_us (s : State) (g : Nat) (pc : GWord) : (s.goto g pc).us = s.us := rfl
@[simp] theorem State.goto_mem (s : State) (g : Nat) (pc : GWord) : (s.goto g pc).mem = s.mem := rfl
@[simp] theorem State.goto_hostMem (s : State) (g : Nat) (pc : GWord) : (s.goto g pc).hostMem = s.hostMem := rfl
@[simp] theorem State.goto_hostL2 (s : State) (g : Nat) (pc : GWord) : (s.goto g pc).hostL2 = s.hostL2 := rfl
@[simp] theorem State.goto_l2 (s : State) (g : Nat) (pc : GWord) : (s.goto g pc).l2 = s.l2 := rfl
@[simp] theorem State.goto_early (s : State) (g : Nat) (pc : GWord) : (s.goto g pc).early = s.early := rfl
@[simp] theorem State.goto_poison (s : State) (g : Nat) (pc : GWord) : (s.goto g pc).poison = s.poison := rfl
@[simp] theorem State.goto_mirror (s : State) (g : Nat) (pc : GWord) : (s.goto g pc).mirror = s.mirror := rfl
@[simp] theorem State.goto_recs (s : State) (g : Nat) (pc : GWord) : (s.goto g pc).recs = s.recs := rfl
@[simp] theorem State.goto_fullWords (s : State) (g : Nat) (pc : GWord) : (s.goto g pc).fullWords = s.fullWords := rfl
@[simp] theorem State.goto_deferred (s : State) (g : Nat) (pc : GWord) : (s.goto g pc).deferred = s.deferred := rfl
@[simp] theorem State.goto_marks (s : State) (g : Nat) (pc : GWord) : (s.goto g pc).marks = s.marks := rfl
@[simp] theorem State.goto_pinned (s : State) (g : Nat) (pc : GWord) : (s.goto g pc).pinned = s.pinned := rfl
@[simp] theorem State.goto_snoop (s : State) (g : Nat) (pc : GWord) : (s.goto g pc).snoop = s.snoop := rfl
@[simp] theorem State.goto_teams (s : State) (g : Nat) (pc : GWord) : (s.goto g pc).teams = s.teams := rfl
@[simp] theorem State.goto_cores (s : State) (g : Nat) (pc : GWord) : (s.goto g pc).cores = s.cores := rfl
@[simp] theorem State.goto_decks (s : State) (g : Nat) (pc : GWord) : (s.goto g pc).decks = s.decks := rfl
@[simp] theorem State.goto_towers (s : State) (g : Nat) (pc : GWord) : (s.goto g pc).towers = s.towers := rfl
@[simp] theorem State.goto_parts (s : State) (g : Nat) (pc : GWord) : (s.goto g pc).parts = s.parts := rfl
@[simp] theorem State.goto_queues (s : State) (g : Nat) (pc : GWord) : (s.goto g pc).queues = s.queues := rfl
@[simp] theorem State.goto_launches (s : State) (g : Nat) (pc : GWord) : (s.goto g pc).launches = s.launches := rfl
@[simp] theorem State.goto_nextLaunch (s : State) (g : Nat) (pc : GWord) : (s.goto g pc).nextLaunch = s.nextLaunch := rfl
@[simp] theorem State.goto_pipes (s : State) (g : Nat) (pc : GWord) : (s.goto g pc).pipes = s.pipes := rfl
@[simp] theorem State.goto_pkg (s : State) (g : Nat) (pc : GWord) : (s.goto g pc).pkg = s.pkg := rfl
@[simp] theorem State.goto_ctr (s : State) (g : Nat) (pc : GWord) : (s.goto g pc).ctr = s.ctr := rfl

@[simp] theorem State.adv_cur (s : State) (g n : Nat) : (s.adv g n).cur = s.cur := rfl
@[simp] theorem State.adv_curLane (s : State) (g n : Nat) : (s.adv g n).curLane = s.curLane := rfl
@[simp] theorem State.adv_agenda (s : State) (g n : Nat) : (s.adv g n).agenda = s.agenda := rfl
@[simp] theorem State.adv_freeCtr (s : State) (g n : Nat) : (s.adv g n).freeCtr = s.freeCtr := rfl
@[simp] theorem State.adv_clock (s : State) (g n : Nat) : (s.adv g n).clock = s.clock := rfl
@[simp] theorem State.adv_us (s : State) (g n : Nat) : (s.adv g n).us = s.us := rfl
@[simp] theorem State.adv_mem (s : State) (g n : Nat) : (s.adv g n).mem = s.mem := rfl
@[simp] theorem State.adv_hostMem (s : State) (g n : Nat) : (s.adv g n).hostMem = s.hostMem := rfl
@[simp] theorem State.adv_hostL2 (s : State) (g n : Nat) : (s.adv g n).hostL2 = s.hostL2 := rfl
@[simp] theorem State.adv_l2 (s : State) (g n : Nat) : (s.adv g n).l2 = s.l2 := rfl
@[simp] theorem State.adv_early (s : State) (g n : Nat) : (s.adv g n).early = s.early := rfl
@[simp] theorem State.adv_poison (s : State) (g n : Nat) : (s.adv g n).poison = s.poison := rfl
@[simp] theorem State.adv_mirror (s : State) (g n : Nat) : (s.adv g n).mirror = s.mirror := rfl
@[simp] theorem State.adv_recs (s : State) (g n : Nat) : (s.adv g n).recs = s.recs := rfl
@[simp] theorem State.adv_fullWords (s : State) (g n : Nat) : (s.adv g n).fullWords = s.fullWords := rfl
@[simp] theorem State.adv_deferred (s : State) (g n : Nat) : (s.adv g n).deferred = s.deferred := rfl
@[simp] theorem State.adv_marks (s : State) (g n : Nat) : (s.adv g n).marks = s.marks := rfl
@[simp] theorem State.adv_pinned (s : State) (g n : Nat) : (s.adv g n).pinned = s.pinned := rfl
@[simp] theorem State.adv_snoop (s : State) (g n : Nat) : (s.adv g n).snoop = s.snoop := rfl
@[simp] theorem State.adv_teams (s : State) (g n : Nat) : (s.adv g n).teams = s.teams := rfl
@[simp] theorem State.adv_cores (s : State) (g n : Nat) : (s.adv g n).cores = s.cores := rfl
@[simp] theorem State.adv_decks (s : State) (g n : Nat) : (s.adv g n).decks = s.decks := rfl
@[simp] theorem State.adv_towers (s : State) (g n : Nat) : (s.adv g n).towers = s.towers := rfl
@[simp] theorem State.adv_parts (s : State) (g n : Nat) : (s.adv g n).parts = s.parts := rfl
@[simp] theorem State.adv_queues (s : State) (g n : Nat) : (s.adv g n).queues = s.queues := rfl
@[simp] theorem State.adv_launches (s : State) (g n : Nat) : (s.adv g n).launches = s.launches := rfl
@[simp] theorem State.adv_nextLaunch (s : State) (g n : Nat) : (s.adv g n).nextLaunch = s.nextLaunch := rfl
@[simp] theorem State.adv_pipes (s : State) (g n : Nat) : (s.adv g n).pipes = s.pipes := rfl
@[simp] theorem State.adv_pkg (s : State) (g n : Nat) : (s.adv g n).pkg = s.pkg := rfl
@[simp] theorem State.adv_ctr (s : State) (g n : Nat) : (s.adv g n).ctr = s.ctr := rfl

@[simp] theorem State.stallC_cur (s : State) (g : Nat) (r : Stall) : (s.stallC g r).cur = s.cur := rfl
@[simp] theorem State.stallC_curLane (s : State) (g : Nat) (r : Stall) : (s.stallC g r).curLane = s.curLane := rfl
@[simp] theorem State.stallC_agenda (s : State) (g : Nat) (r : Stall) : (s.stallC g r).agenda = s.agenda := rfl
@[simp] theorem State.stallC_freeCtr (s : State) (g : Nat) (r : Stall) : (s.stallC g r).freeCtr = s.freeCtr := rfl
@[simp] theorem State.stallC_clock (s : State) (g : Nat) (r : Stall) : (s.stallC g r).clock = s.clock := rfl
@[simp] theorem State.stallC_us (s : State) (g : Nat) (r : Stall) : (s.stallC g r).us = s.us := rfl
@[simp] theorem State.stallC_mem (s : State) (g : Nat) (r : Stall) : (s.stallC g r).mem = s.mem := rfl
@[simp] theorem State.stallC_hostMem (s : State) (g : Nat) (r : Stall) : (s.stallC g r).hostMem = s.hostMem := rfl
@[simp] theorem State.stallC_hostL2 (s : State) (g : Nat) (r : Stall) : (s.stallC g r).hostL2 = s.hostL2 := rfl
@[simp] theorem State.stallC_l2 (s : State) (g : Nat) (r : Stall) : (s.stallC g r).l2 = s.l2 := rfl
@[simp] theorem State.stallC_early (s : State) (g : Nat) (r : Stall) : (s.stallC g r).early = s.early := rfl
@[simp] theorem State.stallC_poison (s : State) (g : Nat) (r : Stall) : (s.stallC g r).poison = s.poison := rfl
@[simp] theorem State.stallC_mirror (s : State) (g : Nat) (r : Stall) : (s.stallC g r).mirror = s.mirror := rfl
@[simp] theorem State.stallC_recs (s : State) (g : Nat) (r : Stall) : (s.stallC g r).recs = s.recs := rfl
@[simp] theorem State.stallC_fullWords (s : State) (g : Nat) (r : Stall) : (s.stallC g r).fullWords = s.fullWords := rfl
@[simp] theorem State.stallC_deferred (s : State) (g : Nat) (r : Stall) : (s.stallC g r).deferred = s.deferred := rfl
@[simp] theorem State.stallC_marks (s : State) (g : Nat) (r : Stall) : (s.stallC g r).marks = s.marks := rfl
@[simp] theorem State.stallC_pinned (s : State) (g : Nat) (r : Stall) : (s.stallC g r).pinned = s.pinned := rfl
@[simp] theorem State.stallC_snoop (s : State) (g : Nat) (r : Stall) : (s.stallC g r).snoop = s.snoop := rfl
@[simp] theorem State.stallC_teams (s : State) (g : Nat) (r : Stall) : (s.stallC g r).teams = s.teams := rfl
@[simp] theorem State.stallC_cores (s : State) (g : Nat) (r : Stall) : (s.stallC g r).cores = s.cores := rfl
@[simp] theorem State.stallC_decks (s : State) (g : Nat) (r : Stall) : (s.stallC g r).decks = s.decks := rfl
@[simp] theorem State.stallC_towers (s : State) (g : Nat) (r : Stall) : (s.stallC g r).towers = s.towers := rfl
@[simp] theorem State.stallC_parts (s : State) (g : Nat) (r : Stall) : (s.stallC g r).parts = s.parts := rfl
@[simp] theorem State.stallC_queues (s : State) (g : Nat) (r : Stall) : (s.stallC g r).queues = s.queues := rfl
@[simp] theorem State.stallC_launches (s : State) (g : Nat) (r : Stall) : (s.stallC g r).launches = s.launches := rfl
@[simp] theorem State.stallC_nextLaunch (s : State) (g : Nat) (r : Stall) : (s.stallC g r).nextLaunch = s.nextLaunch := rfl
@[simp] theorem State.stallC_pipes (s : State) (g : Nat) (r : Stall) : (s.stallC g r).pipes = s.pipes := rfl
@[simp] theorem State.stallC_pkg (s : State) (g : Nat) (r : Stall) : (s.stallC g r).pkg = s.pkg := rfl
@[simp] theorem State.stallC_ctr (s : State) (g : Nat) (r : Stall) : (s.stallC g r).ctr = s.ctr := rfl

@[simp] theorem State.stallL_cur (s : State) (g : Nat) (r : Stall) : (s.stallL g r).cur = s.cur := rfl
@[simp] theorem State.stallL_curLane (s : State) (g : Nat) (r : Stall) : (s.stallL g r).curLane = s.curLane := rfl
@[simp] theorem State.stallL_agenda (s : State) (g : Nat) (r : Stall) : (s.stallL g r).agenda = s.agenda := rfl
@[simp] theorem State.stallL_freeCtr (s : State) (g : Nat) (r : Stall) : (s.stallL g r).freeCtr = s.freeCtr := rfl
@[simp] theorem State.stallL_clock (s : State) (g : Nat) (r : Stall) : (s.stallL g r).clock = s.clock := rfl
@[simp] theorem State.stallL_us (s : State) (g : Nat) (r : Stall) : (s.stallL g r).us = s.us := rfl
@[simp] theorem State.stallL_mem (s : State) (g : Nat) (r : Stall) : (s.stallL g r).mem = s.mem := rfl
@[simp] theorem State.stallL_hostMem (s : State) (g : Nat) (r : Stall) : (s.stallL g r).hostMem = s.hostMem := rfl
@[simp] theorem State.stallL_hostL2 (s : State) (g : Nat) (r : Stall) : (s.stallL g r).hostL2 = s.hostL2 := rfl
@[simp] theorem State.stallL_l2 (s : State) (g : Nat) (r : Stall) : (s.stallL g r).l2 = s.l2 := rfl
@[simp] theorem State.stallL_early (s : State) (g : Nat) (r : Stall) : (s.stallL g r).early = s.early := rfl
@[simp] theorem State.stallL_poison (s : State) (g : Nat) (r : Stall) : (s.stallL g r).poison = s.poison := rfl
@[simp] theorem State.stallL_mirror (s : State) (g : Nat) (r : Stall) : (s.stallL g r).mirror = s.mirror := rfl
@[simp] theorem State.stallL_recs (s : State) (g : Nat) (r : Stall) : (s.stallL g r).recs = s.recs := rfl
@[simp] theorem State.stallL_fullWords (s : State) (g : Nat) (r : Stall) : (s.stallL g r).fullWords = s.fullWords := rfl
@[simp] theorem State.stallL_deferred (s : State) (g : Nat) (r : Stall) : (s.stallL g r).deferred = s.deferred := rfl
@[simp] theorem State.stallL_marks (s : State) (g : Nat) (r : Stall) : (s.stallL g r).marks = s.marks := rfl
@[simp] theorem State.stallL_pinned (s : State) (g : Nat) (r : Stall) : (s.stallL g r).pinned = s.pinned := rfl
@[simp] theorem State.stallL_snoop (s : State) (g : Nat) (r : Stall) : (s.stallL g r).snoop = s.snoop := rfl
@[simp] theorem State.stallL_teams (s : State) (g : Nat) (r : Stall) : (s.stallL g r).teams = s.teams := rfl
@[simp] theorem State.stallL_cores (s : State) (g : Nat) (r : Stall) : (s.stallL g r).cores = s.cores := rfl
@[simp] theorem State.stallL_decks (s : State) (g : Nat) (r : Stall) : (s.stallL g r).decks = s.decks := rfl
@[simp] theorem State.stallL_towers (s : State) (g : Nat) (r : Stall) : (s.stallL g r).towers = s.towers := rfl
@[simp] theorem State.stallL_parts (s : State) (g : Nat) (r : Stall) : (s.stallL g r).parts = s.parts := rfl
@[simp] theorem State.stallL_queues (s : State) (g : Nat) (r : Stall) : (s.stallL g r).queues = s.queues := rfl
@[simp] theorem State.stallL_launches (s : State) (g : Nat) (r : Stall) : (s.stallL g r).launches = s.launches := rfl
@[simp] theorem State.stallL_nextLaunch (s : State) (g : Nat) (r : Stall) : (s.stallL g r).nextLaunch = s.nextLaunch := rfl
@[simp] theorem State.stallL_pipes (s : State) (g : Nat) (r : Stall) : (s.stallL g r).pipes = s.pipes := rfl
@[simp] theorem State.stallL_pkg (s : State) (g : Nat) (r : Stall) : (s.stallL g r).pkg = s.pkg := rfl
@[simp] theorem State.stallL_ctr (s : State) (g : Nat) (r : Stall) : (s.stallL g r).ctr = s.ctr := rfl

@[simp] theorem State.onLaunch_cur (s : State) (l : Nat) (f : Launch → Launch) : (s.onLaunch l f).cur = s.cur := by
  unfold State.onLaunch; split <;> rfl
@[simp] theorem State.onLaunch_curLane (s : State) (l : Nat) (f : Launch → Launch) : (s.onLaunch l f).curLane = s.curLane := by
  unfold State.onLaunch; split <;> rfl
@[simp] theorem State.onLaunch_agenda (s : State) (l : Nat) (f : Launch → Launch) : (s.onLaunch l f).agenda = s.agenda := by
  unfold State.onLaunch; split <;> rfl
@[simp] theorem State.onLaunch_freeCtr (s : State) (l : Nat) (f : Launch → Launch) : (s.onLaunch l f).freeCtr = s.freeCtr := by
  unfold State.onLaunch; split <;> rfl
@[simp] theorem State.onLaunch_clock (s : State) (l : Nat) (f : Launch → Launch) : (s.onLaunch l f).clock = s.clock := by
  unfold State.onLaunch; split <;> rfl
@[simp] theorem State.onLaunch_us (s : State) (l : Nat) (f : Launch → Launch) : (s.onLaunch l f).us = s.us := by
  unfold State.onLaunch; split <;> rfl
@[simp] theorem State.onLaunch_mem (s : State) (l : Nat) (f : Launch → Launch) : (s.onLaunch l f).mem = s.mem := by
  unfold State.onLaunch; split <;> rfl
@[simp] theorem State.onLaunch_hostMem (s : State) (l : Nat) (f : Launch → Launch) : (s.onLaunch l f).hostMem = s.hostMem := by
  unfold State.onLaunch; split <;> rfl
@[simp] theorem State.onLaunch_hostL2 (s : State) (l : Nat) (f : Launch → Launch) : (s.onLaunch l f).hostL2 = s.hostL2 := by
  unfold State.onLaunch; split <;> rfl
@[simp] theorem State.onLaunch_l2 (s : State) (l : Nat) (f : Launch → Launch) : (s.onLaunch l f).l2 = s.l2 := by
  unfold State.onLaunch; split <;> rfl
@[simp] theorem State.onLaunch_early (s : State) (l : Nat) (f : Launch → Launch) : (s.onLaunch l f).early = s.early := by
  unfold State.onLaunch; split <;> rfl
@[simp] theorem State.onLaunch_poison (s : State) (l : Nat) (f : Launch → Launch) : (s.onLaunch l f).poison = s.poison := by
  unfold State.onLaunch; split <;> rfl
@[simp] theorem State.onLaunch_mirror (s : State) (l : Nat) (f : Launch → Launch) : (s.onLaunch l f).mirror = s.mirror := by
  unfold State.onLaunch; split <;> rfl
@[simp] theorem State.onLaunch_recs (s : State) (l : Nat) (f : Launch → Launch) : (s.onLaunch l f).recs = s.recs := by
  unfold State.onLaunch; split <;> rfl
@[simp] theorem State.onLaunch_fullWords (s : State) (l : Nat) (f : Launch → Launch) : (s.onLaunch l f).fullWords = s.fullWords := by
  unfold State.onLaunch; split <;> rfl
@[simp] theorem State.onLaunch_deferred (s : State) (l : Nat) (f : Launch → Launch) : (s.onLaunch l f).deferred = s.deferred := by
  unfold State.onLaunch; split <;> rfl
@[simp] theorem State.onLaunch_marks (s : State) (l : Nat) (f : Launch → Launch) : (s.onLaunch l f).marks = s.marks := by
  unfold State.onLaunch; split <;> rfl
@[simp] theorem State.onLaunch_pinned (s : State) (l : Nat) (f : Launch → Launch) : (s.onLaunch l f).pinned = s.pinned := by
  unfold State.onLaunch; split <;> rfl
@[simp] theorem State.onLaunch_snoop (s : State) (l : Nat) (f : Launch → Launch) : (s.onLaunch l f).snoop = s.snoop := by
  unfold State.onLaunch; split <;> rfl
@[simp] theorem State.onLaunch_groups (s : State) (l : Nat) (f : Launch → Launch) : (s.onLaunch l f).groups = s.groups := by
  unfold State.onLaunch; split <;> rfl
@[simp] theorem State.onLaunch_teams (s : State) (l : Nat) (f : Launch → Launch) : (s.onLaunch l f).teams = s.teams := by
  unfold State.onLaunch; split <;> rfl
@[simp] theorem State.onLaunch_cores (s : State) (l : Nat) (f : Launch → Launch) : (s.onLaunch l f).cores = s.cores := by
  unfold State.onLaunch; split <;> rfl
@[simp] theorem State.onLaunch_decks (s : State) (l : Nat) (f : Launch → Launch) : (s.onLaunch l f).decks = s.decks := by
  unfold State.onLaunch; split <;> rfl
@[simp] theorem State.onLaunch_towers (s : State) (l : Nat) (f : Launch → Launch) : (s.onLaunch l f).towers = s.towers := by
  unfold State.onLaunch; split <;> rfl
@[simp] theorem State.onLaunch_parts (s : State) (l : Nat) (f : Launch → Launch) : (s.onLaunch l f).parts = s.parts := by
  unfold State.onLaunch; split <;> rfl
@[simp] theorem State.onLaunch_queues (s : State) (l : Nat) (f : Launch → Launch) : (s.onLaunch l f).queues = s.queues := by
  unfold State.onLaunch; split <;> rfl
@[simp] theorem State.onLaunch_nextLaunch (s : State) (l : Nat) (f : Launch → Launch) : (s.onLaunch l f).nextLaunch = s.nextLaunch := by
  unfold State.onLaunch; split <;> rfl
@[simp] theorem State.onLaunch_pipes (s : State) (l : Nat) (f : Launch → Launch) : (s.onLaunch l f).pipes = s.pipes := by
  unfold State.onLaunch; split <;> rfl
@[simp] theorem State.onLaunch_pkg (s : State) (l : Nat) (f : Launch → Launch) : (s.onLaunch l f).pkg = s.pkg := by
  unfold State.onLaunch; split <;> rfl
@[simp] theorem State.onLaunch_ctr (s : State) (l : Nat) (f : Launch → Launch) : (s.onLaunch l f).ctr = s.ctr := by
  unfold State.onLaunch; split <;> rfl

@[simp] theorem State.onPipe_cur (s : State) (k : Nat) (f : Pipe → Pipe) : (s.onPipe k f).cur = s.cur := by
  unfold State.onPipe; split <;> rfl
@[simp] theorem State.onPipe_curLane (s : State) (k : Nat) (f : Pipe → Pipe) : (s.onPipe k f).curLane = s.curLane := by
  unfold State.onPipe; split <;> rfl
@[simp] theorem State.onPipe_agenda (s : State) (k : Nat) (f : Pipe → Pipe) : (s.onPipe k f).agenda = s.agenda := by
  unfold State.onPipe; split <;> rfl
@[simp] theorem State.onPipe_freeCtr (s : State) (k : Nat) (f : Pipe → Pipe) : (s.onPipe k f).freeCtr = s.freeCtr := by
  unfold State.onPipe; split <;> rfl
@[simp] theorem State.onPipe_clock (s : State) (k : Nat) (f : Pipe → Pipe) : (s.onPipe k f).clock = s.clock := by
  unfold State.onPipe; split <;> rfl
@[simp] theorem State.onPipe_us (s : State) (k : Nat) (f : Pipe → Pipe) : (s.onPipe k f).us = s.us := by
  unfold State.onPipe; split <;> rfl
@[simp] theorem State.onPipe_mem (s : State) (k : Nat) (f : Pipe → Pipe) : (s.onPipe k f).mem = s.mem := by
  unfold State.onPipe; split <;> rfl
@[simp] theorem State.onPipe_hostMem (s : State) (k : Nat) (f : Pipe → Pipe) : (s.onPipe k f).hostMem = s.hostMem := by
  unfold State.onPipe; split <;> rfl
@[simp] theorem State.onPipe_hostL2 (s : State) (k : Nat) (f : Pipe → Pipe) : (s.onPipe k f).hostL2 = s.hostL2 := by
  unfold State.onPipe; split <;> rfl
@[simp] theorem State.onPipe_l2 (s : State) (k : Nat) (f : Pipe → Pipe) : (s.onPipe k f).l2 = s.l2 := by
  unfold State.onPipe; split <;> rfl
@[simp] theorem State.onPipe_early (s : State) (k : Nat) (f : Pipe → Pipe) : (s.onPipe k f).early = s.early := by
  unfold State.onPipe; split <;> rfl
@[simp] theorem State.onPipe_poison (s : State) (k : Nat) (f : Pipe → Pipe) : (s.onPipe k f).poison = s.poison := by
  unfold State.onPipe; split <;> rfl
@[simp] theorem State.onPipe_mirror (s : State) (k : Nat) (f : Pipe → Pipe) : (s.onPipe k f).mirror = s.mirror := by
  unfold State.onPipe; split <;> rfl
@[simp] theorem State.onPipe_recs (s : State) (k : Nat) (f : Pipe → Pipe) : (s.onPipe k f).recs = s.recs := by
  unfold State.onPipe; split <;> rfl
@[simp] theorem State.onPipe_fullWords (s : State) (k : Nat) (f : Pipe → Pipe) : (s.onPipe k f).fullWords = s.fullWords := by
  unfold State.onPipe; split <;> rfl
@[simp] theorem State.onPipe_deferred (s : State) (k : Nat) (f : Pipe → Pipe) : (s.onPipe k f).deferred = s.deferred := by
  unfold State.onPipe; split <;> rfl
@[simp] theorem State.onPipe_marks (s : State) (k : Nat) (f : Pipe → Pipe) : (s.onPipe k f).marks = s.marks := by
  unfold State.onPipe; split <;> rfl
@[simp] theorem State.onPipe_pinned (s : State) (k : Nat) (f : Pipe → Pipe) : (s.onPipe k f).pinned = s.pinned := by
  unfold State.onPipe; split <;> rfl
@[simp] theorem State.onPipe_snoop (s : State) (k : Nat) (f : Pipe → Pipe) : (s.onPipe k f).snoop = s.snoop := by
  unfold State.onPipe; split <;> rfl
@[simp] theorem State.onPipe_groups (s : State) (k : Nat) (f : Pipe → Pipe) : (s.onPipe k f).groups = s.groups := by
  unfold State.onPipe; split <;> rfl
@[simp] theorem State.onPipe_teams (s : State) (k : Nat) (f : Pipe → Pipe) : (s.onPipe k f).teams = s.teams := by
  unfold State.onPipe; split <;> rfl
@[simp] theorem State.onPipe_cores (s : State) (k : Nat) (f : Pipe → Pipe) : (s.onPipe k f).cores = s.cores := by
  unfold State.onPipe; split <;> rfl
@[simp] theorem State.onPipe_decks (s : State) (k : Nat) (f : Pipe → Pipe) : (s.onPipe k f).decks = s.decks := by
  unfold State.onPipe; split <;> rfl
@[simp] theorem State.onPipe_towers (s : State) (k : Nat) (f : Pipe → Pipe) : (s.onPipe k f).towers = s.towers := by
  unfold State.onPipe; split <;> rfl
@[simp] theorem State.onPipe_parts (s : State) (k : Nat) (f : Pipe → Pipe) : (s.onPipe k f).parts = s.parts := by
  unfold State.onPipe; split <;> rfl
@[simp] theorem State.onPipe_queues (s : State) (k : Nat) (f : Pipe → Pipe) : (s.onPipe k f).queues = s.queues := by
  unfold State.onPipe; split <;> rfl
@[simp] theorem State.onPipe_launches (s : State) (k : Nat) (f : Pipe → Pipe) : (s.onPipe k f).launches = s.launches := by
  unfold State.onPipe; split <;> rfl
@[simp] theorem State.onPipe_nextLaunch (s : State) (k : Nat) (f : Pipe → Pipe) : (s.onPipe k f).nextLaunch = s.nextLaunch := by
  unfold State.onPipe; split <;> rfl
@[simp] theorem State.onPipe_pkg (s : State) (k : Nat) (f : Pipe → Pipe) : (s.onPipe k f).pkg = s.pkg := by
  unfold State.onPipe; split <;> rfl
@[simp] theorem State.onPipe_ctr (s : State) (k : Nat) (f : Pipe → Pipe) : (s.onPipe k f).ctr = s.ctr := by
  unfold State.onPipe; split <;> rfl

/-! ## Accessors after updates -/

@[simp] theorem State.grp_onGrp_self (s : State) (g : Nat) (f : Group → Group) : (s.onGrp g f).grp g = f (s.grp g) :=
  Tab.get_set_self ..

theorem State.grp_onGrp_other (s : State) {g k : Nat} (f : Group → Group) (h : k ≠ g) : (s.onGrp g f).grp k = s.grp k :=
  Tab.get_set_other _ _ _ h

@[simp] theorem State.grp_setGrp_self (s : State) (g : Nat) (x : Group) : (s.setGrp g x).grp g = x :=
  Tab.get_set_self ..

theorem State.grp_setGrp_other (s : State) {g k : Nat} (x : Group) (h : k ≠ g) : (s.setGrp g x).grp k = s.grp k :=
  Tab.get_set_other _ _ _ h

@[simp] theorem State.core_onCore_self (s : State) (c : Nat) (f : Core → Core) : (s.onCore c f).core c = f (s.core c) :=
  Tab.get_set_self ..

theorem State.core_onCore_other (s : State) {c k : Nat} (f : Core → Core) (h : k ≠ c) : (s.onCore c f).core k = s.core k :=
  Tab.get_set_other _ _ _ h

@[simp] theorem State.core_setCore_self (s : State) (c : Nat) (x : Core) : (s.setCore c x).core c = x :=
  Tab.get_set_self ..

theorem State.core_setCore_other (s : State) {c k : Nat} (x : Core) (h : k ≠ c) : (s.setCore c x).core k = s.core k :=
  Tab.get_set_other _ _ _ h

@[simp] theorem State.team_onTeam_self (s : State) (t : Nat) (f : Team → Team) : (s.onTeam t f).team t = f (s.team t) :=
  Tab.get_set_self ..

theorem State.team_onTeam_other (s : State) {t k : Nat} (f : Team → Team) (h : k ≠ t) : (s.onTeam t f).team k = s.team k :=
  Tab.get_set_other _ _ _ h

@[simp] theorem State.team_setTeam_self (s : State) (t : Nat) (x : Team) : (s.setTeam t x).team t = x :=
  Tab.get_set_self ..

theorem State.team_setTeam_other (s : State) {t k : Nat} (x : Team) (h : k ≠ t) : (s.setTeam t x).team k = s.team k :=
  Tab.get_set_other _ _ _ h

@[simp] theorem State.part_onPart_self (s : State) (p : Nat) (f : Part → Part) : (s.onPart p f).part p = f (s.part p) :=
  Tab.get_set_self ..

theorem State.part_onPart_other (s : State) {p k : Nat} (f : Part → Part) (h : k ≠ p) : (s.onPart p f).part k = s.part k :=
  Tab.get_set_other _ _ _ h

@[simp] theorem State.part_setPart_self (s : State) (p : Nat) (x : Part) : (s.setPart p x).part p = x :=
  Tab.get_set_self ..

theorem State.part_setPart_other (s : State) {p k : Nat} (x : Part) (h : k ≠ p) : (s.setPart p x).part k = s.part k :=
  Tab.get_set_other _ _ _ h

@[simp] theorem State.deck_onDeck_self (s : State) (d : Nat) (f : Deck → Deck) : (s.onDeck d f).deck d = f (s.deck d) :=
  Tab.get_set_self ..

theorem State.deck_onDeck_other (s : State) {d k : Nat} (f : Deck → Deck) (h : k ≠ d) : (s.onDeck d f).deck k = s.deck k :=
  Tab.get_set_other _ _ _ h

@[simp] theorem State.tower_onTower_self (s : State) (t : Nat) (f : Tower → Tower) : (s.onTower t f).tower t = f (s.tower t) :=
  Tab.get_set_self ..

theorem State.tower_onTower_other (s : State) {t k : Nat} (f : Tower → Tower) (h : k ≠ t) : (s.onTower t f).tower k = s.tower k :=
  Tab.get_set_other _ _ _ h

@[simp] theorem State.core_setGrp (s : State) (g : Nat) (x : Group) (j : Nat) : (s.setGrp g x).core j = s.core j := rfl
@[simp] theorem State.team_setGrp (s : State) (g : Nat) (x : Group) (j : Nat) : (s.setGrp g x).team j = s.team j := rfl
@[simp] theorem State.part_setGrp (s : State) (g : Nat) (x : Group) (j : Nat) : (s.setGrp g x).part j = s.part j := rfl
@[simp] theorem State.deck_setGrp (s : State) (g : Nat) (x : Group) (j : Nat) : (s.setGrp g x).deck j = s.deck j := rfl
@[simp] theorem State.tower_setGrp (s : State) (g : Nat) (x : Group) (j : Nat) : (s.setGrp g x).tower j = s.tower j := rfl
@[simp] theorem State.launch_setGrp (s : State) (g : Nat) (x : Group) (j : Nat) : (s.setGrp g x).launch j = s.launch j := rfl
@[simp] theorem State.pipe_setGrp (s : State) (g : Nat) (x : Group) (j : Nat) : (s.setGrp g x).pipe j = s.pipe j := rfl
@[simp] theorem State.core_onGrp (s : State) (g : Nat) (f : Group → Group) (j : Nat) : (s.onGrp g f).core j = s.core j := rfl
@[simp] theorem State.team_onGrp (s : State) (g : Nat) (f : Group → Group) (j : Nat) : (s.onGrp g f).team j = s.team j := rfl
@[simp] theorem State.part_onGrp (s : State) (g : Nat) (f : Group → Group) (j : Nat) : (s.onGrp g f).part j = s.part j := rfl
@[simp] theorem State.deck_onGrp (s : State) (g : Nat) (f : Group → Group) (j : Nat) : (s.onGrp g f).deck j = s.deck j := rfl
@[simp] theorem State.tower_onGrp (s : State) (g : Nat) (f : Group → Group) (j : Nat) : (s.onGrp g f).tower j = s.tower j := rfl
@[simp] theorem State.launch_onGrp (s : State) (g : Nat) (f : Group → Group) (j : Nat) : (s.onGrp g f).launch j = s.launch j := rfl
@[simp] theorem State.pipe_onGrp (s : State) (g : Nat) (f : Group → Group) (j : Nat) : (s.onGrp g f).pipe j = s.pipe j := rfl
@[simp] theorem State.grp_setCore (s : State) (c : Nat) (x : Core) (j : Nat) : (s.setCore c x).grp j = s.grp j := rfl
@[simp] theorem State.team_setCore (s : State) (c : Nat) (x : Core) (j : Nat) : (s.setCore c x).team j = s.team j := rfl
@[simp] theorem State.part_setCore (s : State) (c : Nat) (x : Core) (j : Nat) : (s.setCore c x).part j = s.part j := rfl
@[simp] theorem State.deck_setCore (s : State) (c : Nat) (x : Core) (j : Nat) : (s.setCore c x).deck j = s.deck j := rfl
@[simp] theorem State.tower_setCore (s : State) (c : Nat) (x : Core) (j : Nat) : (s.setCore c x).tower j = s.tower j := rfl
@[simp] theorem State.launch_setCore (s : State) (c : Nat) (x : Core) (j : Nat) : (s.setCore c x).launch j = s.launch j := rfl
@[simp] theorem State.pipe_setCore (s : State) (c : Nat) (x : Core) (j : Nat) : (s.setCore c x).pipe j = s.pipe j := rfl
@[simp] theorem State.grp_onCore (s : State) (c : Nat) (f : Core → Core) (j : Nat) : (s.onCore c f).grp j = s.grp j := rfl
@[simp] theorem State.team_onCore (s : State) (c : Nat) (f : Core → Core) (j : Nat) : (s.onCore c f).team j = s.team j := rfl
@[simp] theorem State.part_onCore (s : State) (c : Nat) (f : Core → Core) (j : Nat) : (s.onCore c f).part j = s.part j := rfl
@[simp] theorem State.deck_onCore (s : State) (c : Nat) (f : Core → Core) (j : Nat) : (s.onCore c f).deck j = s.deck j := rfl
@[simp] theorem State.tower_onCore (s : State) (c : Nat) (f : Core → Core) (j : Nat) : (s.onCore c f).tower j = s.tower j := rfl
@[simp] theorem State.launch_onCore (s : State) (c : Nat) (f : Core → Core) (j : Nat) : (s.onCore c f).launch j = s.launch j := rfl
@[simp] theorem State.pipe_onCore (s : State) (c : Nat) (f : Core → Core) (j : Nat) : (s.onCore c f).pipe j = s.pipe j := rfl
@[simp] theorem State.grp_onBank (s : State) (g : Nat) (f : Bank → Bank) (j : Nat) : (s.onBank g f).grp j = s.grp j := rfl
@[simp] theorem State.team_onBank (s : State) (g : Nat) (f : Bank → Bank) (j : Nat) : (s.onBank g f).team j = s.team j := rfl
@[simp] theorem State.part_onBank (s : State) (g : Nat) (f : Bank → Bank) (j : Nat) : (s.onBank g f).part j = s.part j := rfl
@[simp] theorem State.deck_onBank (s : State) (g : Nat) (f : Bank → Bank) (j : Nat) : (s.onBank g f).deck j = s.deck j := rfl
@[simp] theorem State.tower_onBank (s : State) (g : Nat) (f : Bank → Bank) (j : Nat) : (s.onBank g f).tower j = s.tower j := rfl
@[simp] theorem State.launch_onBank (s : State) (g : Nat) (f : Bank → Bank) (j : Nat) : (s.onBank g f).launch j = s.launch j := rfl
@[simp] theorem State.pipe_onBank (s : State) (g : Nat) (f : Bank → Bank) (j : Nat) : (s.onBank g f).pipe j = s.pipe j := rfl
@[simp] theorem State.grp_setTeam (s : State) (t : Nat) (x : Team) (j : Nat) : (s.setTeam t x).grp j = s.grp j := rfl
@[simp] theorem State.core_setTeam (s : State) (t : Nat) (x : Team) (j : Nat) : (s.setTeam t x).core j = s.core j := rfl
@[simp] theorem State.part_setTeam (s : State) (t : Nat) (x : Team) (j : Nat) : (s.setTeam t x).part j = s.part j := rfl
@[simp] theorem State.deck_setTeam (s : State) (t : Nat) (x : Team) (j : Nat) : (s.setTeam t x).deck j = s.deck j := rfl
@[simp] theorem State.tower_setTeam (s : State) (t : Nat) (x : Team) (j : Nat) : (s.setTeam t x).tower j = s.tower j := rfl
@[simp] theorem State.launch_setTeam (s : State) (t : Nat) (x : Team) (j : Nat) : (s.setTeam t x).launch j = s.launch j := rfl
@[simp] theorem State.pipe_setTeam (s : State) (t : Nat) (x : Team) (j : Nat) : (s.setTeam t x).pipe j = s.pipe j := rfl
@[simp] theorem State.grp_onTeam (s : State) (t : Nat) (f : Team → Team) (j : Nat) : (s.onTeam t f).grp j = s.grp j := rfl
@[simp] theorem State.core_onTeam (s : State) (t : Nat) (f : Team → Team) (j : Nat) : (s.onTeam t f).core j = s.core j := rfl
@[simp] theorem State.part_onTeam (s : State) (t : Nat) (f : Team → Team) (j : Nat) : (s.onTeam t f).part j = s.part j := rfl
@[simp] theorem State.deck_onTeam (s : State) (t : Nat) (f : Team → Team) (j : Nat) : (s.onTeam t f).deck j = s.deck j := rfl
@[simp] theorem State.tower_onTeam (s : State) (t : Nat) (f : Team → Team) (j : Nat) : (s.onTeam t f).tower j = s.tower j := rfl
@[simp] theorem State.launch_onTeam (s : State) (t : Nat) (f : Team → Team) (j : Nat) : (s.onTeam t f).launch j = s.launch j := rfl
@[simp] theorem State.pipe_onTeam (s : State) (t : Nat) (f : Team → Team) (j : Nat) : (s.onTeam t f).pipe j = s.pipe j := rfl
@[simp] theorem State.grp_onDeck (s : State) (d : Nat) (f : Deck → Deck) (j : Nat) : (s.onDeck d f).grp j = s.grp j := rfl
@[simp] theorem State.core_onDeck (s : State) (d : Nat) (f : Deck → Deck) (j : Nat) : (s.onDeck d f).core j = s.core j := rfl
@[simp] theorem State.team_onDeck (s : State) (d : Nat) (f : Deck → Deck) (j : Nat) : (s.onDeck d f).team j = s.team j := rfl
@[simp] theorem State.part_onDeck (s : State) (d : Nat) (f : Deck → Deck) (j : Nat) : (s.onDeck d f).part j = s.part j := rfl
@[simp] theorem State.tower_onDeck (s : State) (d : Nat) (f : Deck → Deck) (j : Nat) : (s.onDeck d f).tower j = s.tower j := rfl
@[simp] theorem State.launch_onDeck (s : State) (d : Nat) (f : Deck → Deck) (j : Nat) : (s.onDeck d f).launch j = s.launch j := rfl
@[simp] theorem State.pipe_onDeck (s : State) (d : Nat) (f : Deck → Deck) (j : Nat) : (s.onDeck d f).pipe j = s.pipe j := rfl
@[simp] theorem State.grp_onTower (s : State) (k : Nat) (f : Tower → Tower) (j : Nat) : (s.onTower k f).grp j = s.grp j := rfl
@[simp] theorem State.core_onTower (s : State) (k : Nat) (f : Tower → Tower) (j : Nat) : (s.onTower k f).core j = s.core j := rfl
@[simp] theorem State.team_onTower (s : State) (k : Nat) (f : Tower → Tower) (j : Nat) : (s.onTower k f).team j = s.team j := rfl
@[simp] theorem State.part_onTower (s : State) (k : Nat) (f : Tower → Tower) (j : Nat) : (s.onTower k f).part j = s.part j := rfl
@[simp] theorem State.deck_onTower (s : State) (k : Nat) (f : Tower → Tower) (j : Nat) : (s.onTower k f).deck j = s.deck j := rfl
@[simp] theorem State.launch_onTower (s : State) (k : Nat) (f : Tower → Tower) (j : Nat) : (s.onTower k f).launch j = s.launch j := rfl
@[simp] theorem State.pipe_onTower (s : State) (k : Nat) (f : Tower → Tower) (j : Nat) : (s.onTower k f).pipe j = s.pipe j := rfl
@[simp] theorem State.grp_setPart (s : State) (p : Nat) (x : Part) (j : Nat) : (s.setPart p x).grp j = s.grp j := rfl
@[simp] theorem State.core_setPart (s : State) (p : Nat) (x : Part) (j : Nat) : (s.setPart p x).core j = s.core j := rfl
@[simp] theorem State.team_setPart (s : State) (p : Nat) (x : Part) (j : Nat) : (s.setPart p x).team j = s.team j := rfl
@[simp] theorem State.deck_setPart (s : State) (p : Nat) (x : Part) (j : Nat) : (s.setPart p x).deck j = s.deck j := rfl
@[simp] theorem State.tower_setPart (s : State) (p : Nat) (x : Part) (j : Nat) : (s.setPart p x).tower j = s.tower j := rfl
@[simp] theorem State.launch_setPart (s : State) (p : Nat) (x : Part) (j : Nat) : (s.setPart p x).launch j = s.launch j := rfl
@[simp] theorem State.pipe_setPart (s : State) (p : Nat) (x : Part) (j : Nat) : (s.setPart p x).pipe j = s.pipe j := rfl
@[simp] theorem State.grp_onPart (s : State) (p : Nat) (f : Part → Part) (j : Nat) : (s.onPart p f).grp j = s.grp j := rfl
@[simp] theorem State.core_onPart (s : State) (p : Nat) (f : Part → Part) (j : Nat) : (s.onPart p f).core j = s.core j := rfl
@[simp] theorem State.team_onPart (s : State) (p : Nat) (f : Part → Part) (j : Nat) : (s.onPart p f).team j = s.team j := rfl
@[simp] theorem State.deck_onPart (s : State) (p : Nat) (f : Part → Part) (j : Nat) : (s.onPart p f).deck j = s.deck j := rfl
@[simp] theorem State.tower_onPart (s : State) (p : Nat) (f : Part → Part) (j : Nat) : (s.onPart p f).tower j = s.tower j := rfl
@[simp] theorem State.launch_onPart (s : State) (p : Nat) (f : Part → Part) (j : Nat) : (s.onPart p f).launch j = s.launch j := rfl
@[simp] theorem State.pipe_onPart (s : State) (p : Nat) (f : Part → Part) (j : Nat) : (s.onPart p f).pipe j = s.pipe j := rfl
@[simp] theorem State.grp_bump (s : State) (a n : Nat) (j : Nat) : (s.bump a n).grp j = s.grp j := rfl
@[simp] theorem State.core_bump (s : State) (a n : Nat) (j : Nat) : (s.bump a n).core j = s.core j := rfl
@[simp] theorem State.team_bump (s : State) (a n : Nat) (j : Nat) : (s.bump a n).team j = s.team j := rfl
@[simp] theorem State.part_bump (s : State) (a n : Nat) (j : Nat) : (s.bump a n).part j = s.part j := rfl
@[simp] theorem State.deck_bump (s : State) (a n : Nat) (j : Nat) : (s.bump a n).deck j = s.deck j := rfl
@[simp] theorem State.tower_bump (s : State) (a n : Nat) (j : Nat) : (s.bump a n).tower j = s.tower j := rfl
@[simp] theorem State.launch_bump (s : State) (a n : Nat) (j : Nat) : (s.bump a n).launch j = s.launch j := rfl
@[simp] theorem State.pipe_bump (s : State) (a n : Nat) (j : Nat) : (s.bump a n).pipe j = s.pipe j := rfl
@[simp] theorem State.grp_tick (s : State) (j : Nat) : (s.tick).grp j = s.grp j := rfl
@[simp] theorem State.core_tick (s : State) (j : Nat) : (s.tick).core j = s.core j := rfl
@[simp] theorem State.team_tick (s : State) (j : Nat) : (s.tick).team j = s.team j := rfl
@[simp] theorem State.part_tick (s : State) (j : Nat) : (s.tick).part j = s.part j := rfl
@[simp] theorem State.deck_tick (s : State) (j : Nat) : (s.tick).deck j = s.deck j := rfl
@[simp] theorem State.tower_tick (s : State) (j : Nat) : (s.tick).tower j = s.tower j := rfl
@[simp] theorem State.launch_tick (s : State) (j : Nat) : (s.tick).launch j = s.launch j := rfl
@[simp] theorem State.pipe_tick (s : State) (j : Nat) : (s.tick).pipe j = s.pipe j := rfl
@[simp] theorem State.core_goto (s : State) (g : Nat) (pc : GWord) (j : Nat) : (s.goto g pc).core j = s.core j := rfl
@[simp] theorem State.team_goto (s : State) (g : Nat) (pc : GWord) (j : Nat) : (s.goto g pc).team j = s.team j := rfl
@[simp] theorem State.part_goto (s : State) (g : Nat) (pc : GWord) (j : Nat) : (s.goto g pc).part j = s.part j := rfl
@[simp] theorem State.deck_goto (s : State) (g : Nat) (pc : GWord) (j : Nat) : (s.goto g pc).deck j = s.deck j := rfl
@[simp] theorem State.tower_goto (s : State) (g : Nat) (pc : GWord) (j : Nat) : (s.goto g pc).tower j = s.tower j := rfl
@[simp] theorem State.launch_goto (s : State) (g : Nat) (pc : GWord) (j : Nat) : (s.goto g pc).launch j = s.launch j := rfl
@[simp] theorem State.pipe_goto (s : State) (g : Nat) (pc : GWord) (j : Nat) : (s.goto g pc).pipe j = s.pipe j := rfl
@[simp] theorem State.core_adv (s : State) (g n : Nat) (j : Nat) : (s.adv g n).core j = s.core j := rfl
@[simp] theorem State.team_adv (s : State) (g n : Nat) (j : Nat) : (s.adv g n).team j = s.team j := rfl
@[simp] theorem State.part_adv (s : State) (g n : Nat) (j : Nat) : (s.adv g n).part j = s.part j := rfl
@[simp] theorem State.deck_adv (s : State) (g n : Nat) (j : Nat) : (s.adv g n).deck j = s.deck j := rfl
@[simp] theorem State.tower_adv (s : State) (g n : Nat) (j : Nat) : (s.adv g n).tower j = s.tower j := rfl
@[simp] theorem State.launch_adv (s : State) (g n : Nat) (j : Nat) : (s.adv g n).launch j = s.launch j := rfl
@[simp] theorem State.pipe_adv (s : State) (g n : Nat) (j : Nat) : (s.adv g n).pipe j = s.pipe j := rfl
@[simp] theorem State.core_stallC (s : State) (g : Nat) (r : Stall) (j : Nat) : (s.stallC g r).core j = s.core j := rfl
@[simp] theorem State.team_stallC (s : State) (g : Nat) (r : Stall) (j : Nat) : (s.stallC g r).team j = s.team j := rfl
@[simp] theorem State.part_stallC (s : State) (g : Nat) (r : Stall) (j : Nat) : (s.stallC g r).part j = s.part j := rfl
@[simp] theorem State.deck_stallC (s : State) (g : Nat) (r : Stall) (j : Nat) : (s.stallC g r).deck j = s.deck j := rfl
@[simp] theorem State.tower_stallC (s : State) (g : Nat) (r : Stall) (j : Nat) : (s.stallC g r).tower j = s.tower j := rfl
@[simp] theorem State.launch_stallC (s : State) (g : Nat) (r : Stall) (j : Nat) : (s.stallC g r).launch j = s.launch j := rfl
@[simp] theorem State.pipe_stallC (s : State) (g : Nat) (r : Stall) (j : Nat) : (s.stallC g r).pipe j = s.pipe j := rfl
@[simp] theorem State.core_stallL (s : State) (g : Nat) (r : Stall) (j : Nat) : (s.stallL g r).core j = s.core j := rfl
@[simp] theorem State.team_stallL (s : State) (g : Nat) (r : Stall) (j : Nat) : (s.stallL g r).team j = s.team j := rfl
@[simp] theorem State.part_stallL (s : State) (g : Nat) (r : Stall) (j : Nat) : (s.stallL g r).part j = s.part j := rfl
@[simp] theorem State.deck_stallL (s : State) (g : Nat) (r : Stall) (j : Nat) : (s.stallL g r).deck j = s.deck j := rfl
@[simp] theorem State.tower_stallL (s : State) (g : Nat) (r : Stall) (j : Nat) : (s.stallL g r).tower j = s.tower j := rfl
@[simp] theorem State.launch_stallL (s : State) (g : Nat) (r : Stall) (j : Nat) : (s.stallL g r).launch j = s.launch j := rfl
@[simp] theorem State.pipe_stallL (s : State) (g : Nat) (r : Stall) (j : Nat) : (s.stallL g r).pipe j = s.pipe j := rfl

@[simp] theorem State.bank_onGrp (s : State) (g : Nat) (f : Group → Group) (k : Nat) : (s.onGrp g f).bank k = s.bank k := rfl

@[simp] theorem State.bank_onBank_self (s : State) (g : Nat) (f : Bank → Bank) : (s.onBank g f).bank g = f (s.bank g) := by
  simp [State.bank, State.onBank]

/-- Writing the handler bank leaves every core's other state. -/
theorem State.core_onBank (s : State) (g c : Nat) (f : Bank → Bank) :
    { (s.onBank g f).core c with banks := [] } = { s.core c with banks := [] } := by
  by_cases h : c = coreOf g
  · subst h; simp [State.onBank]
  · rw [State.onBank, State.core_onCore_other _ _ h]

end Sys2Proof.Machine
end

