-- ==== Sys2Proof/Laws/Registers.lean ====
section
/-! SUPPORT. Reading a group register, a predicate or a lane register after a write of one, and what such a write leaves. -/

namespace Sys2Proof.Machine

open Sys2Proof

/-! ## Group registers -/

@[simp] theorem State.rg_zero (s : State) (g : Nat) : s.rg g 0#6 = 0#64 := by simp [State.rg]

@[simp] theorem State.putG_zero (s : State) (g : Nat) (v : GWord) : s.putG g 0#6 v = s := by simp [State.putG]

theorem State.sys_putG (s : State) (g : Nat) (r : GReg) (v : GWord) : ((s.putG g r v).grp g).sys = (s.grp g).sys := by
  unfold State.putG
  split
  · rfl
  · split <;> simp

theorem State.inBank_putG (s : State) (g : Nat) (r : GReg) (v : GWord) : (s.putG g r v).inBank g = s.inBank g := by
  simp [State.inBank, State.sys_putG]

/-- The register that was written holds the value. -/
theorem State.rg_putG_self (s : State) (g : Nat) {r : GReg} (v : GWord) (h : r ≠ 0) : (s.putG g r v).rg g r = v := by
  unfold State.rg
  rw [if_neg h, State.inBank_putG]
  unfold State.putG
  rw [if_neg h]
  by_cases hb : (s.inBank g && decide (r.toNat ≥ 56)) = true
  · simp only [hb, if_true, State.bank_onBank_self]
    simp [Bank.getHg, Tab.find_put_self]
  · simp only [hb]
    simp

/-- Every other register keeps its value. -/
theorem State.rg_putG_other (s : State) (g : Nat) {r q : GReg} (v : GWord) (h : q ≠ r) : (s.putG g r v).rg g q = s.rg g q := by
  have hn : q.toNat ≠ r.toNat := fun e => h (BitVec.eq_of_toNat_eq e)
  by_cases hr : r = 0
  · subst hr; exact congrArg (fun x => State.rg x g q) (State.putG_zero s g v)
  unfold State.rg
  rw [State.inBank_putG]
  by_cases hq : q = 0
  · simp [hq]
  rw [if_neg hq, if_neg hq]
  unfold State.putG
  rw [if_neg hr]
  by_cases hb : (s.inBank g && decide (r.toNat ≥ 56)) = true
  · rw [if_pos hb]
    by_cases hc : (s.inBank g && decide (q.toNat ≥ 56)) = true
    · rw [if_pos hc, if_pos hc, State.bank_onBank_self]
      simp only [Bool.and_eq_true, decide_eq_true_eq] at hb hc
      have : q.toNat - 56 ≠ r.toNat - 56 := by omega
      simp [Bank.getHg, Tab.find_put_other _ _ this]
    · rw [if_neg hc, if_neg hc]; rfl
  · rw [if_neg hb]
    by_cases hc : (s.inBank g && decide (q.toNat ≥ 56)) = true
    · rw [if_pos hc, if_pos hc]; rfl
    · rw [if_neg hc, if_neg hc]
      simp [Tab.get_set_other _ _ _ hn]

/-- What a write of a group register leaves of the state. -/
theorem State.putG_rest (s : State) (g : Nat) (r : GReg) (v : GWord) :
    { s.putG g r v with groups := [], cores := [] } = { s with groups := [], cores := [] } := by
  unfold State.putG
  split
  · rfl
  · split <;> rfl

/-- What a write of a group register leaves of its group. -/
theorem State.putG_grp (s : State) (g : Nat) (r : GReg) (v : GWord) :
    { (s.putG g r v).grp g with g := [] } = { s.grp g with g := [] } := by
  unfold State.putG
  split
  · rfl
  · split <;> simp

theorem State.putG_grp_other (s : State) {g k : Nat} (r : GReg) (v : GWord) (h : k ≠ g) : (s.putG g r v).grp k = s.grp k := by
  unfold State.putG
  split
  · rfl
  · split
    · rfl
    · exact State.grp_onGrp_other _ _ h

theorem State.putG_core (s : State) (g c : Nat) (r : GReg) (v : GWord) :
    { (s.putG g r v).core c with banks := [] } = { s.core c with banks := [] } := by
  unfold State.putG
  split
  · rfl
  · split
    · exact State.core_onBank ..
    · rfl

/-! ## Group predicates -/

@[simp] theorem State.rq_zero (s : State) (g : Nat) : s.rq g 0#3 = true := by simp [State.rq]

@[simp] theorem State.wq_zero (s : State) (g : Nat) (v : Bool) : s.wq g 0#3 v = s := by simp [State.wq]

/-- The predicate that was written holds the value. -/
theorem State.rq_wq_self (s : State) (g : Nat) {q : QReg} (v : Bool) (h : q ≠ 0) : (s.wq g q v).rq g q = v := by
  have e : ∀ (q : QReg) (v : Bool) (x : BitVec 8), (if v then x ||| 1#8 <<< q.toNat else x &&& ~~~(1#8 <<< q.toNat)).getLsbD q.toNat = v := by
    intro q v x
    have hq := q.isLt
    have h8 : q.toNat < 8 := by omega
    cases v <;> simp [h8]
  simp only [State.rq, State.wq, if_neg h, State.grp_onGrp_self]
  rw [e]
  cases v <;> simp
  exact h

/-- Every other predicate keeps its value. -/
theorem State.rq_wq_other (s : State) (g : Nat) {q p : QReg} (v : Bool) (h : p ≠ q) : (s.wq g q v).rq g p = s.rq g p := by
  have hn : p.toNat ≠ q.toNat := fun e => h (BitVec.eq_of_toNat_eq e)
  have hp := p.isLt
  unfold State.rq State.wq
  split
  · rfl
  · congr 1
    simp only [State.grp_onGrp_self]
    cases v
    · simp
      omega
    · simp
      omega

/-! ## Lane registers and predicates -/

theorem State.rv_wv_self (s : State) (g r l : Nat) (w : Word) : (s.wv g r l w).rv g r l = w := by
  have hi : (s.wv g r l w).inBank g = s.inBank g := by
    unfold State.wv; split <;> simp [State.inBank]
  unfold State.rv
  rw [hi]
  unfold State.wv
  by_cases hb : (s.inBank g && decide (r ≥ 240)) = true
  · rw [if_pos hb, if_pos hb, State.bank_onBank_self]
    simp [Tab.find_put_self]
  · rw [if_neg hb, if_neg hb]
    simp

@[simp] theorem State.wps_zero (s : State) (g : Nat) (l : List (Nat × Bool)) : s.wps g 0#3 l = s := by simp [State.wps]

end Sys2Proof.Machine
end

