-- ==== Sys2Proof/Laws/Ops.lean ====
section
/-! SUPPORT. What the shared operations of control words and lane words do: how a meaning becomes an outcome, and everything that a
word that writes one register or one predicate leaves and writes. -/

namespace Sys2Proof.Machine

open Sys2Proof

/-! ## From a meaning to an outcome -/

theorem runCtrl_ok {s t : State} {m : Nat → R State} (h : m s.cur = .ok t) : runCtrl s m = .next t := by simp [runCtrl, h]

theorem runCtrl_wait {s t : State} {m : Nat → R State} (h : m s.cur = .error (.wait t)) : runCtrl s m = .next t := by
  simp [runCtrl, h]

theorem runCtrl_trap {s : State} {m : Nat → R State} {t : Trap} (h : m s.cur = .error (.trap t none)) (hf : s.cur ≠ farrierId) :
    runCtrl s m = .next (s.takeTrap s.cur false t) := by simp [runCtrl, h, hf]

theorem runCtrl_pf {s : State} {m : Nat → R State} {va : Nat} {k : AccKind} {l : Option Nat}
    (h : m s.cur = .error (.pf va k l)) (hf : s.cur ≠ farrierId) : runCtrl s m = .next (s.takePf s.cur false va k l) := by
  simp [runCtrl, h, hf]

theorem runLane_ok {s t : State} {m : Nat → R State} (h : m s.cur = .ok t) (hf : s.cur ≠ farrierId) : runLane s m = .next t := by
  simp [runLane, h, hf]

theorem runLane_trap {s : State} {m : Nat → R State} {t : Trap} (h : m s.cur = .error (.trap t none)) (hf : s.cur ≠ farrierId) :
    runLane s m = .next (s.takeTrap s.cur true t) := by simp [runLane, h, hf]

/-! ## Frames -/

theorem homeByte_congr {s t : State} (hm : t.mem = s.mem) (h2 : t.hostL2 = s.hostL2) (h3 : t.hostMem = s.hostMem) (a : Nat) :
    t.homeByte a = s.homeByte a := by simp [State.homeByte, hm, h2, h3]

theorem rest_homeByte {s t : State} (h : { t with groups := [], cores := [] } = { s with groups := [], cores := [] }) (a : Nat) :
    t.homeByte a = s.homeByte a :=
  homeByte_congr (congrArg State.mem h) (congrArg State.hostL2 h) (congrArg State.hostMem h) a

theorem hidesG_of {s t : State} (hg : (t.grp s.cur).g = (s.grp s.cur).g) (hb : t.bank s.cur = s.bank s.cur) : HidesG s t := by
  unfold HidesG; rw [hg, hb]; split <;> simp

theorem hidesV_of {s t : State} (hv : (t.grp s.cur).v = (s.grp s.cur).v) (hb : t.bank s.cur = s.bank s.cur) : HidesV s t := by
  unfold HidesV; rw [hv, hb]; split <;> simp

theorem hidesG_trans {s t u : State} (h : HidesG s t) (k : HidesG t u) (hc : t.cur = s.cur)
    (hs : (t.grp s.cur).sys = (s.grp s.cur).sys) : HidesG s u := by
  unfold HidesG State.inBank at h k ⊢
  rw [hc, hs] at k
  split at h
  · rename_i hi; rw [if_pos hi] at k ⊢
    exact ⟨fun n hn => (k.1 n hn).trans (h.1 n hn), k.2.trans h.2⟩
  · rename_i hi; rw [if_neg hi] at k ⊢
    exact k.trans h

theorem hidesV_trans {s t u : State} (h : HidesV s t) (k : HidesV t u) (hc : t.cur = s.cur)
    (hs : (t.grp s.cur).sys = (s.grp s.cur).sys) : HidesV s u := by
  unfold HidesV State.inBank at h k ⊢
  rw [hc, hs] at k
  split at h
  · rename_i hi; rw [if_pos hi] at k ⊢
    exact ⟨fun n hn => (k.1 n hn).trans (h.1 n hn), k.2.trans h.2⟩
  · rename_i hi; rw [if_neg hi] at k ⊢
    exact k.trans h

/-- Moving the pc alone. -/
theorem ctlFrame_goto (s : State) (pc : GWord) : AtPc s (s.goto s.cur pc) pc ∧ CtlFrame s (s.goto s.cur pc) [] [] := by
  refine ⟨by simp [AtPc, State.goto], ?_⟩
  constructor
  · intro r _; simp [State.rg, State.goto, State.inBank, State.bank]
  · intro q _; simp [State.rq, State.goto]
  · simp [State.goto]
  · intro g hg; exact State.grp_onGrp_other _ _ hg
  · exact hidesG_of (by simp [State.goto]) rfl
  · intro g _; rfl
  · intro c; rfl
  · intro a; rfl
  · rfl

theorem ctlFrame_then_goto {s t : State} {ds qs} (h : CtlFrame s t ds qs) (hc : t.cur = s.cur) (pc : GWord) :
    CtlFrame s (t.goto t.cur pc) ds qs := by
  have f := (ctlFrame_goto t pc).2
  constructor
  · intro r hr; rw [← hc, f.regs r (by simp), hc]; exact h.regs r hr
  · intro q hq; rw [← hc, f.preds q (by simp), hc]; exact h.preds q hq
  · rw [← hc, f.group, hc]; exact h.group
  · intro g hg; rw [f.groups g (by rw [hc]; exact hg)]; exact h.groups g hg
  · have hs := congrArg Group.sys h.group
    exact hidesG_trans h.bank f.bank hc hs
  · intro g hg; rw [f.banks g (by rw [hc]; exact hg)]; exact h.banks g hg
  · intro c; rw [f.cores c]; exact h.cores c
  · intro a; rw [f.bytes a]; exact h.bytes a
  · rw [f.rest]; exact h.rest

theorem State.bank_onBank_other (s : State) {g k : Nat} (f : Bank → Bank) (h : coreOf k ≠ coreOf g ∨ bayOf k ≠ bayOf g) :
    (s.onBank g f).bank k = s.bank k := by
  unfold State.bank State.onBank
  by_cases hc : coreOf k = coreOf g
  · rw [hc, State.core_onCore_self]
    exact Tab.get_set_other _ _ _ (h.resolve_left (fun n => n hc))
  · rw [State.core_onCore_other _ _ hc]

/-- What a write of a group register does and leaves. -/
theorem ctlFrame_putG (s : State) (d : GReg) (v : GWord) : CtlFrame s (s.putG s.cur d v) [d] [] := by
  constructor
  · intro r hr; exact State.rg_putG_other _ _ _ (by simpa using hr)
  · intro q _
    have h := congrArg Group.q (State.putG_grp s s.cur d v)
    simp only at h
    simp [State.rq, h]
  · have h := State.putG_grp s s.cur d v
    have e : ∀ x y : Group, { x with g := [] } = { y with g := [] } →
        { x with g := [], q := 0, pc := 0, cwait := .none } = { y with g := [], q := 0, pc := 0, cwait := .none } := by
      intro x y h
      cases x; cases y; simp at h ⊢; simp [h]
    exact e _ _ h
  · intro g hg; exact State.putG_grp_other _ _ _ hg
  · unfold State.putG
    split
    · exact hidesG_of rfl rfl
    · split
      · rename_i hi
        unfold HidesG
        rw [if_pos (by simp at hi; exact hi.1), State.bank_onBank_self]
        exact ⟨fun _ _ => rfl, rfl⟩
      · rename_i hi
        unfold HidesG
        split
        · rename_i hb
          refine ⟨fun n hn => ?_, rfl⟩
          have hd : d.toNat < 56 := by simpa [hb] using hi
          simp [Tab.get_set_other _ _ _ (show n ≠ d.toNat by omega)]
        · rfl
  · intro g hg
    unfold State.putG
    split
    · rfl
    · split
      · exact State.bank_onBank_other _ _ hg
      · rfl
  · intro c; exact State.putG_core ..
  · intro a; exact rest_homeByte (State.putG_rest ..) a
  · exact State.putG_rest ..

theorem State.cur_putG (s : State) (g : Nat) (d : GReg) (v : GWord) : (s.putG g d v).cur = s.cur := by
  have h := congrArg State.cur (State.putG_rest s g d v)
  exact h

theorem State.pc_putG (s : State) (g : Nat) (d : GReg) (v : GWord) : ((s.putG g d v).grp g).pc = (s.grp g).pc := by
  have h := congrArg Group.pc (State.putG_grp s g d v)
  exact h

/-- A control word that writes a group register and goes on at pc. -/
theorem putG_goto (s : State) (d : GReg) (v : GWord) (pc : GWord) :
    ((s.putG s.cur d v).goto s.cur pc).rg s.cur d = (if d = 0 then 0 else v) ∧ AtPc s ((s.putG s.cur d v).goto s.cur pc) pc
      ∧ CtlFrame s ((s.putG s.cur d v).goto s.cur pc) [d] [] := by
  have hc := State.cur_putG s s.cur d v
  have f := ctlFrame_then_goto (ctlFrame_putG s d v) hc pc
  have e := ctlFrame_goto (s.putG s.cur d v) pc
  rw [hc] at f e
  refine ⟨?_, ?_, f⟩
  · have h := e.2.regs d (by simp)
    rw [hc] at h
    rw [h]
    by_cases hd : d = 0
    · subst hd; simp
    · rw [if_neg hd, State.rg_putG_self _ _ _ hd]
  · have h := e.1
    simp only [AtPc, hc] at h
    exact h

/-- Everything that a word of the form ctlG does when its value exists and the write is allowed. -/
theorem ctlG_writes {s : State} {i : Instr} {d : GReg} {f : Nat → R GWord} {v : GWord} (he : exec i s = ctlG s d f)
    (hv : f s.cur = .ok v) : WritesG s i d v := by
  intro hb
  have h := putG_goto s d v ((s.grp s.cur).pc + BitVec.ofNat 64 4)
  refine ⟨_, ?_, h⟩
  rw [he, ctlG]
  apply runCtrl_ok
  simp [hv, hb, State.wg, bind, Except.bind, pure, Except.pure, State.adv, State.pc_putG]

theorem ctlFrame_wq (s : State) (d : QReg) (v : Bool) : CtlFrame s (s.wq s.cur d v) [] [d] := by
  by_cases hd : d = 0
  · subst hd
    have : s.wq s.cur 0 v = s := State.wq_zero ..
    rw [this]
    constructor <;> first | exact hidesG_of rfl rfl | (intros; rfl)
  have hw : ∀ p, p ≠ d → (s.wq s.cur d v).rq s.cur p = s.rq s.cur p := fun p hp => State.rq_wq_other s s.cur v hp
  unfold State.wq at hw ⊢
  rw [if_neg hd] at hw ⊢
  constructor
  · intro r _; simp [State.rg, State.inBank, State.bank]
  · intro q hq; exact hw q (by simpa using hq)
  · simp
  · intro g hg; exact State.grp_onGrp_other _ _ hg
  · exact hidesG_of (by simp) rfl
  · intro g _; rfl
  · intro c; rfl
  · intro a; rfl
  · rfl

/-- Everything that a word of the form ctlQ does. -/
theorem ctlQ_writes {s : State} {i : Instr} {d : QReg} {f : Nat → Bool} (he : exec i s = ctlQ s d f) : WritesQ s i d (f s.cur) := by
  have hc : (s.wq s.cur d (f s.cur)).cur = s.cur := by
    have h := congrArg State.cur (ctlFrame_wq s d (f s.cur)).rest
    exact h
  have hp : ((s.wq s.cur d (f s.cur)).grp s.cur).pc = (s.grp s.cur).pc := by unfold State.wq; split <;> simp
  have e := ctlFrame_goto (s.wq s.cur d (f s.cur)) ((s.grp s.cur).pc + BitVec.ofNat 64 4)
  have g := ctlFrame_then_goto (ctlFrame_wq s d (f s.cur)) hc ((s.grp s.cur).pc + BitVec.ofNat 64 4)
  rw [hc] at e g
  refine ⟨(s.wq s.cur d (f s.cur)).goto s.cur ((s.grp s.cur).pc + BitVec.ofNat 64 4), ?_, ?_, ?_, g⟩
  · rw [he, ctlQ]
    apply runCtrl_ok
    simp [State.adv, hp]
  · have h := e.2.preds d (by simp)
    rw [hc] at h
    rw [h]
    by_cases hd : d = 0
    · subst hd; simp [State.rq]
    · rw [State.rq_wq_self _ _ _ hd]
      have hz : (d == 0) = false := beq_eq_false_iff_ne.2 hd
      rw [hz, Bool.false_or]
  · have h := e.1
    simp only [AtPc, hc] at h
    exact h

/-- Everything that a word that only moves the pc does. -/
theorem goto_jumps {s : State} {i : Instr} {pc : GWord} (he : exec i s = .next (s.goto s.cur pc)) : JumpsTo s i pc :=
  ⟨_, he, ctlFrame_goto s pc⟩

/-! ## Lane words -/

theorem State.rv_wv_other (s : State) (g r l : Nat) (w : Word) {q k : Nat} (hl : l < 32) (hk : k < 32) (h : q ≠ r ∨ k ≠ l) :
    (s.wv g r l w).rv g q k = s.rv g q k := by
  have hi : (s.wv g r l w).inBank g = s.inBank g := by
    unfold State.wv; split <;> simp [State.inBank]
  unfold State.rv
  rw [hi]
  unfold State.wv
  by_cases hb : (s.inBank g && decide (r ≥ 240)) = true
  · rw [if_pos hb]
    by_cases hc : (s.inBank g && decide (q ≥ 240)) = true
    · rw [if_pos hc, if_pos hc, State.bank_onBank_self]
      simp only [Bool.and_eq_true, decide_eq_true_eq] at hb hc
      have : (q - 240) * 32 + k ≠ (r - 240) * 32 + l := by omega
      simp [Tab.find_put_other _ _ this]
    · rw [if_neg hc, if_neg hc]; rfl
  · rw [if_neg hb]
    by_cases hc : (s.inBank g && decide (q ≥ 240)) = true
    · rw [if_pos hc, if_pos hc]; rfl
    · rw [if_neg hc, if_neg hc]
      have : q * 32 + k ≠ r * 32 + l := by omega
      simp [Tab.get_set_other _ _ _ this]

theorem State.cur_wv (s : State) (g r l : Nat) (w : Word) : (s.wv g r l w).cur = s.cur := by
  unfold State.wv; split <;> rfl

/-- What a write of one lane of a lane register leaves. -/
theorem laneFrame_wv (s : State) (r l : Nat) (w : Word) (hl : l < 32) : LaneFrame s (s.wv s.cur r l w) [r] [] := by
  constructor
  · intro q k hk hq; exact State.rv_wv_other s s.cur r l w hl hk (.inl (by simpa using hq))
  · intro p _; unfold State.wv; split <;> simp [State.pmask]
  · unfold State.wv; split <;> simp
  · intro g hg; unfold State.wv; split
    · rfl
    · exact State.grp_onGrp_other _ _ hg
  · unfold State.wv; split
    · rename_i hi
      unfold HidesV
      rw [if_pos (by simp at hi; exact hi.1), State.bank_onBank_self]
      exact ⟨fun _ _ => rfl, rfl⟩
    · rename_i hi
      unfold HidesV
      split
      · rename_i hb
        refine ⟨fun n hn => ?_, rfl⟩
        have hd : r < 240 := by simpa [hb] using hi
        simp [Tab.get_set_other _ _ _ (show n ≠ r * 32 + l by omega)]
      · rfl
  · intro g hg; unfold State.wv; split
    · exact State.bank_onBank_other _ _ hg
    · rfl
  · intro c; unfold State.wv; split
    · exact State.core_onBank ..
    · rfl
  · intro a; unfold State.wv; split <;> rfl
  · unfold State.wv; split <;> rfl

theorem laneFrame_refl (s : State) (vs ps : List Nat) : LaneFrame s s vs ps := by
  constructor <;> first | exact hidesV_of rfl rfl | (intros; rfl)

theorem laneFrame_trans {s t u : State} {vs ps : List Nat} (h : LaneFrame s t vs ps) (k : LaneFrame t u vs ps)
    (hc : t.cur = s.cur) : LaneFrame s u vs ps := by
  have k1 := k.regs; have k2 := k.preds; have k3 := k.group; have k4 := k.groups; have k6 := k.banks
  rw [hc] at k1 k2 k3 k4 k6
  constructor
  · intro r l hl hr; rw [k1 r l hl hr]; exact h.regs r l hl hr
  · intro p hp; rw [k2 p hp]; exact h.preds p hp
  · rw [k3]; exact h.group
  · intro g hg; rw [k4 g hg]; exact h.groups g hg
  · have hs := congrArg Group.sys h.group
    exact hidesV_trans h.bank k.bank hc hs
  · intro g hg; rw [k6 g hg]; exact h.banks g hg
  · intro c; rw [k.cores c]; exact h.cores c
  · intro a; rw [k.bytes a]; exact h.bytes a
  · rw [k.rest]; exact h.rest

/-- Writing a lane register in some lanes: each listed lane once. -/
theorem wvs_spec (s : State) (r : Nat) (L : List (Nat × Word)) (hl : ∀ e ∈ L, e.1 < 32) (hn : (L.map Prod.fst).Nodup) :
    (s.wvs s.cur r L).cur = s.cur ∧ LaneFrame s (s.wvs s.cur r L) [r] []
      ∧ (∀ l w, (l, w) ∈ L → (s.wvs s.cur r L).rv s.cur r l = w)
      ∧ (∀ l, l < 32 → l ∉ L.map Prod.fst → (s.wvs s.cur r L).rv s.cur r l = s.rv s.cur r l) := by
  induction L generalizing s with
  | nil => exact ⟨rfl, laneFrame_refl .., by simp, fun _ _ _ => rfl⟩
  | cons e L ih =>
    obtain ⟨l, w⟩ := e
    have hc : (s.wv s.cur r l w).cur = s.cur := State.cur_wv ..
    have h0 : l < 32 := hl (l, w) (by simp)
    have i := ih (s.wv s.cur r l w) (fun e he => hl e (by simp [he])) (by simp at hn ⊢; exact hn.2)
    rw [hc] at i
    refine ⟨?_, ?_, ?_, ?_⟩
    · simp only [State.wvs]; exact i.1
    · simp only [State.wvs]; exact laneFrame_trans (laneFrame_wv s r l w h0) i.2.1 hc
    · intro k x hk
      simp only [State.wvs]
      rcases List.mem_cons.1 hk with hk | hk
      · obtain ⟨rfl, rfl⟩ := Prod.mk.inj hk
        rw [i.2.2.2 k h0 (by simp only [List.map_cons, List.nodup_cons] at hn; exact hn.1)]
        exact State.rv_wv_self ..
      · exact i.2.2.1 k x hk
    · intro k hk hn'
      simp only [State.wvs]
      simp only [List.map_cons, List.mem_cons, not_or] at hn'
      rw [i.2.2.2 k hk hn'.2]
      exact State.rv_wv_other _ _ _ _ _ h0 hk (.inr hn'.1)

theorem taking_lt {s : State} {g : Nat} {h : Hdr} {l : Nat} (hl : l ∈ s.taking g h) : l < 32 := by
  simp only [State.taking, indices, List.mem_filter, List.mem_range] at hl
  exact hl.1

theorem taking_nodup (s : State) (g : Nat) (h : Hdr) : (s.taking g h).Nodup :=
  List.Nodup.filter _ List.nodup_range

theorem mem_taking {s : State} {g : Nat} {h : Hdr} {l : Nat} :
    l ∈ s.taking g h ↔ l < 32 ∧ (s.active g l && s.guard g h l) = true := by
  simp [State.taking, indices]

/-- Moving the lane stream alone. -/
theorem laneFrame_lgoto (s : State) (w : Nat) : AtWord s (s.lgoto s.cur w) w ∧ LaneFrame s (s.lgoto s.cur w) [] [] := by
  refine ⟨?_, ?_⟩
  · simp only [AtWord, State.lpc, State.lgoto, State.grp_onGrp_self]
    by_cases h : (s.grp s.cur).sys = true <;> simp [h]
  constructor
  · intro r l _ _
    have : (s.lgoto s.cur w).inBank s.cur = s.inBank s.cur := by
      by_cases h : (s.grp s.cur).sys = true <;> simp [State.inBank, State.lgoto, h]
    unfold State.rv
    rw [this]
    split
    · rfl
    · simp only [State.lgoto, State.grp_onGrp_self]
      split <;> rfl
  · intro p _
    simp only [State.pmask, State.lgoto, State.grp_onGrp_self]
    by_cases h : (s.grp s.cur).sys = true <;> simp [h]
  · simp only [State.lgoto, State.grp_onGrp_self]; split <;> rfl
  · intro g hg; exact State.grp_onGrp_other _ _ hg
  · exact hidesV_of (by simp only [State.lgoto, State.grp_onGrp_self]; split <;> rfl) rfl
  · intro g _; rfl
  · intro c; rfl
  · intro a; rfl
  · rfl

theorem laneFrame_mono {s t : State} {vs ps vs' ps' : List Nat} (h : LaneFrame s t vs ps) (hv : ∀ r ∈ vs, r ∈ vs')
    (hp : ∀ p ∈ ps, p ∈ ps') : LaneFrame s t vs' ps' :=
  { h with regs := fun r l hl hr => h.regs r l hl (fun n => hr (hv r n)), preds := fun p n => h.preds p (fun m => n (hp p m)) }

theorem lpc_congr {s t : State} (hw : { t.grp s.cur with v := [], p := [] } = { s.grp s.cur with v := [], p := [] }) :
    t.lpc s.cur = s.lpc s.cur := by
  have a := congrArg Group.sys hw
  have b := congrArg Group.hlpc hw
  have c := congrArg Group.lpc hw
  simp only at a b c
  simp [State.lpc, a, b, c]

theorem wvs_grp (s : State) (g r : Nat) (L : List (Nat × Word)) :
    { (s.wvs g r L).grp g with v := [], p := [] } = { s.grp g with v := [], p := [] } := by
  induction L generalizing s with
  | nil => rfl
  | cons e L ih =>
    simp only [State.wvs]
    rw [ih]
    unfold State.wv
    split <;> simp

/-- Everything that a word of the form laneV does when its registers may be used. -/
theorem laneV_writes {s : State} {i : Instr} {h : Hdr} {d : VReg} {regs : List (VReg × Nat)} {f : Nat → Nat → Word}
    (he : exec i s = laneV s h d regs f) (hr : LaneOk s ((d, 1) :: regs)) : WritesV s i h d (f s.cur) := by
  have hs := wvs_spec s d.toNat ((s.taking s.cur h).map (fun l => (l, f s.cur l)))
    (by simp only [List.mem_map]; rintro e ⟨l, hl, rfl⟩; exact taking_lt hl)
    (by simp only [List.map_map, Function.comp_def, List.map_id']; exact taking_nodup ..)
  generalize ht : s.wvs s.cur d.toNat ((s.taking s.cur h).map (fun l => (l, f s.cur l))) = t at hs
  obtain ⟨hc, hf, hin, hout⟩ := hs
  have hp : t.lpc s.cur = s.lpc s.cur := lpc_congr (by rw [← ht]; exact wvs_grp ..)
  have hg := laneFrame_lgoto t (t.lpc t.cur + 1)
  rw [hc, hp] at hg
  have hfr : LaneFrame s (t.lgoto s.cur (s.lpc s.cur + 1)) [d.toNat] [] :=
    laneFrame_trans hf (laneFrame_mono hg.2 (by simp) (by simp)) hc
  refine ⟨t.lgoto s.cur (s.lpc s.cur + 1), ?_, ?_, ?_, hfr⟩
  · rw [he, laneV]
    refine runLane_ok ?_ hr.1
    have : needRegs s s.cur ((d, 1) :: regs) = .ok () := by simp only [needRegs, legal, need, hr.2]; rfl
    simp only [this, ht]
    simp [bind, Except.bind, pure, Except.pure, State.ladv, hp]
  · intro l hl
    have e := hg.2.regs d.toNat l hl (by simp)
    rw [hc] at e
    rw [e]
    by_cases hm : (s.active s.cur l && s.guard s.cur h l) = true
    · rw [if_pos hm]
      exact hin l (f s.cur l) (List.mem_map.2 ⟨l, mem_taking.2 ⟨hl, hm⟩, rfl⟩)
    · rw [if_neg hm]
      refine hout l hl ?_
      simp only [List.map_map, Function.comp_def, List.map_id']
      exact fun n => hm (mem_taking.1 n).2
  · have e := hg.1
    simp only [AtWord, hc] at e
    exact e

theorem foldl_mask_bit (L : List (Nat × Bool)) (m : Word) (hl : ∀ e ∈ L, e.1 < 32) (hn : (L.map Prod.fst).Nodup) (k : Nat)
    (hk : k < 32) :
    (L.foldl (fun m e => if e.2 then m ||| (1#32 <<< e.1) else m &&& ~~~(1#32 <<< e.1)) m).getLsbD k =
      (match L.find? (fun e => e.1 == k) with
      | some e => e.2
      | none => m.getLsbD k) := by
  induction L generalizing m with
  | nil => rfl
  | cons e L ih =>
    obtain ⟨l, b⟩ := e
    have h0 : l < 32 := hl (l, b) (by simp)
    simp only [List.map_cons, List.nodup_cons] at hn
    rw [List.foldl_cons, ih _ (fun e he => hl e (by simp [he])) hn.2, List.find?_cons]
    by_cases hlk : l = k
    · subst hlk
      have hnone : L.find? (fun e => e.1 == l) = none := by
        rw [List.find?_eq_none]
        intro e he hel
        exact hn.1 (List.mem_map.2 ⟨e, he, by simpa using hel⟩)
      simp only [hnone, beq_self_eq_true]
      cases b <;> simp [h0]
    · have : (l == k) = false := beq_eq_false_iff_ne.2 hlk
      simp only [this]
      cases L.find? (fun e => e.1 == k) with
      | some e => rfl
      | none =>
        simp only
        cases b <;> simp [hk] <;> omega

/-- What a write of a lane predicate in some lanes leaves. -/
theorem laneFrame_wps (s : State) (p : PReg) (L : List (Nat × Bool)) : LaneFrame s (s.wps s.cur p L) [] [p.toNat] := by
  unfold State.wps
  split
  · exact laneFrame_refl ..
  · constructor
    · intro r l _ _; simp [State.rv, State.inBank, State.bank]
    · intro q hq
      have hn : q ≠ p.toNat := by simpa using hq
      simp [State.pmask, Tab.get_set_other _ _ _ hn]
    · simp
    · intro g hg; exact State.grp_onGrp_other _ _ hg
    · exact hidesV_of (by simp) rfl
    · intro g _; rfl
    · intro c; rfl
    · intro a; rfl
    · rfl

/-- Everything that a word of the form laneP does when its registers may be used. -/
theorem laneP_writes {s : State} {i : Instr} {h : Hdr} {d : PReg} {regs : List (VReg × Nat)} {f : Nat → Nat → Bool}
    (he : exec i s = laneP s h d regs f) (hr : LaneOk s regs) : WritesP s i h d (f s.cur) := by
  generalize ht : s.wps s.cur d ((s.taking s.cur h).map (fun l => (l, f s.cur l))) = t
  have hf : LaneFrame s t [] [d.toNat] := ht ▸ laneFrame_wps ..
  have hc : t.cur = s.cur := by
    have e := congrArg State.cur hf.rest
    exact e
  have hp : t.lpc s.cur = s.lpc s.cur := by
    rw [← ht]; unfold State.wps; split
    · rfl
    · simp [State.lpc]
  have hg := laneFrame_lgoto t (t.lpc t.cur + 1)
  rw [hc, hp] at hg
  have hfr : LaneFrame s (t.lgoto s.cur (s.lpc s.cur + 1)) [] [d.toNat] :=
    laneFrame_trans hf (laneFrame_mono hg.2 (by simp) (by simp)) hc
  refine ⟨t.lgoto s.cur (s.lpc s.cur + 1), ?_, ?_, ?_, hfr⟩
  · rw [he, laneP]
    refine runLane_ok ?_ hr.1
    have : needRegs s s.cur regs = .ok () := by simp only [needRegs, legal, need, hr.2]; rfl
    simp only [this, ht]
    simp [bind, Except.bind, pure, Except.pure, State.ladv, hp]
  · intro l hl
    have e := hg.2.preds d.toNat (by simp)
    rw [hc] at e
    have e2 : (t.lgoto s.cur (s.lpc s.cur + 1)).rp s.cur d l = t.rp s.cur d l := by simp only [State.rp, e]
    rw [e2]
    by_cases hd : d = 0
    · subst hd
      rw [if_pos rfl]
      show (BitVec.allOnes 32).getLsbD l = true
      rw [BitVec.getLsbD_allOnes]
      exact decide_eq_true hl
    · rw [if_neg hd]
      have hd0 : d.toNat ≠ 0 := fun n => hd (BitVec.eq_of_toNat_eq n)
      rw [← ht]
      unfold State.wps
      rw [if_neg hd]
      simp only [State.rp, State.pmask, if_neg hd0, State.grp_onGrp_self, Tab.get_set_self]
      rw [foldl_mask_bit _ _ (by simp only [List.mem_map]; rintro e ⟨k, hk, rfl⟩; exact taking_lt hk)
        (by simp only [List.map_map, Function.comp_def, List.map_id']; exact taking_nodup ..) l hl]
      by_cases hm : (s.active s.cur l && s.guard s.cur h l) = true
      · rw [if_pos hm]
        have hin : ((s.taking s.cur h).map (fun l => (l, f s.cur l))).find? (fun e => e.1 == l) = some (l, f s.cur l) := by
          rw [List.find?_map]
          have : (s.taking s.cur h).find? ((fun e : Nat × Bool => e.1 == l) ∘ fun l => (l, f s.cur l)) = some l := by
            have hmem : l ∈ s.taking s.cur h := mem_taking.2 ⟨hl, hm⟩
            have hsome : ((s.taking s.cur h).find? ((fun e : Nat × Bool => e.1 == l) ∘ fun l => (l, f s.cur l))).isSome := by
              rw [List.find?_isSome]; exact ⟨l, hmem, by simp⟩
            obtain ⟨k, hk⟩ := Option.isSome_iff_exists.1 hsome
            have := List.find?_some hk
            simp at this
            rw [hk, this]
          rw [this]; rfl
        rw [hin]
      · rw [if_neg hm]
        have hout : ((s.taking s.cur h).map (fun l => (l, f s.cur l))).find? (fun e => e.1 == l) = none := by
          rw [List.find?_eq_none]
          simp only [List.mem_map]
          rintro e ⟨k, hk, rfl⟩ hkl
          simp only [beq_iff_eq] at hkl
          exact hm (mem_taking.1 (hkl ▸ hk)).2
        rw [hout]
  · have e := hg.1
    simp only [AtWord, hc] at e
    exact e

end Sys2Proof.Machine
end

