-- ==== Sys2Proof/Tests/Slice0.lean ====
section
/-! SUPPORT. Tests: words of the manual decode as it says, an ill-formed term for each check of WellFormed is refused, small states
that meet the premises of every statement (wit_ with its name), and single steps whose results the manual's text or tables give. -/

namespace Sys2Proof.Tests

open Sys2Proof Sys2Proof.Machine

set_option Elab.async false

/-! ## Decoding (words of the spec's own examples, and words put together from its field tables) -/

/-- A lane word from its three parts, the highest first (07 R159). -/
def laneParts (hi mid lo : Word) : Code := .lane (hi ++ mid ++ lo)

/-- A lane word from its 12 bytes, lowest address first. -/
def laneBytes (l : List Byte) : Code := .lane (BitVec.ofNat 96 (ofBytes l))

/-- No gap, no wait, guard p0. -/
def h0 : Hdr := { t := { gap := 0, cede := false, wm := 0, wl := 0, wf := 0 }, neg := false, pred := 0 }

/-- The words of the kernel of 08's worked example, in its order. -/
theorem test_decode_control_example :
    decode (.ctrl 0x7010001B) = .ok (.glv 1 11) ∧ decode (.ctrl 0x10200003) = .ok (.gaddi 2 0 3) ∧
    decode (.ctrl 0x20208030) = .ok (.gshli 2 2 48) ∧ decode (.ctrl 0x18208020) = .ok (.gori 2 2 32) ∧
    decode (.ctrl 0x68104201) = .ok (.bufset 1 1 2) ∧ decode (.ctrl 0x54400400) = .ok (.gld64 4 0 1 0) ∧
    decode (.ctrl 0x54500401) = .ok (.gld64 5 0 1 1) ∧ decode (.ctrl 0x04610500) = .ok (.gadd 6 4 5) ∧
    decode (.ctrl 0x58600402) = .ok (.gst64 6 0 1 2) ∧ decode (.ctrl 0x70000002) = .ok .gend := by decide +kernel

/-- 08 R191's example: a release add at device scope, two words. -/
theorem test_decode_gatom :
    decode (.pair 0x5C800403 0x00700550) =
      .ok (.gatom 8 0 1 3 { b := 7, c := 0, op := .add, w32 := false, ord := .rel, sc := .dev }) := by decide +kernel

/-- 07's examples of gaddi and a branch, 11's of pget and mma, 15's handler words. -/
theorem test_decode_control_words :
    decode (.ctrl 0x1050FFF8) = .ok (.gaddi 5 3 (-8)) ∧ decode (.ctrl 0x417FFFFA) = .ok (.br 2 true (-6)) ∧
    decode (.ctrl 0xBC401002) = .ok (.pget 4 2) ∧ decode (.ctrl 0xA0418800) = .ok (.mma 4 6 8 false) ∧
    decode (.ctrl 0xE3800020) = .ok (.sysrd 56 .trappc) ∧ decode (.ctrl 0x138E0004) = .ok (.gaddi 56 56 4) ∧
    decode (.ctrl 0xE00E0021) = .ok (.syswr .trappc 56) ∧ decode (.ctrl 0xE4000000) = .ok .tret := by decide +kernel

/-- One word of each further control family, put together from 07 R157 and the OP and FN that chapters 08 and 11 give. -/
theorem test_decode_control_families :
    decode (.ctrl 0x0C108300) = .ok (.gmul 1 2 3) ∧ decode (.ctrl 0x483FFFFF) = .ok (.bloop 0 false (-1)) ∧
    decode (.ctrl 0x50014000) = .ok (.jmp 5) ∧ decode (.ctrl 0x64000005) = .ok (.fence .dev) ∧
    decode (.ctrl 0x6C008003) = .ok (.lrun 3 2) ∧ decode (.ctrl 0x7C108300) = .ok (.aset 1 2 3) ∧
    decode (.ctrl 0x80114004) = .ok (.iqpush 1 4 5) ∧ decode (.ctrl 0xC0108304) = .ok (.rput 1 2 3 4) := by decide +kernel

/-- 07's two lane adds: a guarded one and one that waits on ring M. -/
theorem test_decode_lane_adds :
    decode (laneBytes [0, 0, 0, 0, 0, 0x20, 0x24, 0x24, 8, 0, 4, 1]) =
      .ok (.vaddI32 { t := { gap := 4, cede := false, wm := 0, wl := 0, wf := 0 }, neg := false, pred := 2 } 9 9 (.reg 8)) ∧
    decode (laneBytes [0, 0, 0, 0, 0, 0x10, 0x10, 0x14, 0, 8, 1, 1]) =
      .ok (.vaddI32 { t := { gap := 1, cede := false, wm := 1, wl := 0, wf := 0 }, neg := false, pred := 0 } 5 4 (.reg 4)) := by
  decide +kernel

/-- The examples of 09 R212 and R219 and of 10 R235 and R243. -/
theorem test_decode_lane_examples :
    decode (laneBytes [0, 0, 0, 1, 0, 0, 0, 0, 0x0C, 0, 0, 0x35]) = .ok (.lbreak { h0 with pred := 3 } 1) ∧
    decode (laneBytes [0x10, 0, 0, 0x20, 0, 0, 0x1C, 0x10, 0, 0, 0x20, 0x40]) = .ok (.vld h0 4 .s4 2 7 16 false) ∧
    decode (laneBytes [0, 0, 0xA0, 0x42, 0, 0, 0x10, 0x14, 0, 0, 0, 0x90]) = .ok (.vcvt h0 .f32 .bf16 (.own .stoch) .fmt 5 4) ∧
    decode (laneBytes [5, 0, 0, 0, 1, 0, 0, 0x40, 0, 0, 0, 0xB0]) = .ok (.amov h0 .w32 16 5) := by decide +kernel

/-- One word of each further lane family, put together from 07 R159, R160 and the OP and SUB that chapters 09 and 10 give. -/
theorem test_decode_lane_families :
    decode (laneParts 0x20200000 0x040C0800 0) = .ok (.vcmp h0 .ltI 1 3 (.reg 2)) ∧
    decode (laneParts 0x60100000 0x04080001 0x3C003C00) = .ok (.vfadd h0 .f16 1 2 (.imm 0x3C003C00)) ∧
    decode (laneParts 0xA0300000 0x0C0C0001 1) = .ok (.vshfl h0 .xor 3 3 (.imm 1)) ∧
    decode (laneParts 0x45300000 0x00040800 0x007FFFF8) = .ok (.sst h0 2 .s8 1 (-8)) ∧
    decode (laneParts 0x49200000 0x04080C00 0x4B000000) = .ok (.vatom h0 .add false .rel .dev 1 4 2 0 3 0) ∧
    decode (laneParts 0xA2300000 0x20080004 0) = .ok (.vred h0 .addI 8 2 1) := by decide +kernel

/-- The encoder gives those words back. -/
theorem test_encode :
    encode (.gaddi 5 3 (-8)) = some (.ctrl 0x1050FFF8) ∧ encode (.mma 4 6 8 false) = some (.ctrl 0xA0418800) ∧
    encode (.vld h0 4 .s4 2 7 16 false) = some (laneParts 0x40200000 0x101C0000 0x20000010) := by decide +kernel

/-- Words that 07 R162 to R164 reject: OP 0 (the word 0), a reserved field, a forbidden value. -/
theorem test_decode_rejects :
    (decode (.ctrl 0)).toOption = none ∧ (decode (.ctrl 0x70000102)).toOption = none ∧ (decode (.ctrl 0x40400000)).toOption = none ∧
    (decode (laneParts 0x01000020 0 0)).toOption = none ∧ (decode (laneParts 0x48200000 0 0)).toOption = none := by decide +kernel

/-- What decodeTableWord answers for the table's rows. -/
theorem test_table_words :
    decodeTableWord 32 0x04610500 = some (.gadd 6 4 5) ∧
    decodeTableWord 96 (0x40200000 * 2 ^ 64 + 0x101C0000 * 2 ^ 32 + 0x20000010) = some (.vld h0 4 .s4 2 7 16 false) := by
  decide +kernel

/-! ## Well-formedness: an ill-formed term for each check is refused -/

/-- The guard !p0 (07 R159). -/
theorem test_wf_guard :
    (Instr.vmov { h0 with neg := true } 1 2).wf = false ∧ (Instr.vmov { h0 with neg := true, pred := 1 } 1 2).wf = true := by
  decide +kernel

/-- A branch on !q0 (07 R157). -/
theorem test_wf_branch : (Instr.br 0 true 4).wf = false ∧ (Instr.bloop 0 true 4).wf = false ∧ (Instr.call 1 true 4).wf = true := by
  decide +kernel

/-- An immediate bit field that leaves 64 bits (08 R184), at its boundary. -/
theorem test_wf_field : (Instr.gbfxi 1 2 63 1).wf = false ∧ (Instr.gbfxiI64 1 2 62 1).wf = true ∧ (Instr.gbfxi 1 2 63 0).wf = true := by
  decide +kernel

/-- glv of a value above 12 (08 R196). -/
theorem test_wf_glv : (Instr.glv 1 13).wf = false ∧ (Instr.glv 1 12).wf = true := by decide +kernel

/-- A compare register without cas, and a scope on a plain atomic (08 R191, 09 R220). -/
theorem test_wf_atomic :
    (Instr.gatom 1 2 3 0 { b := 4, c := 5, op := .add, w32 := false, ord := .plain, sc := .grp }).wf = false ∧
    (Instr.gatom 1 2 3 0 { b := 4, c := 0, op := .add, w32 := false, ord := .plain, sc := .dev }).wf = false ∧
    (Instr.gatom 1 2 3 0 { b := 4, c := 5, op := .cas, w32 := false, ord := .ar, sc := .dev }).wf = true ∧
    (Instr.vatom h0 .add false .plain .grp 1 2 3 0 4 5).wf = false := by decide +kernel

/-- lbreak and lcont of 255 loops (09 R212). -/
theorem test_wf_break : (Instr.lbreak h0 255).wf = false ∧ (Instr.lcont h0 255).wf = false ∧ (Instr.lbreak h0 254).wf = true := by
  decide +kernel

/-- A lane branch of 0 words (09 R212, R213). -/
theorem test_wf_lane_branch :
    (Instr.lif h0 0).wf = false ∧ (Instr.lelse h0.t 0).wf = false ∧ (Instr.lendloop h0.t 0).wf = false ∧
    (Instr.lendloopRefill h0.t 0 0).wf = false ∧ (Instr.lendloop h0.t 1).wf = true ∧
    (decode (laneParts 0x30000000 0 0)).toOption = none := by decide +kernel

/-- A signed load of 4 bytes (09 R219). -/
theorem test_wf_signed :
    (Instr.vldSigned h0 1 .s4 2 3 0 false).wf = false ∧ (Instr.sldSigned h0 1 .s8 3 0).wf = false ∧
    (Instr.vldSigned h0 1 .s2 2 3 0 false).wf = true := by decide +kernel

/-- A future word at a scope that has none (09 R222). -/
theorem test_wf_future :
    (Instr.vldf h0 .core 1 1 2 3 0).wf = false ∧ (Instr.vldfTake h0 .sys 1 1 2 3 0).wf = false ∧
    (Instr.vstf h0 .grp 1 1 2 3 0).wf = false ∧ (Instr.vstf h0 .dev 1 1 2 3 0).wf = true := by decide +kernel

/-- Conversions between a type and itself, and of a type that is no scalar; a quantisation of an integer (10 R235, R237). -/
theorem test_wf_convert :
    (Instr.vcvt h0 .f32 .f32 .fmt .fmt 1 2).wf = false ∧ (Instr.vcvt h0 .q8 .f32 .fmt .fmt 1 2).wf = false ∧
    (Instr.vcvt h0 .f32 .f16 .fmt .fmt 1 2).wf = true ∧ (Instr.vqnt h0 .i32 false .fmt 1 2 3).wf = false := by decide +kernel

/-! ## Small states -/

/-- The state after a step, or reset where there is none. -/
def nx (o : Host.Outcome State Fault Refusal) : State :=
  match o with
  | .next t => t
  | _ => State.reset

/-- The fault that an outcome is. -/
def stops (o : Host.Outcome State Fault Refusal) : Option Fault :=
  match o with
  | .fault f => some f
  | _ => none

/-- Group 0 of core 0 as placed for a control word. -/
def g0 : Group := placedGroup Group.empty false

/-- An entry of the lane queue. -/
def ent (posted nr : Bool) : QEntry := { arg := 5, block := 0, nr := nr, posted := posted, fmt := 0, count := 32, result := 9 }

/-- Group 0 as placed for a lane word, with 32 registers. -/
def l0 : Group := { placedGroup { Group.empty with count := 32 } true with laneQ := [ent false false] }

/-- Its team: a window of 4 KiB, 16 tiles, two item queues, and 64 free registers in each bay. -/
def t0 : Team :=
  { placedTeam Team.empty with scratch := 4096, acc := 16, niq := 2, vregs := 32, uid := 1, free := [(0, 64), (1, 64), (2, 64), (3, 64)] }

/-- The reset state with an empty flash, whose contents are no matter here. -/
def base : State :=
  { State.reset with pkg := { Pkg.reset with record := [], firmware := [], fwVersion := 0, rollback := 0 } }

/-- Core 0 with group 0 and its team so, and the placed page in its TLB. -/
def lab (x : Group) (y : Team) : State :=
  (((base.onTeam 0 (fun _ => y)).onGrp 0 (fun _ => x)).tlbFill 0 placeTlb)

/-- A control word with these group registers. -/
def ctl (g : Tab GWord) : State := lab { g0 with g := g } t0

/-- The same in a handler. -/
def hnd (g : Tab GWord) : State := lab { g0 with g := g, sys := true, bphase := some (1, 1), posted := 7 } t0

/-- What a step leaves in a register of group 0. -/
def reg (i : Instr) (s : State) (r : GReg) : GWord := (nx (exec i s)).rg 0 r

/-! ## Control arithmetic, branches, groups -/

theorem wit_ControlArithmetic :
    (ctl [(1, 5), (2, 7)]).stackBad 0 61 0 = false ∧ (ctl []).cur ≠ farrierId ∧
    (let n (w : GWord) := (((ctl [(2, w)]).rg 0 2).toNat / 256 % 128, ((ctl [(2, w)]).rg 0 2).toNat % 64)
     n 0x4000 = (64, 0) ∧ n 0x13F = (1, 63) ∧ n 0 = (0, 0) ∧ n 0x4001 = (64, 1)) := by decide +kernel

theorem test_add_wraps : reg (.gadd 3 1 2) (ctl [(1, BitVec.allOnes 64), (2, 2)]) 3 = 1 ∧ reg (.gsub 3 1 2) (ctl [(2, 1)]) 3 = BitVec.allOnes 64 := by
  decide +kernel

theorem test_g0_discards : reg (.gadd 0 1 2) (ctl [(1, 5), (2, 2)]) 0 = 0 ∧ (nx (exec (.gadd 0 1 2) (ctl [(1, 5)]))).rg 0 1 = 5 := by decide +kernel

theorem test_bitfield :
    reg (.gbfx 3 1 2) (ctl [(1, 0xF0), (2, 0x404)]) 3 = 0xF ∧ reg (.gbfxI64 3 1 2) (ctl [(1, 0xF0), (2, 0x404)]) 3 = BitVec.allOnes 64 ∧
    reg (.gbfxi 3 1 3 4) (ctl [(1, 0xA50)]) 3 = 5 ∧ reg (.gbfxiI64 3 1 3 8) (ctl [(1, 0xA50)]) 3 = 0xFFFFFFFFFFFFFFFA := by decide +kernel

theorem test_shifts :
    reg (.gshl 3 1 2) (ctl [(1, 3), (2, 65)]) 3 = 6 ∧ reg (.gsra 3 1 2) (ctl [(1, 0x8000000000000000), (2, 63)]) 3 = BitVec.allOnes 64 ∧
    reg (.gaddsh 3 1 2 3) (ctl [(1, 1), (2, 2)]) 3 = 33 ∧ reg (.gclz 3 1) (ctl [(1, 1)]) 3 = 63 ∧ reg (.gpopc 3 1) (ctl [(1, 0xFF)]) 3 = 8 := by
  decide +kernel

theorem test_immediates :
    reg (.gaddi 3 1 (-8)) (ctl [(1, 3)]) 3 = 0xFFFFFFFFFFFFFFFB ∧ reg (.gupi 3 1 0x2001) (ctl [(1, 1)]) 3 = 0x6001 ∧
    reg (.gandi 3 1 (-16)) (ctl [(1, 0xFF)]) 3 = 0xF0 := by decide +kernel

theorem wit_ControlMulDiv :
    (ctl [(1, BitVec.intMin 64), (2, BitVec.allOnes 64)]).cur ≠ farrierId ∧
    (ctl [(1, BitVec.intMin 64), (2, BitVec.allOnes 64)]).rg 0 1 = BitVec.intMin 64 ∧
    (ctl [(1, BitVec.intMin 64), (2, BitVec.allOnes 64)]).rg 0 2 = BitVec.allOnes 64 ∧ (ctl [(1, 7)]).rg 0 2 = 0 := by decide +kernel

theorem test_divide :
    reg (.gdivI64 3 1 2) (ctl [(1, -7), (2, 2)]) 3 = -3 ∧ reg (.gremI64 3 1 2) (ctl [(1, -7), (2, 2)]) 3 = -1 ∧
    reg (.gdivI64 3 1 2) (ctl [(1, BitVec.intMin 64), (2, -1)]) 3 = BitVec.intMin 64 ∧
    reg (.gmulhI64 3 1 2) (ctl [(1, -1), (2, 2)]) 3 = -1 ∧ reg (.gmulhN64 3 1 2) (ctl [(1, -1), (2, 2)]) 3 = 1 := by decide +kernel

/-- ARITH is code 0x0E (15 R313): the handler entry is 64 bytes a code. -/
theorem test_divide_by_zero :
    ((nx (exec (.gremN64 3 1 2) (ctl [(1, 7)]))).grp 0).cause = 0x0E ∧ ((nx (exec (.gremN64 3 1 2) (ctl [(1, 7)]))).grp 0).pc = 0x380 ∧
    ((nx (exec (.gremN64 3 1 2) (ctl [(1, 7)]))).grp 0).trappc = 0x200000 := by decide +kernel

theorem wit_BranchesAndCalls :
    ((hnd [(5, 0x300004)]).grp 0).sys = true ∧ ((hnd [(5, 0x300004)]).rg 0 5).toNat % 4 = 0 ∧ ((hnd []).bank 0).hg = [] ∧
    (ctl []).rq 0 0 ≠ false ∧ (ctl []).rq 0 1 = false ∧ (lab { g0 with q := 4 } t0).rq 0 2 ≠ false := by decide +kernel

theorem test_branch :
    ((nx (exec (.br 2 true (-6)) (ctl []))).grp 0).pc = 0x1FFFE8 ∧ ((nx (exec (.br 2 false (-6)) (ctl []))).grp 0).pc = 0x200004 ∧
    reg (.call 0 false 3) (ctl []) 62 = 0x200004 := by decide +kernel

/-- In a handler bloop counts hg7 and callr links in hg6; the group's own g62 and g63 stay (15 R314). -/
theorem test_handler_loop :
    let s := (hnd [(62, 7), (63, 9)]).onBank 0 (fun b => { b with hg := [(7, 2)] })
    reg (.bloop 0 false (-1)) s 63 = 1 ∧ ((nx (exec (.bloop 0 false (-1)) s)).grp 0).g.get 0 63 = 9 ∧
    reg (.call 0 false 3) s 62 = 0x200004 ∧ ((nx (exec (.call 0 false 3) s)).grp 0).g.get 0 62 = 7 := by decide +kernel

theorem wit_LoopsAndJumps :
    ((ctl []).grp 0).sys = false ∧ (ctl [(63, 1)]).rg 0 63 = 1 ∧ (ctl [(63, 0)]).rg 0 63 ≠ 1 ∧ (ctl []).rq 0 0 ≠ false ∧ (ctl []).rq 0 1 = false ∧
    ((ctl [(5, 0x300004), (62, 0x300000)]).rg 0 5).toNat % 4 = 0 ∧ ((ctl [(5, 0x300003), (62, 0x300001)]).rg 0 62).toNat % 4 ≠ 0 := by
  decide +kernel

/-- A counter of 0 wraps and branches (08 R187). -/
theorem test_loop_wraps :
    reg (.bloop 0 false (-1)) (ctl []) 63 = BitVec.allOnes 64 ∧ ((nx (exec (.bloop 0 false (-1)) (ctl []))).grp 0).pc = 0x1FFFFC ∧
    ((nx (exec (.bloop 0 false (-1)) (ctl [(63, 1)]))).grp 0).pc = 0x200004 := by decide +kernel

theorem test_callr_reads_first :
    ((nx (exec (.callr 62) (ctl [(62, 0x300000)]))).grp 0).pc = 0x300000 ∧ reg (.callr 62) (ctl [(62, 0x300000)]) 62 = 0x200004 := by
  decide +kernel

theorem wit_LaneQueue :
    (1 : BitVec 19).toNat < ((lab g0 { t0 with lcn := 2 }).teamOf 0).lcn ∧ ((lab g0 { t0 with lcn := 2 }).teamOf 0).lcn ≤ (2 : BitVec 19).toNat ∧ g0.sys = false ∧
    ({ g0 with laneQ := List.replicate 7 (ent true true) } : Group).laneQ.length < 8 ∧ 8 ≤ (List.replicate 8 (ent true true)).length ∧
    ((hnd []).grp 0).sys = true ∧ ((hnd []).grp 0).hblock = none ∧
    [ent true true, ent true false, ent false false] = [ent true true] ++ ent true false :: [ent false false] ∧
    [ent true true].all (fun b => b.nr) = true ∧ (ctl []).stackBad 0 61 9 = false ∧ [ent true true, ent true false].all (fun b => b.posted) = true ∧
    [ent true true, ent false false].all (fun b => b.posted) = false ∧
    (let h (b : Option QEntry) (l : List Word) := lab { g0 with sys := true, hblock := b, hresult := l } t0
     ((h none [9]).grp 0).hresult = 9 :: [] ∧ (h none [9]).stackBad 0 61 9 = false ∧ ((h none []).grp 0).hblock.any (fun e => !e.nr) = false ∧
     ((h (some (ent false false)) []).grp 0).hblock.any (fun e => !e.nr) = true ∧ ((h (some (ent false false)) []).grp 0).hblock.isSome = true) ∧
    (ctl []).blocksEnded 0 = true := by decide +kernel

theorem test_handler_lres :
    reg (.lres 3) (lab { g0 with sys := true, hresult := [9, 8] } t0) 3 = 9 ∧
    ((nx (exec (.lrun 9 1) (lab g0 { t0 with lcn := 9 }))).grp 0).cause = 1 := by decide +kernel

theorem test_lres :
    reg (.lres 3) (lab { g0 with laneQ := [ent true true, ent true false, ent false false] } t0) 3 = 9 ∧
    ((nx (exec (.lres 3) (lab { g0 with laneQ := [ent true true, ent true false, ent false false] } t0))).grp 0).laneQ = [ent true true, ent false false] := by
  decide +kernel

theorem wit_GroupWords :
    let s := lab { g0 with count := 32 } t0
    (s.grp 0).laneQ.all (fun b => b.posted) = true ∧ (s.grp 0).hblock = none ∧
    s.mmaVPending 0 = false ∧ (s.teamOf 0).headClaim (bayOf 0) = none ∧ 8 * (1 : BitVec 6).toNat + 8 ≤ (s.grp 0).count ∧ s.blocksEnded 0 = true ∧
    (∀ j, j < 8 → s.locked 0 (24 + j) = false) ∧ (s.grp 0).count + 8 * 8 ≤ 256 ∧ 8 * 8 ≤ (s.teamOf 0).free.get 0 0 ∧
    (s.grp 0).count < 8 * (4 : BitVec 6).toNat + 8 ∧ 256 < (s.grp 0).count + 8 * (29 : BitVec 6).toNat := by decide +kernel

theorem test_claims :
    ((nx (exec (.vgive 1) (lab { g0 with count := 32 } t0))).grp 0).count = 24 ∧
    ((nx (exec (.vgive 1) (lab { g0 with count := 32 } t0))).team 0).free.get 0 0 = 72 ∧
    ((nx (exec (.vclaim 8) (lab { g0 with count := 32 } t0))).grp 0).count = 96 := by decide +kernel

theorem wit_GroupWords_values :
    (ctl []).cur ≠ farrierId ∧ (6 ≤ (9 : BitVec 4).toNat ∧ (9 : BitVec 4).toNat ≤ 9) ∧ (1 : BitVec 5).toNat < ((ctl []).teamOf 0).niq ∧
    ((ctl []).teamOf 0).niq ≤ (2 : BitVec 5).toNat ∧ fmtOk ((ctl [(1, 0)]).rg 0 1).toNat = true ∧ fmtOk ((ctl [(1, 0x80000000)]).rg 0 1).toNat = false ∧
    (ctl []).blocksEnded 0 = true ∧ (lab { g0 with laneQ := [ent false true] } t0).blocksEnded 0 = false := by decide +kernel

/-- 05 R123's example: seed 1 gives lane 0 the state 0x00042021 after one step and 0x04080601 after two. -/
theorem test_generator : stochNext 1 = 0x00042021 ∧ stochNext (stochNext 1) = 0x04080601 := by decide +kernel

theorem wit_TeamBarriers :
    let b (a e : Nat) : State := lab { g0 with g := [(1, 16), (2, 17)] } { t0 with bars := [(3, { arrived := a, expect := e, phase := 2 })] }
    ((b 0 0).rg 0 1).toNat ≤ 16 ∧ ((b 1 16).teamOf 0).bars.get barEmpty 3 = { arrived := 1, expect := 16, phase := 2 } ∧ 16 < ((b 0 0).rg 0 2).toNat ∧
    ((b 0 0).grp 0).bphase = none ∧ (((lab { g0 with bphase := some (3, 2) } t0).grp 0).bphase = some (3, 2)) ∧
    (((b 0 0).teamOf 0).bars.get barEmpty 3).phase = 2 ∧ (((b 0 0).teamOf 0).bars.get barEmpty 4).phase ≠ 2 := by decide +kernel

theorem test_barrier :
    ((nx (exec (.nbarrive 3 1) (ctl [(1, 1)]))).team 0).bars.get barEmpty 3 = { arrived := 0, expect := 1, phase := 1 } ∧
    ((nx (exec (.nbsync 3 1) (ctl [(1, 2)]))).grp 0).cwait = .stall .barrier := by decide +kernel

/-- Bytes of a window: words at their offsets. -/
def words (l : List (Nat × Nat)) : Tab Byte := l.flatMap (fun e => (List.range 4).map (fun k => (e.1 + k, BitVec.ofNat 8 (e.2 / 256 ^ k))))

/-- A team with an arrival word at 16: target 8, arrived 4, generation 7. -/
def arr : Team := { t0 with win := words [(16, 8), (20, 4), (24, 7), (28, 0)] }

theorem wit_ArrivalAndItemWords :
    let s := lab { g0 with g := [(1, 4080), (2, 4081), (3, 8), (4, 4088), (5, 16), (6, 7), (7, 8)] } arr
    (s.rg 0 1).toNat + 16 ≤ (s.teamOf 0).scratch ∧ (s.rg 0 1).toNat % 16 = 0 ∧ (s.teamOf 0).scratch < (s.rg 0 2).toNat + 16 ∧
    (s.rg 0 3).toNat + 16 ≤ (s.teamOf 0).scratch ∧ (s.rg 0 3).toNat % 16 ≠ 0 ∧
    (((s.teamOf 0).winW 24 - BitVec.ofNat 32 (s.rg 0 6).toNat).toNat < 2 ^ 31) ∧
    2 ^ 31 ≤ ((s.teamOf 0).winW 24 - BitVec.ofNat 32 (s.rg 0 7).toNat).toNat ∧ s.stackBad 0 61 7 = false ∧
    (1 : BitVec 5).toNat < (s.teamOf 0).niq ∧ ((s.teamOf 0).iqs.get [] 1).length < 256 ∧ 256 ≤ (List.replicate 256 (0 : GWord)).length ∧
    (s.teamOf 0).niq ≤ (2 : BitVec 5).toNat := by decide +kernel

/-- aset reads gB before it writes gD (08 R180, R201). -/
theorem test_aset_same : ((nx (exec (.aset 2 1 2) (lab { g0 with g := [(1, 16), (2, 4)] } arr))).team 0).winW 16 = 4 := by decide +kernel

/-- 4 bytes more meet the target of 8: the generation goes to 8 and the count to 0 (03 R69, R70). -/
theorem test_arrival :
    ((nx (exec (.apost 1 2) (lab { g0 with g := [(1, 16), (2, 4)] } arr))).team 0).winW 24 = 8 ∧
    ((nx (exec (.apost 1 2) (lab { g0 with g := [(1, 16), (2, 4)] } arr))).team 0).winW 20 = 0 ∧
    reg (.aset 3 1 2) (lab { g0 with g := [(1, 16), (2, 4)] } arr) 3 = 7 := by decide +kernel

theorem test_iqpush :
    ((nx (exec (.iqpush 2 1 5) (ctl [(5, 77)]))).team 0).iqs = [(1, [77])] ∧ (nx (exec (.iqpush 2 1 5) (ctl [(5, 77)]))).rq 0 2 = true ∧
    reg (.iqstat 3 1) (lab g0 { t0 with iqs := [(1, [7, 8])] }) 3 = 2 := by decide +kernel

/-! ## Exceptions and the system forms -/

/-- The Farrier with these registers, its issuing core 200. -/
def far (g : Tab GWord) : State := { State.reset.onGrp farrierId (fun x => { x with g := g, tcore := 200 }) with cur := farrierId }

/-- Partition P with its fault queue of 256 records at 0x500000. -/
def fq (s : State) : State := s.onPart 0 (fun p => { p with fqcfg := 0x500801 })

/-- Bytes in device memory, 8 at each address. -/
def mem (l : List (Nat × Nat)) (s : State) : State := { s with mem := l.foldl (fun m e => putMem m e.1 (toBytes 8 e.2)) s.mem }

/-- The divide's trap, met while a handler of another group holds the bay's bank. -/
def busyBank (s : State) : State := s.onBank 0 (fun b => { b with owner := some 3 })

theorem wit_TrapEntry :
    ((ctl []).grp 0).sys = false ∧ ((ctl []).bank 0).owner = none ∧ ((ctl []).grp 0).boundary = true ∧ ((busyBank (ctl [])).bank 0).owner ≠ none ∧
    (lab { g0 with cwait := .rein } t0).deferred.all (fun d => d.gid != 0) = true ∧ ((lab { g0 with cwait := .rein } t0).grp 0).boundary = false := by
  decide +kernel

theorem wit_TrapEntry_system :
    ((fq (hnd [])).grp 0).sys = true ∧ ((fq (hnd [])).core (0 / 16)).cmds.rising = true ∧ ((fq (hnd [])).team 0).rerun = false ∧
    (fq (hnd [])).canPost 0 = true ∧ (hnd []).canPost 0 = false := by decide +kernel

/-- A trap of a handler ends the team: the record's word 0 has TRAP at bit 56, DOUBLE at bit 16 and CODE 0x60 (15 R314, R318). -/
theorem test_system_trap :
    let t := (fq (hnd [])).takeTrap 0 false { code := 0x0C, info := 3, lane := none, va := 0 }
    t.teams = [] ∧ t.homeNat 0x500000 8 = 0x0C00000000010060 := by decide +kernel

theorem test_trap_entry :
    let t := (ctl []).takeTrap 0 false { code := 0x0C, info := 0x3FF, lane := some 31, va := 9 }
    (t.grp 0).cause = 0x000003FF00003F0C ∧ (t.grp 0).sys = true ∧ (t.grp 0).trapva = 9 ∧ (t.grp 0).traplpc = 0x100000 ∧ (t.bank 0).owner = some 0 := by
  decide +kernel

theorem test_trap_waits :
    (((busyBank (ctl [])).takeTrap 0 false { code := 1, info := 0, lane := none, va := 0 }).grp 0).pend = some (.trap false 1 0 none 0) := by
  decide +kernel

theorem wit_HandlerExits :
    ((hnd []).grp 0).sys = true ∧ ((hnd []).grp 0).hblock = none ∧ ((hnd []).grp 0).trappc.toNat % 4 = 0 ∧ (busyBank (hnd [])).canPost 0 = false ∧
    ((lab { g0 with sys := true, hblock := some (ent false false) } t0).grp 0).hblock.isSome = true ∧
    ((lab { g0 with sys := true, trappc := 6 } t0).grp 0).trappc.toNat % 4 ≠ 0 ∧ ((fq (hnd [])).teamOf 0).rerun = false ∧
    (fq (hnd [])).canPost 0 = true ∧ ((fq (hnd [])).core (0 / 16)).cmds.rising = true := by decide +kernel

theorem test_tret :
    let t := nx (exec .tret (lab { g0 with sys := true, trappc := 0x300000, traplpc := 5, lpc := 9, heldCm := 3 } t0))
    (t.grp 0).sys = false ∧ (t.grp 0).pc = 0x300000 ∧ (t.grp 0).lpc = 5 ∧ (t.grp 0).cm = 3 := by decide +kernel

theorem test_tabort :
    (nx (exec .tabort (fq (hnd [])))).teams = [] ∧ ((nx (exec .tabort (fq (hnd [])))).part 0).fqtail = 1 ∧
    ((nx (exec .tabort (hnd []))).grp 0).cwait = .stall .fault := by decide +kernel

theorem wit_BreakPrivilegeStack :
    ((ctl []).grp 0).sys = false ∧
    (let s (lim : GWord) := lab { g0 with g := [(1, 0x1008)], stackLim := lim } t0
     ((s 0x1010).rg 0 1).toInt + (0 : BitVec 14).toInt < 0x1010 ∧ ((s 0x1010).grp 0).stackLim.toNat / 16 * 16 ≤ 0x1008 + 8 ∧
     ((s 0x1010).grp 0).stackLim.getLsbD 0 = false ∧ ((s 1).grp 0).stackLim.getLsbD 0 = true ∧
     (let a := (s 0x1010).rg 0 1
      let b := (s 0x1010).rg 0 2
      [a + b, a - b, a &&& b, a ||| b, a ^^^ b, a &&& ~~~b, a * b, a <<< 0, a >>> (1 : Nat), a + b <<< 1, 1, (s 0x1010).grp 0 |>.role.zeroExtend 64,
       (s 0x1010).grp 0 |>.fmt.zeroExtend 64, BitVec.ofNat 64 ((s 0x1010).grp 0).count, 0].all (fun v => v.toNat < 0x1010) = true) ∧
     ((s 0x1010).teamOf 0).lv.value 0 = some 0 ∧ (0x1008 * 2 ^ 14 + 0 : Nat) ≠ 0 ∧
     (let u := lab { g0 with g := [(1, 0x1008)], stackLim := 0xF0000000 } t0
      ((u.rg 0 1).toNat * 2 ^ 14 : Nat) < 0xF0000000)) := by decide +kernel

theorem test_stack_limit :
    let s (lim : GWord) := lab { g0 with g := [(1, 0x1008)], stackLim := lim } t0
    ((nx (exec (.gaddi 61 1 0) (s 0x1010))).grp 0).cause = 8 ∧ (nx (exec (.gaddi 61 1 8) (s 0x1010))).rg 0 61 = 0x1010 ∧
    ((nx (exec (.gaddi 61 1 8) (s 1))).grp 0).cause = 8 ∧ ((nx (exec (.gaddi 61 0 0) (s 1))).grp 0).cause = 0 := by decide +kernel

theorem test_privilege :
    ((nx (exec .tret (ctl []))).grp 0).cause = 2 ∧ ((nx (exec (.sysrd 1 .status) (ctl []))).grp 0).cause = 2 ∧
    ((nx (exec (.brk 0x3FF) (ctl []))).grp 0).cause = 0x3FF0000000C := by decide +kernel

theorem wit_SystemRegisters :
    ((hnd []).grp 0).sys = true ∧ (hnd []).cur ≠ farrierId ∧ coreOf (hnd []).cur < 384 ∧ ((far []).grp farrierId).sys = true ∧ (far []).cur = farrierId ∧
    ((far []).grp farrierId).tcore < 384 ∧ (hnd []).stackBad 0 61 1 = false ∧ (far []).stackBad farrierId 61 1 = false := by decide +kernel

/-- The reset values of PARTMAP in layout P, HBMIL and NETBOUND (17 R355, R357, R358), and STATUS's core. -/
theorem test_farrier_reads :
    (nx (exec (.sysrd 1 .partmap) (far []))).rg farrierId 1 = 0xFFFFF000 ∧ (nx (exec (.sysrd 1 .status) (far []))).rg farrierId 1 = 0xC800000001 ∧
    stops (exec (.sysrd 1 .trapcause) (far [])) = some (.farrierTrap 2) := by decide +kernel

theorem test_register_writes :
    ((nx (exec (.syswr .handlerbase 1) (hnd [(1, BitVec.allOnes 64)]))).core 0).handlerBase = 0x000FFFFFFFFFC000 ∧
    ((nx (exec (.syswr .stacklimit 1) (hnd [(1, BitVec.allOnes 64)]))).grp 0).stackLim = 0xFFFFFFFFFFFFFFF1 ∧
    ((nx (exec (.syswr .checkmode 1) (hnd [(1, BitVec.allOnes 64)]))).core 0).checkmode = 3 ∧
    ((nx (exec (.syswr .stablebase 1) (far [(1, BitVec.allOnes 64)]))).part 0).stable = 0x000FFFFFFFE01FFF ∧
    ((nx (exec (.syswr .reinsplit 1) (far [(1, 3)]))).tower 1).reinSplit = 1 := by decide +kernel

theorem wit_TranslationInvalidation :
    (hnd []).cur ≠ farrierId ∧ coreOf (hnd []).cur < 384 ∧ ((hnd [(1, 0xFFFF), (2, 0x10000)]).rg 0 1).toNat < 2 ^ 16 ∧
    2 ^ 16 ≤ ((hnd [(1, 0xFFFF), (2, 0x10000)]).rg 0 2).toNat := by decide +kernel

theorem test_tlbinv :
    ((nx (exec (.tlbinvVa 1 .deck) (hnd [(1, 0x200FFF)]))).core 0).tlb = [] ∧ ((nx (exec (.tlbinvVa 1 .core) (hnd [(1, 0x201000)]))).core 0).tlb = [placeTlb] ∧
    ((nx (exec (.tlbinvCtx 1 .part) (hnd []))).core 0).tlb = [] := by decide +kernel

/-- A dirty line of mark 1 in core 0's L1. -/
def dirtyLine : Line := { data := (List.range 128).map (BitVec.ofNat 8), dirty := 0xF0, stamp := 1, priv := false, pf := .demand, bad := 0 }

/-- The snapshot record at 0x400000: area 0x600000 of 64 KiB, one directory entry, context 0. -/
def snapRec (s : State) : State := mem [(0x400000, 0x600000), (0x400008, 0x10000), (0x400010, 0x100000000)] s

theorem wit_SettleAndSnapshots :
    markLe ((hnd []).core 0).cm ((hnd []).core 0).settled = false ∧ (∀ p, p < 7 → ((hnd []).part p).snap.running = false) ∧
    snapRecOk (hnd []) 0 0 = false ∧ snapRecOk (snapRec (hnd [(1, 0x400000)])) 0 ((snapRec (hnd [(1, 0x400000)])).homeNat 0x400000 64) = true ∧
    (((hnd []).onPart 0 (fun p => { p with snap := { p.snap with running := true } })).part 0).snap.running = true := by decide +kernel

theorem test_sysettle :
    let t := nx (exec .sysettle ((hnd []).onCore 0 (fun c => { c with l1 := [(0x3000, dirtyLine)] })))
    (t.core 0).settled = 1 ∧ (t.core 0).cm = 2 ∧ t.mem.read 0x180004 = 4 ∧ t.mem.read 0x180003 = 0 := by decide +kernel

/-- A record that is not well formed is answered with 0 (11 R269). -/
theorem test_snapreq : (nx (exec (.snapreq 2 1) (hnd [(2, 9)]))).rg 0 2 = 0 ∧ (nx (exec (.snapstat 2) (hnd [(2, 9)]))).rg 0 2 = 0 := by decide +kernel

/-! ## Memory as the control stream reaches it -/

/-- A 4 KiB page of context 0 in the TLB: its address, its entry's HOME, CLS and APL, owner 0; read, write. -/
def pg (va pa home cls apl : Nat) : TlbE :=
  { ctx := 0, va := va, size := 4096, lvl := 3, ptea := 0x100000,
    pte := BitVec.ofNat 64 (pa + apl * 2 ^ 52 + home * 2 ^ 9 + cls * 2 ^ 7 + 2 ^ 3 + 2 ^ 2 + 2 + 1) }

/-- A record of one page. -/
def rb (base : GWord) : BufRec :=
  { base := base, extent := 4096, stride := 0, esize := 0, swz := 0, rdok := true, wrok := true, noalloc := false, idem := true }

/-- The pages: 1 shared, through the L1; 2 private to core 0; 3 at the home alone; 4 of the Rein's window; 5 pinned; 6 near one owner. -/
def pages : List TlbE :=
  [placeTlb, pg 0x300000 0x300000 0 1 1, pg 0x301000 0x301000 0 0 0, pg 0x302000 0x302000 3 1 1, pg 0x303000 0xFFFFFFFF80000 4 1 1,
    pg 0x304000 0x304000 2 1 1]

/-- Records of those pages in slots 1 to 5. -/
def slots : Tab BufRec := [(1, rb 0x300000), (2, rb 0x301000), (3, rb 0x302000), (4, rb 0x303000), (5, rb 0x304000)]

/-- Core 0 with the pages, the records, this L1, and group 0 with these registers. -/
def dat (x : Group) (l1 : Tab Line) : State :=
  (lab { x with buf := slots } t0).onCore 0 (fun c => { c with tlb := pages, l1 := l1 })

/-- The page's translation at an offset. -/
def at_ (n o : Nat) : Tr := (pages.getD n placeTlb).tr ((pages.getD n placeTlb).va + o)

/-- A clean line of 128 bytes 0, 1, 2, …, shared. -/
def cleanLine : Line := { data := (List.range 128).map (BitVec.ofNat 8), dirty := 0, stamp := 0, priv := false, pf := .demand, bad := 0 }

/-- The access of page n at its last aligned w bytes passes its checks and changes nothing. -/
def accOk (s : State) (n w : Nat) (k : AccKind) : Bool :=
  let o : Int := 4096 - w
  s.slotRec 0 (BitVec.ofNat 4 n) == some (rb (BitVec.ofNat 64 (0x2FF000 + 0x1000 * n))) && (rb (BitVec.ofNat 64 (0x2FF000 + 0x1000 * n))).inBounds o w
    && decide (((rb (BitVec.ofNat 64 (0x2FF000 + 0x1000 * n))).address o).toNat % w = 0)
    && (match s.translate 0 0 (0x2FF000 + 0x1000 * n + 4096 - w) k with
        | .ok (s1, t) => decide (s1 = s ∧ t = at_ n (4096 - w)) | .error _ => false)
    && decide ((at_ n (4096 - w)).pa % w = 0) && accHit s 0 0 k { lane := none, va := 0x2FF000 + 0x1000 * n + 4096 - w, n := w, tr := at_ n (4096 - w) } == none

/-- A load through each kind of page, its whole premise for the shared one. -/
theorem wit_access : CtlAcc (dat g0 []) 1 4088 8 .load (rb 0x300000) (dat g0 []) (at_ 1 4088) := by
  constructor <;> decide +kernel

/-- Nothing but the access moves a line. -/
theorem wit_undisturbed : Undisturbed (dat g0 []) 0 (at_ 1 4088) ∧ (stackLines ((dat g0 []).core 0) 0).length < 512 :=
  ⟨⟨by decide +kernel, by decide +kernel, rfl, rfl⟩, by decide +kernel⟩

theorem wit_Translation :
    canonical (2 ^ 55) = false ∧ canonical (2 ^ 55 - 1) = true ∧ tlbFind pages 0 0x300FFF = some (pg 0x300000 0x300000 0 1 1) ∧
    pteDenies (pg 0x300000 0x300000 0 1 1).pte.toNat .fetch = true ∧ pteDenies (pg 0x300000 0x300000 0 1 1).pte.toNat .atomic = false ∧
    (dat g0 []).homeBad 0 0 (at_ 1 0) = none ∧ (dat g0 []).inBound 0 (at_ 1 0) .load = true ∧ (dat g0 []).flipping 0 0x300000 = false ∧
    (dat g0 []).homeBad 0 0 ((pg 0x300000 0x300000 5 1 1).tr 0x300000) = some 3 ∧ pteHome (at_ 3 0).e = 3 ∧ pteOwner (at_ 2 0).e = 0 ∧
    (pteOwner (at_ 2 0).e ≠ 1 ∧ pteCls (at_ 2 0).e = false ∧ pteApl (at_ 2 0).e = 0) := by decide +kernel

/-- Context 1's tables at 0x600000, 0x700000, 0x701000, 0x702000 map the page 0x5000 to the frame 0x800000. -/
def walked : State :=
  (mem [(0x80008, 0x600001), (0x600000, 0x700003), (0x700000, 0x701003), (0x701000, 0x702003), (0x702028, 0x80061F)] base).onPart 0
    (fun p => { p with ctxtab := 0x80000 })

theorem wit_PageWalk :
    walked.homeNat 0x80008 8 % 2 ^ 20 = 1 ∧ walked.homeNat 0x80008 8 < 2 ^ 52 ∧ pteTableOk (walked.homeNat 0x600000 8) = true ∧
    pteTableOk (walked.homeNat 0x700000 8) = true ∧ pteTableOk (walked.homeNat 0x701000 8) = true ∧ pteV (walked.homeNat 0x702028 8) = true ∧
    pteT (walked.homeNat 0x702028 8) = true ∧ pteCont (walked.homeNat 0x702028 8) = false ∧ pteV (walked.homeNat 0x702030 8) = false ∧
    base.homeNat 8 8 % 2 ^ 20 ≠ 1 ∧ [0x80008, 0x600000, 0x700000, 0x701000, 0x702028].all (walked.tableIn 0) = true ∧
    walked.tableIn 0 (187500000 * 4096) = false := by decide +kernel

theorem test_walk :
    (walk walked 0 1 0x5ABC).toOption.map (fun t => t.pa) = some 0x800ABC ∧ (walk walked 0 1 0x6000).toOption = none ∧ (walk walked 0 2 0x5000).toOption = none := by
  decide +kernel

theorem wit_ControlTraps :
    (dat g0 []).slotRec 0 9 = none ∧ (dat g0 []).slotRec 0 1 = some (rb 0x300000) ∧ ¬ ((0 : Int) < 0) ∧ (rb 0x300000).extent.toNat < 4089 + 8 ∧
    4088 + 8 ≤ (rb 0x300000).extent.toNat ∧ ({ rb 0x300000 with wrok := false } : BufRec).permits .store = false ∧
    ((rb 0x300000).address 4).toNat % 8 ≠ 0 ∧ ((dat g0 []).grp 0).sys = false ∧
    (kindWrites .store && ((lab g0 { t0 with rerun := true }).teamOf 0).rerun && !({ rb 0x300000 with idem := false } : BufRec).idem) = true := by decide +kernel

theorem test_bounds :
    ((nx (exec (.gld64 4 1 1 511) (dat { g0 with g := [(1, 1)] } []))).grp 0).cause = 0x100000003 ∧
    ((nx (exec (.gld64 4 1 1 510) (dat { g0 with g := [(1, 4)] } []))).grp 0).cause = 4 ∧
    ((nx (exec (.gld64 4 0 9 0) (dat g0 []))).grp 0).cause = 0x900000003 ∧ ((nx (exec (.gst64 4 0 1 (-1)) (dat g0 []))).grp 0).trapva = -8 := by decide +kernel

theorem wit_ControlLoads :
    accOk (dat g0 [(0x601F, cleanLine)]) 1 8 .load = true ∧ accOk (dat g0 []) 3 8 .load = true ∧ accOk (dat g0 []) 4 8 .load = true ∧
    viaL1 (dat g0 []) 0 (at_ 1 4088) = true ∧ viaL1 (dat g0 []) 0 (at_ 3 4088) = false ∧ (dat g0 []).inStack 0 0x300FF8 = false ∧
    (dat g0 []).poisonedIn 0 0x300FF8 8 = false ∧ ({ dat g0 [] with poison := [0x300FF8 / 32] } : State).poisonedIn 0 0x300FF8 8 = true ∧
    { cleanLine with bad := 8 }.badIn 120 8 = true ∧ cleanLine.badIn 120 8 = false ∧ (dat g0 []).early = [] ∧
    (dat g0 []).replicaBad 0 0xFFFFFFFF80FF8 8 = false ∧
    ((dat g0 []).onDeck 0 (fun d => { d with bad := [127] })).replicaBad 0 0xFFFFFFFF80FF8 8 = true ∧
    ((dat g0 []).core 0).stackc.find (stackKey 0 0x601F) = none ∧
    pteHome (at_ 4 4088).e = 4 ∧ (dat g0 []).reinWait 0 (at_ 4 4088) 8 = false ∧ ((dat g0 []).onDeck 0 (fun d => { d with stale := true })).reinWait 0 (at_ 4 4088) 8 = true ∧
    ((dat { g0 with stackLim := 0x300000 } []).onTeam 0 (fun t => { t with stackSz := 4096 })).inStack 0 0x300FF8 = true := by decide +kernel

theorem test_load :
    reg (.gld64 4 0 1 1) (mem [(0x300008, 0x1122334455667788)] (dat g0 [])) 4 = 0x1122334455667788 ∧
    reg (.gld64 4 0 1 1) (dat g0 [(0x6000, cleanLine)]) 4 = 0x0F0E0D0C0B0A0908 ∧
    reg (.gld64 4 0 4 1) ((dat g0 []).onDeck 0 (fun d => { d with rep := [(2, 7), (3, 9)] })) 4 = 0x900000007 := by decide +kernel

/-- 04 R81, R87, R114: a lane's load of a byte performed before the control stream's store of it returns the old value, the control stream's
own load the new one; the enqueueing of a block keeps the early load, a fence does not. -/
theorem test_early_load :
    let t := nx (exec (.gst64 4 0 1 1) ((dat { g0 with g := [(4, 1)] } [(0x6000, cleanLine)]).earlyLoad 0 true 0x300008))
    ({ t with curLane := true } : State).heed false 0x300008 [1, 0] = [8, 0] ∧ t.heed false 0x300008 [1, 0] = [1, 0] ∧
    (t.ordered (.lrun 0 4)).early.length = 1 ∧ (t.ordered (.fence .grp)).early.length = 0 := by decide +kernel

theorem wit_ControlStores :
    accOk (dat g0 [(0x601F, cleanLine)]) 1 8 .store = true ∧ accOk (dat g0 []) 1 8 .store = true ∧ accOk (dat g0 []) 3 8 .store = true ∧
    accOk (dat g0 []) 4 8 .store = true ∧ ((dat g0 []).core 0).l1.find 0x601F = none ∧ (rb 0x300000).noalloc = false ∧
    (dat g0 []).poisonedIn 0 (0x601F * 128) 128 = false ∧ (dat g0 []).reinStale 0 = false ∧ ((dat g0 []).deck 0).sendQ.length < 64 ∧
    (∀ p, p < 7 → ((dat g0 []).part p).snap.running = false) ∧ ((dat g0 []).onDeck 0 (fun d => { d with stale := true })).reinStale 0 = true ∧
    ((dat g0 []).core 0).stackc.find (stackKey 0 0x601F) = none := by decide +kernel

theorem test_store :
    let i : Instr := .gst64 4 0 3 1
    (nx (exec i (dat { g0 with g := [(4, 0x1122334455667788)] } []))).homeNat 0x302008 8 = 0x1122334455667788 ∧
    ((nx (exec (.gst64 4 0 1 1) (dat { g0 with g := [(4, 5)] } []))).core 0).l1.map (fun e => (e.1, e.2.dirty, e.2.stamp)) = [(0x6000, 0xFF00, 1)] ∧
    ((nx (exec (.gst64 4 0 4 1) (dat { g0 with g := [(4, 5)] } []))).deck 0).sendQ.map (fun w => (w.line, w.mask, w.kind)) = [(0, 0xC, 1)] := by
  decide +kernel

/-- A release by core 1 of mark 3 stands on the line. -/
def released (s : State) : State := { s with recs := [(0x601F, { core := 1, mark := 3 })] }

theorem wit_AcquireRelease :
    wideScope .dev = true ∧ (at_ 1 4088).e = (pg 0x300000 0x300000 0 1 1).pte.toNat ∧ pteHome (at_ 1 4088).e ≠ 4 ∧
    (dat g0 []).inStack 0 0x300FF8 = false ∧ (dat g0 []).foreignRec 0 0x300FF8 = none ∧ (released (dat g0 [])).foreignRec 0 0x300FF8 = some { core := 1, mark := 3 } ∧
    ({ dat g0 [] with recs := [(0x601F, { core := 0, mark := 3 })] } : State).ownRec 0 0x300FF8 = true ∧ (dat g0 []).ownRec 0 0x300FF8 = false ∧
    (dat g0 []).reinEarlier 0 false = false ∧ (dat g0 []).recs.find 0x601F = none ∧ (dat g0 []).hostBias 0 0x300FF8 = false ∧
    (dat g0 []).dirFull 0 0x300FF8 = false ∧ isHost 0x300FF8 = false ∧ ((dat g0 [(0x601F, cleanLine)]).core 0).l1.find 0x601F = some cleanLine ∧
    cleanLine.dirty = 0 ∧ (released (dat g0 [])).netOk 0 0 (deckOfCore 1) = true ∧
    (dat g0 []).reinRec 0 0 0xFFFFFFFF80FF8 = none ∧ accOk (dat g0 []) 4 8 .load = true ∧ accOk (dat g0 []) 4 8 .store = true ∧
    (let w := (dat g0 []).onDeck 0 (fun d => { d with recs := [(31, { core := 1, mark := 3 })] })
     w.reinRec 0 0 0xFFFFFFFF80FF8 = some { core := 1, mark := 3 } ∧ w.reinOwn 0 0 0xFFFFFFFF80FF8 = false ∧
     ((dat g0 []).onDeck 0 (fun d => { d with recs := [(31, { core := 0, mark := 3 })] })).reinOwn 0 0 0xFFFFFFFF80FF8 = true) := by decide +kernel

/-- A wide acquire of a window variable reads the replica and takes its record; a wide release of one goes into the send queue with the
core's mark (04 R109). -/
theorem test_window_order :
    let w := (dat { g0 with g := [(4, 6)] } []).onDeck 0 (fun d => { d with rep := [(2, 7)], recs := [(0, { core := 1, mark := 3 })] })
    ((nx (exec (.acq 5 0 4 1 .dev) w)).grp 0).cwait = .settle { core := 1, mark := 3 } [(5, 7)] 8 ∧
    ((nx (exec (.rel 4 0 4 1 .dev) w)).deck 0).sendQ.map (fun k => (k.kind, k.mark, k.line)) = [(2, 1, 0)] := by decide +kernel

theorem test_acquire :
    let t := nx (exec (.acq 4 0 1 511 .dev) (mem [(0x300FF8, 6)] (dat g0 [(0x6000, cleanLine)])))
    t.rg 0 4 = 6 ∧ (t.core 0).l1 = [] ∧ (t.grp 0).pc = 0x200008 ∧
    ((nx (exec (.acq 4 0 1 511 .dev) (released (mem [(0x300FF8, 6)] (dat g0 []))))).grp 0).cwait = .settle { core := 1, mark := 3 } [(4, 6)] 8 := by
  decide +kernel

theorem test_release :
    let t := nx (exec (.rel 4 0 1 511 .dev) (dat { g0 with g := [(4, 6)] } []))
    t.homeNat 0x300FF8 8 = 6 ∧ t.recs = [(0x601F, { core := 0, mark := 1 })] ∧ (t.core 0).cm = 2 := by decide +kernel

/-- An atomic's extension word. -/
def ext (op : AtomOp) (b c : GReg) : AtomExt := { b := b, c := c, op := op, w32 := false, ord := .plain, sc := .grp }

theorem wit_ControlAtomics :
    accOk (dat g0 []) 1 8 .atomic = true ∧ accOk (dat g0 [(0x603F, cleanLine)]) 2 8 .atomic = true ∧ accOk (dat g0 []) 4 4 .atomic = true ∧
    ({ dat g0 [] with poison := [0x300FF8 / 32] } : State).poisonedIn 0 0x300FF8 8 = true ∧
    atomPoisoned { dat g0 [] with poison := [0x300FF8 / 32] } 0 8 (at_ 1 4088) = true ∧ atomBad (dat g0 []) 0 .add 8 false (at_ 1 4088) = false ∧ atomBad (dat g0 []) 0 .add 8 false (at_ 4 4088) = true ∧
    atomBad (dat g0 []) 0 .add 4 false (at_ 4 4092) = false ∧ pteApl (at_ 1 4088).e = 1 ∧ pteApl (at_ 2 4088).e = 0 ∧
    { ext .add 4 0 with ord := .ar, sc := .core }.ord ≠ .plain ∧ wideScope .core = false ∧ wideScope .dev = true ∧ ordRel .ar = true ∧ ordAcq .ar = true ∧
    ((dat g0 []).grp 0).cwait.acked = false ∧ (released (dat g0 [])).foreignRec 0 0x300FF8 = some { core := 1, mark := 3 } ∧
    atomPoisoned (dat g0 []) 0 8 (at_ 1 4088) = false ∧ atomBad (dat g0 []) 0 .add 8 true (at_ 1 4088) = false ∧
    (dat g0 []).reinEarlier 0 false = false ∧ ((dat g0 []).deck 0).sendQ.length < 64 ∧
    atomBad (dat g0 []) 0 .add 8 false (at_ 2 4088) = false ∧ (dat g0 []).poisonedIn 0 0x300FF8 8 = false ∧ Tab.rising (dat g0 []).hostL2 = true := by
  decide +kernel

theorem test_atomics :
    (nx (exec (.gatom 5 0 1 1 (ext .add 4 0)) (mem [(0x300008, 40)] (dat { g0 with g := [(4, 2)] } [])))).homeNat 0x300008 8 = 42 ∧
    reg (.gatom 5 0 1 1 (ext .add 4 0)) (mem [(0x300008, 40)] (dat { g0 with g := [(4, 2)] } [])) 5 = 40 ∧
    (nx (exec (.gatom 5 0 1 1 (ext .cas 4 6)) (mem [(0x300008, 40)] (dat { g0 with g := [(4, 2), (6, 41)] } [])))).homeNat 0x300008 8 = 40 := by decide +kernel

/-- An atomic of release at device scope leaves the core's record and takes its mark; one of acquire asks for the foreign record's settle
first (08 R191, 04 R91, R92). -/
theorem test_atomic_ordered :
    let x : AtomExt := { ext .add 4 0 with ord := .rel, sc := .dev }
    let t := nx (exec (.gatom 5 0 1 511 x) (mem [(0x300FF8, 40)] (dat { g0 with g := [(4, 2)] } [])))
    t.recs = [(0x601F, { core := 0, mark := 1 })] ∧ (t.core 0).cm = 2 ∧ t.rg 0 5 = 40 ∧
    ((nx (exec (.gatom 5 0 1 511 { x with ord := .acq }) (released (dat g0 [])))).grp 0).cwait = .presettle { core := 1, mark := 3 } false := by
  decide +kernel

/-- The group's stack region is the page 1, and its bay's stack cache holds the line of its last words, the last one stored. -/
def stacked : State :=
  let s := (dat { g0 with stackLim := 0x300000, g := [(4, 2)] } []).onTeam 0 (fun t => { t with stackSz := 4096 })
  s.onCore 0 (fun c => { c with stackc := [(stackKey 0 0x601F, { cleanLine with dirty := 0xFF <<< 120, stamp := 1, priv := true })] })

theorem wit_ControlAtomics_stack :
    accOk stacked 1 8 .atomic = true ∧ stacked.inStack 0 0x300FF8 = true ∧ (stacked.core 0).l1.find 0x601F = none ∧
    ((stacked.core 0).stackc.find (stackKey 0 0x601F)).isSome = true ∧ stacked.homeOk 0 0 (0x601F * 128) = true ∧
    stacked.poisonedIn 0 0x300FF8 8 = false ∧ (stackLines (stacked.core 0) 0).length < 512 := by decide +kernel

/-- An atomic at the home sees the store that its stack cache held (08 R191, log 78). -/
theorem test_atomic_stack :
    let t := nx (exec (.gatom 5 0 1 511 (ext .add 4 0)) stacked)
    t.rg 0 5 = 0x7F7E7D7C7B7A7978 ∧ t.homeNat 0x300FF8 8 = 0x7F7E7D7C7B7A797A ∧ (t.core 0).stackc = [] := by decide +kernel

theorem test_atomic_window :
    let x : AtomExt := { ext .add 4 0 with w32 := true }
    ((nx (exec (.gatom 5 0 4 1 x) (dat { g0 with g := [(4, 2)] } []))).grp 0).cwait = .rein ∧
    ((nx (exec (.gatom 5 0 4 1 (ext .add 4 0)) (dat { g0 with g := [(4, 2)] } []))).grp 0).cause = 0x300000011 := by decide +kernel

theorem wit_Fences :
    wideScope .core = false ∧ wideScope .deck = true ∧ (ctl []).cur ≠ farrierId ∧ (ctl []).reinEarlier 0 false = false ∧
    ((dat g0 []).onDeck 0 (fun d => { d with stale := true })).reinStale 0 = true ∧ markLe ((ctl []).core 0).cm ((ctl []).core 0).settled = false ∧
    ((ctl []).core 0).l1.rising = true ∧ (nx (exec (.gst64 4 0 4 1) (dat g0 []))).reinEarlier 0 false = true := by decide +kernel

theorem test_fence :
    let t := nx (exec (.fence .dev) (dat g0 [(0x3000, dirtyLine), (0x6000, cleanLine)]))
    (t.core 0).settled = 1 ∧ (t.core 0).l1.map Prod.fst = [] ∧ t.mem.read 0x180005 = 5 := by decide +kernel

theorem wit_BufferSlots :
    (ctl []).blocksEnded 0 = true ∧ (lab { g0 with laneQ := [ent false true] } t0).blocksEnded 0 = false ∧ (62 : GReg).toNat % 2 = 0 ∧
    (3 : GReg).toNat % 2 = 1 ∧ (rb 0x300000).accept = true ∧ BufRec.ofNat 0 = some { rb 0 with extent := 0, rdok := false, wrok := false, idem := false } ∧
    (let x : GWord := 0x0003000000000020
     x.getLsbD 43 = false ∧ x.toNat < 2 ^ 52) := by decide +kernel

/-- The record that 08's worked example builds. -/
theorem test_bufset :
    (nx (exec (.bufset 1 1 2) (ctl [(1, 0x7F0000001000), (2, 0x0003000000000020)]))).slotRec 0 1 =
      some { base := 0x7F0000001000, extent := 32, stride := 0, esize := 0, swz := 0, rdok := true, wrok := true, noalloc := false, idem := false } ∧
    ((nx (exec (.bufset 1 1 3) (ctl []))).grp 0).cause = 1 ∧ (nx (exec (.bufinv 1) (dat g0 []))).slotRec 0 1 = none := by decide +kernel

theorem test_bufld :
    (nx (exec (.bufld 7 0 1) (mem [(0x300000, 0x7F0000001000), (0x300008, 32), (0x300018, 3)] (dat g0 [])))).slotRec 0 7 =
      some { base := 0x7F0000001000, extent := 32, stride := 0, esize := 0, swz := 0, rdok := true, wrok := true, noalloc := false, idem := false } := by
  decide +kernel

/-! ## Engine commands, pipes, the Rein -/

/-- The answer is a value. -/
def isOk {α : Type} (x : R α) : Bool :=
  match x with
  | .ok _ => true
  | .error _ => false

theorem wit_RangeLocks :
    64 < ((dat g0 []).core 0).locks.length + (List.replicate 65 (scrLock 0 (0, 16) true 1)).length ∧
    ((dat g0 []).core 0).locks.length + (List.replicate 64 (scrLock 0 (0, 16) true 1)).length ≤ 64 ∧
    ((dat g0 []).registerLocks (List.replicate 65 (0, scrLock 0 (0, 16) true 1))).isSome = false ∧
    ((dat g0 []).registerLocks (List.replicate 64 (0, scrLock 0 (0, 16) true 1))).isSome = true := by decide +kernel

/-- Registers of an mma: region g4 of one tile with K = 32, A at 0 (g6) and B at 1024 (g8), rows of 64 bytes; its format a pair of FP16. -/
def mm : Group := { g0 with fmt := 0x22, count := 32, g := [(4, 0x80000), (6, 0), (7, 64), (8, 1024), (9, 64), (10, 0x100800000), (12, 0), (13, 0)] }

/-- The matrix words' record, in slot 1, with a stride of 64 bytes. -/
def mat : State := (dat mm []).onGrp 0 (fun x => { x with buf := [(1, { rb 0x300000 with stride := 64 })] })

theorem wit_MatrixWords :
    let x : Scr := { off := 0, rowp := 64, tilep := 0, rot := 0 }
    let y : Scr := { off := 1024, rowp := 64, tilep := 0, rot := 0 }
    (matK (mat.grp 0).fmt.toNat 32 256).toOption = some (16, 8, false) ∧ (scrOf (mat.rg 0 6) (mat.rg 0 7)).toOption = some x ∧
    (scrOf (mat.rg 0 8) (mat.rg 0 9)).toOption = some y ∧ isOk (matBounds x (mat.teamOf 0).scratch 16 64 0) = true ∧
    isOk (matBounds y (mat.teamOf 0).scratch 16 64 0) = true ∧ mat.blocksEnded 0 = true ∧ (mat.core 0).matq.length < 64 ∧
    (mat.registerLocks [(0, scrLock 0 (0, 1024) false 0), (0, scrLock 0 (1024, 2048) false 0)]).isSome = true ∧
    isOk (matBounds { y with off := 3072 } (mat.teamOf 0).scratch 16 64 0) = true ∧ isOk (matBounds { y with off := 3088 } (mat.teamOf 0).scratch 16 64 0) = false ∧
    (0 ≠ (1 : Word) ∧ 1 ≤ ((1 : Word) - (mat.grp 0).bc).toNat ∧ ¬ (1 ≤ ((0 : Word) - (mat.grp 0).bc).toNat ∧ ((0 : Word) - (mat.grp 0).bc).toNat < 2 ^ 31)) := by
  decide +kernel

theorem test_mma :
    ((nx (exec (.mma 4 6 8 false) mat)).core 0).matq.map (fun m => (m.kind, m.batch, m.regs)) = [(.mma, 1, [0, 64, 1024, 64])] ∧
    ((nx (exec (.mmaV 4 8 true) mat)).core 0).matq.map (fun m => (m.kind, m.zero)) = [(.mmaV, true)] ∧
    ((nx (exec (.mmv 10 6 12 false) mat)).core 0).matq.map (fun m => m.kind) = [.mmv] ∧
    ((nx (exec (.mma 4 6 8 false) mat)).core 0).locks.map (fun e => (e.2.lo, e.2.hi)) = [(0, 1024), (1024, 2048)] := by decide +kernel

theorem test_batches :
    reg (.mfence 5) mat 5 = 1 ∧ ((nx (exec (.mwait 6) mat)).grp 0).pc = 0x200004 ∧ ((nx (exec (.mwait 7) mat)).grp 0).cause = 1 ∧
    ((nx (exec (.mwait 6) (mat.onGrp 0 (fun x => { x with bc := 5, lastDone := 0xFFFFFFFF })))).grp 0).cwait = .stall .batch := by decide +kernel

/-- Registers of a copy of one row of 16 bytes from slot 1 to the window, its arrival word at 4080, of a host stream of 128 bytes from
slot 1 to slot 2, of a multicast of a row of 16 bytes to core 0, and of a histogram of a row of 16 bytes. -/
def cp : Group :=
  { g0 with g := [(2, 0), (3, 0), (4, 32), (5, 16), (6, 1 + 16 * 2 ^ 11 + 2 ^ 27 + 4080 * 2 ^ 35), (8, 0), (10, 128 + 2 ^ 40 + 2 * 2 ^ 44), (11, 4080),
      (12, 1 + 16 * 2 ^ 11 + 4080 * 2 ^ 25), (13, 4064), (14, 32), (15, 16), (16, 1), (20, 256), (21, 1 + 16 * 2 ^ 11 + 4080 * 2 ^ 29)] }

/-- The team may multicast. -/
def cps : State := (dat cp []).onTeam 0 (fun t => { t with mcast := true })

theorem wit_CopyIssue :
    let w := (cps.rg 0 6).toNat
    w < 2 ^ 58 ∧ w % 2 ^ 11 = 1 ∧ w / 2 ^ 11 % 2 ^ 14 = 16 ∧ isOk (copyLoc cps 0 .glob 2 (w / 2 ^ 27 % 16)) = true ∧
    isOk (copyLoc cps 0 .scratch 4 (w / 2 ^ 31 % 16)) = true ∧ isOk (copyPipe cps 0 false (.glob 1 0)) = true ∧
    isOk (copyBounds cps 0 false 1 16 (.glob 1 0)) = true ∧ isOk (copyBounds cps 0 false 1 16 (.glob 1 4096)) = false ∧
    w / 2 ^ 35 % 2 ^ 23 + 16 ≤ (cps.teamOf 0).scratch ∧ isOk (copyAlign cps 0 1 16 (.glob 1 0)) = true ∧
    isOk (translateLines cps 0 [0x300000] []) = true := by decide +kernel

theorem test_tcopy :
    ((nx (exec (.tcopy 2 4 6 .scratch .glob) cps)).core 0).cmds.map (fun e => (e.2.kind, e.2.len, e.2.aw)) = [(.copy, 16, 4080)] ∧
    ((nx (exec (.tcopy 2 4 6 .scratch .glob) cps)).core 0).locks.map (fun e => (e.2.glob, e.2.lo, e.2.hi, e.2.dst)) =
      [(true, 0x300000, 0x300010, false), (false, 32, 48, true)] := by decide +kernel

theorem wit_EngineCommands :
    (cps.rg 0 10).toNat < 2 ^ 48 ∧ (cps.rg 0 11).toNat < 2 ^ 23 ∧ (cps.teamOf 0).rerun = false ∧
    isOk (globOf cps 0 1 0 (fun _ => 0) 1 128) = true ∧ ((cps.rg 0 11).toNat + 16 ≤ (cps.teamOf 0).scratch) ∧
    mcastCores 0 (cps.rg 0 16).toNat false = [0] ∧ (cps.teamOf 0).mcast = true ∧ (cps.rg 0 12).toNat < 2 ^ 48 ∧ (cps.rg 0 13).toNat < 2 ^ 41 ∧
    (scrOf (cps.rg 0 14) (cps.rg 0 15)).toOption.isSome = true ∧ (cps.tower 0).reinSplit.getLsbD 0 = false ∧
    (cps.rg 0 21).toNat < 2 ^ 52 ∧ (cps.rg 0 20).toNat + 528 ≤ (cps.teamOf 0).scratch ∧ lockHit (cps.core 0).locks false 0 256 784 false = none ∧
    ((4096 - 528 : Nat) + 528 ≤ (cps.teamOf 0).scratch) ∧ 2 ^ 17 ≤ (0x20000 : Nat) := by decide +kernel

theorem test_commands :
    ((nx (exec (.hstreamOut 2 8 10) cps)).core 0).cmds.map (fun e => (e.2.kind, e.2.len, e.2.aw)) = [(.hostOut, 128, 4080)] ∧
    ((nx (exec (.tmcastDeck 4 16 12) cps)).core 0).cmds.map (fun e => (e.2.kind, e.2.len, e.2.recvs.map (fun r => (r.core, r.team)))) =
      [(.mcastDeck, 16, [(0, some 0)])] ∧
    ((nx (exec (.qhist 4 20 21 true) cps)).core 0).cmds.map (fun e => (e.2.kind, e.2.acc)) = [(.hist, true)] := by decide +kernel

/-- 05 R131's example: 20 positives in bin 39, 2 in bin 42 and 9 negatives in bin 38, p = 0x1200 and qmax = 15. -/
theorem test_qclip :
    clipWord ((List.range 64).map (fun b => if b = 39 then 20 else if b = 42 then 2 else 0)) ((List.range 64).map (fun b => if b = 38 then 9 else 0))
      0x1200 true = 0x2E67 + 5 * 2 ^ 16 ∧
    clipWord (List.replicate 64 0) (List.replicate 64 0) 0 false = 0x3C00 := by decide +kernel

/-- Pipe 2 of launch 0, four slots of 16 by 64 bytes, from stage 0 to stage 0. -/
def pipe0 : Pipe :=
  { rows := 16, rowBytes := 64, fmt := 1, depth := 4, prods := [0], cons := 0, homes := [], xlink := 0, xport := 0, xpipe := 0, seq := 0x6440,
    order := 9, tiles := [], acqWait := [], getWait := [], closed := false, credits := 0, sent := 0, inTiles := [], passed := [], merged := 0,
    abandoned := [], timers := [], paused := [], closedBy := [], senders := [] }

/-- A tile of the pipe, released by a core. -/
def tile0 (st : SlotState) (c : Nat) : Tile :=
  { st := st, slot := 1, spill := false, seq := 5, tag := 77, rcd := some { core := c, mark := 3 }, team := (0, 0), order := 4, data := [], uid := 1,
    bad := [], abort := false, from_ := [] }

/-- A core with the pipe. -/
def piped (g : Tab GWord) (tiles : List Tile) : State := { dat { g0 with g := g } [] with pipes := [(2, { pipe0 with tiles := tiles })] }

theorem wit_PipesTake :
    (piped [] []).pipe 3 = none ∧ (piped [] []).pipe 2 = some pipe0 ∧ ((piped [] []).teamOf 0).stage ∈ pipe0.prods ∧ pipe0.xlink ≠ 2 ∧
    (piped [] []).teamHandles 0 < 64 ∧ (piped [] []).freeSlots 0 pipe0 = [0, 1, 2, 3] ∧ (piped [] []).ahead 0 .pipeFull pipe0.acqWait = [] ∧
    (piped [] []).freeSlots 0 { pipe0 with depth := 0 } = [] ∧ pipe0.cons = ((piped [] []).teamOf 0).stage ∧ ¬ (5 ∈ pipe0.prods) ∧
    ({ pipe0 with tiles := [tile0 .committed 0] } : Pipe).nextTile ((piped [] []).holder 0) = some (tile0 .committed 0) ∧
    (piped [] []).ahead 0 .pipeEmpty [] = [] ∧ pipe0.nextTile (0, 0) = none ∧ pipe0.closed = false := by decide +kernel

/-- The handle of 06 R139: sequence 0x6440 shifted by 16, kind 1, pipe 2, slot 0. -/
theorem test_pacq :
    reg (.pacq 4 2) (piped [] []) 4 = 0x64404080 ∧ ((nx (exec (.pacq 4 2) (piped [] []))).pipe 2).map (fun p => (p.seq, p.tiles.length)) = some (0x6441, 1) ∧
    ((nx (exec (.pacq 4 3) (piped [] []))).grp 0).cause = 0x0A ∧ reg (.pgetTry 4 2) (piped [(4, 9)] []) 4 = 0 := by decide +kernel

theorem test_pget :
    reg (.pget 4 2) (piped [] [tile0 .committed 0]) 4 = 0x58081 ∧ reg (.pget 4 2) (piped [] [tile0 .committed 0]) 5 = 77 ∧
    ((nx (exec (.pget 4 2) (piped [] [tile0 .committed 1]))).grp 0).cwait = .settle { core := 1, mark := 3 } [(4, 0x58081), (5, 77)] 4 ∧
    ((nx (exec (.pget 4 2) (piped [] []))).grp 0).cwait = .stall .pipeEmpty := by decide +kernel

theorem wit_PipeCommitFree :
    (piped [(3, 0x54081)] [tile0 .held 0]).handleTile 0 0x54081 1 = some (2, tile0 .held 0) ∧
    (piped [(3, 0x58081)] [tile0 .taken 0]).handleTile 0 0x58081 2 = some (2, tile0 .taken 0) ∧ (piped [] []).handleTile 0 0 1 = none ∧
    (piped [] [tile0 .held 0]).tileInUse 0 2 5 = false ∧ (piped [] []).reinEarlier 0 false = false ∧ ((piped [] []).teamOf 0).rerun = false := by decide +kernel

theorem test_pcommit_pfree :
    ((nx (exec (.pcommit 6 3) (piped [(3, 0x54081), (6, 8)] [tile0 .held 0]))).pipe 2).map (fun p => p.tiles.map (fun t => (t.st, t.tag, t.order, t.rcd))) =
      some [(.committed, 8, 9, some { core := 0, mark := 1 })] ∧
    ((nx (exec (.pfree 3) (piped [(3, 0x58081)] [tile0 .taken 0]))).pipe 2).map (fun p => p.tiles) = some [] ∧
    ((nx (exec (.pfree 3) (piped [(3, 0x58081)] [tile0 .held 0]))).grp 0).cause = 0x0A := by decide +kernel

/-- rput's registers: the window's offset 0, the page's offset 3968, a mask of words 0 and 31. -/
def rp : Group := { g0 with g := [(2, 0), (3, 3968), (4, 0x80000001), (5, 0x100000000)] }

theorem wit_ReinWords :
    accOk (dat rp []) 4 128 .store = true ∧ ((dat rp []).rg 0 4).toNat < 2 ^ 32 ∧ (dat rp []).rg 0 4 ≠ 0 ∧ 2 ^ 32 ≤ ((dat rp []).rg 0 5).toNat ∧
    (dat rp []).rg 0 6 = 0 ∧ ((dat rp []).rg 0 2).toNat + 128 ≤ ((dat rp []).teamOf 0).scratch ∧ lockHit ((dat rp []).core 0).locks false 0 0 128 false = none ∧
    (dat rp []).reinStale 0 = false ∧ (dat rp []).reinEarlier 0 false = false ∧ ((dat rp []).deck 0).sendQ.length < 64 := by decide +kernel

theorem test_rput :
    ((nx (exec (.rputRel 2 3 4 4) (dat rp []))).deck 0).sendQ.map (fun w => (w.line, w.mask, w.kind, w.mark)) = [(31, 0x80000001, 2, 1)] ∧
    ((nx (exec (.rputRel 2 3 4 4) (dat rp []))).core 0).cm = 2 ∧ ((nx (exec (.rput 2 3 5 4) (dat rp []))).grp 0).cause = 1 ∧
    reg (.rseq 7) ((dat rp []).onDeck 0 (fun d => { d with lastQ := 99 })) 7 = 99 := by decide +kernel

/-! ## Lane words -/

/-- Lane registers: the value of each lane. -/
def lanes (l : List (Nat × (Nat → Nat))) : Tab Word := l.flatMap (fun e => (List.range 32).map (fun k => (e.1 * 32 + k, BitVec.ofNat 32 (e.2 k))))

/-- A lane word of group 0 with these registers and predicates. -/
def lan (v : List (Nat × (Nat → Nat))) (p : Tab Word) : State := dat { l0 with v := lanes v, p := p } []

/-- What a step leaves in a lane register. -/
def lv (i : Instr) (s : State) (r l : Nat) : Word := (nx (exec i s)).rv 0 r l

/-- Guard p1. -/
def h1 : Hdr := { h0 with pred := 1 }

theorem wit_LaneIntegers :
    (lan [] []).cur ≠ farrierId ∧ ([(31, 1), (3, 1), (0, 1)] : List (VReg × Nat)).all (fun e => regsOk (lan [] []) 0 e.1 e.2) = true ∧
    (lan [] []).vOk 0 32 = false ∧ ((lan [] []).block 0).isSome = true := by decide +kernel

theorem test_lane_add :
    lv (.vaddI32 h1 3 1 (.reg 2)) (lan [(1, fun l => l), (2, fun _ => 0xFFFFFFFF), (3, fun _ => 9)] [(1, 1)]) 3 0 = 0xFFFFFFFF ∧
    lv (.vaddI32 h1 3 1 (.reg 2)) (lan [(1, fun l => l), (2, fun _ => 0xFFFFFFFF), (3, fun _ => 9)] [(1, 1)]) 3 1 = 9 ∧
    ((nx (exec (.vaddI32 h0 32 1 (.reg 2)) (lan [] []))).grp 0).cause = 1 := by decide +kernel

theorem test_lane_integers :
    let s := lan [(1, fun _ => 0x80000000), (2, fun _ => 0xFFFFFFFF)] []
    lv (.vdivI32 h0 3 1 (.reg 2)) s 3 0 = 0x80000000 ∧ lv (.vremI32 h0 3 1 (.reg 2)) s 3 0 = 0 ∧ lv (.vdivN32 h0 3 1 (.imm 0)) s 3 0 = 0xFFFFFFFF ∧
    lv (.vaddSatI32 h0 3 1 (.reg 2)) s 3 0 = 0x80000000 ∧ lv (.vsubSatN32 h0 3 1 (.reg 2)) s 3 0 = 0 ∧ lv (.vmulhI32 h0 3 1 (.imm 4)) s 3 0 = 0xFFFFFFFE ∧
    lv (.vsra h0 3 1 (.imm 33)) s 3 0 = 0xC0000000 ∧ lv (.vabsI32 h0 3 1) s 3 0 = 0x80000000 ∧ lv (.vbrev h0 3 1) s 3 0 = 1 := by decide +kernel

theorem test_lane_fields :
    let s := lan [(1, fun _ => 0xA5)] []
    lv (.vbfxN32 h0 3 1 (.imm 0x404)) s 3 0 = 0xA ∧ lv (.vbfxI32 h0 3 1 (.imm 0x404)) s 3 0 = 0xFFFFFFFA ∧
    lv (.vbfi h0 3 1 (.ir 0x408 1)) s 3 0 = 0x5A5 ∧ lv (.vclz h0 3 1) s 3 0 = 24 ∧ lv (.vlaneid h0 3) s 3 31 = 31 ∧ lv (.vargl h0 3) s 3 0 = 5 := by
  decide +kernel

theorem wit_LanePredicates :
    (lan [] []).cur ≠ farrierId ∧ ([(31, 1), (0, 1)] : List (VReg × Nat)).all (fun e => regsOk (lan [] []) 0 e.1 e.2) = true := by decide +kernel

theorem test_lane_predicates :
    let s := lan [(1, fun l => l)] [(1, 0xF0), (2, 0x3C)]
    (nx (exec (.vcmp h0 .ltI 3 1 (.imm 2)) s)).pmask 0 3 = 3 ∧ (nx (exec (.vcmp h0 .gtN 3 1 (.imm 0xFFFFFFFF)) s)).pmask 0 3 = 0 ∧
    (nx (exec (.pandn h0 3 1 2) s)).pmask 0 3 = 0xC0 ∧ (nx (exec (.pnot h0 0 1) s)).pmask 0 0 = BitVec.allOnes 32 ∧
    lv (.vsel h0 3 1 (.imm 7) 1) s 3 4 = 4 ∧ lv (.vsel h0 3 1 (.imm 7) 1) s 3 3 = 7 := by decide +kernel

/-- Depth counts. -/
def deep (l : Tab Nat) (cm : Word) (w : Nat) : State := lab { l0 with dc := l, cm := cm, lpc := w, p := [(1, 1)] } { t0 with lcn := 100 }

theorem wit_LaneFlow :
    (∀ l, l < 32 → (deep [(5, 254)] 0 9).dcOf 0 l ≠ 255) ∧ (deep [(5, 255)] 0 9).dcOf 0 5 = 255 ∧
    (List.range 32).any (fun l => (deep [] 0 9).dcOf 0 l == 0) = true ∧
    (let s := deep ((List.range 32).map (fun l => (l, 1))) 0 9
     (List.range 32).any (fun l => (if (s.grp 0).cm.getLsbD l then 0 else s.dcOf 0 l) == 0) = false) ∧
    (9 : BitVec 20).toNat ≤ (deep [] 0 9).lpc 0 ∧ (deep [] 0 9).lpc 0 < (10 : BitVec 20).toNat ∧ (254 : BitVec 8) ≠ 255 ∧
    (1 : BitVec 5).toNat < ((deep [] 0 9).teamOf 0).niq ∧ regsOk (lan [] []) 0 30 2 = true ∧ regsOk (lan [] []) 0 31 2 = false := by decide +kernel

theorem test_lane_if :
    let t := nx (exec (.lif h1 5) (deep [(7, 2)] 0 9))
    t.dcOf 0 0 = 0 ∧ t.dcOf 0 1 = 1 ∧ t.dcOf 0 7 = 3 ∧ t.lpc 0 = 10 ∧ (nx (exec (.lif { h1 with neg := true } 5) (deep [] 0 9))).lpc 0 = 10 ∧
    (nx (exec (.lif { h0 with pred := 2 } 5) (deep [] 0 9))).lpc 0 = 14 := by decide +kernel

theorem test_lane_loops :
    (nx (exec (.lbreak h1 3) (deep [] 0 9))).dcOf 0 0 = 4 ∧ ((nx (exec (.lcont h1 0) (deep [] 0 9))).grp 0).cm = 1 ∧
    (nx (exec (.lendloop h0.t 4) (deep [(0, 1)] 1 9))).lpc 0 = 5 ∧ (nx (exec (.lendloop h0.t 4) (deep [(0, 1)] 1 9))).dcOf 0 0 = 0 ∧
    (nx (exec (.lelse h0.t 4) (deep [(0, 1)] 0 9))).dcOf 0 0 = 0 ∧ (nx (exec (.lelse h0.t 4) (deep [(0, 1)] 0 9))).dcOf 0 1 = 1 := by decide +kernel

theorem test_refill_loop :
    let s := lab l0 { t0 with iqs := [(1, [0x1122334455667788, 9])] }
    let t := nx (exec (.lloopRefill h0.t 1 4) s)
    t.rv 0 4 0 = 0x55667788 ∧ t.rv 0 5 0 = 0x11223344 ∧ t.rv 0 4 1 = 9 ∧ t.dcOf 0 1 = 0 ∧ t.dcOf 0 2 = 1 ∧ (t.team 0).iqs.get [] 1 = [] := by
  decide +kernel

theorem wit_LaneBlocks :
    (lan [] []).blk 0 = ent false false ∧ l0.sys = false ∧
    l0.laneQ = [] ++ (l0.laneQ.headD (ent false false)) :: [] ∧ retireF l0.ringF = [] ∧ retireF [(1, 1)] ≠ [] ∧
    (List.range 32).filter (fun l => (lan [] [(1, 0x30)]).active 0 l && (lan [] [(1, 0x30)]).guard 0 h1 l) = 4 :: [5] ∧
    (∀ l, l < 32 → ((lan [] []).active 0 l && (lan [] []).guard 0 h1 l) = false) ∧
    ({ t0 with binds := [{ bound := true, role := 1, entry := 0 }] } : Team).boundQ 0 = true ∧ l0.posted = 0 ∧
    wideScope .team = false ∧ (lan [] []).reinEarlier 0 true = false ∧ markLe ((lan [] []).core 0).cm ((lan [] []).core 0).settled = false := by
  decide +kernel

theorem test_lend_vyield :
    ((nx (exec .lend (lan [] []))).grp 0).laneQ.map (fun e => e.posted) = [true] ∧ ((nx (exec .lend (lan [] []))).grp 0).started = false ∧
    ((nx (exec (.vyield h1 3) (lan [(3, fun l => 100 + l)] [(1, 0x30)]))).grp 0).laneQ.map (fun e => e.result) = [104] := by decide +kernel

theorem test_lcall :
    let s := lab { l0 with v := lanes [(3, fun _ => 0), (4, fun l => l), (5, fun _ => 7)], p := [(1, 0x30)] }
      { t0 with binds := [{ bound := true, role := 1, entry := 0 }] }
    (nx (exec (.lcallQ h1 3 4) s)).teams.map (fun e => e.2.iqs) = [[(0, [0x700000004, 0x700000005])]] := by decide +kernel

/-- The lane's accesses of page n at 4 bytes a lane, of the lanes in p1. -/
def acc4 (s : State) (n : Nat) (k : AccKind) : R (State × List Acc) :=
  checkGlobal s 0 (BitVec.ofNat 4 n) k (fun q => q.n) anyPage (laneReqs s 0 h1 4 (laneOff s 0 1 0))

theorem wit_LaneLoads :
    let s := lan [(1, fun l => 4092 - 4 * l)] [(1, 3)]
    (acc4 s 1 .load).toOption.map (fun e => (e.1 == s, e.2.map (fun x => (x.laneNo, x.tr.pa)))) = some (true, [(0, 0x300FFC), (1, 0x300FF8)]) ∧
    s.reinWait 0 (at_ 1 4092) 4 = false ∧ s.poisonedIn 0 0x300FFC 4 = false ∧ isOk (checkScratch s 0 .load (laneReqs s 0 h1 4 (laneOff s 0 1 0))) = true ∧
    sizeBytes .s2 ≤ 2 ∧ ¬ (sizeBytes .s4 ≤ 2) ∧
    (s.slotRec 0 9 = none ∧ (List.range 32).filter (fun k => s.active 0 k && s.guard 0 h1 k) = [] ++ 0 :: [1]) ∧
    ¬ (((4092 : Int) + 1) + 4 ≤ (rb 0x300000).extent.toNat) ∧ ((rb 0x300000).address 4091).toNat % 4 ≠ 0 := by decide +kernel

theorem test_lane_loads :
    let s := lan [(1, fun l => 4092 - 4 * l)] [(1, 3)]
    let m := mem [(0x300FF8, 0x80818283FFFE7F80)] s
    lv (.vld h1 4 .s4 1 1 0 false) m 4 0 = 0x80818283 ∧ lv (.vld h1 4 .s2 1 1 2 false) m 4 1 = 0xFFFE ∧
    lv (.vldSigned h1 4 .s2 1 1 2 false) m 4 1 = 0xFFFFFFFE ∧ lv (.vld h1 4 .s4 1 1 0 false) m 4 2 = 0 ∧
    ((nx (exec (.vld h1 4 .s4 1 1 1 false) m)).grp 0).cause = 0x100002003 ∧ ((nx (exec (.vld h1 4 .s4 1 1 (-1) false) m)).grp 0).cause = 0x2004 := by
  decide +kernel

theorem wit_LaneStores :
    let s := lan [(1, fun l => 4092 - 4 * l)] [(1, 3)]
    (acc4 s 3 .store).toOption.map (fun e => (e.1 == s, e.2.map (fun x => (x.laneNo, x.tr.pa, viaL1 s 0 x.tr)))) =
      some (true, [(0, 0x302FFC, false), (1, 0x302FF8, false)]) ∧
    (acc4 s 1 .store).toOption.map (fun e => e.2.map (fun x => viaL1 s 0 x.tr)) = some [true, true] ∧
    (acc4 s 4 .store).toOption.map (fun e => e.2.map (fun x => pteHome x.tr.e)) = some [4, 4] ∧ s.reinStale 0 = false ∧
    (s.part 0).biasbase.getLsbD 0 = false ∧ (∀ p, p < 7 → (s.part p).snap.running = false) ∧
    isOk (checkScratch s 0 .store (laneReqs s 0 h1 4 (laneOff s 0 1 0))) = true := by decide +kernel

/-- Where two lanes store to one byte the higher lane's stands (03 R60). -/
theorem test_lane_stores :
    (nx (exec (.vst h1 2 .s4 3 1 0 false) (lan [(1, fun _ => 8), (2, fun l => 100 + l)] [(1, 3)]))).homeNat 0x302008 4 = 101 ∧
    ((nx (exec (.vst h1 2 .s4 4 1 0 false) (lan [(1, fun _ => 8), (2, fun l => 100 + l)] [(1, 3)]))).deck 0).sendQ.length = 1 ∧
    ((nx (exec (.sst h1 2 .s4 1 0) (lan [(1, fun l => 8 + 4 * l), (2, fun l => 100 + l)] [(1, 3)]))).team 0).winW 12 = 101 := by decide +kernel

theorem test_gather :
    let s := (lan [(1, fun _ => 3), (2, fun _ => 2)] [(1, 1)]).onGrp 0 (fun x => { x with buf := [(3, { rb 0x302000 with stride := 64, esize := 2 })] })
    lv (.vgath h1 4 2 .s4 3 1 4 false) (mem [(0x302090, 77)] s) 4 0 = 77 ∧ (nx (exec (.vscat h1 4 2 .s4 3 1 4 false) s)).homeNat 0x302090 4 = 0 := by
  decide +kernel

theorem wit_LaneAtomics :
    let s := lan [(1, fun _ => 4092)] [(1, 3)]
    (checkGlobal s 0 3 .atomic (fun q => q.n) (fun s y => atomBad s 0 .add 4 false y.tr) (laneReqs s 0 h1 4 (laneOff s 0 1 0))).toOption.map
      (fun e => (e.1 == s, e.2.map (fun x => (x.laneNo, pteApl x.tr.e, pteHome x.tr.e, x.tr.pa % 4)))) = some (true, [(0, 1, 3, 0), (1, 1, 3, 0)]) ∧
    (s.core 0).l1.find (0x302FFC / 128) = none ∧ s.poisonedIn 0 0x302FFC 4 = false := by decide +kernel

/-- Two lanes add to one word, in rising order (09 R221). -/
theorem test_lane_atomics :
    let s := mem [(0x302008, 40)] (lan [(1, fun _ => 8), (2, fun l => l + 1)] [(1, 3)])
    let i : Instr := .vatom h1 .add false .plain .grp 4 3 1 0 2 0
    (nx (exec i s)).homeNat 0x302008 4 = 43 ∧ lv i s 4 0 = 40 ∧ lv i s 4 1 = 41 := by decide +kernel

/-- A future word of the pinned page, of lane 0. -/
def fut : State := lan [(1, fun _ => 4080), (4, fun _ => 5)] [(1, 1)]

theorem wit_FuturesAndMarks :
    (checkGlobal fut 0 5 .load (fun q => q.n) futBad (laneReqs fut 0 h1 16 (laneOff fut 0 1 0))).toOption.map
      (fun e => (e.2.map (fun x => (x.laneNo, x.tr.pa % 16, (e.1.varRec 0 x.tr).isNone && (e.1.recs.find (recKey 0 x.tr.pa)).isNone)), e.1.fullWords, e.1.deferCount (e.1.wordSlice 0 0x304FF), e.1.poisonedIn 0 0x304FF0 16
        || e.1.dirFull 0 0x304FF0 || e.1.hostBias 0 0x304FF0)) = some ([(0, 0, true)], [], 0, false) := by decide +kernel

theorem wit_FuturesAndMarks_lanes :
    ((fut.core 0).l1.isEmpty && fut.snoop.isEmpty) = true ∧ fut.reinEarlier 0 true = false ∧ regsOk fut 0 4 4 = true ∧
    (laneVas fut 0 h1 1 (laneOff fut 0 1 0)).all (fun v => v / 512 == (laneVas fut 0 h1 1 (laneOff fut 0 1 0)).headD 0 / 512) = true ∧
    (let s := lan [(1, fun l => 508 + 4 * l)] [(1, 3)]
     (laneVas s 0 h1 1 (laneOff s 0 1 0)).all (fun v => v / 512 == (laneVas s 0 h1 1 (laneOff s 0 1 0)).headD 0 / 512) = false) ∧
    (nx (exec (.vmark h1 4 .s4 1 1 0) fut)).markOf 0 = some { gid := 0, slice := fut.homeSlice 0 0x300FF0, lines := [0x601F], vlines := [0x601F] } := by
  decide +kernel

theorem test_futures :
    let t := nx (exec (.vstf h1 .dev 4 2 5 1 0) fut)
    t.fullWords = [0x304FF] ∧ t.homeNat 0x304FF0 4 = 5 ∧ t.rp 0 2 0 = true ∧ (t.core 0).cm = 2 ∧
    (nx (exec (.vldf h1 .dev 8 2 5 1 0) fut)).deferred.map (fun d => (d.pa, d.gid, d.lanes)) = [(0x304FF0, 0, 1)] ∧
    (nx (exec (.vldfTake h1 .dev 8 2 5 1 0) { fut with fullWords := [0x304FF] })).fullWords = [] := by decide +kernel

theorem test_marks :
    let s := { lan [(1, fun _ => 8), (2, fun _ => 7)] [(1, 1)] with marks := [{ gid := 0, slice := 0, lines := [0x6000], vlines := [0x6000] }] }
    (nx (exec (.vcommit h1 2 3 .s4 1 1 0) s)).homeNat 0x300008 4 = 7 ∧ (nx (exec (.vcommit h1 2 3 .s4 1 1 0) s)).rp 0 3 0 = true ∧
    (nx (exec (.vcommit h1 2 3 .s4 1 1 0) { s with marks := [] })).rp 0 3 0 = false := by decide +kernel

/-! ## Lane floating point, collectives, accumulator moves -/

theorem wit_LaneFloats :
    ([(31, 1), (0, 1), (1, 1), (2, 1)] : List (VReg × Nat)).all (fun e => regsOk (lan [] []) 0 e.1 e.2) = true ∧
    ((true, FTy.bf16) = (true, .bf16) ∨ (false, FTy.f16) = (false, .f16)) := by decide +kernel

theorem test_floats :
    let s := lan [(1, fun _ => 0x3F800000), (2, fun _ => 0x33800000), (3, fun _ => 0x7F800000), (5, fun _ => 0x40490FDB)] []
    lv (.vfadd h0 .f32 4 1 (.reg 2)) s 4 0 = 0x3F800000 ∧ lv (.vffma h0 .f32 4 1 (.rr 1 2)) s 4 0 = 0x3F800000 ∧
    lv (.vfsub h0 .f32 4 3 (.reg 3)) s 4 0 = 0x7FC00000 ∧ lv (.vfmul h0 .f16 4 1 (.imm 0x3C003C00)) s 4 0 = 0x3F800000 ∧
    lv (.vsqrt h0 4 1) s 4 0 = 0x3F800000 ∧ lv (.vfneg h0 .f16 4 1) s 4 0 = 0xBF808000 ∧ lv (.vfdiv h0 4 1 (.imm 0)) s 4 0 = 0x7F800000 := by decide +kernel

theorem test_float_compare :
    let s := lan [(1, fun _ => 0x7FC00000), (2, fun _ => 0x80000000)] []
    (nx (exec (.vfcmp h0 .f32 .unord 3 1 (.reg 2)) s)).pmask 0 3 = BitVec.allOnes 32 ∧ (nx (exec (.vfcmp h0 .f32 .ne 3 1 (.reg 1)) s)).pmask 0 3 = BitVec.allOnes 32 ∧
    (nx (exec (.vfcmp h0 .f32 .eq 3 2 (.imm 0)) s)).pmask 0 3 = BitVec.allOnes 32 ∧ (nx (exec (.vfcmp h0 .f32 .le 3 1 (.reg 2)) s)).pmask 0 3 = 0 := by
  decide +kernel

theorem wit_LaneConversions :
    ([(28, 4), (0, 4), (30, 2)] : List (VReg × Nat)).all (fun e => regsOk (lan [] []) 0 e.1 e.2) = true ∧
    groupWordOk true 0x52E67 = true ∧ groupWordOk true 0x102E67 = false ∧
    ((lan [(2, fun _ => 0x102E67)] []).active 0 0 && (lan [] []).guard 0 h0 0) = true := by decide +kernel

/-- 05 R131's example of quantisation: 0.75, 6.0 and −0.3 under s = 0x2E67, z = 5. -/
theorem test_quantise :
    let s (x : Nat) := lan [(1, fun _ => x), (2, fun _ => 0x52E67)] []
    lv (.vqnt h0 .f32 true (.own .rne) 4 1 2) (s 0x3F400000) 4 0 = 12 ∧ lv (.vqnt h0 .f32 true (.own .rne) 4 1 2) (s 0x40C00000) 4 0 = 15 ∧
    lv (.vqnt h0 .f32 true (.own .rne) 4 1 2) (s 0xBE99999A) 4 0 = 2 ∧
    ((nx (exec (.vdeq h0 true 4 1 2) (lan [(2, fun _ => 0x102E67)] []))).grp 0).cause = 0x2001 := by decide +kernel

theorem test_convert :
    let s := lan [(1, fun _ => 0x3F808000), (2, fun _ => 0xFFFFFFFF), (3, fun _ => 0x7F800000)] []
    lv (.vcvt h0 .f32 .bf16 (.own .rne) .fmt 4 1) s 4 0 = 0x3F80 ∧ lv (.vcvt h0 .f32 .bf16 (.own .rup) .fmt 4 1) s 4 0 = 0x3F81 ∧
    lv (.vcvt h0 .i32 .f32 (.own .rne) .fmt 4 2) s 4 0 = 0xBF800000 ∧ lv (.vcvt h0 .f32 .i32 (.own .rne) .fmt 4 3) s 4 0 = 0x7FFFFFFF ∧
    lv (.vcvtUnpk h0 true 4 1) s 5 0 = 0x3F800000 ∧ lv (.vcvtPk h0 true (.own .rne) .fmt 4 1 3) s 4 0 = 0x7F803F80 := by decide +kernel

theorem wit_LaneCollectives : (lan [] []).cur ≠ farrierId ∧ regsOk (lan [] []) 0 31 1 = true ∧ (RedOp.addI ≠ .addF ∧ RedOp.addI ≠ .maxF ∧ RedOp.addI ≠ .minF) := by
  decide +kernel

/-- 10 R241's example: the tree keeps the small values that the running sum loses. -/
theorem test_reduce :
    let s := lan [(2, fun l => if l = 0 then 0x4B800000 else 0x3F800000), (8, fun _ => 9)] [(1, 0xF)]
    lv (.vred h1 .addF 8 2 0) s 8 3 = 0x4B800001 ∧ lv (.vscan h1 .addF 8 2) s 8 3 = 0x4B800000 ∧ lv (.vred h1 .addF 8 2 0) s 8 4 = 9 ∧
    lv (.vred h1 .addI 8 2 0) s 8 0 = 0x0A000000 := by decide +kernel

theorem test_collectives :
    let s := lan [(3, fun l => l)] [(1, 0xF), (2, 0x6)]
    lv (.vshfl h0 .xor 3 3 (.imm 1)) s 3 4 = 5 ∧ lv (.vshfl h0 .up 3 3 (.imm 2)) s 3 1 = 1 ∧ lv (.vshfl h0 .down 3 3 (.imm 2)) s 3 31 = 31 ∧
    lv (.vballot h1 4 2) s 4 0 = 6 ∧ (nx (exec (.vvoteUni h1 3 2) s)).rp 0 3 0 = false ∧ (nx (exec (.vvoteAny h1 3 2) s)).rp 0 3 0 = true := by decide +kernel

theorem wit_AccumulatorMoves :
    (15 : BitVec 9).toNat < ((lan [] []).teamOf 0).acc ∧ ((lan [] []).teamOf 0).acc ≤ (16 : BitVec 9).toNat ∧ (lan [] []).tileBusy 0 15 = false ∧
    (nx (exec (.mma 4 6 8 false) mat)).tileBusy 0 0 = true ∧ regsOk (lan [] []) 0 24 8 = true ∧ regsOk (lan [] []) 0 28 4 = true ∧
    (List.range 32).filter (fun l => (lan [] []).active 0 l && (lan [] []).guard 0 h1 l) = [] ∧
    (List.range 32).filter (fun l => (lan [] [(1, 0x80000000)]).active 0 l && (lan [] [(1, 0x80000000)]).guard 0 h1 l) = 31 :: [] := by decide +kernel

/-- Register k of the move holds row 2k or 2k + 1 of the tile (10 R242). -/
theorem test_accumulator :
    let s := nx (exec (.amovw h0 .w32 8 3) (lan [(8, fun l => l), (9, fun l => 100 + l)] []))
    (s.team 0).tileElem 3 0 5 = 5 ∧ (s.team 0).tileElem 3 1 5 = 21 ∧ (s.team 0).tileElem 3 2 5 = 105 ∧ lv (.amov h0 .w32 16 3) s 17 21 = 121 ∧
    ((nx (exec (.azero h0 3) s)).team 0).tileElem 3 1 5 = 0 ∧ ((nx (exec (.azero h0 16) s)).grp 0).cause = 1 := by decide +kernel

theorem test_lane_break : ((nx (exec (.lbrk h1 0xFF) (lan [] [(1, 0x80000000)]))).grp 0).cause = 0xFF00003F0C := by decide +kernel

/-- Barriers, system words and conversions that run to their end. -/
theorem wit_BarrierSystemConversionRuns :
    (let s := lab { g0 with g := [(1, 2)] } { t0 with bars := [(3, { arrived := 1, expect := 2, phase := 2 })] }
     s.cur ≠ farrierId ∧ (s.rg 0 1).toNat ≤ 16 ∧ ((s.teamOf 0).bars.get barEmpty 3).expect = (s.rg 0 1).toNat ∧ (s.grp 0).bphase = none ∧
     (s.teamOf 0).barNeed { arrived := 2, expect := 2, phase := 2 } ≤ 2) ∧
    (((lab { g0 with bphase := some (3, 1) } { t0 with bars := [(3, { arrived := 0, expect := 0, phase := 2 })] }).teamOf 0).bars.get barEmpty 3).phase ≠ 1 ∧
    (((hnd []).grp 0).sys = true ∧ (hnd []).sysCore 0 < 384 ∧ (hnd []).cur ≠ farrierId ∧ ((hnd []).rg 0 1).toNat < 2 ^ 16) ∧
    (let s := lan [(1, fun _ => 1), (2, fun _ => 0x52E67)] []
     LaneOk s [(4, 2), (2, 2)] ∧ LaneOk s [(4, 1), (1, 1), (2, 1)] ∧ LaneOk s [(4, 1), (8, 4)] ∧ LaneOk s [(4, 4), (1, 1)] ∧
     (∀ l, l < 32 → groupWordOk true (s.rv 0 2 l) = true) ∧ (typeFmt .f32).isSome = true) ∧
    (∀ v, (hnd []).stackBad 0 4 v = false) := by
  refine ⟨?_, ?_, ?_, ?_, fun _ => rfl⟩ <;> (try unfold LaneOk) <;> decide +kernel

/-- The last of two to arrive goes on, and the phase ends (08 R199). -/
theorem test_last_arrival :
    let t := nx (exec (.nbsync 3 1) (lab { g0 with g := [(1, 2)] } { t0 with bars := [(3, { arrived := 1, expect := 2, phase := 2 })] }))
    (t.grp 0).pc = 0x200004 ∧ (t.team 0).bars.get barEmpty 3 = { arrived := 0, expect := 2, phase := 3 } := by decide +kernel

/-! ## The machine as a whole -/

/-- The reset state with a word placed, its flash empty. -/
def placed (nbits w : Nat) : State := base.withFetchWord nbits w

theorem wit_StepRunsDecoded :
    let s := placed 32 0x1050FFF8
    let t := placed 96 (0x01000000 * 2 ^ 64 + 0x0C040800 * 2 ^ 32)
    s.agenda = [] ∧ s.curLane = false ∧ s.ctlIssues s.cur = true ∧ (s.grp 0).sys = false ∧
    (s.translate 0 0 0x200000 .fetch).toOption.map (fun e => (e.1 == s, e.2.pa, e.2.rein)) = some (true, 0x200000, false) ∧
    s.homeNat 0x200000 4 = 0x1050FFF8 ∧ twoWord 0x1050FFF8 = false ∧ twoWord 0x5C800403 = true ∧ (decode (.ctrl 0)).toOption = none ∧
    t.curLane = true ∧ t.laneIssues t.cur = true ∧ (t.startBlock 0).lpc 0 < (t.teamOf 0).lcn ∧
    (laneUse (.vmov h0 3 1)).dst.all (fun e => e.1 || !t.locked 0 e.2) = true ∧ (ringWait (t.grp 0) h0.t (laneUse (.vmov h0 3 1)).cls).isSome = true ∧
    undersized (t.grp 0) (laneUse (.vmov h0 3 1)) = [] := by decide +kernel

theorem test_step_runs :
    (nx (step (placed 32 0x1050FFF8))).rg 0 5 = -8 ∧ ((nx (step (placed 32 0))).grp 0).cause = 1 ∧
    (nx (step (placed 64 (0x00700550 * 2 ^ 32 + 0x5C800403)))).rg 0 8 = 0 ∧
    (nx (step (placed 96 (0x01000000 * 2 ^ 64 + 0x0C040801 * 2 ^ 32 + 7)))).rv 0 3 0 = 0 ∧
    (nx (step { base with agenda := [.event (.tamperpolWrite 1)] })).pkg.tamperpol = some 1 ∧
    (nx (step { base with agenda := [.event .gend] })).agenda = [] := by decide +kernel

/-- A lane add of an immediate, as the step runs it. -/
theorem test_step_lane : (nx (step (placed 96 (0x01000000 * 2 ^ 64 + 0x0C040001 * 2 ^ 32 + 7)))).rv 0 3 0 = 7 := by decide +kernel

theorem wit_MemoryCanonical :
    Memory.wf (placed 32 0x1050FFF8).mem = true ∧ (placed 32 0x1050FFF8).mem = [(0x200000, 0xF8), (0x200001, 0xFF), (0x200002, 0x50), (0x200003, 0x10)] ∧
    Memory.wf (nx (step (placed 32 0x1050FFF8))).mem = true := by decide +kernel

/-- Writing 0 removes the entry. -/
theorem test_memory_canonical : Memory.write [(4, 9), (7, 3)] 4 0 = [(7, 3)] ∧ Memory.write [(4, 9)] 2 1 = [(2, 1), (4, 9)] := by decide +kernel

theorem wit_ControlRoundTrip :
    (Instr.gaddi 5 3 (-8)).wf = true ∧ (Instr.gaddi 5 3 (-8)).isEvent = false ∧ encode (.gaddi 5 3 (-8)) = some (.ctrl 0x1050FFF8) ∧
    encode (.gatom 8 0 1 3 { b := 7, c := 0, op := .add, w32 := false, ord := .rel, sc := .dev }) = some (.pair 0x5C800403 0x00700550) := by decide +kernel

theorem wit_LaneRoundTrip :
    (Instr.vld h0 4 .s4 2 7 16 false).wf = true ∧
    encode (.vld h0 4 .s4 2 7 16 false) = some (.lane (0x40200000#32 ++ 0x101C0000#32 ++ 0x20000010#32)) := by decide +kernel

/-! ## Events of streams, cores and teams -/

theorem wit_StreamEvents :
    let s := lab { g0 with pend := some (.trap false 1 0 none 9) } t0
    let c := lab { g0 with count := 32, cwait := .claim } { t0 with claims := [{ bay := 0, gid := 0, n := 64 }] }
    let a := (lab { g0 with cwait := .settle { core := 1, mark := 3 } [(4, 6)] 8 } t0).onCore 1 (fun k => { k with settled := 3 })
    s.pkg.halted = false ∧ s.occupied 0 = true ∧ (s.bank 0).owner = none ∧ (s.grp 0).boundary = true ∧ (s.grp 0).sys = false ∧
    (c.teamOf 0).headClaim 0 = some { bay := 0, gid := 0, n := 64 } ∧ 64 ≤ (c.teamOf 0).free.get 0 0 ∧ (c.grp 0).cwait = .claim ∧
    a.settledRec { core := 1, mark := 3 } = true ∧ a.settledRec { core := 1, mark := 4 } = false ∧ a.stackBad 0 4 6 = false ∧
    a.acquiring 0 false = some { core := 1, mark := 3 } ∧ (a.part 0).intcfg.getLsbD 0 = false ∧
    ((a.onPart 0 (fun p => { p with intcfg := 3 })).part 0).intcfg.getLsbD 0 = true ∧
    (lab { g0 with lwait := .presettle { core := 1, mark := 4 } false } t0).acquiring 0 true = some { core := 1, mark := 4 } := by decide +kernel

theorem test_stream_events :
    ((nx (exec (.trapEntry 0) (lab { g0 with pend := some (.trap false 1 0 none 9) } t0))).grp 0).pc = 0x40 ∧
    ((nx (exec (.claimGrant 0 0) (lab { g0 with count := 32, cwait := .claim } { t0 with claims := [{ bay := 0, gid := 0, n := 64 }] }))).grp 0).count = 96 ∧
    (nx (exec (.settleAck 0 false) ((lab { g0 with cwait := .settle { core := 1, mark := 3 } [(4, 6)] 8 } t0).onCore 1 (fun k => { k with settled := 3 })))).rg 0 4 = 6 := by
  decide +kernel

theorem wit_CoreEvents :
    let s := (dat g0 [(0x3000, dirtyLine)]).onCore 0 (fun k => { k with cm := 2, settleReqs := [{ mark := 1, who := some (70, false) }] })
    let b := (dat g0 []).onCore 0 (fun k => { k with cm := 0x100001, settled := 5 })
    s.pkg.halted = false ∧ (s.core 0).settleReqs = { mark := 1, who := some (70, false) } :: [] ∧ markLe 1 (s.core 0).settled = false ∧
    ((b.core 0).cm >>> 20 ≠ ((b.core 0).settled + 1) >>> 20) ∧ markLe ((b.core 0).cm - 1) (b.core 0).settled = false ∧
    (((dat g0 []).onCore 0 (fun k => { k with stackc := [(0x3000, dirtyLine)] })).core 0).stackc.find (stackKey 0 0x3000) = some dirtyLine ∧
    oldestDirty (((dat g0 []).onCore 0 (fun k => { k with stackc := [(0x3000, dirtyLine)] })).core 0) 0 = some (stackKey 0 0x3000) ∧
    (s.core 0).l1.length < 2048 ∧ s.inBound 0 (at_ 1 0xF80) .load = true ∧ (s.ctr.get 0 0x8000F0).getLsbD 1 = false ∧ (rb 0x300000).inBounds 4095 1 = true ∧ tlbFind (s.core 0).tlb 0 0x300F80 = some (pg 0x300000 0x300000 0 1 1) ∧
    pteR (at_ 1 0xF80).e = true ∧ viaL1 s 0 (at_ 1 0xF80) = true ∧ s.homeBad 0 0 (at_ 1 0xF80) = none ∧ (s.core 0).l1.find 0x601F = none ∧
    pteHome (at_ 1 0xF80).e = 0 ∧ pteCls (at_ 1 0xF80).e = true ∧
    (walked.translate 0 1 0x5ABC .load).toOption.isSome = true ∧ tlbFind (walked.core 0).tlb 1 0x5ABC = none := by decide +kernel

theorem test_core_events :
    let s := (dat g0 [(0x3000, dirtyLine)]).onCore 0 (fun k => { k with cm := 2, settleReqs := [{ mark := 1, who := some (70, false) }] })
    ((nx (exec (.settle 0) s)).core 0).settled = 1 ∧ (nx (exec (.settle 0) s)).mem.read 0x180004 = 4 ∧
    (nx (exec (.stackWriteback 0 0 0x3000) ((dat g0 []).onCore 0 (fun k => { k with stackc := [(0x3000, dirtyLine)] })))).mem.read 0x180007 = 7 ∧
    ((nx (exec (.prefetch 0 1 4095) (dat g0 []))).core 0).l1.map (fun e => (e.1, e.2.pf)) = [(0x601F, .flying)] := by decide +kernel

/-- The first demand access to a prefetched line counts it as used, and as late before its arrival (17 R379). -/
theorem test_prefetch_use :
    (let s := nx (exec (.prefetch 0 1 4095) (dat g0 []))
     let n (t : State) (o : Nat) : GWord := t.ctr.get 0 (0x800000 + o)
     (n (s.usePf 0 0x601F) 0xD0, n (s.usePf 0 0x601F) 0xD8) = (1, 1) ∧
       (n ((s.pfArrive 0 0x601F).usePf 0 0x601F) 0xD0, n ((s.pfArrive 0 0x601F).usePf 0 0x601F) 0xD8) = (1, 0)) := by decide +kernel

/-- 04 R103: an engine that has read a byte before another core's write of it lands the old value of that byte and the new one of its
neighbour. -/
theorem test_engine_read_early :
    let s := (dat g0 []).onCore 0 (fun c => { c with cmds := [(5, newCmd base 0 .copy (.glob (rb 0x300000) 0) (.scr 0 0 0 0 0))] })
    let t := (s.engRead 0 5 0x300000).homeWrite 0x300000 [9, 9]
    let x := ((t.core 0).cmds.find 5).getD (newCmd base 0 .copy (.glob (rb 0x300000) 0) (.scr 0 0 0 0 0))
    (t.engPre 0 x.pre 0x300000).1 = 0 ∧ (t.engPre 0 x.pre 0x300001).1 = 9 := by decide +kernel

/-- A grid of 4 by 2 by 1 teams of one group with 32 registers. -/
def grid0 : Grid :=
  { lcb := 0x200000, lcn := 1, fmt := 0x22, seed := 1, roleMap := 0, stackBase := 0, stackSize := 0, areas := 0, binds := [], mcast := false,
    migr := false, bucket := 0, entry := 0x200000, groups := 1, vregs := 32, acc := 16, scratch := 4096, gx := 4, gy := 2, gz := 1 }

/-- Its stage, with the indices 5 and 6 in the pool of deck 0 and 7 not issued. -/
def stage0 : Stage :=
  { grid := grid0, ckstart := 0, rerun := false, retry := 0, shareMin := 2, shareMax := 4, rslot := 0, rslotN := 0, movePre := false, next := 7,
    returned := [], pools := [{ lo := 5, hi := 6, deck := 0 }], shadow := [{ lo := 5, hi := 6, deck := 0 }], retired := [0, 1, 2, 3, 4], ended := [],
    discards := [], areasUsed := [] }

/-- The launch. -/
def launch0 : Launch :=
  { part := 0, queue := 0, index := 0, prio := 0, hitch := false, active := true, desc := 0x900000, ctx := 0, args := 7, shape := [], status := 0,
    stages := [stage0], faulted := false, tms := false, hold := 10, spillN := 0, spillBase := 0, spillE := 0, spills := [], since := none, lastD := [],
    seenCommits := 0, move := none, lastDone := 0, lends := [] }

/-- The base state with a launch 3. -/
def launched (x : Launch) : State := { base with launches := [(3, x)], nextLaunch := 4 }

/-- A team whose only slot is empty and whose queue is bound. -/
def drainT : Team :=
  { t0 with slots := [{ slot := 2, gidx := 1, occ := false }], binds := [{ bound := true, role := 6, entry := 0x200040 }], iqs := [(0, [9])], vregs := 64 }

theorem wit_TeamEvents :
    (drainT.slots.find? (fun h => h.slot == 2 && !h.occ) = some { slot := 2, gidx := 1, occ := false } ∧ drainT.fullest = some 0 ∧
      drainT.vregs ≤ drainT.free.get 0 (bayOf 2) ∧ drainT.headClaim (bayOf 2) = none ∧ drainT.saving = 0) ∧
    (let s := launched launch0
     s.stage 3 0 = some stage0 ∧ stage0.lowest 0 = some 5 ∧ stage0.area = some none ∧ s.canPlace 3 launch0 0 stage0 0 = some [0] ∧
     s.outranked 3 launch0 0 = false ∧ s.teams.find 0 = none ∧ s.pkg.halted = false) ∧
    (let s : State := { launched launch0 with teams := [(0, { t0 with slots := [], launch := 3, lin := 5 })] }
     (s.teams.find 0).map (fun t => (t.gids, t.fullest)) = some ([], none) ∧ (s.stage 3 0).isSome = true ∧
     (s.core 0).matq.all (fun m => m.team != 0) = true ∧ (s.core 0).cmds.all (fun e => e.2.team != 0) = true) := by decide +kernel

theorem test_team_events :
    ((nx (exec (.drainGroupStart 0 2) (lab g0 drainT))).grp 2).role = 0x1106 ∧ ((nx (exec (.drainGroupStart 0 2) (lab g0 drainT))).grp 2).count = 64 ∧
    ((nx (exec (.teamPlace 3 0 0) (launched launch0))).team 0).lv.x = 1 ∧ ((nx (exec (.teamPlace 3 0 0) (launched launch0))).team 0).lv.y = 1 ∧
    ((nx (exec (.teamPlace 3 0 0) (launched launch0))).grp 0).pc = 0x200000 ∧
    ((nx (exec (.teamPlace 3 0 0) (launched launch0))).stage 3 0).map (fun z => z.pools) = some [{ lo := 6, hi := 6, deck := 0 }] := by decide +kernel

theorem test_team_retire :
    let s : State := { launched launch0 with teams := [(0, { t0 with slots := [], launch := 3, lin := 5 })] }
    (nx (exec (.teamRetire 0) s)).teams = [] ∧ ((nx (exec (.teamRetire 0) s)).stage 3 0).map (fun z => z.retired) = some [5, 0, 1, 2, 3, 4] := by
  decide +kernel

/-! ## Events of engines and the Rein -/

/-- The copy of test_tcopy, outstanding under number 0. -/
def copying : State := nx (exec (.tcopy 2 4 6 .scratch .glob) (mem [(0x300000, 0x1122334455667788)] (cps.onTeam 0 (fun t => { t with win := words [(4080, 16), (4084, 0), (4088, 0), (4092, 0)] }))))

theorem wit_EngineEvents :
    let x := ((copying.core 0).cmds.get { (newCmd base 0 .hist (.scr 0 0 0 0 0) (.scr 0 0 0 0 0)) with rows := 0 } 0)
    let l := copying.pieceOf x.dst (segments x.dstRows.1 x.dstRows.2 (copying.rowStart x.dst)) 0
    x.kind = .copy ∧ l = [(0, 0, 0, 16)] ∧ x.done.contains 0 = false ∧ (x.usesRein && (copying.deck 0).stale) = false ∧
    copying.srcAborted x = false ∧ pieceLen l = 16 ∧ (copying.goodBytes 0 x l).length = 16 ∧ l.any (fun e => x.landsInRein e.2.1 e.2.2.1) = false ∧
    (copying.landBytes 0 0 x 16 0 (copying.goodBytes 0 x l)).isSome = true ∧ copying.pkg.halted = false ∧ x.pos + 16 = x.len ∧
    (let h := nx (exec (.qhist 4 20 21 false) cps)
     (h.core 0).cmds.map (fun e => (e.1, e.2.kind, e.2.dst, e.2.aw)) = [(0, .hist, .scr 0 256 0 0 0, 4080)]) ∧
    (let s := mat.onGrp 0 (fun x => { x with bc := 1 })
     (s.grp 0).lastDone ≠ (s.grp 0).bc ∧ s.occupied 0 = true ∧ (∀ m ∈ (s.core 0).matq, m.gid = 0 → m.batch = 1 → m.ran = true)) ∧
    (let s := mat.onGrp 0 (fun x => { x with fmt := 0x66 })
     let s := fq ((nx (exec (.mma 4 6 8 false) s)).onTeam 0 (fun t => { t with win := (List.range 4096).map (fun k => (k, 0xFF)) }))
     (s.nextMat 0).map (fun m => s.matBad m) = some true ∧ s.canPost (s.codeOfCore 0) = true ∧ (s.groups.find 0).isSome = true) := by decide +kernel

theorem test_engine_landing :
    let t := nx (exec (.engineLanding 0 0 0) copying)
    (t.team 0).winW 32 = 0x55667788 ∧ (t.team 0).winW 36 = 0x11223344 ∧ (t.core 0).cmds = [] ∧ (t.core 0).locks = [] ∧ (t.team 0).winW 4088 = 1 := by
  decide +kernel

theorem test_batch_complete :
    ((nx (exec (.batchComplete 0) (mat.onGrp 0 (fun x => { x with bc := 1 })))).grp 0).lastDone = 1 ∧
    ((nx (exec (.batchComplete 0) mat)).grp 0).lastDone = 0 := by decide +kernel

/-- A window write of words 0 and 31 of line 5. -/
def rw_ : RWrite :=
  { gid := 0, lane := false, core := 0, line := 5, kind := 2, aop := 0, mask := 0x80000001, mark := 4, data := List.replicate 32 7, launch := 0, stage := 0,
    cmd := none, dest := .none, acq := false, synced := false, bytes := 0, flags := 0 }

/-- Tower 0 at sequence 100, the write queued at deck 0. -/
def turn : State := (base.onTower 0 (fun t => { t with q := 100 })).onDeck 0 (fun d => { d with sendQ := [rw_] })

theorem wit_ReinEvents :
    turn.slotWrite 0 (100 % 1024) = some (0, rw_) ∧ (base.onTower 0 (fun t => { t with q := 100 })).slotWrite 0 100 = none ∧ rw_.kind ≤ 2 ∧ rw_.dest = .none ∧
    turn.slotDecks 0 100 = [0, 1, 2, 3] ∧ (turn.deck 1).applies = true ∧
    (let s := turn.onDeck 1 (fun d => { d with stale := true, lastQ := 90 })
     (s.deck 1).stale = true ∧ (s.deck 1).awake = true ∧ (s.deck 1).live = true ∧ (s.deck 1).copying = none ∧ (s.tower 0).holds (s.deck 1).lastQ = true) ∧
    (let s := (turn.onTower 0 (fun t => { t with q := 9000 })).onDeck 1 (fun d => { d with stale := true, lastQ := 90 })
     (s.tower 0).holds (s.deck 1).lastQ = false ∧ s.copySource 1 = some 0) ∧
    ((base.tower 0).holds 0 = true ∧ ({ base.tower 0 with q := 4097 } : Tower).holds 0 = true ∧ ({ base.tower 0 with q := 4098 } : Tower).holds 0 = false) := by
  decide +kernel

theorem test_rein_slot :
    let t := nx (exec (.reinSlot 0 []) turn)
    (t.deck 3).rep = [(160, 7), (191, 7)] ∧ (t.deck 3).recs = [(5, { core := 0, mark := 4 })] ∧ (t.deck 0).sendQ = [] ∧ (t.deck 3).lastQ = 100 ∧ (t.tower 0).q = 101 ∧
    ((nx (exec (.reinSlot 0 [(2, 5)]) turn)).deck 2).stale = true := by decide +kernel

theorem test_refill :
    let s := turn.onDeck 1 (fun d => { d with stale := true, lastQ := 99 })
    ((nx (exec (.refill 1) s)).deck 1).copying = some 1 ∧ ((nx (exec (.refillEnd 1) (nx (exec (.refill 1) s)))).deck 1).stale = false := by decide +kernel

/-! ## Saving, errors, launches, schedules -/

/-- The stable of partition P: 64 chunks at 0x8000000. -/
def stabled (s : State) : State := s.onPart 0 (fun p => { p with stable := 0x8000003 })

/-- 32 registers, 16 tiles, a window of 4 KiB: the frame's areas (15 R321). -/
theorem test_layout :
    layoutOf [32] 16 4096 0 = { lane := [0xA000, 0xB200], acc := 0xC000, win := 0x10000, team := 0x11000, size := 0x20000 } ∧
    (layoutOf [] 0 0 32).size = 0x20000 := by decide +kernel

/-- Team 0 in launch 3, stopped to be saved for a pre-emption. -/
def stopping : State :=
  { stabled (fq (lab { g0 with count := 32, halted := true } { t0 with saving := 1, launch := 3, lin := 5 })) with launches := [(3, launch0)] }

/-- A frame of a team that can be restored. -/
def saved0 : Saved :=
  { frame := 4, chunks := 2, team := { t0 with launch := 3, lin := 5, saving := 1 }, gids := [(0, { g0 with count := 32 })], mats := [], locks := [],
    reason := 2, ready := false, fail := false, stalls := none }

theorem wit_SaveEvents :
    (let s := lab { g0 with pend := some (.pf false 0x5000 .load none) } t0
     s.occupied 0 = true ∧ (s.grp 0).sys = false ∧ (s.team 0).saving = 0 ∧ (s.grp 0).team = 0) ∧
    stopping.drained 0 = true ∧ (stopping.teams.find 0).map (fun t => (t.saving, t.groups)) = some (1, 1) ∧
    (stopping.part 0).alloc 2 = some 0 ∧ (stopping.part 0).alloc 64 = some 0 ∧ (stopping.part 0).alloc 65 = none ∧
    (let s := { launched launch0 with teams := [] }.onPart 0 (fun p => { p with saved := [{ saved0 with ready := true }] })
     (s.part 0).saved.find? (fun v => v.frame == 4) = some { saved0 with ready := true } ∧ (s.canRestore { saved0 with ready := true } 0).isSome = true ∧
     (0 : Nat) ∈ s.coresOf 0 ∧ (saved0.gids.map Prod.fst).Nodup ∧ (∀ e ∈ saved0.gids, e.1 < saved0.team.groups)) ∧
    (lab g0 t0).answers 0 = true ∧ ((lab g0 t0).part 0).preState = 0 ∧ Tab.rising (lab g0 t0).teams = true ∧
    (((lab g0 t0).onPart 0 (fun p => { p with preState := 2 })).part 0).preState = 2 ∧ ((stabled (fq (lab g0 t0))).part 0).preState ≠ 2 := by decide +kernel

theorem test_fresume :
    let s := base.onPart 0 (fun p => { p with saved := [saved0] })
    ((nx (exec (.fresumeFail 0 4) s)).part 0).fresume = 0x200000004 ∧ ((nx (exec (.fresumeFail 0 4) s)).part 0).saved.map (fun v => (v.ready, v.fail)) = [(true, true)] ∧
    ((nx (exec (.fresumeRetry 0 5) s)).part 0).saved.map (fun v => v.ready) = [false] := by decide +kernel

theorem test_preempt :
    let t := nx (exec (.preemptReq 0) (lab g0 t0))
    (t.part 0).preState = 1 ∧ (t.team 0).saving = 1 ∧ (t.grp 0).halted = true ∧ ((nx (exec (.preemptReq 0) base)).part 0).preState = 2 := by decide +kernel

/-- A snapshot of one 4 KiB page at 0x300000, copied to 0x2000 of the area at 0x600000. -/
def snapping (copied : List Nat) : State :=
  (mem [(0x300080, 0x1122)] base).onPart 0 (fun p => { p with
    snap := { Snap.empty with running := true, ndir := 1, asize := 0x10000, area := 0x600000, used := 1, pages := [(0x7000, 0x300000, 0, 0x2000)], copied := copied } })

theorem wit_ErrorEvents :
    (let s := fq (lab g0 t0)
     (s.teams.find 0).isSome = true ∧ (s.team 0).rerun = false ∧ s.canPost 0 = true ∧ s.partAt 0x300000 = some 0 ∧ 0 < (s.team 0).scratch ∧
     bits (s.part 0).fqcfg.toNat 12 40 * 4096 + 32 * ((s.part 0).fqtail.toNat % 2 ^ bits (s.part 0).fqcfg.toNat 8 4) ≠ 0x300000 / 32 * 32 ∧
     isRein (2 ^ 52 - 2 ^ 19 + 64) = true ∧ reinTower (2 ^ 52 - 2 ^ 19 + 64) = towerOfDeck 1 ∧ s.canPost (s.codeOfDeck 1) = true ∧ (s.part 0).intcfg.getLsbD 1 = true) ∧
    (((snapping []).part 0).snap.running = true ∧ ((snapping []).part 0).snap.copied.contains 0x6001 = false ∧
      ((snapping []).part 0).snap.pages.find? (fun e => decide (e.2.1 ≤ 0x6001 * 128) && decide (0x6001 * 128 < e.2.1 + snapSize e.2.2.1)) =
        some (0x7000, 0x300000, 0, 0x2000) ∧ isRein (0x6001 * 128) = false) ∧
    (∀ n, n < snapSize 0 / 128 → ((snapping ((List.range 32).map (0x6000 + ·))).part 0).snap.copied.contains (0x300000 / 128 + n) = true) := by decide +kernel

theorem test_errors :
    (nx (exec (.stateError 0) (fq (lab g0 t0)))).teams = [] ∧ ((nx (exec (.stateError 0) (fq (lab g0 t0)))).part 0).fqtail = 1 ∧
    (nx (exec (.softError (.home 0x300020) false) (fq base))).poison = [0x18001] ∧ (nx (exec (.softError (.home 0x300020) true) (fq base))).poison = [] ∧
    (nx (exec (.snapCopyOnWrite 0 0x300085) (snapping []))).homeNat 0x602080 8 = 0x1122 ∧
    ((nx (exec (.snapEnd 0) (snapping ((List.range 32).map (0x6000 + ·))))).part 0).snap.running = false := by decide +kernel

/-- Queue 5 of partition P with PRIO 3 and 16 entries at 0xA00000. -/
def queued (tail head : Word) (s : State) : State := { s with queues := [(5, { cfg := 0xA00461, tail := tail, head := head, rcd := none })] }

/-- A record for the grid of the descriptor at 0x5000 in context 1, which gives the grid of grid0 with no window. -/
def recorded (kind : Nat) : State :=
  (queued 1 0 (mem [(0xA00000, 0x5000), (0xA00008, 7), (0xA00030, 1 + kind * 2 ^ 32),
    (0x800000, 0x200000), (0x800008, 1 + 0x22 * 2 ^ 32), (0x800028, 2 ^ 32), (0x8000A0, 0x200000), (0x8000A8, 4 + 2 * 2 ^ 32),
    (0x8000B0, 1 + 2 ^ 32 + 4 * 2 ^ 37 + 2 * 2 ^ 43)] (fq walked))).latch 5

theorem wit_LaunchEvents :
    base.mgmt = true ∧ base.formatting 0 = false ∧ (base.queue 5).en = false ∧ ((queued 3 2 base).queue 5).en = true ∧ base.liveCode 0 = true ∧
    (let v : GWord := 0xA00461
     v.getLsbD 0 = true ∧ 4 ≤ bits v.toNat 8 4 ∧ bits v.toNat 2 3 < 7) ∧
    (queued 3 2 base).answers 0 = true ∧ (((18 : GWord).setWidth 32 - (2 : Word)).toNat ≤ 2 ^ ((queued 3 2 base).queue 5).log2n) ∧
    2 ^ ((queued 3 2 base).queue 5).log2n < ((19 : GWord).setWidth 32 - (2 : Word)).toNat ∧ 2 ^ 31 ≤ ((2 : GWord).setWidth 32 - (3 : Word)).toNat ∧
    ((fq (queued 3 2 base)).canPost 0 = true) ∧ ((queued 3 2 base).queue 5).rcd = none ∧
    (queued 3 2 base).inPart 0 ((queued 3 2 base).queue 5).headAt = true ∧ ((recorded 1).queue 5).rcd.isSome = true ∧
    (recorded 1).devTr 0 1 0x5058 true ≠ none ∧ (recorded 1).pickQueue 0 = some 5 ∧ ((recorded 1).part 0).halting = false ∧
    (match (recorded 1).checkRecord 0 5 ((recorded 1).headRec 5) with
      | .ok (x, l) => decide (x.stages.map (fun z => (z.grid.gx, z.grid.gy, z.grid.vregs, z.grid.acc)) = [(4, 2, 32, 16)] ∧ l.length = 0)
      | .error _ => false) = true ∧
    (match (recorded 3).checkRecord 0 5 ((recorded 3).headRec 5) with
      | .ok _ => false
      | .error n => decide (n = 0x40)) = true ∧
    (let x := { launch0 with hitch := true, active := false }
     (launched x).launch 3 = some x ∧ x.stages = stage0 :: [] ∧ (x.stages.map (fun g => g.shareMin)).sum ≤ ((launched x).freeCores 0).length) ∧
    ((launched { launch0 with stages := [{ stage0 with retired := List.range 8 }] }).launch 3).map (fun x => x.stages.all Stage.isDone) = some true := by
  decide +kernel

theorem test_queues :
    ((nx (exec (.lqcfgWrite 5 0xA00461) base)).queue 5) = { cfg := 0xA00461, tail := 0, head := 0, rcd := none } ∧
    ((nx (exec (.lqtailWrite 5 18) (fq (queued 3 2 base)))).queue 5).tail = 18 ∧ ((nx (exec (.lqtailWrite 5 19) (fq (queued 3 2 base)))).part 0).fqtail = 1 := by
  decide +kernel

theorem test_launch_take :
    ((nx (exec (.launchTake 0) (recorded 1))).launch 0).map (fun x => (x.args, x.ctx, x.desc, x.active)) = some (7, 1, 0x5000, true) ∧
    ((nx (exec (.launchTake 0) (recorded 1))).queue 5).head = 1 ∧ ((nx (exec (.launchTake 0) (recorded 3))).part 0).fqtail = 1 := by decide +kernel

theorem test_launch_complete :
    (nx (exec (.launchComplete 3) (launched { launch0 with stages := [{ stage0 with retired := List.range 8 }] }))).launches = [] ∧
    ((nx (exec (.launchComplete 3) (launched launch0))).launch 3).isSome = true := by decide +kernel

/-- A hitch of two stages on cores 0, 1 and 2, the third of which may move. -/
def hitch0 : Launch :=
  { launch0 with hitch := true, tms := true, stages := [{ stage0 with shareMin := 1 }, { stage0 with shareMin := 1, pools := [], shadow := [], next := 0 }] }

/-- The hitch, active. -/
def hitched (x : Launch) : State :=
  ((((launched x).onCore 0 (fun c => { c with heldBy := some (3, 0) })).onCore 1 (fun c => { c with heldBy := some (3, 0) })).onCore 2
    (fun c => { c with heldBy := some (3, 1) }))

/-- A team of stage 0 whose group waits in pacq on pipe 192 of the hitch, which holds a committed tile and is full. -/
def dead (x : Launch) : State :=
  { (((hitched x).onTeam 0 (fun _ => { t0 with launch := 3, lin := 5 })).onGrp 0 (fun _ => { g0 with cwait := .stall .pipeFull })) with
    pipes := [(192, { pipe0 with depth := 1, tiles := [tile0 .committed 0], acqWait := [0], order := 5 })] }

theorem wit_ScheduleEvents :
    (let s := launched launch0
     s.ableDeck launch0 3 0 0 = true ∧ launch0.poolSize 0 < 16 ∧ stage0.returned = [] ∧ stage0.next < stage0.total ∧ (s.part 0).halting = false) ∧
    ({ stage0 with returned := [{ lo := 3, hi := 4, deck := 1 }] } : Stage).returned = { lo := 3, hi := 4, deck := 1 } :: [] ∧
    ((hitched hitch0).launch 3 = some hitch0 ∧ hitch0.tms = true ∧ hitch0.move = none ∧ (hitched { hitch0 with move := some (1, 0, 1) }).stageTeamsOn 3 0 1 = []) ∧
    (hitched hitch0).deadSet 3 hitch0 = [] ∧
    (let x := { hitch0 with lastD := [0], seenCommits := 5, since := some 0, spillN := 2 }
     (dead x).deadSet 3 x = [0] ∧ (dead x).commitsAt 3 [0] = 5 ∧ ({ dead x with us := 9 } : State).us < 0 + x.hold ∧ 0 + x.hold ≤ ({ dead x with us := 10 } : State).us ∧
     (dead x).spillPipes 3 x [0] = [192] ∧ x.spills.fresh x.spillN 0 < x.spillN ∧
     ({ dead x with pipes := [(192, { pipe0 with depth := 1, tiles := [tile0 .taken 0], acqWait := [0], order := 5 })] } : State).spillPipes 3 x [0] = []) := by
  decide +kernel

theorem test_ranges :
    ((nx (exec (.rangeIssue 3 0 1) (launched launch0))).stage 3 0).map (fun z => (z.pools, z.next)) =
      some ([{ lo := 5, hi := 6, deck := 0 }, { lo := 7, hi := 7, deck := 1 }], 8) := by decide +kernel

theorem test_monitor :
    let x := { hitch0 with lastD := [0], seenCommits := 5, since := some 0, spillN := 2 }
    let t := nx (exec (.deadlockTick 3) { dead x with us := 10 })
    ((nx (exec (.deadlockTick 3) { dead x with us := 9 })).launch 3).map (fun y => y.since) = some (some 0) ∧
    (t.pipe 192).map (fun p => p.tiles.map (fun u => (u.spill, u.slot))) = some [(true, 0)] ∧
    (t.launch 3).map (fun y => (y.spills, y.since)) = some ([(0, { pipe := 0, seq := 5 })], some 10) := by decide +kernel

/-- A lend of indices 6 to 6 from deck 0 to deck 1. -/
def lend0 : Lend :=
  { seq := 8, victim := 0, thief := 1, stage := 0, lo := 6, hi := 6, shipped := 5, lent := true, named := false, landed := none, mLanding := true,
    mAck := false, mTransfer := false, mConfirm := false, mRefuse := false }

/-- The launch with the lend under way. -/
def lending (e : Lend) : State := { launched { launch0 with lends := [e] } with us := 7 }

theorem wit_LendEvents :
    (let x := { launch0 with stages := [{ stage0 with next := 8 }] }
     (∀ g ∈ x.stages, g.nextRange = none) ∧ x.poolSize 1 = 0 ∧ (launched x).idleFor 3 x 1 = true ∧
     ((launched x).victims 0 1).findSome? (fun v => (x.largest v.1 v.2).map (fun e => (v.1, e))) = some (0, 0, { lo := 5, hi := 6, deck := 0 })) ∧
    (lending lend0).lend 3 0 8 = some lend0 ∧ ((lending lend0).deck 1).receives = true ∧ ((lending lend0).deck 1).live = true ∧
    lend0.shipped + 2 ≤ (lending lend0).us ∧ (4 : Nat) + 3 ≤ (lending lend0).us ∧
    (lending { lend0 with landed := some 3, named := true }).lend 3 0 8 = some { lend0 with landed := some 3, named := true } ∧
    ({ stage0 with shadow := [{ lo := 6, hi := 6, deck := 1 }] } : Stage).holder 6 = some 1 := by decide +kernel

theorem test_steal :
    let x := { launch0 with stages := [{ stage0 with next := 8 }] }
    ((nx (exec (.stealRequest 3 1) (launched x))).launch 3).map (fun y => y.lends.map (fun e => (e.lo, e.hi, e.victim, e.thief, e.mLanding))) =
      some [(6, 6, 0, 1, true)] := by decide +kernel

theorem test_lend :
    ((nx (exec (.landing 3 0 8) (lending lend0))).lend 3 0 8).map (fun e => (e.landed, e.mAck)) = some (some 7, true) ∧
    ((nx (exec (.lendReclaim 3 0 8) (lending lend0))).stage 3 0).map (fun z => z.pools) = some [{ lo := 5, hi := 6, deck := 0 }, { lo := 6, hi := 6, deck := 0 }] ∧
    ((nx (exec (.confirmation 3 0 8) (lending { lend0 with lent := false, mLanding := false, mConfirm := true, landed := some 5 }))).stage 3 0).map (fun z => z.pools) =
      some [{ lo := 5, hi := 6, deck := 0 }, { lo := 6, hi := 6, deck := 1 }] := by decide +kernel

/-- With MIRROR = 1 a line is mirrored and counted at its first write, until it leaves for HBM4E (17 R374, R380). -/
theorem test_mirror :
    (let s := base.onPart 0 (fun p => { p with intcfg := 1 })
     let t := s.homeWrite 0x300000 [1]
     t.mirror = [0x6000] ∧ t.ctr.map (fun e => (e.1 % 0x100, e.2)) = [(0x30, 1)] ∧ (t.homeWrite 0x300004 [2]).ctr = t.ctr ∧
       (t.homeEvict 0x6000).mirror = [] ∧ (base.homeWrite 0x300000 [1]).mirror = []) := by decide +kernel

/-! ## Registers, partitions, power, links -/

theorem wit_HostRegisterEvents :
    base.mgmt = true ∧ base.answers 0 = true ∧ ((fq base).part 0).fqcfg.getLsbD 0 = true ∧ (base.part 0).fqcfg.getLsbD 0 = false ∧
    (let v : GWord := 0x500801
     v.getLsbD 0 = true ∧ 6 ≤ bits v.toNat 8 4) ∧
    bits (0x500501 : GWord).toNat 8 4 < 6 ∧ (0x500800 : GWord).getLsbD 0 = false ∧
    base.pkg.ports.all (fun e => e.2.state != 1 && e.2.state != 2) = true ∧ base.pkg.fstate ≠ 1 ∧ fcmdKnown (bits (0x10010 : GWord).toNat 0 8) = true ∧
    fcmdKnown (bits (0x40 : GWord).toNat 0 8) = false := by decide +kernel

/-- A fault queue with 0x100 records to consume and a record that waits (15 R307). -/
def held0 : State := fq base |>.onPart 0 (fun x => { x with fqtail := 0x100, heldRecs := [0x76] })

theorem wit_HostRegisterEvents_held :
    held0.answers 0 = true ∧ (base.part 0).heldRecs = [] ∧ (held0.part 0).heldRecs = [0x76] ∧ (held0.part 0).fqcfg.getLsbD 0 = true ∧
    ((held0.part 0).fqtail - (1 : GWord).setWidth 32).toNat < 2 ^ bits (held0.part 0).fqcfg.toNat 8 4 ∧
    ¬ ((held0.part 0).fqtail - (0 : GWord).setWidth 32).toNat < 2 ^ bits (held0.part 0).fqcfg.toNat 8 4 := by decide +kernel

theorem wit_HostRegisterEvents_doomed :
    let s := (launched { launch0 with hitch := true }).onPart 0 (fun x => { x with
      fqcfg := 0x500801, fqtail := 0x100, doomed := [{ launch := 3, code := 0x55, stage := 0, pipe := 2, team := 0 }] })
    (s.part 0).heldRecs = [] ∧ s.mgmt = true ∧ s.answers 0 = true ∧ s.isDoomed 3 = true ∧ s.teams = [] ∧
    ((s.part 0).fqtail - (1 : GWord).setWidth 32).toNat < 2 ^ bits (s.part 0).fqcfg.toNat 8 4 ∧
    (nx (exec (.fqheadWrite 0 1) s)).launch 3 = none := by decide +kernel

/-- A record of a full queue waits, and a write of FQHEAD that makes room posts it (15 R307). -/
theorem test_held_record :
    ((held0.tryPost 0 0x70).part 0).heldRecs = [0x76, 0x70] ∧ ((nx (exec (.fqheadWrite 0 1) held0)).part 0).heldRecs = [] ∧
    ((nx (exec (.fqheadWrite 0 1) held0)).part 0).fqtail = 0x101 ∧ (nx (exec (.fqheadWrite 0 1) held0)).mem.read 0x500000 = 0x76 := by
  decide +kernel

theorem test_host_registers :
    ((nx (exec (.registerWrite 0x30018 0x1000007D0) base)).part 0).holdlim = 0x7D0 ∧ (nx (exec (.registerWrite 0x40008 0x7FF) base)).pkg.ualid = 0x3FF ∧
    ((nx (exec (.registerWrite 0x20000 (BitVec.allOnes 64)) base)).part 0).ctxtab = 0x000FFFFFFFF80000 ∧
    (nx (exec (.registerWrite 0x41000 (1 + 2 ^ 7 + 2 ^ 8)) base)).pkg.fabgraph = [(0, 0x180)] ∧
    (nx (exec (.registerWrite 0x50000 0x40) base)).pkg.freason = 1 := by decide +kernel

/-- The mailbox at work on a command. -/
def mail (code arg : Nat) (s : State) : State :=
  { s with pkg := { s.pkg with fcmd := BitVec.ofNat 64 (arg * 2 ^ 16 + code), fstate := 1 } }

/-- A layout. -/
def laid (codes : List Nat) : State :=
  { base with pkg := { base.pkg with codes := codes }, parts := codes.foldl (fun t p => t.set Part.empty p (partReset p 0)) ([] : Tab Part) }

theorem base_part (p : Nat) : (base.part p).snap.running = false := by
  have h : base.parts = [(0, partPReset)] := rfl
  unfold State.part Tab.get
  rw [h]
  unfold Tab.find
  split
  · rfl
  · rfl

theorem wit_PartitionEvents :
    (base.pkg.lidLatched = false ∧ NoSnap (mail 0x01 0 base)) ∧
    ((mail 0x13 0xA5A5 base).farg 0x13 = some 0xA5A5 ∧ (mail 0x13 0xA5A5 base).unquietAny (indices 7 (mail 0x13 0xA5A5 base).liveCode) = 0 ∧
     (mail 0x01 0 base).farg 0x01 = some 0 ∧ (mail 0x01 0 base).pkg.keyErased = false) ∧
    (let s (k : List Nat) (code arg : Nat) := mail code arg (laid k)
     ((s [1, 1, 2, 2] 0x10 0).farg 0x10 = some 0 ∧ (s [1, 1, 2, 2] 0x10 0).unquiet 1 = 0 ∧ (s [1, 1, 2, 2] 0x10 0).unquiet 2 = 0) ∧
     ((s [3, 4, 2, 2] 0x10 1).farg 0x10 = some 1 ∧ (s [3, 4, 2, 2] 0x10 1).unquiet 3 = 0 ∧ (s [3, 4, 2, 2] 0x10 1).unquiet 4 = 0) ∧
     ((s [1, 1, 5, 6] 0x10 2).farg 0x10 = some 2 ∧ (s [1, 1, 5, 6] 0x10 2).unquiet 5 = 0 ∧ (s [1, 1, 5, 6] 0x10 2).unquiet 6 = 0) ∧
     ((s [0, 0, 0, 0] 0x11 0).farg 0x11 = some 0 ∧ (s [0, 0, 0, 0] 0x11 0).unquiet 0 = 0) ∧
     ((s [1, 1, 5, 6] 0x11 1).farg 0x11 = some 1 ∧ (s [1, 1, 5, 6] 0x11 1).unquiet 1 = 0) ∧
     ((s [3, 4, 2, 2] 0x11 2).farg 0x11 = some 2 ∧ (s [3, 4, 2, 2] 0x11 2).unquiet 2 = 0) ∧
     ((s [3, 4, 2, 2] 0x12 4).farg 0x12 = some 4 ∧ (s [3, 4, 2, 2] 0x12 4).liveCode 4 = true ∧ (s [3, 4, 2, 2] 0x12 4).unquiet 4 = 0) ∧
     (s [3, 4, 5, 6] 0x30 0x10000).farg 0x30 = some 0x10000) :=
  ⟨⟨by decide +kernel, fun p => base_part p⟩, by decide +kernel, by decide +kernel⟩

/-- Q0 to Q3, Q1's queue 20 and a launch of Q2 as in 17's example of a merge. -/
def merging (cfg : Nat) (own : Bool) : State :=
  { mail 0x10 1 (laid [3, 4, 5, 6]) with
    queues := [(20, { cfg := BitVec.ofNat 64 cfg, tail := 0, head := 0, rcd := none })],
    launches := [(2, { launch0 with part := 5 })] ++ (if own then [(3, { launch0 with part := 4 })] else []) }

/-- 17's example: refused with REASON 2 and 3, then merged; PARTMIRROR, HBMIL and NETBOUND. -/
theorem test_merge :
    (merging 0x400671 true).partmap = 0xFFFF9D63 ∧ (nx (exec .merge (merging 0x400671 true))).pkg.freason = 2 ∧
    (nx (exec .merge (merging 0x400670 true))).pkg.freason = 3 ∧
    (let t := nx (exec .merge (merging 0x400670 false))
     t.partmap = 0xFFFFBD49 ∧ t.pkg.fstate = 1 ∧ (t.part 1).hbmil = 0x603F ∧ (t.part 1).netbound = 0x00FF000F ∧
     (nx (exec .formatComplete t)).pkg.fstate = 2) := by decide +kernel

theorem grp_base (g : Nat) (lane : Bool) : (fq base).acquiring g lane = none := by
  have h : (fq base).groups = [(farrierId, farrierReset)] := rfl
  have e : (fq base).grp g = farrierReset ∨ (fq base).grp g = Group.empty := by
    unfold State.grp Tab.get
    rw [h]
    unfold Tab.find
    split
    · exact .inl rfl
    · exact .inr rfl
  unfold State.acquiring
  rcases e with e | e <;> rw [e] <;> cases lane <;> rfl

theorem wit_PowerEvents :
    (∀ g lane r, (fq base).acquiring g lane = some r → deckOfCore r.core ≠ 1) ∧
    ((fq base).pkg.halted = false ∧ ((fq base).deck 1).live = true ∧ 0 ∈ (fq base).decksOf ((fq base).codeOfDeck 1) ∧ ((fq base).deck 0).live = true ∧
     (fq base).teams = [] ∧ ((fq base).part 0).saved = [] ∧ ((fq base).part 0).intcfg.getLsbD 0 = false ∧ (fq base).canPost 0 = true) ∧
    base.mgmt = true ∧ base.pkg.tamperpol = none ∧ (nx (exec (.tamperpolWrite 2) base)).pkg.tamperpol.isSome = true ∧ base.pkg.booted = true ∧
    (mail 0x30 0x5A5A base).farg 0x30 = some 0x5A5A ∧
    ((mail 0x20 1 base).farg 0x20 = some 1 ∧ (base.deck 1).awake = true ∧ (base.deck 1).sleeping = false ∧ (mail 0x20 1 base).noSleep 1 = false ∧
     (base.deck 1).sendQ = [] ∧ (mail 0x20 0 (lab g0 t0)).noSleep 0 = true) ∧
    (let s := (mail 0x21 1 base).onDeck 1 (fun d => { d with awake := false })
     s.farg 0x21 = some 1 ∧ (s.deck 1).awake = false ∧ (s.deck 1).live = true) :=
  ⟨fun g lane r h => absurd h (by rw [grp_base]; exact nofun), by decide +kernel⟩

theorem test_power :
    ((nx (exec (.fenceDeck [1]) (fq base))).partmap) = 0xFFFDF000 ∧
    (nx (exec (.tamperAlarm 2) (nx (exec (.tamperpolWrite 0x20) base)))).pkg.keyErased = true ∧ (nx (exec (.tamperAlarm 2) base)).pkg.halted = false ∧
    (nx (exec (.powerControl 2201 40) base)).pkg.clockMhz = 2175 ∧ (nx (exec (.powerControl 2200 106) base)).pkg.clockMhz = 1500 ∧
    (nx (exec .thermalHalt base)).pkg.halted = true ∧ (nx (exec .sleep (mail 0x20 1 base))).partmap = 0xFDFFF000 := by decide +kernel

/-- The host link up as CXL, with an HDM decoder that shows partition P at 256 MiB. -/
def cxl (s : State) : State :=
  { s with pkg := { s.pkg with cxlstat := 3, hdm := [(0, (2 ^ 28, (s.part 0).hbmBase, 15625000 * (s.part 0).nstk * 4096))] } }

/-- The bias table at 0x700000, in which the page 0x300 is in host bias. -/
def biased (s : State) : State := { mem [(0x700060, 1)] (cxl s) with parts := [(0, { partPReset with biasbase := 0x700001 })] }

/-- A flip of page n under way. -/
def flipping (n : Nat) (dir : Bool) (s : State) : State := s.onPart 0 (fun p => { p with flip := some (n, dir), flipState := 1 })

/-- A line of a page with a record. -/
def recorded1 : State := { cxl base with recs := [(0x6000, { core := 1, mark := 3 })] }

/-- UALink port 0 up, with a merging graph of three senders for pipe 2 or none, and launch 3 of partition P with pipe 2 so. -/
def porting (graph : Bool) (p : Pipe) : State :=
  { launched launch0 with pipes := [(194, { p with xlink := 2, xport := 0 })], pkg := { base.pkg with
      ports := [(0, { en := true, state := 2, peer := 9, errs := 0, held := [] })], fabgraph := if graph then [(0, 1 + 4 + 2 ^ 8 + 3 * 2 ^ 16)] else [] } }

/-- A message of sender 7 for a pipe. -/
def msgTo (xpipe kind seq : Nat) (bytes : List Byte) : Msg :=
  mkMsg kind false 7 xpipe seq 1 bytes.length (bytes ++ List.replicate (224 - bytes.length) 0) []

/-- One for pipe 2. -/
def msg (kind seq : Nat) (bytes : List Byte) : Msg := msgTo 2 kind seq bytes

/-- The tile of sender 7 under way. -/
def inTile0 (n : Nat) : InTile :=
  { sender := 7, seq := 0, data := (List.range n).map (fun k => (k, BitVec.ofNat 8 k)), tag := none, bad := [], abort := false, skip := false }

/-- A pipe of 2 rows of 16 bytes that sender 7 is known to feed. -/
def small : Pipe := { pipe0 with rows := 2, rowBytes := 16, senders := [7] }

theorem wit_LinkEvents :
    (base.mgmt = true ∧ base.linkState = 0 ∧ (cxl base).linkState = 3 ∧ ({ base with pkg := { base.pkg with cxlstat := 1 } } : State).linkState = 1) ∧
    ((cxl base).cxlUp = true ∧ (cxl base).hdmDpa 0x10300040 = some 0x300040 ∧ (cxl base).partAt 0x300040 = some 0 ∧
      (cxl base).heldBack 0x300040 = false ∧ (biased base).hostBias 0 0x300040 = true ∧ (biased base).hdmDpa 0x10300040 = some 0x300040 ∧
      ((cxl base).part 0).netbound.getLsbD ((cxl base).lineSlice 0 0x300040 / 96) = true ∧
      ((biased base).part 0).netbound.getLsbD ((biased base).lineSlice 0 0x300040 / 96) = true ∧ (cxl base).hostL2.rising = true ∧
      (biased base).partAt 0x300040 = some 0 ∧ (biased base).heldBack 0x300040 = false ∧ (cxl base).recs.find (0x300040 / 128) = none ∧
      (let s := (cxl base).onPart 0 (fun x => { x with netbound := 0 })
       s.hdmDpa 0x10300040 = some 0x300040 ∧ (s.part 0).netbound.getLsbD (s.lineSlice 0 0x300040 / 96) = false)) ∧
    (recorded1.hostBias 0 0x300040 = false ∧ recorded1.recs.find (0x300040 / 128) = some { core := 1, mark := 3 } ∧
      recorded1.hdmDpa 0x10300040 = some 0x300040 ∧ recorded1.netOk 0 (recorded1.lineSlice 0 0x300000 / 96) (deckOfCore 1) = true ∧
      (recorded1.part 0).netbound.getLsbD (recorded1.lineSlice 0 0x300040 / 96) = true ∧
      markLe 3 (recorded1.core 1).settled = false ∧ (biased base).snoop = [] ∧
      (let s := flipping 0x300 false { cxl base with snoop := [0x6000] }
       s.snoop.contains (0x300040 / 128) = true ∧ (s.part 0).flip = some (0x300040 / 4096, false)) ∧
      (let s : State := { cxl base with snoop := [0x6000] }
       s.snoop.contains (0x300040 / 128) = true ∧ (List.range 7).all (fun p => (s.part p).flip != some (0x300040 / 4096, false)) = true ∧
       s.pkg.biReqs = [])) ∧
    NoSnap (cxl base) ∧
    ((flipping 0x300 true (cxl base)).heldBack 0x300FFF = true ∧ (flipping 0x300 true (cxl base)).hdmDpa 0x10300FFF = some 0x300FFF ∧
      (0x300038 % 64 + (List.replicate 8 (1 : Byte)).length ≤ 64) ∧ Tab.rising (cxl base).hostL2 = true) ∧
    ((cxl base).answers 0 = true ∧ (biased base).answers 0 = true ∧ (0x300003 : GWord).getLsbD 0 = true ∧ (base.part 0).flipState ≠ 1 ∧
      (base.part 0).inHbm (187500000 * 4096) = false ∧ (base.part 0).inHbm (187499999 * 4096) = true ∧ (base.part 0).biasbase.getLsbD 0 = false ∧
      ((biased base).part 0).biasbase.getLsbD 0 = true ∧ ((biased base).part 0).flipForbidden 0x700 = true ∧ ((biased base).part 0).flipForbidden 0x300 = false ∧
      (biased base).hostBias 0 0x300000 = true ∧ (biased base).hostBias 0 0x301000 = false) ∧
    (let s := flipping 0x301 true (biased base)
     s.pkg.halted = false ∧ (s.part 0).flip = some (0x301, true) ∧ s.pageLocked 0 0x301 = false ∧ s.pkg.heldHost = [] ∧
     (let a := ((s.part 0).biasAt 0x301).1
      isHost a = false ∧ isRein a = false ∧ (s.part 0).inHbm a = true ∧ s.homeOk 0 (s.masterDeck 0) a = true) ∧
     s.cmdsHeld 0 = false ∧ (s.onGrp 3 (fun x => { x with cwait := .flip .batch })).cmdsHeld 0 = true ∧
     (let u := biased base |>.onPart 0 (fun x => { x with flipped := some 0x301 })
      (u.part 0).flip = none ∧ (u.part 0).flipped = some 0x301 ∧ u.cmdsHeld 0 = false ∧ u.pkg.heldHost = [])) ∧
    (let s : State := { base with pkg := { base.pkg with cxlstat := 3, msixPend := [3], msixMasked := [] } }
     s.vectorUp 3 = true ∧ s.pkg.msixPend.contains 3 = true ∧ s.pkg.msixMasked.contains 3 = false) ∧
    (base.answers (base.portPart 15) = true ∧ (base.port 15).en ≠ (1 : GWord).getLsbD 0 ∧
      (let s : State := { base with pkg := { base.pkg with ports := [(15, { en := true, state := 1, peer := 0, errs := 0, held := [] })] } }
       s.pkg.halted = false ∧ (s.port 15).state = 1 ∧ (s.port 0).state = 0) ∧
      ((porting false small).port 0).state = 2 ∧
      ({ porting false small with pipes := [] } : State).hitchesOn 0 0 = [] ∧ ({ porting false small with pipes := [] } : State).inPipe 0 (msg 1 0 []) false = none) ∧
    (let s := porting false small |>.onPart 0 (fun x => { x with netbound := 0 })
     (s.part (s.portPart 0)).netbound.getLsbD 16 = false ∧ (s.port 0).state = 2) ∧
    (let s := { porting false small with launches := [(3, { launch0 with hitch := true })] }
     s.canPost 0 = false ∧ (s.hitchesOn 0 0).length = 1 ∧ s.isDoomed 3 = false ∧ (s.port 0).state = 2) ∧
    ((porting false small).inPipe 0 (msg 1 0 []) false = some (194, { small with xlink := 2, xport := 0 }) ∧
      (porting false small).pipe 194 = some { small with xlink := 2, xport := 0 } ∧ (porting false small).inGraph 194 { small with xlink := 2, xport := 0 } = 0 ∧
      ((porting false small).part 0).netbound.getLsbD 16 = true ∧ small.numOf 0 (msg 1 0 []) = 0 ∧ small.passed.get 0 7 = 0 ∧ small.senders.contains 7 = true ∧ small.inTiles = [] ∧ small.tiles.length < small.depth ∧
      (runFrom 0 (inTile0 32).data).length = small.rows * small.rowBytes) ∧
    (let s := { launched launch0 with pipes := [(194, { small with xlink := 1, xport := 0 })] }
     s.inPipe 0 (msg 3 0 []) true = some (194, { small with xlink := 1, xport := 0 })) ∧
    (let x : Pipe := { small with xlink := 2, xport := 0 }
     merges ((porting true small).inGraph 194 x) = true ∧ fabNprod ((porting true small).inGraph 194 x) = 3 ∧ (msg 7 1 []).hok = true ∧ (msg 7 1 []).kind = 7 ∧
     x.numOf ((porting true small).inGraph 194 x) (msg 7 1 []) = 1 ∧ x.merged < 1 ∧ x.senders.contains (msg 7 1 []).sender = true) ∧
    (let x : Pipe := { small with xlink := 2, xport := 0, inTiles := [inTile0 16], paused := [9], timers := [(0, 1000)] }
     (porting true x).pipe 194 = some x ∧ (porting true x).launch (194 / 64) = some launch0 ∧ merges ((porting true x).inGraph 194 x) = true ∧
     x.abandoned.find 0 = none ∧ x.inTiles.any (fun t => t.seq == 0) = true ∧
     x.paused.any (fun d => x.inTiles.all (fun t => !(t.sender == d && t.seq == 0 && t.tag.isSome))) = true ∧
     ((porting true x).part 0).holdlim.toNat ≤ x.timers.get 0 0) := by
  refine ⟨?_, ?_, ?_, fun p => base_part p, ?_, ?_, ?_, ?_, ?_, ?_, ?_, ?_, ?_, ?_, ?_⟩ <;> decide +kernel

theorem test_host_read :
    (nx (exec (.hostMemRead 0x10300044) (mem [(0x300040, 0x77)] (cxl base)))).pkg.hostOut.map (fun e => (e.1, e.2.1.head?, e.2.2)) = [(0x300040, some 0x77, false)] := by
  decide +kernel

theorem test_host_write :
    (nx (exec (.hostMemWrite 0x10300044 [1, 2]) (cxl base))).mem = [(0x300044, 1), (0x300045, 2)] := by decide +kernel

/-- A failed port of a hitch: where the fault queue takes no record, the port is down and the hitch is doomed (15 R307, 16 R331). -/
theorem test_port_fail :
    let s := { porting false small with launches := [(3, { launch0 with hitch := true })] }
    ((nx (exec (.portFail 0) s)).port 0).state = 3 ∧ ((nx (exec (.portFail 0) s)).part 0).doomed.map (fun d => (d.launch, d.code, d.pipe)) = [(3, 0x55, 2)] := by
  decide +kernel

theorem test_flip :
    (nx (exec (.flipComplete 0) (flipping 0x300 false (mem [(0x700060, 3)] (biased base))))).mem.read 0x700060 = 2 := by decide +kernel

theorem test_link_up :
    (nx (exec (.linkUp true true 16 6) { base with pkg := { base.pkg with cxlstat := 1 } })).pkg.cxlstat.toNat % 8 = 3 := by decide +kernel

/-- The pipe of the state. -/
def pipe2 (o : Host.Outcome State Fault Refusal) : Pipe := ((nx o).pipe 194).getD pipe0

theorem test_tiles :
    (pipe2 (exec (.tile 0 (msg 1 0 [5, 6])) (porting false small))).inTiles.map (fun u => (u.sender, u.seq, u.data)) = [(7, 0, [(16, 5), (17, 6)])] ∧
    (nx (exec (.tile 0 (msgTo 9 1 0 [5])) (porting false small))).ctr.get 0 0x700138 = 1 := by decide +kernel

/-- The tile is committed once all of its 32 bytes have landed (16 R344). -/
theorem test_commit :
    (pipe2 (exec (.commit 0 (msg 2 0 [0x4D, 0, 0, 0, 0, 0, 0, 0])) (porting false { small with inTiles := [inTile0 32] }))).tiles.map
      (fun u => (u.tag, u.st, u.data.find 31)) = [(0x4D, .committed, some 31)] ∧
    (pipe2 (exec (.commit 0 (msg 2 0 [0x4D, 0, 0, 0, 0, 0, 0, 0])) (porting false { small with inTiles := [inTile0 31] }))).tiles = [] := by decide +kernel

/-! ## Further witnesses: one for each clause that the theorems above do not meet -/

/-- A lane stream with a deferred future load of its own. -/
def owing : State := nx (exec (.vldf h1 .dev 8 2 5 1 0) fut)

/-- A lane stream whose window write is still to be applied, at its own address. -/
def sending : State := nx (exec (.vst h1 2 .s4 4 1 0 false) (lan [(1, fun _ => 4092), (2, fun l => 100 + l)] [(1, 1)]))

theorem wit_LaneBlocks_fence :
    (lan [] []).unanswered 0 = false ∧ owing.unanswered 0 = true ∧ sending.unanswered 0 = false ∧ sending.reinEarlier 0 true = true ∧
    ((lan [] []).onDeck 0 (fun d => { d with stale := true })).reinStale 0 = true ∧ ((lan [] []).core 0).l1.rising = true := by decide +kernel

/-- Lanes 0 and 1 at 4092 and 4060 of the page 1, the sector of lane 1 poisoned. -/
def sick : State := { lan [(1, fun l => 4092 - 32 * l)] [(1, 3)] with poison := [0x300FDC / 32] }

theorem wit_LaneLoads_fails :
    (acc4 sick 1 .load).toOption.map (fun e => (e.1 == sick, e.2.map (fun x => (sick.poisonedIn 0 x.tr.pa 4, sick.reinWait 0 x.tr 4, sick.snoop)))) =
      some (true, [(false, false, []), (true, false, [])]) ∧
    (sick.core 0).l1 = [] ∧ sick.early = [] ∧ sick.hostL2.rising = true ∧
    (let s := lan [(1, fun _ => 4092)] [(1, 1)] |>.onCore 0 (fun c => { c with l1 := [(0x601F, { cleanLine with bad := 8 })] })
     ((acc4 s 1 .load).toOption.map (fun e => e.2.map (fun x => viaL1 s 0 x.tr))) = some [true] ∧ { cleanLine with bad := 8 }.badIn (0x300FFC % 128) 4 = true) ∧
    (acc4 sending 4 .load).toOption.map (fun e => e.2.map (fun x => sending.reinWait 0 x.tr 4)) = some [true] ∧
    ((lan [(1, fun _ => 4092)] [(1, 1)]).earlyLoad 0 true 0x300FFC).early ≠ [] := by decide +kernel

/-- The lowest lane that reads a poisoned sector is the one that is named (09 R218). -/
theorem test_lane_checkfail :
    ((nx (exec (.vld h1 4 .s4 1 1 0 false) sick)).grp 0).cause = 0x210B ∧ ((nx (exec (.vld h1 4 .s4 1 1 0 false) sick)).grp 0).trapva = 0x300FDC := by
  decide +kernel

/-- The checks of a lane atomic on page n. -/
def atom4 (s : State) (n : Nat) (wide : Bool) : R (State × List Acc) :=
  checkGlobal s 0 (BitVec.ofNat 4 n) .atomic (fun q => q.n) (fun s y => atomBad s 0 .add 4 wide y.tr) (laneReqs s 0 h1 4 (laneOff s 0 1 0))

theorem wit_LaneAtomics_places :
    (let s := lan [(1, fun _ => 4092)] [(1, 3)]
     (atom4 s 2 false).toOption.map (fun e => (e.1 == s, e.2.map (fun x => (pteApl x.tr.e, pteHome x.tr.e, atomPoisoned s 0 4 x.tr)))) =
       some (true, [(0, 0, false), (0, 0, false)]) ∧
     (atom4 s 4 false).toOption.map (fun e => (e.1 == s, e.2.map (fun x => pteHome x.tr.e))) = some (true, [4, 4]) ∧ s.reinStale 0 = false ∧
     (s.deck 0).sendQ.length + 2 ≤ 64 ∧ s.snoop = [] ∧ (s.core 0).l1 = [] ∧ s.unanswered 0 = false ∧ s.hostL2.rising = true ∧
     (s.onDeck 0 (fun d => { d with stale := true })).reinStale 0 = true) ∧
    (atom4 sick 3 false).toOption.map (fun e => e.2.map (fun x => pteApl x.tr.e)) = some [1, 1] ∧
    (let s : State := { sick with poison := [0x302FDC / 32] }
     (atom4 s 3 false).toOption.map (fun e => e.2.map (fun x => (x.laneNo, atomPoisoned s 0 4 x.tr))) = some [(0, false), (1, true)]) ∧
    wideScope .core = false ∧ Ord.ar ≠ .plain := by decide +kernel

theorem wit_LaneOrderedAtomics :
    (let s := lan [(1, fun _ => 4088)] [(1, 1)]
     (atom4 s 1 true).toOption.map (fun e => (e.1 == s, e.2.map (fun x => (pteApl x.tr.e, pteHome x.tr.e, x.tr.pa)))) = some (true, [(1, 0, 0x300FF8)]) ∧
     s.unanswered 0 = false ∧ s.reinEarlier 0 true = false ∧ (s.grp 0).lwait.acked = false ∧ (s.core 0).l1 = [] ∧ s.poison = [] ∧ s.snoop = [] ∧
     s.foreignRec 0 0x300FF8 = none ∧ s.recs.find (recKey 0 0x300FF8) = none ∧ s.hostBias 0 0x300FF8 = false ∧ isHost 0x300FF8 = false ∧ s.recs = [] ∧
     (s.part 0).biasbase.getLsbD 0 = false ∧ (released s).foreignRec 0 0x300FF8 = some { core := 1, mark := 3 } ∧
     (released s).netOk 0 0 (deckOfCore 1) = true ∧ (atom4 (released s) 1 true).toOption.map (fun e => e.1 == released s) = some true ∧
     (atom4 s 4 true).toOption.map (fun e => (e.1 == s, e.2.map (fun x => pteHome x.tr.e))) = some (true, [4])) ∧
    (atom4 (owing.onGrp 0 (fun x => { x with v := lanes [(1, fun _ => 4088)] })) 1 true).toOption.map (fun e => e.1.unanswered 0) = some true ∧
    (atom4 sending 1 true).toOption.map (fun e => (e.1.unanswered 0, e.1.reinEarlier 0 true)) = some (false, true) := by decide +kernel

/-- A lane atomic of release leaves the record; one of acquire has another core's record settled first (09 R220, 04 R91, R92). -/
theorem test_lane_ordered :
    let s := lan [(1, fun _ => 4088), (2, fun _ => 5)] [(1, 1)]
    let i (o : Ord) : Instr := .vatom h1 .add false o .dev 4 1 1 0 2 0
    (nx (exec (i .rel) s)).recs = [(0x601F, { core := 0, mark := 1 })] ∧ ((nx (exec (i .rel) s)).core 0).cm = 2 ∧
    ((nx (exec (i .acq) (released s))).grp 0).lwait = .presettle { core := 1, mark := 3 } false := by decide +kernel

theorem wit_Futures_waits :
    (checkGlobal owing 0 5 .store (fun q => q.n) futBad (laneReqs owing 0 h1 16 (laneOff owing 0 1 0))).toOption.map (fun e => e.1.unanswered 0) = some true ∧
    fut.unanswered 0 = false ∧ fut.varRec 0 ((pages.getD 5 placeTlb).tr 0x304FF0) = none ∧
    (let s : State := { fut with deferred := List.replicate 256 { pa := 0x304FF0, gid := 9, fid := 1000, take := false, lanes := 1, d := 0, p := 0, bank := false } }
     256 ≤ s.deferCount (s.wordSlice 0 0x304FF) ∧ (s.deferred.all (fun e => e.fid != s.freeCtr && e.fid != s.freeCtr + 1)) = true) := by decide +kernel

/-- A store of a future waits for the stream's own deferred load (09 R222, 04 R91). -/
theorem test_future_waits : ((nx (exec (.vstf h1 .dev 4 2 5 1 0) owing)).grp 0).lwait = .stall .future := by decide +kernel

theorem wit_MarkedBlocks :
    (let s := lan [(1, fun l => 508 + 4 * l)] [(1, 3)]
     let vas := laneVas s 0 h1 1 (laneOff s 0 1 0)
     (((s.taking 0 h1).zip vas).filter (fun e => e.2 / 512 != vas.headD 0 / 512)).map Prod.fst = 1 :: []) ∧
    (let s := { lan [(1, fun _ => 8)] [(1, 1)] with marks := [{ gid := 0, slice := 0, lines := [0x6001], vlines := [0x6001] }] }
     (s.markOf 0).isSome = true ∧ (((s.taking 0 h1).zip (laneVas s 0 h1 1 (laneOff s 0 1 0))).filter (fun e => !([0x6001] : List Nat).contains (e.2 / 128).toNat)).map
       Prod.fst = 0 :: []) ∧
    (let s := lan [(1, fun _ => 8)] [(1, 1)]
     (checkGlobal s 0 1 .load (fun q => q.n) markBad (laneReqs s 0 h1 4 (laneOff s 0 1 0))).toOption.map (fun e => (e.1 == s, e.2.length)) = some (true, 1) ∧
     (s.core 0).l1 = [] ∧ s.snoop = [] ∧ s.poison = [] ∧ s.marks = []) := by decide +kernel

theorem wit_AccumulatorMoves_busy :
    let s := (nx (exec (.mma 4 6 8 false) mat)).onGrp 0 (fun x => { x with laneQ := [ent false false], started := true })
    (0 : BitVec 9).toNat < (s.teamOf 0).acc ∧ ((List.range 32).filter (fun l => s.active 0 l && s.guard 0 h0 l)).length = 32 ∧
    s.tileBusy (s.grp 0).team 0 = true ∧ regsOk s 0 24 8 = true ∧ regsOk s 0 28 4 = true := by decide +kernel

theorem wit_HandlerExits_rerun :
    let s (retry : Nat) : State := { fq (lab { g0 with sys := true } { t0 with rerun := true, launch := 3, lin := 5 }) with
      launches := [(3, { launch0 with stages := [{ stage0 with rerun := true, retry := retry }] })] }
    ((s 1).teamOf 0).rerun = true ∧ ((s 1).launch 3).isSome = true ∧ (s 1).stage 3 0 = some { stage0 with rerun := true, retry := 1 } ∧
    stage0.discards.get 0 5 < 1 ∧ 0 ≤ stage0.discards.get 0 5 ∧ (s 0).canPost 0 = true ∧ ((s 0).grp 0).sys = true ∧
    (s 0).canPost launch0.part = true ∧ ((s 1).core 0).cmds = [] ∧ ({ s 0 with parts := [] } : State).canPost 0 = false := by decide +kernel

/-- tabort discards a team of a rerunnable stage, whose index comes back; where it may not run again, it halts the launch (11 R267, 06 R150). -/
theorem test_tabort_rerun :
    let s (retry : Nat) : State := { fq (lab { g0 with sys := true } { t0 with rerun := true, launch := 3, lin := 5 }) with
      launches := [(3, { launch0 with stages := [{ stage0 with rerun := true, retry := retry }] })] }
    (nx (exec .tabort (s 1))).teams = [] ∧ ((nx (exec .tabort (s 1))).stage 3 0).map (fun z => (z.returned, z.discards)) =
      some ([{ lo := 5, hi := 5, deck := 0 }], [(5, 1)]) ∧ (nx (exec .tabort (s 0))).launches = [] := by decide +kernel

theorem wit_CoreEvents_clauses :
    (dat g0 []).homeOk 0 0 (0x3000 * 128) = true ∧ isHost (0x3000 * 128) = false ∧ dirtyLine.bad = 0 ∧ (rb 0x300000).noalloc = false ∧
    (dat g0 []).flipping 0 0x300F80 = false ∧ (dat g0 []).poisonedIn 0 0x300F80 128 = false ∧ ((dat g0 []).core 0).l1.rising = true ∧
    (dat g0 []).hostL2.rising = true ∧ tlbFind ((dat g0 []).core 0).tlb 0 0x304F80 = some (pg 0x304000 0x304000 2 1 1) ∧
    pteHome (pg 0x304000 0x304000 2 1 1).pte.toNat = 2 ∧ ({ dat g0 [] with pinned := [(0x304F80 / 128, { slice := 0, ctx := 0, va := 0x304000, size := 4096 })] } : State).pinned.find (0x304F80 / 128) ≠ none := by
  decide +kernel

/-- The host stream of `test_commands`, whose destination is no frame of the host: which frames are the host's is open (log 2). -/
def streaming : State := fq (nx (exec (.hstreamOut 2 8 10) cps))

theorem wit_EngineEvents_clauses :
    (let x := ((copying.core 0).cmds.find 0).getD (newCmd base 0 .hist (.scr 0 0 0 0 0) (.scr 0 0 0 0 0))
     let l := [(0, 0, 0, 16)]
     copying.pieceUnapplied 0 x l = false ∧ x.wrote = [] ∧
     (copying.pieceLines x l).all (fun k => isRein (k * 128) || copying.homeOk 0 0 (k * 128)) = true ∧
     (copying.landBytes 0 0 x 16 0 (copying.landing x 0 none (copying.goodBytes 0 x l))).isSome = true ∧
     (copying.onTeam 0 (fun t => t)).srcAborted { x with src := .slot 2 5 0 } = false) ∧
    (let x := ((streaming.core 0).cmds.find 0).getD (newCmd base 0 .hist (.scr 0 0 0 0 0) (.scr 0 0 0 0 0))
     x.kind = .hostOut ∧ x.wrote = [] ∧ x.pre = [] ∧
     (match streaming.streamTr 0 x with
       | .error (some va) => decide (va = 0x301000)
       | _ => false) = true ∧ x.pos ≤ x.len ∧ streaming.canPost (streaming.codeOfCore 0) = true ∧
     ((nx (exec (.hstreamLine 0 0) streaming)).core 0).cmds = []) := by decide +kernel

theorem wit_ReinEvents_clauses :
    towerOfDeck (deckOfCore rw_.core) = 0 ∧ (turn.deck 0).own = [] ∧ (turn.slotDecks 0 100).any (fun d => (turn.deck d).applies) = true ∧
    (let w := { rw_ with core := 200 }
     let s := (base.onTower 0 (fun t => { t with q := 100 })).onDeck 0 (fun d => { d with sendQ := [w] })
     s.slotWrite 0 (100 % 1024) = some (0, w) ∧ towerOfDeck (deckOfCore w.core) ≠ 0 ∧ (nx (exec (.reinSlot 0 []) s)).pkg.tamperstat.getLsbD 3 = true) ∧
    (((turn.slotWrite 0 100).map Prod.snd).getD (emptySlot 100)).received [5] = none ∧
    (let s := (turn.onTower 0 (fun t => { t with q := 9000 })).onDeck 1 (fun d => { d with stale := true, lastQ := 90 })
     s.copiedAt 0 = some 8999 ∧ (s.deck 1).own = [] ∧ (s.deck 1).copying = none) ∧
    (let s := (turn.onTower 0 (fun t => { t with q := 101 })).onDeck 1 (fun d => { d with stale := true, lastQ := 99, copying := some 1 })
     (s.deck 1).copying.isSome = true ∧ (s.tower 0).holds 99 = true) := by decide +kernel

theorem wit_SaveEvents_clauses :
    (base.framesOk 0 = true ∧ (lab g0 t0).pkg.halted = false ∧ ((lab g0 t0).core 0).l1 = [] ∧ ((lab g0 t0).core 0).stackc = []) ∧
    (stopping.teams.find 0).map (fun t => t.saving != 0) = some true ∧
    (let s := (lab { g0 with pend := some (.pf false 0x5000 .load none) } t0).stopTeam 0 2
     (s.saveTeam 0).isSome = false) ∧
    (let s := { stabled (fq (lab { g0 with pend := some (.pf false 0x5000 .load none) } { t0 with launch := 3, lin := 5, scratch := 16, acc := 0, niq := 0 })) with launches := [(3, launch0)] }
     (s.stopTeam 0 2).drained 0 = true ∧ ((s.stopTeam 0 2).part 0).alloc 1 = some 0 ∧ (s.stopTeam 0 2).canPost 0 = true ∧
     (layoutOf [0] 0 16 0).size = 65536) := by decide +kernel

theorem wit_ErrorEvents_sites :
    (let s := fq (lab g0 t0)
     (s.teams.find 0).map (fun x => (x.acc, x.niq)) = some (16, 2) ∧ (s.core 0).l1 = [] ∧ (s.core 0).stackc = [] ∧
     ((s.onCore 0 (fun c => { c with locks := [(0, scrLock 0 (0, 16) true 1)] })).core 0).locks.map (fun e => (e.2.glob, e.2.owner)) = [(false, 0)]) ∧
    ((dat g0 [(0x601F, cleanLine)]).core 0).l1.keys.contains (0x300FFF / 128) = true ∧ (piped [] [tile0 .committed 0]).slotHas 2 5 0 = true ∧
    (snapping []).homeOk 0 ((snapping []).masterDeck 0) 0x602080 = true ∧ (snapping []).homeOk 0 ((snapping []).masterDeck 0) 0x600008 = true ∧
    (snapping []).hostL2.rising = true ∧
    (let s : State := { fq (lab g0 { t0 with rerun := true, launch := 3, lin := 5 }) with
      launches := [(3, { launch0 with stages := [{ stage0 with rerun := true, retry := 1 }] })] }
     (s.team 0).rerun = true ∧ s.canPost 0 = true ∧ stage0.discards.get 0 5 < 1 ∧
     (nx (exec (.stateError 0) s)).teams = [] ∧ ((nx (exec (.stateError 0) s)).part 0).fqtail = 1) := by decide +kernel

theorem wit_LaunchEvents_doomed :
    (launched { launch0 with hitch := true, active := false }).isDoomed 3 = false ∧ (launched launch0).isDoomed 3 = false ∧ (hitched hitch0).isDoomed 3 = false ∧
    (let x := { launch0 with stages := [{ stage0 with next := 8 }] }
     ((launched x).victims 0 1).all (fun v => (launched x).netOk 0 1 v.1) = true) ∧
    (let s := (launched { launch0 with stages := [{ stage0 with next := 8 }] }).onPart 0 (fun p => { p with netbound := 0 })
     s.netOk 0 1 0 = false ∧ ((s.victims 0 1).headD (9, 9)).1 = 0 ∧ s.idleFor 3 { launch0 with stages := [{ stage0 with next := 8 }] } 1 = true) ∧
    (lending lend0).netOk 0 0 1 = true ∧ (lending lend0).netOk 0 1 0 = true ∧ (lending lend0).masterDeck 0 = 0 ∧
    ((lending lend0).onPart 0 (fun p => { p with netbound := 0 })).netOk 0 0 1 = false ∧
    (let x := { launch0 with hitch := true, lastDone := 0 }
     ({ launched x with us := 10 } : State).us ≥ x.lastDone + 10 ∧ (x.stages.length = 1)) := by decide +kernel

/-- A handler at the place 0x200000 of the partition, and one outside it; a lane word that runs over the end of its page. -/
theorem wit_StepRunsDecoded_clauses :
    (let s := (placed 32 0x1050FFF8).onGrp 0 (fun x => { x with sys := true })
     (s.grp 0).sys = true ∧ s.tableIn (s.codeOf 0) 0x200000 = true ∧ s.homeOk (s.codeOf 0) (deckOf 0) 0x200000 = true ∧ s.ctlIssues 0 = true ∧ s.curLane = false ∧
     s.agenda = [] ∧ s.tableIn 0 (187500000 * 4096) = false ∧ (nx (step s)).rg 0 5 = -8) ∧
    (let t := (placed 96 (0x01000000 * 2 ^ 64 + 0x0C040800 * 2 ^ 32)).onTeam 0 (fun x => { x with lcb := 0x200FFC - 12 * 0 })
     4096 < 0x200FFC % 4096 + 12 ∧ (t.translate 0 0 0x200FFC .fetch).toOption.map (fun e => e.2.pa) = some 0x200FFC) ∧
    ((placed 96 (0x01000000 * 2 ^ 64 + 0x0C040800 * 2 ^ 32)).onTeam 0 (fun x => { x with lcn := 0 }) |>.teamOf 0).lcn ≤ 0 ∧
    unordered (.fence .dev) = false ∧ (placed 32 0).early = [] ∧
    ({ base with agenda := [.issue 0 false] } : State).agenda = .issue 0 false :: [] ∧ Instr.isEvent (.tamperpolWrite 1) = true := by decide +kernel

theorem wit_EngineCommands_clauses :
    (cps.teamOf 0).winBad 256 528 = false ∧ ((cps.onTeam 0 (fun t => { t with bad := [8] })).teamOf 0).winBad 256 528 = true ∧
    ((dat rp []).teamOf 0).winBad 0 128 = false ∧ (((dat rp []).onTeam 0 (fun t => { t with bad := [3] })).teamOf 0).winBad 0 128 = true ∧
    (nx (exec (.gst64 4 0 4 1) (piped [] [tile0 .held 0]))).reinEarlier 0 false = true ∧ (piped [] []).netOk 0 0 (deckOfCore 1) = true ∧
    (piped [] []).pipeDown 0 pipe0 = false ∧
    ({ pipe0 with tiles := [{ tile0 .committed 0 with rcd := none }] } : Pipe).nextTile (0, 0) = some { tile0 .committed 0 with rcd := none } ∧
    cps.flipTouches 0 0 [(0x300000, 0x300010)] = false ∧
    (walked.onPart 0 (fun p => { p with flip := some (0x800, true) })).flipTouches 0 1 [(0x5000, 0x5010)] = true ∧
    ((cps.onCore 0 (fun c => { c with locks := (List.range 63).map (fun k => (k, scrLock 9 (0, 16) true 1)) })).registerLocks
      [(0, scrLock 0 (0, 16) false 1), (0, scrLock 0 (32, 48) true 1)]).isSome = false ∧
    ((mat.onGrp 0 (fun x => { x with failed := [0] })).grp 0).failed.any (fun b => markLe b 0) = true := by decide +kernel

end Sys2Proof.Tests
end

section
/-! What a write of the device at the home of its line leaves of the state: all but memory, the bookkeeping of lines and of counters, the
snapshots that it copies or ends, and the interrupts that it raises. -/

namespace Sys2Proof.Machine

open Sys2Proof

/-- What writes at home slices, and the records and events that they post, leave as they were. -/
structure HomeFrame (s t : State) : Prop where
  parts : ∀ j, { t.part j with snap := Snap.empty, intstat := 0 } = { s.part j with snap := Snap.empty, intstat := 0 }
  pkg   : { t.pkg with msixPend := [], msixSent := [] } = { s.pkg with msixPend := [], msixSent := [] }
  rest  : { t with mem := [], hostMem := [], hostL2 := [], poison := [], mirror := [], marks := [], parts := [], pkg := s.pkg, ctr := [] } =
          { s with mem := [], hostMem := [], hostL2 := [], poison := [], mirror := [], marks := [], parts := [], pkg := s.pkg, ctr := [] }

namespace HomeFrame

theorem refl (s : State) : HomeFrame s s := ⟨fun _ => rfl, rfl, rfl⟩

theorem trans {s t u : State} (h : HomeFrame s t) (k : HomeFrame t u) : HomeFrame s u :=
  ⟨fun j => (k.parts j).trans (h.parts j), k.pkg.trans h.pkg,
    (congrArg (fun x : State => { x with pkg := s.pkg }) k.rest).trans h.rest⟩

theorem foldl {α : Type} {f : State → α → State} (h : ∀ s a, HomeFrame s (f s a)) (l : List α) (s : State) :
    HomeFrame s (l.foldl f s) := by
  induction l generalizing s with
  | nil => exact refl s
  | cons a l ih => exact (h s a).trans (ih (f s a))

/-- A change of a partition's snapshot and of its interrupt causes alone. -/
theorem onPart (s : State) (p : Nat) {f : Part → Part}
    (h : { f (s.part p) with snap := Snap.empty, intstat := 0 } = { s.part p with snap := Snap.empty, intstat := 0 }) :
    HomeFrame s (s.onPart p f) := by
  refine ⟨fun j => ?_, rfl, rfl⟩
  by_cases hj : j = p
  · rw [hj, State.part_onPart_self]; exact h
  · rw [State.part_onPart_other s f hj]

theorem setSnap (s : State) (p : Nat) (x : Snap) : HomeFrame s (s.onPart p (fun y => { y with snap := x })) := onPart s p rfl

theorem setCause (s : State) (p b : Nat) : HomeFrame s (s.onPart p (fun y => { y with intstat := y.intstat ||| 1#4 <<< b })) :=
  onPart s p rfl

section
variable {s t : State} (h : HomeFrame s t)
include h

theorem launches : t.launches = s.launches := (congrArg State.launches h.rest :)
theorem fqcfg (j : Nat) : (t.part j).fqcfg = (s.part j).fqcfg := (congrArg Part.fqcfg (h.parts j) :)
theorem fqtail (j : Nat) : (t.part j).fqtail = (s.part j).fqtail := (congrArg Part.fqtail (h.parts j) :)
theorem fqhead (j : Nat) : (t.part j).fqhead = (s.part j).fqhead := (congrArg Part.fqhead (h.parts j) :)
theorem doomed (j : Nat) : (t.part j).doomed = (s.part j).doomed := (congrArg Part.doomed (h.parts j) :)

theorem launch (l : Nat) : t.launch l = s.launch l := congrArg (fun x => Tab.find x l) h.launches

theorem canPost (j : Nat) : t.canPost j = s.canPost j := by simp only [State.canPost, h.fqcfg, h.fqtail, h.fqhead]

end

/-! ## The writes -/

theorem bump (s : State) (a n : Nat) : HomeFrame s (s.bump a n) := ⟨fun _ => rfl, rfl, rfl⟩

theorem bumpCore (s : State) (c off n : Nat) : HomeFrame s (s.bumpCore c off n) := by
  unfold State.bumpCore
  split
  · exact refl s
  · exact bump ..

theorem bumpDeck (s : State) (d off n : Nat) : HomeFrame s (s.bumpDeck d off n) := bump s _ n

theorem dropPacket (s : State) (p : Nat) : HomeFrame s (s.dropPacket p) := bumpCore s _ _ _

theorem vector (s : State) (v : Nat) : HomeFrame s (s.vector v) := by
  unfold State.vector
  split <;> exact ⟨fun _ => rfl, rfl, rfl⟩

theorem cause (s : State) (p b : Nat) : HomeFrame s (s.cause p b) := by
  unfold State.cause
  split
  · exact refl s
  · exact (setCause s p b).trans (vector ..)

theorem rawByte (s : State) (a : Nat) (b : Byte) : HomeFrame s (s.rawByte a b) := by
  unfold State.rawByte
  split
  · exact ⟨fun _ => rfl, rfl, rfl⟩
  · split <;> exact ⟨fun _ => rfl, rfl, rfl⟩

theorem rawBytes (s : State) (a : Nat) (bs : List Byte) : HomeFrame s (s.rawBytes a bs) := by
  induction bs generalizing s a with
  | nil => exact refl s
  | cons b bs ih => exact (rawByte s a b).trans (ih ..)

theorem hostClean (s : State) (line : Nat) : HomeFrame s (s.hostClean line) := ⟨fun _ => rfl, rfl, rfl⟩

theorem setMirror (s : State) (l : List Nat) : HomeFrame s { s with mirror := l } := ⟨fun _ => rfl, rfl, rfl⟩

theorem mirrorLine (s : State) (line : Nat) : HomeFrame s (s.mirrorLine line) := by
  unfold State.mirrorLine
  split
  · exact refl s
  · dsimp only
    split
    · exact refl s
    · refine trans ?_ ((setMirror ..).trans (bumpDeck ..))
      split
      · exact refl s
      · split
        · exact (hostClean ..).trans (setMirror ..)
        · exact refl s

theorem killMarks (s : State) (line : Nat) : HomeFrame s (s.killMarks line) := ⟨fun _ => rfl, rfl, rfl⟩

theorem clearPoison (s : State) (a n : Nat) : HomeFrame s (s.clearPoison a n) := ⟨fun _ => rfl, rfl, rfl⟩

theorem areaPut (s : State) (p a : Nat) (bs : List Byte) : HomeFrame s (s.areaPut p a bs) := by
  unfold State.areaPut
  split
  · exact dropPacket s p
  · exact (foldl (fun s k => mirrorLine s (a / 128 + k)) _ s).trans (rawBytes ..)

theorem areaNat (s : State) (p a n w : Nat) : HomeFrame s (s.areaNat p a n w) := areaPut ..

theorem snapAbandon (s : State) (p : Nat) : HomeFrame s (s.snapAbandon p) :=
  ((areaNat ..).trans (setSnap ..)).trans (cause ..)

theorem snapCopy (s : State) (p line : Nat) : HomeFrame s (s.snapCopy p line) := by
  unfold State.snapCopy
  dsimp only
  split
  · exact refl s
  · split
    · exact refl s
    · split
      · split
        · exact snapAbandon s p
        · exact ((((areaNat ..).trans (areaNat ..)).trans (areaNat ..)).trans (areaPut ..)).trans (setSnap ..)
      · exact (areaPut ..).trans (setSnap ..)

theorem cow (s : State) (line : Nat) : HomeFrame s (s.cow line) := foldl (fun s p => snapCopy s p line) _ s

theorem homeWrite (s : State) (a : Nat) (bs : List Byte) : HomeFrame s (s.homeWrite a bs) := by
  unfold State.homeWrite
  split
  · exact refl s
  · exact ((((cow ..).trans (mirrorLine ..)).trans (killMarks ..)).trans (clearPoison ..)).trans (rawBytes ..)

theorem homeStore (s : State) (a : Nat) (bs : List Byte) : HomeFrame s (s.homeStore a bs) := foldl (fun s _ => homeWrite s _ _) _ s

theorem homeSet (s : State) (a n w : Nat) : HomeFrame s (s.homeSet a n w) := homeStore ..

theorem physSet (s : State) (p a n w : Nat) : HomeFrame s (s.physSet p a n w) := by
  unfold State.physSet
  split
  · exact homeSet ..
  · exact dropPacket s p

theorem devLost (s : State) (p ctx va : Nat) : HomeFrame s (s.devLost p ctx va) := by
  unfold State.devLost
  generalize (_ || _) = far
  show HomeFrame s (if (canonical va && far) = true then s.dropPacket p else s)
  split
  · exact dropPacket s p
  · exact refl s

theorem ctxSet (s : State) (p ctx va n w : Nat) : HomeFrame s (s.ctxSet p ctx va n w) := by
  unfold State.ctxSet
  split
  · exact homeSet ..
  · exact devLost ..

theorem putStatus (s : State) (p ctx va code : Nat) : HomeFrame s (s.putStatus p ctx va code) := by
  unfold State.putStatus
  split
  · exact refl s
  · split
    · exact (homeSet ..).trans (cause ..)
    · exact devLost ..

theorem writeStatus (s : State) (l code : Nat) : HomeFrame s (s.writeStatus l code) := by
  unfold State.writeStatus
  split
  · exact refl s
  · exact putStatus ..

theorem writeDonew (s : State) (l : Nat) : HomeFrame s (s.writeDonew l) := by
  unfold State.writeDonew
  split
  · exact refl s
  · split
    · refine foldl (fun s k => ?_) _ s
      split
      · exact ctxSet ..
      · exact refl s
    · exact refl s

end HomeFrame

end Sys2Proof.Machine
end

section
/-! The fault queue: what posting a record changes, what becomes of the records and of the halts that wait, and the end of a launch
without teams (14 R305, 15 R306, R307). -/

namespace Sys2Proof.Machine

open Sys2Proof

/-! ## Posting a record -/

/-- Advances a partition's FQTAIL by one record. -/
def State.advanceTail (s : State) (p : Nat) : State := s.onPart p (fun y => { y with fqtail := y.fqtail + 1 })

theorem HomeFrame.advanceTail {s t : State} (h : HomeFrame s t) (p : Nat) : HomeFrame (s.advanceTail p) (t.advanceTail p) := by
  refine ⟨fun j => ?_, h.pkg, h.rest⟩
  unfold State.advanceTail
  by_cases hj : j = p
  · subst hj
    rw [State.part_onPart_self, State.part_onPart_self]
    exact (congrArg (fun y : Part => { y with fqtail := y.fqtail + 1 }) (h.parts j) :)
  · rw [State.part_onPart_other t _ hj, State.part_onPart_other s _ hj]
    exact h.parts j

/-- A record that can be posted is: FQTAIL advances. -/
theorem postRec_of_canPost {s : State} {p : Nat} (w : Nat) (h : s.canPost p = true) :
    ∃ t, s.postRec p w = some t ∧ HomeFrame (s.advanceTail p) t := by
  unfold State.postRec
  rw [if_pos h]
  exact ⟨_, rfl, ((HomeFrame.physSet ..).advanceTail p).trans (HomeFrame.cause ..)⟩

theorem postRec_of_not_canPost {s : State} {p : Nat} (w : Nat) (h : s.canPost p = false) : s.postRec p w = none := by
  simp [State.postRec, h]

/-! ## Records and halts that wait -/

theorem postHeld_nil {s : State} {p : Nat} (h : (s.part p).heldRecs = []) :
    s.postHeld p = s.onPart p (fun x => { x with heldRecs := [] }) := by
  rw [State.postHeld, h, State.postList]

theorem postHeld_of_not_canPost {s : State} {p w : Nat} {ws : List Nat} (h : (s.part p).heldRecs = w :: ws) (hc : s.canPost p = false) :
    s.postHeld p = s.onPart p (fun x => { x with heldRecs := w :: ws }) := by
  rw [State.postHeld, h, State.postList, postRec_of_not_canPost w hc]

theorem postHeld_single {s : State} {p w : Nat} (h : (s.part p).heldRecs = [w]) (hc : s.canPost p = true) :
    ∃ t, HomeFrame (s.advanceTail p) t ∧ s.postHeld p = t.onPart p (fun x => { x with heldRecs := [] }) := by
  obtain ⟨t, ht, hf⟩ := postRec_of_canPost w hc
  refine ⟨t, hf, ?_⟩
  rw [State.postHeld, h, State.postList, ht]
  rfl

theorem retryHalts_nil {s : State} {p : Nat} (h : (s.part p).doomed = []) :
    s.retryHalts p = s.onPart p (fun x => { x with doomed := [] }) := by
  rw [State.retryHalts, h, List.foldl_nil]

theorem retryHalts_single {s : State} {p : Nat} {d : Doom} (h : (s.part p).doomed = [d]) :
    s.retryHalts p = (s.onPart p (fun x => { x with doomed := [] })).haltOr d := by
  rw [State.retryHalts, h, List.foldl_cons, List.foldl_nil]

/-! ## The end of a launch -/

theorem onCores_rest (s : State) (f : Core → Core) : { s.onCores f with cores := [] } = { s with cores := [] } := by
  unfold State.onCores
  generalize s.cores.keys = l
  induction l generalizing s with
  | nil => rfl
  | cons c l ih => exact ih (s.onCore c f)

theorem dropLaunch_launch_self (s : State) (l : Nat) : (s.dropLaunch l).launch l = none := by
  unfold State.dropLaunch
  split
  · assumption
  · rw [State.launch_onPart]
    exact (congrArg (fun x : State => x.launches.find l) (onCores_rest ..)).trans (Tab.find_del_self ..)

theorem dropLaunch_part (s : State) (l j : Nat) : { (s.dropLaunch l).part j with saved := [] } = { s.part j with saved := [] } := by
  unfold State.dropLaunch
  split
  · rfl
  next x _ =>
    dsimp only
    generalize ht : State.onCores _ _ = t
    have hp : t.part j = s.part j := ht ▸ (congrArg (fun x : State => x.part j) (onCores_rest ..) :)
    by_cases hj : j = x.part
    · rw [hj, State.part_onPart_self, ← hj, hp]
    · rw [State.part_onPart_other t _ hj, hp]

/-- A launch that has no team and whose record can be posted halts: it is gone, and FQTAIL advances. -/
theorem haltHitch_of_no_team {s : State} {l : Nat} {x : Launch} (code stage pipe team : Nat) (hl : s.launch l = some x)
    (ht : ∀ e ∈ s.teams, e.2.launch ≠ l) (hc : s.canPost x.part = true) :
    ∃ t, s.haltHitch l code stage pipe team = some t ∧ t.launch l = none
      ∧ (t.part x.part).doomed = (s.part x.part).doomed ∧ (t.part x.part).fqtail = (s.part x.part).fqtail + 1 := by
  have hn : s.teams.filter (fun e => e.2.launch == l) = [] := by simpa using ht
  unfold State.haltHitch
  simp only [hl, hc, hn, List.map_nil, List.foldl_nil, Bool.not_true, Bool.false_eq_true, if_false]
  generalize hu : State.writeStatus _ l code = u
  have hf : HomeFrame s u := hu ▸
    ((HomeFrame.foldl (fun _ _ => HomeFrame.ctxSet ..) _ _).trans (HomeFrame.writeDonew ..)).trans (HomeFrame.writeStatus ..)
  have hp := dropLaunch_part u l x.part
  have hcfg : ((u.dropLaunch l).part x.part).fqcfg = (s.part x.part).fqcfg := (congrArg Part.fqcfg hp :).trans (hf.fqcfg _)
  have htail : ((u.dropLaunch l).part x.part).fqtail = (s.part x.part).fqtail := (congrArg Part.fqtail hp :).trans (hf.fqtail _)
  have hhead : ((u.dropLaunch l).part x.part).fqhead = (s.part x.part).fqhead := (congrArg Part.fqhead hp :).trans (hf.fqhead _)
  have hdoom : ((u.dropLaunch l).part x.part).doomed = (s.part x.part).doomed := (congrArg Part.doomed hp :).trans (hf.doomed _)
  have hc' : (u.dropLaunch l).canPost x.part = true := by simpa only [State.canPost, hcfg, htail, hhead] using hc
  obtain ⟨t, hpost, hg⟩ := postRec_of_canPost (launchRec (u.dropLaunch l) x.part x.desc.toNat team x.index x.queue pipe stage code) hc'
  refine ⟨t, hpost, ?_, ?_, ?_⟩
  · rw [hg.launch]; exact dropLaunch_launch_self u l
  · rw [hg.doomed, State.advanceTail, State.part_onPart_self]; exact hdoom
  · rw [hg.fqtail, State.advanceTail, State.part_onPart_self]; exact congrArg (· + 1) htail

/-- A kept halt of a launch without teams whose record can be posted is made. -/
theorem haltOr_of_no_team {s : State} {d : Doom} {x : Launch} (hl : s.launch d.launch = some x)
    (ht : ∀ e ∈ s.teams, e.2.launch ≠ d.launch) (hc : s.canPost x.part = true) :
    (s.haltOr d).launch d.launch = none ∧ ((s.haltOr d).part x.part).doomed = (s.part x.part).doomed
      ∧ ((s.haltOr d).part x.part).fqtail = (s.part x.part).fqtail + 1 := by
  obtain ⟨t, h, ht⟩ := haltHitch_of_no_team d.code d.stage d.pipe d.team hl ht hc
  rw [State.haltOr, h]
  exact ht

end Sys2Proof.Machine
end

section
/-! Register writes of the host (00 R3, 15 R306, R307, 16 R326, R328, R345). -/

namespace Sys2Proof.Machine

open Sys2Proof

/-- Of the whole state only the record of partition code p differs, and it is y. -/
def OnlyPart (s : State) (p : Nat) (t : State) (y : Part) : Prop :=
  t.part p = y ∧ (∀ j, j ≠ p → t.part j = s.part j) ∧ { t with parts := [] } = { s with parts := [] }

namespace OnlyPart

theorem refl (s : State) (p : Nat) : OnlyPart s p s (s.part p) := ⟨rfl, fun _ _ => rfl, rfl⟩

variable {s t : State} {p : Nat} {y : Part}

theorem onPart (h : OnlyPart s p t y) (f : Part → Part) : OnlyPart s p (t.onPart p f) (f y) := by
  obtain ⟨hp, ho, hr⟩ := h
  exact ⟨by rw [State.part_onPart_self, hp], fun j hj => (State.part_onPart_other t f hj).trans (ho j hj), hr⟩

theorem teams (h : OnlyPart s p t y) : t.teams = s.teams := (congrArg State.teams h.2.2 :)

theorem launch (h : OnlyPart s p t y) (l : Nat) : t.launch l = s.launch l := (congrArg (fun x : State => x.launch l) h.2.2 :)

/-- No record waits, or none can be posted: what waits stays. -/
theorem postHeld (h : OnlyPart s p t y) (hw : y.heldRecs = [] ∨ t.canPost p = false) : OnlyPart s p (t.postHeld p) y := by
  have hk : t.postHeld p = t.onPart p (fun x => { x with heldRecs := y.heldRecs }) := by
    cases hy : y.heldRecs with
    | nil => exact postHeld_nil (h.1 ▸ hy)
    | cons w ws => exact postHeld_of_not_canPost (h.1 ▸ hy) (hw.resolve_left (by simp [hy]))
  exact hk ▸ h.onPart (fun x => { x with heldRecs := y.heldRecs })

/-- No halt waits. -/
theorem retryHalts (h : OnlyPart s p t y) (hd : y.doomed = []) : OnlyPart s p (t.retryHalts p) y := by
  rw [retryHalts_nil (h.1 ▸ hd), ← hd]
  exact h.onPart (fun x => { x with doomed := y.doomed })

end OnlyPart

/-! ## FQCFG (15 R306) -/

/-- What a write of FQCFG makes of a partition's record. -/
def Part.writeFqcfg (x : Part) (v : GWord) : Part :=
  if x.fqcfg.getLsbD 0 then { x with fqcfg := BitVec.ofNat 64 (x.fqcfg.toNat / 2 * 2 + v.toNat % 2) }
  else
    let ok := bit v.toNat 0 && 6 ≤ bits v.toNat 8 4
    let cfg := BitVec.ofNat 64 (bits v.toNat 8 44 * 2 ^ 8 + b2n ok)
    if ok then { x with fqcfg := cfg, fqtail := 0, fqhead := 0 } else { x with fqcfg := cfg }

namespace Part

variable {x : Part} {v : GWord}

theorem writeFqcfg_of_enabled (h : x.fqcfg.getLsbD 0 = true) :
    x.writeFqcfg v = { x with fqcfg := BitVec.ofNat 64 (x.fqcfg.toNat / 2 * 2 + v.toNat % 2) } := by
  rw [writeFqcfg, if_pos h]

theorem writeFqcfg_of_enables (h : x.fqcfg.getLsbD 0 = false) (hv : v.getLsbD 0 = true) (h6 : 6 ≤ bits v.toNat 8 4) :
    x.writeFqcfg v = { x with fqcfg := BitVec.ofNat 64 (bits v.toNat 8 44 * 2 ^ 8 + 1), fqtail := 0, fqhead := 0 } := by
  have hok : (bit v.toNat 0 && decide (6 ≤ bits v.toNat 8 4)) = true := Bool.and_eq_true_iff.2 ⟨hv, decide_eq_true h6⟩
  rw [writeFqcfg, h]
  simp [hok, b2n]

theorem writeFqcfg_of_not_enables (h : x.fqcfg.getLsbD 0 = false) (hv : v.getLsbD 0 = false ∨ bits v.toNat 8 4 < 6) :
    x.writeFqcfg v = { x with fqcfg := BitVec.ofNat 64 (bits v.toNat 8 44 * 2 ^ 8) } := by
  have hok : (bit v.toNat 0 && decide (6 ≤ bits v.toNat 8 4)) = false :=
    Bool.and_eq_false_iff.2 (hv.imp id (fun h6 => decide_eq_false (Nat.not_le.2 h6)))
  rw [writeFqcfg, h]
  simp [hok, b2n]

theorem writeFqcfg_heldRecs (x : Part) (v : GWord) : (x.writeFqcfg v).heldRecs = x.heldRecs := by
  unfold writeFqcfg
  dsimp only
  split
  · rfl
  · split <;> rfl

theorem writeFqcfg_doomed (x : Part) (v : GWord) : (x.writeFqcfg v).doomed = x.doomed := by
  unfold writeFqcfg
  dsimp only
  split
  · rfl
  · split <;> rfl

end Part

theorem exec_fqcfgWrite_of_answers {s : State} {p : Nat} (v : GWord) (ha : s.answers p = true) :
    exec (.fqcfgWrite p v) s = .next (((s.onPart p (fun x => x.writeFqcfg v)).postHeld p).retryHalts p) := by
  rw [exec_fqcfgWrite, execFqcfgWrite, ha]
  rfl

/-- With no record and no halt that waits. -/
theorem does_fqcfgWrite {s : State} {p : Nat} (v : GWord) (ha : s.answers p = true) (hh : (s.part p).heldRecs = [])
    (hd : (s.part p).doomed = []) : Does s (.fqcfgWrite p v) (fun t => OnlyPart s p t ((s.part p).writeFqcfg v)) :=
  ⟨_, exec_fqcfgWrite_of_answers v ha,
    (((OnlyPart.refl s p).onPart _).postHeld (.inl ((Part.writeFqcfg_heldRecs ..).trans hh))).retryHalts ((Part.writeFqcfg_doomed ..).trans hd)⟩

/-! ## FQHEAD (15 R307) -/

/-- The state after FQHEAD has its new value, before anything that waits is posted. -/
def State.setFqhead (s : State) (p : Nat) (v : GWord) : State := s.onPart p (fun x => { x with fqhead := v.setWidth 32 })

section
variable {s : State} {p : Nat} {v : GWord}

theorem part_setFqhead (s : State) (p : Nat) (v : GWord) : (s.setFqhead p v).part p = { s.part p with fqhead := v.setWidth 32 } :=
  State.part_onPart_self ..

/-- There is room exactly if the queue is enabled and holds fewer records than it can. -/
theorem canPost_setFqhead (s : State) (p : Nat) (v : GWord) : (s.setFqhead p v).canPost p =
    ((s.part p).fqcfg.getLsbD 0 && decide (((s.part p).fqtail - v.setWidth 32).toNat < 2 ^ bits (s.part p).fqcfg.toNat 8 4)) := by
  rw [State.canPost, part_setFqhead]

theorem canPost_setFqhead_of_room (hen : (s.part p).fqcfg.getLsbD 0 = true)
    (hroom : ((s.part p).fqtail - v.setWidth 32).toNat < 2 ^ bits (s.part p).fqcfg.toNat 8 4) : (s.setFqhead p v).canPost p = true := by
  rw [canPost_setFqhead, hen, decide_eq_true hroom]
  rfl

theorem canPost_setFqhead_of_no_room (h : (s.part p).fqcfg.getLsbD 0 = false ∨
    ¬ ((s.part p).fqtail - v.setWidth 32).toNat < 2 ^ bits (s.part p).fqcfg.toNat 8 4) : (s.setFqhead p v).canPost p = false := by
  rw [canPost_setFqhead]
  exact Bool.and_eq_false_iff.2 (h.imp id decide_eq_false)

theorem exec_fqheadWrite_of_answers (v : GWord) (ha : s.answers p = true) :
    exec (.fqheadWrite p v) s = .next (((s.setFqhead p v).postHeld p).retryHalts p) := by
  rw [exec_fqheadWrite, execFqheadWrite, if_pos ha]
  rfl

/-- With nothing that waits, or no room for a record that does. -/
theorem does_fqheadWrite (ha : s.answers p = true) (hw : (s.part p).heldRecs = [] ∨ (s.setFqhead p v).canPost p = false)
    (hd : (s.part p).doomed = []) :
    Does s (.fqheadWrite p v) (fun t => OnlyPart s p t { s.part p with fqhead := v.setWidth 32 }) :=
  ⟨_, exec_fqheadWrite_of_answers v ha, (((OnlyPart.refl s p).onPart _).postHeld hw).retryHalts hd⟩

/-- The one record that waits is posted when there is room. -/
theorem does_fqheadWrite_posts {w : Nat} (ha : s.answers p = true) (hh : (s.part p).heldRecs = [w]) (hd : (s.part p).doomed = [])
    (hc : (s.setFqhead p v).canPost p = true) :
    Does s (.fqheadWrite p v) (fun t => (t.part p).heldRecs = [] ∧ (t.part p).fqtail = (s.part p).fqtail + 1
      ∧ (t.part p).fqhead = v.setWidth 32 ∧ (t.part p).fqcfg = (s.part p).fqcfg) := by
  obtain ⟨t, hf, ht⟩ := postHeld_single (by rw [part_setFqhead]; exact hh) hc
  have hp : ((s.setFqhead p v).advanceTail p).part p = { s.part p with fqhead := v.setWidth 32, fqtail := (s.part p).fqtail + 1 } := by
    rw [State.advanceTail, State.part_onPart_self, part_setFqhead]
  have hdt : (((s.setFqhead p v).postHeld p).part p).doomed = [] := by
    rw [ht, State.part_onPart_self]
    exact (hf.doomed p).trans (by rw [hp]; exact hd)
  refine ⟨_, exec_fqheadWrite_of_answers v ha, ?_⟩
  beta_reduce
  rw [retryHalts_nil hdt, ht, State.part_onPart_self, State.part_onPart_self]
  refine ⟨rfl, (hf.fqtail p).trans ?_, (hf.fqhead p).trans ?_, (hf.fqcfg p).trans ?_⟩ <;> rw [hp]

/-- The one halt that waits, of a launch without teams, is made when there is room for its record. -/
theorem does_fqheadWrite_halts {d : Doom} {y : Launch} (ha : s.answers p = true) (hh : (s.part p).heldRecs = [])
    (hd : (s.part p).doomed = [d]) (hl : s.launch d.launch = some y) (hy : y.part = p) (hn : ∀ e ∈ s.teams, e.2.launch ≠ d.launch)
    (hc : (s.setFqhead p v).canPost p = true) :
    Does s (.fqheadWrite p v) (fun t => t.launch d.launch = none ∧ (t.part p).doomed = [] ∧ (t.part p).fqtail = (s.part p).fqtail + 1) := by
  have hpost : OnlyPart s p ((s.setFqhead p v).postHeld p) { s.part p with fqhead := v.setWidth 32 } :=
    ((OnlyPart.refl s p).onPart _).postHeld (.inl hh)
  have hretry := retryHalts_single ((congrArg Part.doomed hpost.1 :).trans hd)
  generalize hdef : ((s.setFqhead p v).postHeld p).onPart p (fun x => { x with doomed := [] }) = u at hretry
  have hu : OnlyPart s p u { s.part p with fqhead := v.setWidth 32, doomed := [] } := hdef ▸ hpost.onPart _
  have hcu : u.canPost y.part = true := by rw [hy, State.canPost, hu.1, ← hc, canPost_setFqhead]
  have h := haltOr_of_no_team ((hu.launch d.launch).trans hl) (by rw [hu.teams]; exact hn) hcu
  rw [hy, hu.1] at h
  exact ⟨_, exec_fqheadWrite_of_answers v ha, by rw [hretry]; exact h⟩

end

/-! ## A partition's register blocks (00 R3) -/

theorem mgmt_of_answers {s : State} {p : Nat} (h : s.answers p = true) : s.mgmt = true := by
  simp only [State.answers, Bool.and_eq_true] at h
  obtain ⟨⟨hm, -⟩, -⟩ := h
  exact hm

/-- A write at an offset of a partition's registers in one of the three blocks. -/
theorem does_registerWrite_part {s : State} {p : Nat} (block off : Nat) (v : GWord) (hp : p < 7) (ha : s.answers p = true)
    (hb : block = 0x20000 ∨ block = 0x30000 ∨ block = 0x60000) (ho : off < 0x40) (h8 : off % 8 = 0) :
    Does s (.registerWrite (block + off + 0x40 * p) v) (fun t => OnlyPart s p t ((s.part p).write block off v (s.unquiet p == 0))) := by
  have hm := mgmt_of_answers ha
  have haddr : (block + off + 0x40 * p) % 8 = 0 ∧ block + off + 0x40 * p ≠ 0x50000 ∧ (block + off + 0x40 * p) / 0x10000 * 0x10000 = block
      ∧ (block + off + 0x40 * p) % 0x10000 / 0x40 = p ∧ (block + off + 0x40 * p) % 0x40 = off := by omega
  obtain ⟨hal, hcmd, hblock, hpart, hoff⟩ := haddr
  refine ⟨s.onPart p (fun x => x.write block off v (s.unquiet p == 0)), ?_, (OnlyPart.refl s p).onPart _⟩
  rw [exec_registerWrite, execRegisterWrite]
  simp [hal, hcmd, hm, hblock, hpart, hoff, hb, hp, ha, runEvent, or_assoc]

/-- INTCFG takes a write only while the partition is quiet. -/
theorem Part.write_intcfg (x : Part) (v : GWord) (n : Nat) :
    x.write 0x60000 0 v (n == 0) = if n = 0 then { x with intcfg := v.setWidth 2 } else x := by
  simp only [Part.write, beq_iff_eq]

/-! ## Package registers (16 R326, R328, R345, 17 R360) -/

theorem does_registerWrite_pkg {s : State} {addr : Nat} (v : GWord) (hm : s.mgmt = true) (h8 : addr % 8 = 0)
    (hlo : 0x40000 ≤ addr) (hhi : addr < 0x60000) (hcmd : addr ≠ 0x50000) :
    Does s (.registerWrite addr v) (fun t => t = s.writePkg addr v) := by
  have hblock : addr / 0x10000 * 0x10000 ≠ 0x20000 ∧ addr / 0x10000 * 0x10000 ≠ 0x30000 ∧ addr / 0x10000 * 0x10000 ≠ 0x60000 := by omega
  have hctr : s.isCounter addr = false := by
    simp [State.isCounter, show ¬ 0x700000 ≤ addr by omega, show ¬ 0x780000 ≤ addr by omega, show ¬ 0x800000 ≤ addr by omega]
  refine ⟨_, ?_, rfl⟩
  rw [exec_registerWrite, execRegisterWrite]
  simp [h8, hcmd, hm, hblock, hctr, runEvent]

/-- A FABGRAPH entry takes the value that the rules of its fields leave. -/
theorem writePkg_fabgraph (s : State) (v : GWord) {n : Nat} (hn : n < 128) :
    (s.writePkg (0x41000 + 8 * n) v).pkg.fabgraph.get 0 n = fabWrite v.toNat := by
  have hne : 0x41000 + 8 * n ≠ 0x40008 := by omega
  have hhi : 0x41000 + 8 * n < 0x41400 := by omega
  simp [State.writePkg, hne, hhi]

/-- An entry keeps its fields. -/
theorem fabWrite_fields (w : Nat) : fabWrite w >>> 1 = BitVec.ofNat 64 (bits w 1 20) := by
  have hf : bits w 1 20 < 2 ^ 20 := Nat.mod_lt _ (by decide)
  have hb : ∀ b, b2n b ≤ 1 := by decide
  apply BitVec.eq_of_toNat_eq
  simp only [fabWrite, BitVec.toNat_ushiftRight, BitVec.toNat_ofNat, Nat.shiftRight_eq_div_pow]
  have := hb (bit w 0 && !(fabCvt w == 3 || decide (2 ≤ fabCmp w) || fabRed w == 3 || (fabRed w != 0 && bit w 7)))
  omega

/-- An entry that would be enabled with a forbidden value of CVT, CMP or RED, or with RED and bit 7, is disabled. -/
theorem fabWrite_enabled (v : GWord) : (fabWrite v.toNat).getLsbD 0 = true ↔
    v.getLsbD 0 = true ∧ bits v.toNat 13 2 ≠ 3 ∧ bits v.toNat 11 2 < 2 ∧ bits v.toNat 8 2 ≠ 3
      ∧ (bits v.toNat 8 2 = 0 ∨ v.getLsbD 7 = false) := by
  have h : ∀ n b, (BitVec.ofNat 64 (n * 2 + b2n b)).getLsbD 0 = b := by
    intro n b
    rw [BitVec.getLsbD, BitVec.toNat_ofNat, Nat.testBit_zero]
    cases b
    · exact decide_eq_false (by have : b2n false = 0 := rfl; omega)
    · exact decide_eq_true (by have : b2n true = 1 := rfl; omega)
  rw [fabWrite, h]
  show (v.getLsbD 0 && !(bits v.toNat 13 2 == 3 || decide (2 ≤ bits v.toNat 11 2) || bits v.toNat 8 2 == 3
    || (bits v.toNat 8 2 != 0 && v.getLsbD 7))) = true ↔ _
  simp [and_assoc, or_iff_not_imp_left, Nat.lt_succ_iff]

/-! ## FCMD (17 R360, R365) -/

theorem does_fcmdWrite {s : State} (v : GWord) (hm : s.mgmt = true) (hf : s.pkg.fstate ≠ 1) :
    Does s (.registerWrite 0x50000 v) (fun t =>
      let u := { s with pkg := { s.pkg with fcmd := BitVec.ofNat 64 (bits v.toNat 16 48 * 2 ^ 16 + bits v.toNat 0 8), fstate := 1, freason := 0 } }
      t = if fcmdKnown (bits v.toNat 0 8) then u else u.fdone 3 1) := by
  obtain ⟨hb, hh⟩ : s.pkg.booted = true ∧ s.pkg.halted = false := by simpa [State.mgmt] using hm
  refine ⟨_, ?_, rfl⟩
  rw [exec_registerWrite, execRegisterWrite]
  simp [State.writeFcmd, hf, hb, hh, runEvent]

/-! ### What FSTAT and FINTSTAT hold when a command is answered (16 R328) -/

theorem fdone_pkg (s : State) (st reason : Nat) :
    { (s.fdone st reason).pkg with fintstat := 0, msixPend := [], msixSent := [] } =
      { s.pkg with fstate := st, freason := reason, fintstat := 0, msixPend := [], msixSent := [] } := by
  unfold State.fdone State.fcause
  split
  · rfl
  · exact (congrArg (fun k : Pkg => { k with fintstat := 0 }) (HomeFrame.vector _ _).pkg :)

theorem fdone_fstate (s : State) (st reason : Nat) : (s.fdone st reason).pkg.fstate = st :=
  (congrArg Pkg.fstate (fdone_pkg s st reason) :)

theorem fdone_freason (s : State) (st reason : Nat) : (s.fdone st reason).pkg.freason = reason :=
  (congrArg Pkg.freason (fdone_pkg s st reason) :)

theorem fdone_fintstat (s : State) (st reason : Nat) : (s.fdone st reason).pkg.fintstat.getLsbD 0 = true := by
  unfold State.fdone State.fcause
  split
  · assumption
  · rw [(congrArg Pkg.fintstat (HomeFrame.vector _ _).pkg :)]
    simp

end Sys2Proof.Machine

namespace Sys2Proof

open Sys2Proof.Machine

/-- Settles O57: FQCFG and FQHEAD by what posting a record and halting a launch keep, every other register by the case of its address. -/
theorem hostRegisterEvents : Obligations.HostRegisterEvents := by
  unfold Obligations.HostRegisterEvents
  intro s p v hm
  refine ⟨fun ha => ⟨?_, ?_, ?_, ?_, ?_, ?_, ?_⟩, ?_, ?_, ?_, ?_, ?_, ?_, ?_⟩
  · intro hh hd hen
    exact Part.writeFqcfg_of_enabled hen ▸ does_fqcfgWrite v ha hh hd
  · intro hh hd hen hv h6
    exact Part.writeFqcfg_of_enables hen hv h6 ▸ does_fqcfgWrite v ha hh hd
  · intro hh hd hen hv
    exact Part.writeFqcfg_of_not_enables hen hv ▸ does_fqcfgWrite v ha hh hd
  · exact fun hh hd => does_fqheadWrite ha (.inl hh) hd
  · intro w ws hh hd
    exact ⟨fun hen hroom hws => does_fqheadWrite_posts ha (hws ▸ hh) hd (canPost_setFqhead_of_room hen hroom),
      fun hfull => does_fqheadWrite ha (.inr (canPost_setFqhead_of_no_room hfull)) hd⟩
  · intro d y hh hd hl hy hn hen hroom
    exact does_fqheadWrite_halts ha hh hd hl hy hn (canPost_setFqhead_of_room hen hroom)
  · intro hp
    refine ⟨?_, ?_, ?_, ?_, ?_⟩
    · exact does_registerWrite_part 0x20000 0 v hp ha (by decide) (by decide) (by decide)
    · exact does_registerWrite_part 0x30000 0 v hp ha (by decide) (by decide) (by decide)
    · exact does_registerWrite_part 0x30000 0x18 v hp ha (by decide) (by decide) (by decide)
    · have h := does_registerWrite_part 0x60000 0 v hp ha (by decide) (by decide) (by decide)
      rw [Part.write_intcfg] at h
      exact h
    · exact does_registerWrite_part 0x60000 8 v hp ha (by decide) (by decide) (by decide)
  · intro hports
    obtain ⟨t, he, ht⟩ := does_registerWrite_pkg (addr := 0x40008) v hm (by decide) (by decide) (by decide) (by decide)
    refine ⟨t, he, ht.trans (if_neg ?_)⟩
    simpa [imp_iff_not_or] using hports
  · exact does_registerWrite_pkg v hm (by decide) (by decide) (by decide) (by decide)
  · exact does_registerWrite_pkg v hm (by decide) (by decide) (by decide) (by decide)
  · exact does_registerWrite_pkg v hm (by decide) (by decide) (by decide) (by decide)
  · intro n hn
    obtain ⟨t, he, ht⟩ := does_registerWrite_pkg (addr := 0x41000 + 8 * n) v hm (by omega) (by omega) (by omega) (by omega)
    refine ⟨t, he, ?_⟩
    beta_reduce
    rw [ht, writePkg_fabgraph s v hn]
    exact ⟨fabWrite_fields _, fabWrite_enabled v⟩
  · intro hf hk
    obtain ⟨t, he, ht⟩ := does_fcmdWrite v hm hf
    exact ⟨t, he, ht.trans (if_pos hk)⟩
  · intro hf hk
    obtain ⟨t, he, ht⟩ := does_fcmdWrite v hm hf
    refine ⟨t, he, ?_⟩
    rw [ht, if_neg (by simp [hk])]
    exact ⟨fdone_fstate .., fdone_freason .., fdone_fintstat ..⟩

end Sys2Proof
end

section
/-! Tables, checks and frames that the words of a group share: an entry after a drop of keys, a table made from a range of keys, the
checks at the start of a word, and a word that changes its group's record, with its team's record or without. -/

namespace Sys2Proof.Machine

open Sys2Proof

/-! ## Tables -/

theorem Tab.find_dropIf_key {α : Type} (t : Tab α) (f : Nat → Bool) (k : Nat) :
    Tab.find (Tab.dropIf t (fun j _ => f j)) k = if f k then none else Tab.find t k := by
  induction t with
  | nil => simp [Tab.dropIf]
  | cons e t ih =>
    obtain ⟨j, x⟩ := e
    simp only [Tab.dropIf] at ih ⊢
    by_cases hj : j = k
    · subst hj
      cases hf : f j <;> simp [Tab.find, hf, ih]
    · cases hf : f j <;> simp [Tab.find, hj, hf, ih]

/-- The table that lists f k for every key k of a list. -/
theorem Tab.get_map_of_mem {α : Type} {l : List Nat} (f : Nat → α) (d : α) {k : Nat} (h : k ∈ l) :
    Tab.get (l.map (fun j => (j, f j))) d k = f k := by
  unfold Tab.get
  induction l with
  | nil => cases h
  | cons j l ih =>
    by_cases hj : j = k
    · simp [Tab.find, hj]
    · simpa [Tab.find, hj] using ih ((List.mem_cons.1 h).resolve_left (Ne.symm hj))

/-! ## The checks at the start of a control word -/

theorem notFarrier_bind {α : Type} {g : Nat} (h : g ≠ farrierId) (m : Unit → R α) : (notFarrier g >>= m) = m () := by
  have hb : (g != farrierId) = true := bne_iff_ne.2 h
  rw [notFarrier, legal, need, hb]
  rfl

theorem legal_bind_true {α : Type} {c : Bool} (h : c = true) (m : Unit → R α) : (legal c >>= m) = m () := by subst h; rfl

theorem legal_bind_false {α : Type} {c : Bool} (h : c = false) (m : Unit → R α) : (legal c >>= m) = .error (trapOf cILLEGAL) := by
  subst h; rfl

theorem afterBlocks_bind_true {α : Type} {s : State} {g : Nat} (h : s.blocksEnded g = true) (m : Unit → R α) :
    (afterBlocks s g >>= m) = m () := by
  rw [afterBlocks, if_pos h]
  rfl

theorem afterBlocks_bind_false {α : Type} {s : State} {g : Nat} (h : s.blocksEnded g = false) (m : Unit → R α) :
    (afterBlocks s g >>= m) = waitC s g .laneq := by
  rw [afterBlocks, h]
  rfl

/-- A word whose meaning is ILLEGAL traps so. -/
theorem ctlTraps_illegal {s : State} {i : Instr} {m : Nat → R State} (hf : s.cur ≠ farrierId) (he : exec i s = runCtrl s m)
    (hm : m s.cur = .error (trapOf cILLEGAL)) : CtlTraps s i 0x01 0 0 :=
  he.trans (runCtrl_trap hm hf)

end Sys2Proof.Machine

/-! ## Words that change the group's record and its team's -/

namespace Sys2Proof

open Sys2Proof.Machine

theorem onlyGroup_onGrp (s : State) (f : Group → Group) : OnlyGroup s (s.onGrp s.cur f) (f (s.grp s.cur)) :=
  ⟨State.grp_onGrp_self .., fun _ hg => State.grp_onGrp_other _ _ hg, rfl, fun _ => rfl⟩

theorem OnlyGroup.onGrp {s t : State} {x : Group} (h : OnlyGroup s t x) (f : Group → Group) : OnlyGroup s (t.onGrp s.cur f) (f x) := by
  obtain ⟨hx, ho, hr, hb⟩ := h
  exact ⟨by rw [State.grp_onGrp_self, hx], fun g hg => (State.grp_onGrp_other _ _ hg).trans (ho g hg), hr, hb⟩

theorem OnlyGroup.adv {s t : State} {x : Group} (h : OnlyGroup s t x) (n : Nat) :
    OnlyGroup s (t.adv s.cur n) { x with pc := x.pc + BitVec.ofNat 64 n, cwait := .none } := by
  rw [State.adv, State.goto, h.1]
  exact h.onGrp _

theorem waits_of_error {s : State} {i : Instr} {m : Nat → R State} {r : Stall} (he : exec i s = runCtrl s m)
    (hm : m s.cur = waitC s s.cur r) : Waits s i r :=
  ⟨_, he.trans (runCtrl_wait hm), onlyGroup_onGrp s _⟩

theorem onlyTeam_onTeam (s : State) (f : Team → Team) :
    OnlyTeam s (s.onTeam (s.grp s.cur).team f) (s.grp s.cur) (f (s.teamOf s.cur)) :=
  ⟨rfl, fun _ _ => rfl, State.team_onTeam_self .., fun _ hk => State.team_onTeam_other _ _ hk, rfl, fun _ => rfl⟩

theorem OnlyTeam.onGrp {s t : State} {x : Group} {y : Team} (h : OnlyTeam s t x y) (f : Group → Group) :
    OnlyTeam s (t.onGrp s.cur f) (f x) y := by
  obtain ⟨hx, ho, hy, hk, hr, hb⟩ := h
  exact ⟨by rw [State.grp_onGrp_self, hx], fun g hg => (State.grp_onGrp_other _ _ hg).trans (ho g hg), hy, hk, hr, hb⟩

theorem OnlyTeam.adv {s t : State} {x : Group} {y : Team} (h : OnlyTeam s t x y) (n : Nat) :
    OnlyTeam s (t.adv s.cur n) { x with pc := x.pc + BitVec.ofNat 64 n, cwait := .none } y := by
  rw [State.adv, State.goto, h.1]
  exact h.onGrp _

/-- The team's record, of a group that stays in its team. -/
theorem OnlyTeam.teamOf {s t : State} {x : Group} {y : Team} (h : OnlyTeam s t x y) (ht : x.team = (s.grp s.cur).team) :
    t.teamOf s.cur = y := by
  obtain ⟨hx, -, hy, -⟩ := h
  rw [State.teamOf, hx, ht, hy]

end Sys2Proof
end

section
/-! The end of a group (02 R25): what it gives up, and its slot after it. -/

namespace Sys2Proof.Machine

open Sys2Proof

/-- The early loads, the mark, the deferred future entries and the handler bank of ended groups are given up; each group stays in its
team, and nothing changes in the teams, the decks or memory. -/
structure GivesUp (s t : State) : Prop where
  team : ∀ j, (t.grp j).team = (s.grp j).team
  rest : { t with groups := [], deferred := [], marks := [], early := [], cores := [] } =
         { s with groups := [], deferred := [], marks := [], early := [], cores := [] }

namespace GivesUp

theorem refl (s : State) : GivesUp s s := ⟨fun _ => rfl, rfl⟩

theorem trans {s t u : State} (h : GivesUp s t) (k : GivesUp t u) : GivesUp s u :=
  ⟨fun j => (k.team j).trans (h.team j), k.rest.trans h.rest⟩

/-- A change of a group's record that leaves the group in its team. -/
theorem onGrp (s : State) (g : Nat) {f : Group → Group} (h : (f (s.grp g)).team = (s.grp g).team) : GivesUp s (s.onGrp g f) := by
  refine ⟨fun j => ?_, rfl⟩
  by_cases hj : j = g
  · rw [hj, State.grp_onGrp_self, h]
  · rw [State.grp_onGrp_other _ _ hj]

theorem withdrawIf (s : State) (f : Defer → Bool) : GivesUp s (s.withdrawIf f) := by
  unfold State.withdrawIf
  refine List.foldlRecOn _ _ ⟨fun _ => rfl, rfl⟩ fun t ht d _ => ht.trans (onGrp t d.gid rfl)

theorem dropMark (s : State) (g : Nat) : GivesUp s (s.dropMark g) := ⟨fun _ => rfl, rfl⟩

theorem dropEarly (s : State) (g : Nat) : GivesUp s (s.dropEarly g) := by
  unfold State.dropEarly
  split
  · exact refl s
  · exact ⟨fun _ => rfl, rfl⟩

theorem freeBank (s : State) (g : Nat) : GivesUp s (s.freeBank g) := by
  unfold State.freeBank
  split
  · exact ⟨fun _ => rfl, rfl⟩
  · exact refl s

theorem teams {s t : State} (h : GivesUp s t) (k : Nat) : t.team k = s.team k := (congrArg (fun x : State => x.team k) h.rest :)

theorem homeByte {s t : State} (h : GivesUp s t) (a : Nat) : t.homeByte a = s.homeByte a :=
  (congrArg (fun x : State => x.homeByte a) h.rest :)

end GivesUp

/-- A test of a barrier changes barriers alone. -/
theorem Team.barTest_rest (t : Team) (k : Nat) : { t.barTest k with bars := [] } = { t with bars := [] } := by
  unfold Team.barTest
  dsimp only
  split <;> rfl

theorem Team.barTestAll_rest (t : Team) : { t.barTestAll with bars := [] } = { t with bars := [] } := by
  unfold Team.barTestAll
  exact List.foldlRecOn (motive := fun u => { u with bars := [] } = { t with bars := [] }) _ _ rfl
    fun u hu k _ => (Team.barTest_rest u k).trans hu

@[simp] theorem Team.barTestAll_claims (t : Team) : t.barTestAll.claims = t.claims := by
  simpa only using congrArg Team.claims (barTestAll_rest t)
@[simp] theorem Team.barTestAll_free (t : Team) : t.barTestAll.free = t.free := by
  simpa only using congrArg Team.free (barTestAll_rest t)
@[simp] theorem Team.barTestAll_slots (t : Team) : t.barTestAll.slots = t.slots := by
  simpa only using congrArg Team.slots (barTestAll_rest t)

/-- No claim of the bay waits, so none is tested. -/
theorem claimTest_of_no_claim {s : State} {k b : Nat} (h : (s.team k).headClaim b = none) : s.claimTest k b = s := by
  have hl : s.claimLocked k b = false := by simp only [State.claimLocked, h]
  rw [State.claimTest, hl]
  rfl

/-- Withdrawing claims leaves a bay in which none waits so. -/
theorem Team.headClaim_filter {t : Team} {b : Nat} (f : Claim → Bool) (h : t.headClaim b = none) :
    Team.headClaim { t with claims := t.claims.filter f } b = none :=
  List.find?_eq_none.2 fun c hc => List.find?_eq_none.1 h c (List.mem_of_mem_filter hc)

/-! ## The steps of the end of a group -/

/-- The deferred future entries, the mark, the early loads and the handler bank of a group that ends are given up. -/
def State.giveUp (s : State) (g : Nat) : State := (((s.withdraw g).dropMark g).dropEarly g).freeBank g

/-- Its window writes that its deck has accepted go on without it (04 R110). -/
def State.leaveDeck (s : State) (g : Nat) : State :=
  s.onDeck (deckOf g) (fun d => { d with sendQ := d.sendQ.map (RWrite.orphan [g]), own := d.own.map (RWrite.orphan [g]) })

/-- Its team's record: the slot is free, the registers are back in the bay's sub-pool, and the barriers, which may need one arrival
less, are tested. -/
def Team.vacate (t : Team) (g count : Nat) : Team :=
  Team.barTestAll { t with
    free := t.free.set 0 (bayOf g) (t.free.get 0 (bayOf g) + count),
    slots := t.slots.map (fun h => if h.slot == slotOf g && h.occ then { h with occ := false } else h) }

/-- Its matrix operations stay in the queue under another number. -/
def State.leaveMatq (s : State) (g : Nat) : State :=
  s.onCore (coreOf g) (fun k => { k with matq := k.matq.map (fun m => if m.gid == g then { m with gid := endedGid g } else m) })

/-- Its slot holds no group. -/
def State.delGrp (s : State) (g : Nat) : State := { s with groups := s.groups.del g }

/-- The state in which the end of a group has its bay's claims tested (R36). -/
def State.vacated (s : State) (g : Nat) : State :=
  ((((((s.giveUp g).dropClaim g).leaveDeck g).onTeam (s.grp g).team (fun t => t.vacate g (s.grp g).count)).leaveMatq g).delGrp g)

theorem endGroup_eq (s : State) (g : Nat) : s.endGroup g = (s.vacated g).claimTest (s.grp g).team (bayOf g) := rfl

theorem GivesUp.giveUp (s : State) (g : Nat) : GivesUp s (s.giveUp g) :=
  (((withdrawIf ..).trans (dropMark ..)).trans (dropEarly ..)).trans (freeBank ..)

@[simp] theorem Team.vacate_claims (t : Team) (g count : Nat) : (t.vacate g count).claims = t.claims := barTestAll_claims _
theorem Team.vacate_headClaim (t : Team) (g count b : Nat) : (t.vacate g count).headClaim b = t.headClaim b := by
  simp only [Team.headClaim, Team.vacate_claims]
@[simp] theorem Team.vacate_free (t : Team) (g count : Nat) :
    (t.vacate g count).free = t.free.set 0 (bayOf g) (t.free.get 0 (bayOf g) + count) := barTestAll_free _
@[simp] theorem Team.vacate_slots (t : Team) (g count : Nat) : (t.vacate g count).slots =
    t.slots.map (fun h => if h.slot == slotOf g && h.occ then { h with occ := false } else h) := barTestAll_slots _

theorem team_leaveDeck (s : State) (g k : Nat) : (s.leaveDeck g).team k = s.team k := rfl
theorem team_leaveMatq (s : State) (g k : Nat) : (s.leaveMatq g).team k = s.team k := rfl
theorem team_delGrp (s : State) (g k : Nat) : (s.delGrp g).team k = s.team k := rfl

theorem homeByte_onTeam (s : State) (k a : Nat) (f : Team → Team) : (s.onTeam k f).homeByte a = s.homeByte a := rfl
theorem homeByte_leaveDeck (s : State) (g a : Nat) : (s.leaveDeck g).homeByte a = s.homeByte a := rfl
theorem homeByte_leaveMatq (s : State) (g a : Nat) : (s.leaveMatq g).homeByte a = s.homeByte a := rfl
theorem homeByte_delGrp (s : State) (g a : Nat) : (s.delGrp g).homeByte a = s.homeByte a := rfl

theorem team_vacated (s : State) (g : Nat) : (s.vacated g).team (s.grp g).team =
    Team.vacate { s.teamOf g with claims := (s.teamOf g).claims.filter (fun c => c.gid != g) } g (s.grp g).count := by
  have hg := GivesUp.giveUp s g
  rw [State.vacated, team_delGrp, team_leaveMatq, State.team_onTeam_self, team_leaveDeck, State.dropClaim, hg.team,
    State.team_onTeam_self, hg.teams]
  rfl

theorem grp_vacated (s : State) (g : Nat) : (s.vacated g).grp g = Group.empty := by
  simp [State.vacated, State.delGrp, State.grp, Tab.get, Tab.find_del_self]

theorem homeByte_vacated (s : State) (g a : Nat) : (s.vacated g).homeByte a = s.homeByte a := by
  rw [State.vacated, homeByte_delGrp, homeByte_leaveMatq, homeByte_onTeam, homeByte_leaveDeck, State.dropClaim, homeByte_onTeam,
    (GivesUp.giveUp s g).homeByte]

/-- No claim waits in the bay, and the group's own is withdrawn: the end of the group tests none. -/
theorem endGroup_of_no_claim {s : State} {g : Nat} (h : (s.teamOf g).headClaim (bayOf g) = none) : s.endGroup g = s.vacated g := by
  rw [endGroup_eq]
  refine claimTest_of_no_claim ?_
  rw [team_vacated, Team.vacate_headClaim]
  exact Team.headClaim_filter _ h

/-- gend of a group that need not wait. -/
theorem exec_gend_of_ended {s : State} (hf : s.cur ≠ farrierId) (hq : (s.grp s.cur).laneQ.all (fun b => b.posted) = true)
    (hb : (s.grp s.cur).hblock = none) (hm : s.mmaVPending s.cur = false) : exec .gend s = .next (s.endGroup s.cur) := by
  rw [exec_gend, execGend]
  refine runCtrl_ok ?_
  simp only [notFarrier_bind hf, hq, hb, hm]
  rfl

end Sys2Proof.Machine
end

section
/-! Registers between a group and its bay's sub-pool (02 R34, 08 R198). -/

namespace Sys2Proof.Machine

open Sys2Proof

/-- The current group's registers from lo up to hi become zero, it has count of them, and its bay's sub-pool has free; its control
stream goes on. -/
def State.resize (s : State) (lo hi count free : Nat) : State :=
  ((s.onTeam (s.grp s.cur).team (fun t => { t with free := t.free.set 0 (bayOf s.cur) free })).onGrp s.cur
    (fun x => { x.zeroRegs lo hi with count := count })).adv s.cur 4

theorem Group.zeroRegs_get (x : Group) (lo hi r : Nat) {l : Nat} (hl : l < 32) :
    (x.zeroRegs lo hi).v.get 0 (r * 32 + l) = if lo ≤ r ∧ r < hi then 0 else x.v.get 0 (r * 32 + l) := by
  have hk : (decide (32 * lo ≤ r * 32 + l) && decide (r * 32 + l < 32 * hi)) = true ↔ lo ≤ r ∧ r < hi := by
    rw [Bool.and_eq_true, decide_eq_true_eq, decide_eq_true_eq]
    omega
  rw [Group.zeroRegs, Tab.get, Tab.find_dropIf_key, Tab.get]
  simp only [hk]
  split <;> rfl

theorem resize_only (s : State) (lo hi count free : Nat) :
    let x := s.grp s.cur
    OnlyTeam s (s.resize lo hi count free)
      { x with v := (x.zeroRegs lo hi).v, count := count, pc := x.pc + 4, cwait := .none }
      { s.teamOf s.cur with free := (s.teamOf s.cur).free.set 0 (bayOf s.cur) free } :=
  ((onlyTeam_onTeam s _).onGrp _).adv 4

/-- What a change of a group's number of registers does. -/
theorem resize_spec (s : State) (lo hi count free : Nat) :
    let x := s.grp s.cur
    let t := s.resize lo hi count free
    (∀ r l, l < 32 → (t.grp s.cur).v.get 0 (r * 32 + l) = if lo ≤ r ∧ r < hi then 0 else x.v.get 0 (r * 32 + l))
      ∧ (t.teamOf s.cur).free.get 0 (bayOf s.cur) = free
      ∧ (∀ j, j ≠ bayOf s.cur → (t.teamOf s.cur).free.get 0 j = (s.teamOf s.cur).free.get 0 j)
      ∧ OnlyTeam s t { x with v := (t.grp s.cur).v, count := count, pc := x.pc + 4, cwait := .none }
          { s.teamOf s.cur with free := (t.teamOf s.cur).free } := by
  have h := resize_only s lo hi count free
  have hx := h.1
  have hy := h.teamOf rfl
  dsimp only
  rw [hx, hy]
  exact ⟨fun r l hl => Group.zeroRegs_get _ _ _ _ hl, Tab.get_set_self .., fun j hj => Tab.get_set_other _ _ _ hj, h⟩

/-! ## The words -/

section
variable {s : State} {n : BitVec 6} (hf : s.cur ≠ farrierId)
include hf

theorem exec_vgive_of_legal (h1 : 1 ≤ n.toNat) (h32 : n.toNat ≤ 32) (hc : 8 * n.toNat + 8 ≤ (s.grp s.cur).count)
    (hb : s.blocksEnded s.cur = true)
    (hl : ∀ j, j < 8 * n.toNat → s.locked s.cur ((s.grp s.cur).count - 8 * n.toNat + j) = false) :
    let c := (s.grp s.cur).count
    exec (.vgive n) s = .next (s.resize (c - 8 * n.toNat) c (c - 8 * n.toNat)
      ((s.teamOf s.cur).free.get 0 (bayOf s.cur) + 8 * n.toNat)) := by
  have hlegal : (n.toNat != 0 && decide (n.toNat ≤ 32) && decide (8 * n.toNat + 8 ≤ (s.grp s.cur).count)) = true := by
    simp [h32, hc, Nat.one_le_iff_ne_zero.1 h1]
  have hany : (List.range (8 * n.toNat)).any (fun j => s.locked s.cur ((s.grp s.cur).count - 8 * n.toNat + j)) = false := by
    simpa using hl
  rw [exec_vgive, execVgive]
  refine runCtrl_ok ?_
  simp only [notFarrier_bind hf, legal_bind_true hlegal, afterBlocks_bind_true hb, hany]
  rfl

theorem exec_vclaim_of_free (h1 : 1 ≤ n.toNat) (h32 : n.toNat ≤ 32) (hc : (s.grp s.cur).count + 8 * n.toNat ≤ 256)
    (hh : (s.teamOf s.cur).headClaim (bayOf s.cur) = none) (hfree : 8 * n.toNat ≤ (s.teamOf s.cur).free.get 0 (bayOf s.cur)) :
    let c := (s.grp s.cur).count
    exec (.vclaim n) s = .next (s.resize c (c + 8 * n.toNat) (c + 8 * n.toNat)
      ((s.teamOf s.cur).free.get 0 (bayOf s.cur) - 8 * n.toNat)) := by
  have hlegal : (n.toNat != 0 && decide (n.toNat ≤ 32) && decide ((s.grp s.cur).count + 8 * n.toNat ≤ 256)) = true := by
    simp [h32, hc, Nat.one_le_iff_ne_zero.1 h1]
  rw [exec_vclaim, execVclaim]
  refine runCtrl_ok ?_
  simp only [notFarrier_bind hf, legal_bind_true hlegal, hh, hfree]
  rfl

theorem vgive_traps (hc : (s.grp s.cur).count < 8 * n.toNat + 8) : CtlTraps s (.vgive n) 0x01 0 0 := by
  refine ctlTraps_illegal hf (exec_vgive n s) ?_
  rw [notFarrier_bind hf, legal_bind_false]
  simp [hc]

theorem vclaim_traps (hc : 256 < (s.grp s.cur).count + 8 * n.toNat) : CtlTraps s (.vclaim n) 0x01 0 0 := by
  refine ctlTraps_illegal hf (exec_vclaim n s) ?_
  rw [notFarrier_bind hf, legal_bind_false]
  simp [hc]

end

end Sys2Proof.Machine
end

section
/-! Words that read what a group is given, its fmt and its generators (01 R11, 02 R27, 08 R196 to R198, R202, 05 R120, R123). -/

namespace Sys2Proof.Machine

open Sys2Proof

/-- The group with its 32 generators seeded. -/
def Group.seeded (w : GWord) (x : Group) : Group := { x with gen := (List.range 32).map (fun l => (l, seedLane w l)) }

section
variable {s : State} (hf : s.cur ≠ farrierId)
include hf

/-- A word that reads a value that always exists. -/
theorem writesG_of_reads {i : Instr} {d : GReg} {f : Nat → R GWord} {v : GWord}
    (he : exec i s = ctlG s d (fun g => do notFarrier g; f g)) (hv : f s.cur = .ok v) : WritesG s i d v :=
  ctlG_writes he ((notFarrier_bind hf _).trans hv)

theorem glv_writes (d : GReg) {n : BitVec 4} {v : GWord} (hv : (s.teamOf s.cur).lv.value n.toNat = some v) : WritesG s (.glv d n) d v :=
  writesG_of_reads hf (exec_glv d n s) (by rw [hv]; rfl)

theorem iqstat_writes (d : GReg) {k : BitVec 5} (hk : k.toNat < (s.teamOf s.cur).niq) : WritesG s (.iqstat d k) d
    (BitVec.ofNat 64 (((s.teamOf s.cur).iqs.get [] k.toNat).length + (if (s.teamOf s.cur).boundQ k.toNat then 2 ^ 9 else 0))) := by
  refine writesG_of_reads hf (exec_iqstat d k s) ?_
  rw [legal_bind_true (decide_eq_true hk), Team.queue]
  cases (s.teamOf s.cur).boundQ k.toNat <;> rfl

theorem iqstat_traps (d : GReg) {k : BitVec 5} (hk : (s.teamOf s.cur).niq ≤ k.toNat) : CtlTraps s (.iqstat d k) 0x01 0 0 := by
  have h := exec_iqstat d k s
  rw [execIqstat, ctlG] at h
  refine ctlTraps_illegal hf h ?_
  rw [notFarrier_bind hf, legal_bind_false (decide_eq_false (Nat.not_lt.2 hk))]
  rfl

theorem fmtset_only (a : GReg) (hw : fmtOk (s.rg s.cur a).toNat = true) :
    let x := s.grp s.cur
    ∃ t, exec (.fmtset a) s = .next t
      ∧ OnlyGroup s t { x with fmt := BitVec.ofNat 32 (s.rg s.cur a).toNat, pc := x.pc + 4, cwait := .none } := by
  refine ⟨_, ?_, (onlyGroup_onGrp s (fun x => { x with fmt := (s.rg s.cur a).setWidth 32 })).adv 4⟩
  rw [exec_fmtset, execFmtset]
  refine runCtrl_ok ?_
  rw [notFarrier_bind hf, legal_bind_true hw]
  rfl

theorem fmtset_traps (a : GReg) (hw : fmtOk (s.rg s.cur a).toNat = false) : CtlTraps s (.fmtset a) 0x01 0 0 := by
  refine ctlTraps_illegal hf (exec_fmtset a s) ?_
  rw [notFarrier_bind hf, legal_bind_false hw]

theorem gseed_only (a : GReg) (hb : s.blocksEnded s.cur = true) :
    let x := s.grp s.cur
    ∃ t, exec (.gseed a) s = .next t
      ∧ (∀ l, l < 32 → (t.grp s.cur).gen.get 0 l = seedLane (s.rg s.cur a) l)
      ∧ OnlyGroup s t { x with gen := (t.grp s.cur).gen, pc := x.pc + 4, cwait := .none } := by
  have h := (onlyGroup_onGrp s (Group.seeded (s.rg s.cur a))).adv 4
  have hgen := congrArg Group.gen h.1
  refine ⟨(s.onGrp s.cur (Group.seeded (s.rg s.cur a))).adv s.cur 4, ?_, fun l hl => ?_, ?_⟩
  · rw [exec_gseed, execGseed]
    refine runCtrl_ok ?_
    rw [notFarrier_bind hf, afterBlocks_bind_true hb]
    rfl
  · rw [hgen]
    exact Tab.get_map_of_mem _ _ (List.mem_range.2 hl)
  · rw [hgen]
    exact h

theorem gseed_waits (a : GReg) (hb : s.blocksEnded s.cur = false) : Waits s (.gseed a) .laneq :=
  waits_of_error (exec_gseed a s) ((notFarrier_bind hf _).trans (afterBlocks_bind_false hb _))

end

/-- The dimensions of a launch's shape have the numbers 6 to 9 (R197). -/
theorem LaunchVals.value_shape (v : LaunchVals) {n : Nat} (h : 6 ≤ n ∧ n ≤ 9) :
    v.value n = some ((v.shape.getD (n - 6) 0).zeroExtend 64) := by
  obtain ⟨h6, h9⟩ := h
  interval_cases n <;> rfl

end Sys2Proof.Machine

namespace Sys2Proof

open Sys2Proof.Machine

/-- Settles O12: each word by its lemma above, gend by the state in which it leaves a group's slot. -/
theorem groupWords : Obligations.GroupWords := by
  unfold Obligations.GroupWords
  refine ⟨?_, ?_, ?_, ?_⟩
  · intro s hf hq hb hm hc
    refine ⟨s.vacated s.cur, ?_, grp_vacated s s.cur, ?_, ?_, homeByte_vacated s s.cur⟩
    · rw [exec_gend_of_ended hf hq hb hm, endGroup_of_no_claim hc]
    · rw [team_vacated, Team.vacate_slots]
      simp only [Bool.and_eq_true, beq_iff_eq]
      rfl
    · rw [team_vacated, Team.vacate_free]
      exact Tab.get_set_self ..
  · intro s n hf h1 h32
    refine ⟨?_, ?_, vgive_traps hf, vclaim_traps hf⟩
    · intro hc hb hl
      exact ⟨_, exec_vgive_of_legal hf h1 h32 hc hb hl, resize_spec ..⟩
    · intro hc hh hfree
      exact ⟨_, exec_vclaim_of_free hf h1 h32 hc hh hfree, resize_spec ..⟩
  · intro s d n k hf
    refine ⟨writesG_of_reads hf (exec_gloc d s) rfl, writesG_of_reads hf (exec_grole d s) rfl, writesG_of_reads hf (exec_fmtget d s) rfl,
      writesG_of_reads hf (exec_vcount d s) rfl, ?_, ?_, ?_, ?_, ?_, ?_, ?_, ?_, ?_, ?_, iqstat_writes hf d, iqstat_traps hf d⟩
    case refine_7 => exact fun h => glv_writes hf d (LaunchVals.value_shape _ h)
    all_goals
      rintro rfl
      exact glv_writes hf d rfl
  · intro s a hf
    exact ⟨fmtset_only hf a, fmtset_traps hf a, gseed_only hf a, gseed_waits hf a⟩

end Sys2Proof
end

section
/-! The refutation of CoreEvents: a TLB entry that begins at an address that is no multiple of 128 translates the aligned line of a
record to a physical address inside a line, and the prefetch reads the whole line, from its start (17 R379). -/

namespace Sys2Proof.Machine

open Sys2Proof

/-- A record of the line at virtual address 128. -/
def lineRecord : BufRec :=
  { base := 128, extent := 128, stride := 0, esize := 0, swz := 0, rdok := true, wrok := false, noalloc := false, idem := false }

/-- An entry that maps the virtual addresses from 1 on to the physical ones from 0 on: a shared page with R and V. -/
def oddEntry : TlbE := { ctx := 0, va := 1, size := 4096, lvl := 3, ptea := 0x100000, pte := 0x85 }

/-- Group 0 of team 0 stands on core 0, whose TLB holds the odd entry; byte 0 of memory is 1, and every other 0. -/
def oddlyMapped : State :=
  { State.reset with
    mem := [(0, 1)],
    groups := [(0, { Group.empty with buf := [(0, lineRecord)] })],
    teams := [(0, { Team.empty with slots := [{ slot := 0, gidx := 0, occ := true }] })],
    cores := [(0, { Core.empty with tlb := [oddEntry] })] }

/-- Byte 0 of a line of a core's L1 in the state that an outcome gives. -/
def firstByte (c line : Nat) (o : Host.Outcome State Fault Refusal) : Option Byte :=
  match o with
  | .next t => ((t.core c).l1.find line).map (fun x => x.data.getD 0 0)
  | .fault _ => none
  | .refused _ => none

/-- The prefetch reads the line from its start. -/
theorem firstByte_prefetch_oddlyMapped : firstByte 0 0 (exec (.prefetch 0 0 0) oddlyMapped) = some 1 := by decide +kernel

end Sys2Proof.Machine

namespace Sys2Proof

open Sys2Proof.Machine

/-- Refutes O50: the line that the prefetch fills begins at a multiple of 128, and not at the physical address of a translation that an
entry with an odd first address gives. -/
theorem not_coreEvents : ¬ Obligations.CoreEvents := by
  unfold Obligations.CoreEvents
  intro h
  obtain ⟨-, -, -, hprefetch, -⟩ := h oddlyMapped 0 (by decide +kernel) (by decide +kernel) (by decide +kernel)
  obtain ⟨t, ht, hline, -⟩ := hprefetch 0 0 0 lineRecord oddEntry (by decide +kernel) (by decide +kernel) (by decide +kernel)
    (by decide +kernel) (by decide +kernel) (by decide +kernel) (by decide +kernel) (by decide +kernel) (by decide +kernel)
    (by decide +kernel) (by decide +kernel) (by decide +kernel) (by decide +kernel) (by decide +kernel) (by decide +kernel)
    (by decide +kernel) (.inl (by decide +kernel))
  have hone : firstByte 0 0 (.next t) = some 1 := ht ▸ firstByte_prefetch_oddlyMapped
  have hzero : firstByte 0 0 (.next t) = some ((oddlyMapped.homeBytes 127 128).getD 0 0) := by
    rw [show ((lineRecord.address (0 : Nat)).toNat / 128 * 128) = 128 by decide +kernel,
      show (oddEntry.tr 128).pa = 127 by decide +kernel] at hline
    rw [firstByte, hline]
    rfl
  exact absurd (hone.symm.trans hzero) (by decide +kernel)

end Sys2Proof
end

section
/-! What the memory traffic of a core leaves of the state: at the homes everything but memory and its bookkeeping, and at the cores
besides their L1s, stack caches, TLBs and settle marks. -/

namespace Sys2Proof.Machine

open Sys2Proof

/-- The state without memory, its bookkeeping at the homes, the records of the partitions and of the package, and counters. -/
def State.offMemory (s : State) : State :=
  { s with freeCtr := 0, mem := [], hostMem := [], hostL2 := [], l2 := [], poison := [], mirror := [], recs := [], fullWords := [],
           marks := [], pinned := [], snoop := [], parts := [], pkg := State.reset.pkg, ctr := [] }

/-- Only memory and what keeps it at its homes has changed. -/
def AtHomes (s t : State) : Prop := t.offMemory = s.offMemory

namespace AtHomes

theorem refl (s : State) : AtHomes s s := rfl

theorem trans {s t u : State} (h : AtHomes s t) (k : AtHomes t u) : AtHomes s u := Eq.trans k h

theorem foldl {α : Type} {f : State → α → State} (h : ∀ s a, AtHomes s (f s a)) (l : List α) (s : State) : AtHomes s (l.foldl f s) :=
  List.foldlRecOn (motive := fun t => AtHomes s t) _ _ rfl fun t ht a _ => ht.trans (h t a)

theorem of_homeFrame {s t : State} (h : HomeFrame s t) : AtHomes s t := (congrArg State.offMemory h.rest :)

section
variable {s t : State} (h : AtHomes s t)
include h

theorem cur : t.cur = s.cur := (congrArg State.cur h :)
theorem groups : t.groups = s.groups := (congrArg State.groups h :)
theorem cores : t.cores = s.cores := (congrArg State.cores h :)
theorem core (c : Nat) : t.core c = s.core c := congrArg (fun x => Tab.get x Core.empty c) h.cores
theorem grp (g : Nat) : t.grp g = s.grp g := congrArg (fun x => Tab.get x Group.empty g) h.groups
theorem bank (g : Nat) : t.bank g = s.bank g := by simp only [State.bank, h.core]

end

/-! ## Lines at the homes -/

theorem hostPush (s : State) (line : Nat) : AtHomes s (s.hostPush line) := by
  unfold State.hostPush
  split <;> rfl

theorem l2Out (s : State) (line : Nat) : AtHomes s (s.l2Out line) := (hostPush (s.killMarks line) line :)

theorem l2Touch (s : State) (p line : Nat) : AtHomes s (s.l2Touch p line) := by
  unfold State.l2Touch
  split
  · rfl
  · split
    · rfl
    · dsimp only
      split
      · exact (l2Out s _ :)
      · rfl

theorem l2For (s : State) (p : Nat) (t : Tr) : AtHomes s (s.l2For p t) := by
  unfold State.l2For
  split
  · rfl
  · exact l2Touch ..

theorem hostOnly (s : State) (t : Tr) : AtHomes s (s.hostOnly t) := by
  unfold State.hostOnly
  split
  · exact hostPush ..
  · rfl

theorem homeMerge (s : State) (line : Nat) (data : List Byte) (mask : BitVec 128) : AtHomes s (s.homeMerge line data mask) := by
  unfold State.homeMerge
  split
  · rfl
  · have hline := ((HomeFrame.cow s line).trans (HomeFrame.mirrorLine _ line)).trans (HomeFrame.killMarks _ line)
    exact of_homeFrame ((hline.trans (HomeFrame.foldl (fun _ _ => HomeFrame.clearPoison ..) _ _)).trans
      (HomeFrame.foldl (fun _ _ => HomeFrame.rawByte ..) _ _))

theorem postRec {s t : State} {p w : Nat} (h : s.postRec p w = some t) : AtHomes s t := by
  cases hc : s.canPost p with
  | false => rw [postRec_of_not_canPost w hc] at h; cases h
  | true =>
    obtain ⟨u, hu, hf⟩ := postRec_of_canPost w hc
    cases hu.symm.trans h
    exact (of_homeFrame hf :)

theorem tryPost (s : State) (p w : Nat) : AtHomes s (s.tryPost p w) := by
  unfold State.tryPost
  cases h : s.postRec p w with
  | none => rfl
  | some t => exact postRec h

theorem hopBad (s : State) (c line : Nat) (bad : BitVec 4) : AtHomes s (s.hopBad c line bad) :=
  foldl (fun s _ => (tryPost (s.poisonHome _) _ _ :)) _ s

theorem setRecs (s : State) (r : Tab Rec) : AtHomes s { s with recs := r } := rfl

theorem bumpCore (s : State) (c off n : Nat) : AtHomes s (s.bumpCore c off n) := of_homeFrame (HomeFrame.bumpCore ..)

theorem acceptLine (s : State) (c line : Nat) (x : Line) : AtHomes s (s.acceptLine c line x) := by
  unfold State.acceptLine
  dsimp only
  split
  · rfl
  · split
    · exact bumpCore ..
    · split
      · rfl
      · exact ((l2Touch ..).trans (homeMerge ..)).trans (hopBad ..)

theorem snoopLine (s : State) (line : Nat) (inv : Bool) : AtHomes s (s.snoopLine line inv) := by
  unfold State.snoopLine
  split
  · rfl
  · dsimp only
    split
    · refine AtHomes.trans ?_ (of_homeFrame (HomeFrame.homeWrite ..))
      rfl
    · rfl

theorem fetchLine (s : State) (g : Nat) (t : Tr) : AtHomes s (s.fetchLine g t) := by
  unfold State.fetchLine State.snoopHost
  split
  · exact refl s
  · exact ((hostOnly ..).trans (l2For ..)).trans (snoopLine ..)

end AtHomes

/-- Besides memory and what keeps it at its homes only the cores' L1s, stack caches, TLBs, marks and settle requests may have changed. -/
structure Traffic (s t : State) : Prop where
  cores : ∀ c, { t.core c with cm := 0, settled := 0, l1 := [], stackc := [], tlb := [], settleReqs := [] } =
               { s.core c with cm := 0, settled := 0, l1 := [], stackc := [], tlb := [], settleReqs := [] }
  rest  : { t.offMemory with cores := [] } = { s.offMemory with cores := [] }

namespace Traffic

theorem of_atHomes {s t : State} (h : AtHomes s t) : Traffic s t :=
  ⟨fun c => by rw [h.core], congrArg (fun x : State => { x with cores := [] }) h⟩

theorem refl (s : State) : Traffic s s := of_atHomes rfl

theorem trans {s t u : State} (h : Traffic s t) (k : Traffic t u) : Traffic s u :=
  ⟨fun c => (k.cores c).trans (h.cores c), k.rest.trans h.rest⟩

theorem foldl {α : Type} {f : State → α → State} (h : ∀ s a, Traffic s (f s a)) (l : List α) (s : State) : Traffic s (l.foldl f s) :=
  List.foldlRecOn (motive := fun t => Traffic s t) _ _ (refl s) fun t ht a _ => ht.trans (h t a)

/-- A change of a core's record in those fields alone. -/
theorem onCore (s : State) (c : Nat) {f : Core → Core}
    (h : { f (s.core c) with cm := 0, settled := 0, l1 := [], stackc := [], tlb := [], settleReqs := [] } =
         { s.core c with cm := 0, settled := 0, l1 := [], stackc := [], tlb := [], settleReqs := [] }) : Traffic s (s.onCore c f) := by
  refine ⟨fun k => ?_, rfl⟩
  by_cases hk : k = c
  · rw [hk, State.core_onCore_self, h]
  · rw [State.core_onCore_other _ _ hk]

section
variable {s t : State} (h : Traffic s t)
include h

theorem cur : t.cur = s.cur := (congrArg State.cur h.rest :)
theorem groups : t.groups = s.groups := (congrArg State.groups h.rest :)
theorem teams : t.teams = s.teams := (congrArg State.teams h.rest :)
theorem decks : t.decks = s.decks := (congrArg State.decks h.rest :)
theorem launches : t.launches = s.launches := (congrArg State.launches h.rest :)
theorem grp (g : Nat) : t.grp g = s.grp g := congrArg (fun x => Tab.get x Group.empty g) h.groups
theorem team (k : Nat) : t.team k = s.team k := congrArg (fun x => Tab.get x Team.empty k) h.teams
theorem teamOf (g : Nat) : t.teamOf g = s.teamOf g := by simp only [State.teamOf, h.grp, h.team]
theorem deck (d : Nat) : t.deck d = s.deck d := congrArg (fun x => Tab.get x Deck.empty d) h.decks
theorem bank (g : Nat) : t.bank g = s.bank g :=
  congrArg (fun x => Tab.get x bankEmpty (bayOf g)) (congrArg Core.banks (h.cores (coreOf g)) :)
theorem inBank (g : Nat) : t.inBank g = s.inBank g := by simp only [State.inBank, h.grp]
theorem lpc (g : Nat) : t.lpc g = s.lpc g := by simp only [State.lpc, h.grp]
theorem rg (g : Nat) (r : GReg) : t.rg g r = s.rg g r := by simp only [State.rg, h.inBank, h.grp, h.bank]
theorem rv (g r l : Nat) : t.rv g r l = s.rv g r l := by simp only [State.rv, h.inBank, h.grp, h.bank]
theorem stackBad (g : Nat) (r : GReg) (v : GWord) : t.stackBad g r v = s.stackBad g r v := by simp only [State.stackBad, h.inBank, h.grp]
theorem unapplied (d : Nat) : t.unapplied d = s.unapplied d := by simp only [State.unapplied, h.deck]

end

/-! ## Lines of an L1 -/

theorem wbLine (s : State) (c line : Nat) : Traffic s (s.wbLine c line) := by
  unfold State.wbLine
  split
  · exact refl s
  · split
    · exact refl s
    · exact (of_atHomes (AtHomes.acceptLine ..)).trans (onCore _ _ rfl)

theorem l1Take (s : State) (c line : Nat) (data : List Byte) (mask : BitVec 128) : Traffic s (s.l1Take c line data mask) := by
  unfold State.l1Take
  split
  · exact refl s
  · exact onCore _ _ rfl

theorem dropLine (s : State) (c line : Nat) : Traffic s (s.dropLine c line) := by
  unfold State.dropLine
  refine Traffic.trans ?_ (onCore _ _ rfl)
  split
  · split
    · exact of_atHomes (AtHomes.bumpCore ..)
    · exact refl s
  · exact refl s

theorem flushLine (s : State) (c line : Nat) : Traffic s (s.flushLine c line) := by
  unfold State.flushLine
  split
  · exact (wbLine ..).trans (dropLine ..)
  · exact refl s

theorem flushIf (s : State) (c : Nat) (f : Nat → Line → Bool) : Traffic s (s.flushIf c f) := foldl (fun s l => flushLine s c l) _ s

theorem writeBackIf (s : State) (c : Nat) (f : Nat → Line → Bool) : Traffic s (s.writeBackIf c f) := foldl (fun s l => wbLine s c l) _ s

theorem invShared (s : State) (c : Nat) : Traffic s (s.invShared c) := by
  unfold State.invShared
  exact (of_atHomes (AtHomes.bumpCore ..)).trans (onCore _ _ rfl)

/-! ## Settles -/

theorem settle (s : State) (c : Nat) (m : Word) : Traffic s (s.settle c m) := by
  unfold State.settle
  split
  · exact refl s
  · have hwb := (writeBackIf s c (fun _ x => markLe x.stamp m)).trans (onCore _ c (f := fun k => { k with settled := m }) rfl)
    exact (hwb.trans (of_atHomes (AtHomes.setRecs ..))).trans
      (of_atHomes ((AtHomes.bumpCore ..).trans (AtHomes.bumpCore ..)))

theorem fullSettle (s : State) (c : Nat) : Traffic s (s.fullSettle c) :=
  (onCore s c (f := fun k => { k with cm := k.cm + 1 }) rfl).trans (settle ..)

/-! ## Stack caches -/

theorem stackDel (s : State) (c key : Nat) : Traffic s (s.stackDel c key) := by
  unfold State.stackDel
  split
  · exact refl s
  · exact onCore _ _ rfl

theorem stackWb (s : State) (c key : Nat) : Traffic s (s.stackWb c key) := by
  unfold State.stackWb
  split
  · exact refl s
  · exact ((of_atHomes (AtHomes.acceptLine ..)).trans (l1Take ..)).trans (onCore _ _ rfl)

theorem stackGive (s : State) (c key : Nat) : Traffic s (s.stackGive c key) := by
  unfold State.stackGive
  split
  · exact refl s
  · refine Traffic.trans ?_ (stackDel ..)
    split
    · split
      · exact refl s
      · exact onCore _ _ rfl
    · exact of_atHomes (AtHomes.acceptLine ..)

theorem stackSync (s : State) (g : Nat) : Traffic s (s.stackSync g) := foldl (fun s k => stackGive s _ k) _ s

theorem flushStack (s : State) (c : Nat) : Traffic s (s.flushStack c) := (foldl (fun s k => stackWb s c k) _ s).trans (onCore _ _ rfl)

/-! ## Translation and fetch -/

theorem tlbFill (s : State) (c : Nat) (x : TlbE) : Traffic s (s.tlbFill c x) := onCore _ _ rfl

theorem tlbDrop (s : State) (c : Nat) (f : TlbE → Bool) : Traffic s (s.tlbDrop c f) := onCore _ _ rfl

theorem writePte (s : State) (p : Nat) (t : Tr) (f : Nat → Nat) : Traffic s (s.writePte p t f) := by
  unfold State.writePte
  refine of_atHomes (AtHomes.of_homeFrame ?_)
  split
  · exact HomeFrame.refl s
  · split
    · exact HomeFrame.foldl (fun _ _ => HomeFrame.homeSet ..) _ s
    · exact HomeFrame.homeSet ..

theorem reclassify (s : State) (c k : Nat) (t : Tr) : Traffic s (s.reclassify c k t) :=
  ((writePte ..).trans (flushIf ..)).trans (foldl (fun s d => tlbDrop s d _) _ _)

theorem classify {s s' : State} {c ctx : Nat} {t t' : Tr} (h : s.classify c ctx t = .ok (s', t')) : Traffic s s' := by
  unfold State.classify at h
  split at h
  · cases h; exact refl s
  · split at h
    · cases h; exact (writePte ..).trans (tlbFill ..)
    · split at h
      · cases h; exact refl s
      · split at h
        · cases h
        · cases h; exact reclassify ..

theorem pinLine {s s' : State} {ctx sl : Nat} {t : Tr} (h : s.pinLine ctx t sl = .ok s') : Traffic s s' := by
  unfold State.pinLine at h
  split at h
  · cases h; exact refl s
  · split at h
    · cases h
    · cases h; exact of_atHomes rfl

theorem translate {s s' : State} {c ctx va : Nat} {k : AccKind} {t : Tr} (h : s.translate c ctx va k = .ok (s', t)) : Traffic s s' := by
  unfold State.translate at h
  simp only [bind, Except.bind, pure, Except.pure, throw, throwThe, MonadExceptOf.throw] at h
  split at h
  · cases h
  split at h
  · cases h
  next v hv =>
  have hwalk : Traffic s v.1 := by
    split at hv
    · cases hv; exact refl s
    · split at hv
      · cases hv
      · split at hv
        · cases hv
        · cases hv; exact (of_atHomes (AtHomes.bumpCore ..)).trans (tlbFill ..)
  refine hwalk.trans ?_
  iterate 4
    split at h
    · cases h
  split at h
  · cases h
  next w hw =>
  refine (classify hw).trans ?_
  split at h
  · split at h
    · cases h
    next hp => cases h; exact pinLine hp
  · split at h
    · split at h
      · cases h
      next hp => cases h; exact pinLine hp
    · cases h; exact refl _

end Traffic

end Sys2Proof.Machine
end

section
/-! One issue of a stream: what is fetched, what it decodes to, and the state in which it runs (02 R28, R30, 07 R162 to R168, 08 R181,
15 R314). -/

namespace Sys2Proof.Machine

open Sys2Proof

/-! ## Control words -/

theorem fetchTr_ok {s s1 : State} {g va : Nat} {t : Tr} (ht : s.translate (coreOf g) (s.ctxOf g) va .fetch = .ok (s1, t)) :
    fetchTr s g va = .ok (s1.fetchLine g t, t) := by rw [fetchTr, ht]

theorem trBytes_home {s : State} {g : Nat} {t : Tr} (n : Nat) (hr : t.rein = false) : s.trBytes g t n = s.homeBytes t.pa n := by
  rw [State.trBytes, hr]
  rfl

/-- A fetch in user mode reads the home of the translated address. -/
theorem fetchWord_user {s s1 : State} {g va : Nat} {t : Tr} (hu : (s.grp g).sys = false)
    (ht : s.translate (coreOf g) (s.ctxOf g) va .fetch = .ok (s1, t)) (hr : t.rein = false) :
    fetchWord s g va = .ok (s1.fetchLine g t, BitVec.ofNat 32 ((s1.fetchLine g t).homeNat t.pa 4)) := by
  rw [fetchWord, hu, fetchTr_ok ht]
  simp only [bind, Except.bind, trBytes_home 4 hr]
  rfl

/-- A fetch in system mode reads the physical address, which for a handler lies in its partition and in reach of its deck. -/
theorem fetchWord_sys {s : State} {g va : Nat} (hs : (s.grp g).sys = true)
    (hn : g = farrierId ∨ (s.tableIn (s.codeOf g) va = true ∧ s.homeOk (s.codeOf g) (deckOf g) va = true)) :
    fetchWord s g va = .ok (s, BitVec.ofNat 32 (s.homeNat va 4)) := by
  rw [fetchWord, if_pos hs]
  obtain rfl | ⟨hin, hok⟩ := hn
  · rfl
  · simp [hin, hok]

/-- A handler outside its partition takes ACCESS (log 94). -/
theorem fetchWord_outside {s : State} {g va : Nat} (hs : (s.grp g).sys = true) (hf : g ≠ farrierId)
    (ho : s.tableIn (s.codeOf g) va = false) : fetchWord s g va = .error (trapAt cACCESS 4 none va) := by
  rw [fetchWord, if_pos hs, if_pos]
  simp [hf, ho]

section
variable {s u : State} {g : Nat} {w : Word}

theorem fetchCode_one (h : fetchWord s g (s.grp g).pc.toNat = .ok (u, w)) (htwo : twoWord w = false) :
    fetchCode s g = .ok (u, .ctrl w) := by
  simp only [fetchCode, h, bind, Except.bind, htwo]
  rfl

theorem fetchCode_two {v : State} {x : Word} (h : fetchWord s g (s.grp g).pc.toNat = .ok (u, w)) (htwo : twoWord w = true)
    (hx : fetchWord u g (((s.grp g).pc.toNat + 4) % 2 ^ 64) = .ok (v, x)) : fetchCode s g = .ok (v, .pair w x) := by
  simp only [fetchCode, h, bind, Except.bind, htwo, if_true, hx]
  rfl

theorem fetchCtrl_of_decode {c : Code} {i : Instr} (h : fetchCode s g = .ok (u, c)) (hd : decode c = .ok i) :
    fetchCtrl s g = .ok (countIssue u g 0x08 ((s.grp g).cwait != .none), i) := by
  simp only [fetchCtrl, h, bind, Except.bind, decoded, hd]
  rfl

theorem fetchCtrl_of_unallocated {c : Code} (h : fetchCode s g = .ok (u, c)) (hd : decode c = .bad .unallocated) :
    fetchCtrl s g = .error (trapOf cILLEGAL) := by
  simp only [fetchCtrl, h, bind, Except.bind, decoded, hd, badWord]

end

theorem Traffic.countIssue (s : State) (g off : Nat) (again : Bool) : Traffic s (countIssue s g off again) := by
  unfold Machine.countIssue
  split
  · exact refl s
  · exact of_atHomes (AtHomes.bumpCore ..)

theorem Traffic.fetchLine {s s1 : State} (h : Traffic s s1) (g : Nat) (t : Tr) : Traffic s (s1.fetchLine g t) :=
  h.trans (of_atHomes (AtHomes.fetchLine ..))

/-! ## The issue of a control word -/

/-- A stream that waits for no flip issues in a group that is not halted. -/
theorem not_halted_of_ctlIssues {s : State} {g : Nat} (hi : s.ctlIssues g = true) (hw : ∀ q, (s.grp g).cwait ≠ .flip q) :
    (s.grp g).halted = false := by
  have hne : ((s.grp g).cwait == .flip .latency) = false := beq_eq_false_iff_ne.2 (hw _)
  simp only [State.ctlIssues, hne, Bool.false_and, Bool.or_false, State.runs, Bool.and_eq_true, Bool.not_eq_true'] at hi
  obtain ⟨⟨⟨-, hh⟩, -⟩, -⟩ := hi
  exact hh

theorem unflip_control {s : State} {g : Nat} (hw : ∀ q, (s.grp g).cwait ≠ .flip q) : s.unflip g false = s := by
  unfold State.unflip
  split
  next q _ hq => exact absurd hq (hw q)
  next h _ => exact absurd h (by decide)
  · rfl

theorem unflip_lane {s : State} {g : Nat} (hw : (s.grp g).lwait ≠ .flip) : s.unflip g true = s := by
  unfold State.unflip
  split
  next h _ => exact absurd h (by decide)
  next _ hq => exact absurd hq hw
  · rfl

section
variable {s : State} (ha : s.agenda = []) (hl : s.curLane = false) (hi : s.ctlIssues s.cur = true)
  (hw : ∀ q, (s.grp s.cur).cwait ≠ .flip q)
include ha hl hi hw

theorem step_of_fetchCtrl {u : State} {i : Instr} (h : fetchCtrl s s.cur = .ok (u, i)) (ht : Traffic s u) :
    step s = exec i (u.ordered i) := by
  have hu : u.unflip s.cur false = u := unflip_control (by rw [ht.grp]; exact hw)
  rw [step, ha]
  simp only [issueCur, hl, issueCtrl, hi, h, hu, not_halted_of_ctlIssues hi hw]
  rfl

theorem step_of_fetchCtrl_trap {t : Trap} (h : fetchCtrl s s.cur = .error (.trap t none)) (hf : s.cur ≠ farrierId) :
    step s = .next (s.takeTrap s.cur false t) := by
  rw [step, ha]
  simp only [issueCur, hl, issueCtrl, hi, h, unflip_control hw, not_halted_of_ctlIssues hi hw]
  exact runCtrl_trap (m := fun _ => .error (.trap t none)) rfl hf

/-- What stands at the pc decodes to an instruction, which runs in the state of the fetch, with its issue counted. -/
theorem step_of_fetchCode {u : State} {c : Code} {i : Instr} (h : fetchCode s s.cur = .ok (u, c)) (ht : Traffic s u)
    (hd : decode c = .ok i) : step s = exec i ((countIssue u s.cur 0x08 ((s.grp s.cur).cwait != .none)).ordered i) :=
  step_of_fetchCtrl ha hl hi hw (fetchCtrl_of_decode h hd) (ht.trans (Traffic.countIssue ..))

theorem step_of_fetchCode_unallocated {u : State} {c : Code} (h : fetchCode s s.cur = .ok (u, c)) (hd : decode c = .bad .unallocated)
    (hf : s.cur ≠ farrierId) : step s = .next (s.takeTrap s.cur false { code := 0x01, info := 0, lane := none, va := 0 }) :=
  step_of_fetchCtrl_trap ha hl hi hw (fetchCtrl_of_unallocated h hd) hf

end

/-! ## The issue of a lane word -/

/-- The 12 bytes of a lane word in one page. -/
theorem fetchLaneBytes_one {s s1 : State} {g va : Nat} {t : Tr} (ht : s.translate (coreOf g) (s.ctxOf g) va .fetch = .ok (s1, t))
    (hr : t.rein = false) (hva : va % 4096 + 12 ≤ 4096) :
    fetchLaneBytes s g va = .ok (s1.fetchLine g t, (s1.fetchLine g t).homeBytes t.pa 12) := by
  have hn : min 12 (4096 - va % 4096) = 12 := by omega
  simp only [fetchLaneBytes, hn, fetchTr_ok ht, trBytes_home 12 hr, bind, Except.bind]
  rfl

/-- Those of a lane word that lies in two pages. -/
theorem fetchLaneBytes_two {s s1 s2 : State} {g va : Nat} {t x : Tr} (ht : s.translate (coreOf g) (s.ctxOf g) va .fetch = .ok (s1, t))
    (hr : t.rein = false) (hva : 4096 < va % 4096 + 12)
    (hx : (s1.fetchLine g t).translate (coreOf g) ((s1.fetchLine g t).ctxOf g) ((va + (4096 - va % 4096)) % 2 ^ 64) .fetch = .ok (s2, x))
    (hxr : x.rein = false) :
    let n := 4096 - va % 4096
    let y := s2.fetchLine g x
    fetchLaneBytes s g va = .ok (y, y.homeBytes t.pa n ++ y.homeBytes x.pa (12 - n)) := by
  have hn : min 12 (4096 - va % 4096) = 4096 - va % 4096 := by omega
  have hne : (4096 - va % 4096 == 12) = false := beq_eq_false_iff_ne.2 (by omega)
  simp only [fetchLaneBytes, hn, hne, fetchTr_ok ht, fetchTr_ok hx, trBytes_home _ hr, trBytes_home _ hxr, bind, Except.bind]
  rfl

theorem ofBytes_append (a b : List Byte) : ofBytes (a ++ b) = ofBytes a + ofBytes b * 2 ^ (8 * a.length) := by
  induction a with
  | nil => simp [ofBytes]
  | cons x a ih =>
    rw [List.cons_append, ofBytes, ofBytes, ih, List.length_cons, Nat.mul_succ, pow_add]
    ring

theorem homeBytes_length (s : State) (pa n : Nat) : (s.homeBytes pa n).length = n := by simp [State.homeBytes]

theorem fetchLane_of_decode {s u : State} {g : Nat} {b : List Byte} {i : Instr} (hc : s.lpc g < (s.teamOf g).lcn)
    (h : fetchLaneBytes s g (laneAddr (s.teamOf g).lcb (s.lpc g)) = .ok (u, b))
    (hd : decode (.lane (BitVec.ofNat 96 (ofBytes b))) = .ok i) :
    fetchLane s g = .ok (countIssue u g 0x10 ((s.grp g).lwait != .none), i) := by
  rw [fetchLane]
  refine (legal_bind_true (decide_eq_true hc) _).trans ?_
  simp only [h, bind, Except.bind, decoded, hd]
  rfl

theorem fetchLane_past_end {s : State} {g : Nat} (hc : (s.teamOf g).lcn ≤ s.lpc g) : fetchLane s g = .error (trapOf cILLEGAL) := by
  rw [fetchLane]
  exact legal_bind_false (decide_eq_false (Nat.not_lt.2 hc)) _

theorem not_halted_of_laneIssues {s : State} {g : Nat} (hi : s.laneIssues g = true) (hw : (s.grp g).lwait ≠ .flip) :
    (s.grp g).halted = false ∧ g ≠ farrierId := by
  have hne : ((s.grp g).lwait == .flip) = false := beq_eq_false_iff_ne.2 hw
  simp only [State.laneIssues, hne, Bool.false_and, Bool.or_false, State.runs, Bool.and_eq_true, Bool.not_eq_true', bne_iff_ne] at hi
  obtain ⟨⟨⟨⟨⟨-, hh⟩, -⟩, -⟩, hf⟩, -⟩ := hi
  exact ⟨hh, hf⟩

/-- The start of a block leaves the group in its team, and its lane stream's wait. -/
theorem startBlock_spec (s : State) (g : Nat) : (s.startBlock g).cur = s.cur ∧ ((s.startBlock g).grp g).lwait = (s.grp g).lwait
    ∧ (s.startBlock g).teamOf g = s.teamOf g := by
  unfold State.startBlock
  dsimp only
  split
  · exact ⟨rfl, rfl, rfl⟩
  · split
    · exact ⟨rfl, rfl, rfl⟩
    · refine ⟨rfl, by rw [State.grp_onGrp_self], ?_⟩
      rw [State.teamOf, State.grp_onGrp_self]
      rfl

section
variable {s : State} (ha : s.agenda = []) (hl : s.curLane = true) (hi : s.laneIssues s.cur = true) (hw : (s.grp s.cur).lwait ≠ .flip)
include ha hl hi hw

theorem step_of_fetchLane {u : State} {i : Instr} (h : fetchLane (s.startBlock s.cur) s.cur = .ok (u, i))
    (ht : Traffic (s.startBlock s.cur) u) : step s = issueLane i (exec i) (u.ordered i) := by
  obtain ⟨-, hwait, -⟩ := startBlock_spec s s.cur
  have hu : u.unflip s.cur true = u := unflip_lane (by rw [ht.grp, hwait]; exact hw)
  rw [step, ha]
  simp only [issueCur, hl, issueLaneWord, hi, h, hu, (not_halted_of_laneIssues hi hw).1]
  rfl

theorem step_of_fetchLane_trap {t : Trap} (h : fetchLane (s.startBlock s.cur) s.cur = .error (.trap t none)) :
    step s = .next ((s.startBlock s.cur).takeTrap s.cur true t) := by
  obtain ⟨hcur, hwait, -⟩ := startBlock_spec s s.cur
  obtain ⟨hh, hf⟩ := not_halted_of_laneIssues hi hw
  have hu : (s.startBlock s.cur).unflip s.cur true = s.startBlock s.cur := unflip_lane (by rw [hwait]; exact hw)
  rw [step, ha]
  simp only [issueCur, hl, issueLaneWord, hi, h, hu, hh]
  have hrun := runLane_trap (s := s.startBlock s.cur) (m := fun _ => .error (.trap t none)) rfl (by rw [hcur]; exact hf)
  rw [hcur] at hrun
  exact hrun

/-- The 12 bytes at the stream's place decode to an instruction, which is issued in the state of the fetch. -/
theorem step_of_fetchLaneBytes {u : State} {b : List Byte} {i : Instr} :
    let s0 := s.startBlock s.cur
    s0.lpc s.cur < (s.teamOf s.cur).lcn → fetchLaneBytes s0 s.cur (((s.teamOf s.cur).lcb.toNat + 12 * s0.lpc s.cur) % 2 ^ 64) = .ok (u, b) →
    Traffic s0 u → decode (.lane (BitVec.ofNat 96 (ofBytes b))) = .ok i →
    step s = issueLane i (exec i) ((countIssue u s.cur 0x10 ((s0.grp s.cur).lwait != .none)).ordered i) := by
  intro s0 hc h ht hd
  obtain ⟨-, -, hteam⟩ := startBlock_spec s s.cur
  refine step_of_fetchLane ha hl hi hw ?_ (ht.trans (Traffic.countIssue ..))
  exact fetchLane_of_decode (by rw [hteam]; exact hc) (by rw [hteam]; exact h) hd

end

/-! ## Early loads, and the issue of a lane word without hazards -/

theorem ordered_of_no_early {s : State} (i : Instr) (h : s.early = []) : s.ordered i = s := by
  simp [State.ordered, State.dropEarly, h]

theorem ordered_drops_early {s : State} {i : Instr} (h : unordered i = false) {e : Early} (he : e ∈ (s.ordered i).early) : e.gid ≠ s.cur := by
  simp only [State.ordered, h, State.dropEarly] at he
  by_cases hs : s.early.isEmpty = true
  · simp [List.isEmpty_iff.1 hs] at he
  · simp only [hs, Bool.false_eq_true, if_false, List.mem_filter, bne_iff_ne] at he
    exact he.2

theorem issueLane_of_completed {i : Instr} {s t : State} {x : Group} (hl : (laneUse i).dst.all (fun e => e.1 || !s.locked s.cur e.2) = true)
    (hr : ringWait (s.grp s.cur) (laneUse i).t (laneUse i).cls = some x) (hz : undersized (s.grp s.cur) (laneUse i) = [])
    (he : exec i (s.setGrp s.cur x) = .next t) (hc : completed (s.setGrp s.cur x) t s.cur = true) :
    issueLane i (exec i) s
      = .next (t.onGrp s.cur (fun y => ringJoin { y with hazards := nextHazards (s.setGrp s.cur x) s.cur (laneUse i) } (laneUse i).cls)) := by
  have hany : (laneUse i).dst.any (fun e => !e.1 && s.locked s.cur e.2) = false := by
    rw [List.any_eq_false]
    intro e hmem
    have := List.all_eq_true.1 hl e hmem
    simpa [imp_iff_not_or] using this
  simp only [issueLane, hany, hr, hz, List.any_nil, List.isEmpty_nil, if_true, he, hc]
  rfl

end Sys2Proof.Machine

namespace Sys2Proof

open Sys2Proof.Machine

/-- Settles O1: by what a fetch of each mode reads, and by what the translation and the fetch of a line leave of the group. -/
theorem stepRunsDecoded : Obligations.StepRunsDecoded := by
  unfold Obligations.StepRunsDecoded
  intro s
  refine ⟨?_, ?_, ?_, fun i h => ordered_of_no_early i h, fun i h e he => ordered_drops_early h he, ?_, ?_⟩
  · intro ha hl hi hw
    refine ⟨?_, ?_⟩
    · intro s1 tr hu htr hr
      have hfetch := fetchWord_user hu htr hr
      have htraffic := (Traffic.translate htr).fetchLine s.cur tr
      refine ⟨fun htwo => ⟨fun i hd => ?_, fun hd hf => ?_⟩, fun htwo s2 tx hsu htx hrx i hd => ?_⟩
      · exact step_of_fetchCode ha hl hi hw (fetchCode_one hfetch htwo) htraffic hd
      · exact step_of_fetchCode_unallocated ha hl hi hw (fetchCode_one hfetch htwo) hd hf
      · exact step_of_fetchCode ha hl hi hw (fetchCode_two hfetch htwo (fetchWord_user hsu htx hrx))
          (htraffic.trans ((Traffic.translate htx).fetchLine s.cur tx)) hd
    · intro hs
      refine ⟨fun hn htwo => ⟨fun i hd => ?_, fun hd hf => ?_⟩, fun hn htwo hn2 i hd => ?_, fun hf ho => ?_⟩
      · exact step_of_fetchCode ha hl hi hw (fetchCode_one (fetchWord_sys hs hn) htwo) (Traffic.refl s) hd
      · exact step_of_fetchCode_unallocated ha hl hi hw (fetchCode_one (fetchWord_sys hs hn) htwo) hd hf
      · exact step_of_fetchCode ha hl hi hw (fetchCode_two (fetchWord_sys hs hn) htwo (fetchWord_sys hs hn2)) (Traffic.refl s) hd
      · have h := step_of_fetchCtrl_trap ha hl hi hw (t := { code := 0x11, info := 4, lane := none, va := g64 (s.grp s.cur).pc.toNat })
          (by simp only [fetchCtrl, fetchCode, fetchWord_outside hs hf ho, bind, Except.bind, trapAt, cACCESS]) hf
        rw [show g64 ((s.grp s.cur).pc.toNat : Nat) = (s.grp s.cur).pc by simp [g64]] at h
        exact h
  · intro ha hl hi hw
    refine ⟨fun hc s1 tr htr hr => ?_, fun hc => ?_⟩
    · have htraffic := (Traffic.translate htr).fetchLine s.cur tr
      refine ⟨fun hva i hd => ?_, fun hva s2 tx htx hrx i hd => ?_⟩
      · exact step_of_fetchLaneBytes ha hl hi hw hc (fetchLaneBytes_one htr hr hva) htraffic hd
      · refine step_of_fetchLaneBytes ha hl hi hw hc (fetchLaneBytes_two htr hr hva htx hrx)
          (htraffic.trans ((Traffic.translate htx).fetchLine s.cur tx)) ?_
        rw [ofBytes_append, homeBytes_length]
        exact hd
    · obtain ⟨-, -, hteam⟩ := startBlock_spec s s.cur
      exact step_of_fetchLane_trap ha hl hi hw (fetchLane_past_end (by rw [hteam]; exact hc))
  · intro g lane rest h
    rw [step, h]
  · intro i rest h he
    rw [step, h]
    exact if_pos he
  · exact fun i t x hl hr hz he hc => issueLane_of_completed hl hr hz he hc

end Sys2Proof
end

section
/-! Divergence by depth counts and refill loops (02 R37 to R44, 09 R212 to R214). -/

namespace Sys2Proof.Machine

open Sys2Proof

/-! ## The lowest index that passes a test -/

/-- The filtered range begins with the least index that passes. -/
theorem indices_eq_cons {n l : Nat} {p : Nat → Bool} (hl : l < n) (hp : p l = true) (hmin : ∀ j, j < l → p j = false) :
    ∃ r, indices n p = l :: r := by
  obtain ⟨k, rfl⟩ : ∃ k, n = l + (k + 1) := ⟨n - l - 1, by omega⟩
  have hlow : (List.range l).filter p = [] := by
    rw [List.filter_eq_nil_iff]
    intro j hj
    simp [hmin j (List.mem_range.1 hj)]
  rw [indices, List.range_add, List.filter_append, hlow, List.nil_append, List.range_succ_eq_map, List.map_cons, List.filter_cons]
  simp [hp]

theorem indices_eq_nil {n : Nat} {p : Nat → Bool} (h : ∀ l, l < n → p l = false) : indices n p = [] := by
  rw [indices, List.filter_eq_nil_iff]
  intro l hl
  simp [h l (List.mem_range.1 hl)]

theorem mem_indices {n l : Nat} {p : Nat → Bool} : l ∈ indices n p ↔ l < n ∧ p l = true := by simp [indices]

theorem any_congr {n : Nat} {p q : Nat → Bool} (h : ∀ l, l < n → p l = q l) : (List.range n).any p = (List.range n).any q := by
  rw [Bool.eq_iff_iff, List.any_eq_true, List.any_eq_true]
  refine exists_congr fun l => and_congr_right fun hl => ?_
  rw [h l (List.mem_range.1 hl)]

theorem incOk_ok {s : State} {g : Nat} (h : ∀ l, l < 32 → s.dcOf g l ≠ 255) : incOk s g = .ok () := by
  rw [incOk, indices_eq_nil fun l hl => beq_eq_false_iff_ne.2 (h l hl)]
  rfl

/-- The lowest lane whose count is 255 is the one that traps. -/
theorem incOk_trap {s : State} {g l : Nat} (hl : l < 32) (h : s.dcOf g l = 255) (hmin : ∀ j, j < l → s.dcOf g j ≠ 255) :
    incOk s g = .error (.trap { code := 0x01, info := 0, lane := some l, va := 0 } none) := by
  obtain ⟨r, hr⟩ := indices_eq_cons (p := fun l => s.dcOf g l == 255) hl (by simp [h]) (fun j hj => by simp [hmin j hj])
  rw [incOk, hr]
  rfl

theorem get_foldl_set {d : Nat} (f : Nat → Nat) (L : List Nat) (t : Tab Nat) (k : Nat) :
    (L.foldl (fun t l => t.set d l (f l)) t).get d k = if k ∈ L then f k else t.get d k := by
  induction L generalizing t with
  | nil => simp
  | cons a L ih =>
    rw [List.foldl_cons, ih]
    by_cases hk : k ∈ L
    · simp [hk]
    · by_cases ha : k = a
      · simp [ha]
      · simp [hk, ha, Tab.get_set_other t d (f a) ha]

/-! ## Words that change depth counts alone -/

/-- From s to t the depth counts of the current group become f and its marks to continue m; nothing else changes. -/
structure Counts (s t : State) (f : Nat → Nat) (m : Word) : Prop where
  count  : ∀ l, l < 32 → t.dcOf s.cur l = f l
  marks  : (t.grp s.cur).cm = m
  group  : { t.grp s.cur with dc := [], cm := 0 } = { s.grp s.cur with dc := [], cm := 0 }
  groups : ∀ j, j ≠ s.cur → t.grp j = s.grp j
  rest   : { t with groups := [] } = { s with groups := [] }

namespace Counts

variable {s t : State} {f : Nat → Nat} {m : Word}

theorem refl (s : State) : Counts s s (s.dcOf s.cur) (s.grp s.cur).cm := ⟨fun _ _ => rfl, rfl, rfl, fun _ _ => rfl, rfl⟩

theorem setDc (h : Counts s t f m) (k : Nat → Nat) : Counts s (t.setDc s.cur k) k m := by
  refine ⟨fun l hl => ?_, ?_, ?_, fun j hj => ?_, h.rest⟩
  · rw [State.dcOf, State.setDc, State.grp_onGrp_self, get_foldl_set, if_pos (List.mem_range.2 hl)]
  · rw [State.setDc, State.grp_onGrp_self]
    exact h.marks
  · rw [State.setDc, State.grp_onGrp_self]
    exact h.group
  · rw [State.setDc, State.grp_onGrp_other _ _ hj]
    exact h.groups j hj

theorem setMarks (h : Counts s t f m) (k : Group → Word) :
    Counts s (t.onGrp s.cur (fun x => { x with cm := k x })) f (k (t.grp s.cur)) := by
  refine ⟨fun l hl => ?_, ?_, ?_, fun j hj => ?_, h.rest⟩
  · rw [State.dcOf, State.grp_onGrp_self]
    exact h.count l hl
  · rw [State.grp_onGrp_self]
  · rw [State.grp_onGrp_self]
    exact h.group
  · rw [State.grp_onGrp_other _ _ hj]
    exact h.groups j hj

theorem congr {k : Nat → Nat} (h : Counts s t f m) (hk : ∀ l, l < 32 → f l = k l) : Counts s t k m :=
  { h with count := fun l hl => (h.count l hl).trans (hk l hl) }

theorem cur (h : Counts s t f m) : t.cur = s.cur := (congrArg State.cur h.rest :)
theorem teams (h : Counts s t f m) : t.teams = s.teams := (congrArg State.teams h.rest :)
theorem sys (h : Counts s t f m) : (t.grp s.cur).sys = (s.grp s.cur).sys := (congrArg Group.sys h.group :)
theorem v (h : Counts s t f m) : (t.grp s.cur).v = (s.grp s.cur).v := (congrArg Group.v h.group :)

theorem lpc (h : Counts s t f m) : t.lpc s.cur = s.lpc s.cur := by
  rw [State.lpc, State.lpc, h.sys, (congrArg Group.hlpc h.group :), (congrArg Group.lpc h.group :)]

theorem anyActive (h : Counts s t f m) : t.anyActive s.cur = (List.range 32).any (fun l => f l == 0) :=
  any_congr fun l hl => by rw [State.active, h.count l hl]

theorem teamOf (h : Counts s t f m) : t.teamOf s.cur = s.teamOf s.cur := by
  rw [State.teamOf, State.teamOf, State.team, State.team, h.teams, (congrArg Group.team h.group :)]

theorem rv (h : Counts s t f m) (r l : Nat) : t.rv s.cur r l = s.rv s.cur r l := by
  have hb : t.bank s.cur = s.bank s.cur := by rw [State.bank, State.bank, State.core, State.core, (congrArg State.cores h.rest :)]
  have hi : t.inBank s.cur = s.inBank s.cur := by rw [State.inBank, State.inBank, h.sys]
  rw [State.rv, State.rv, hi, hb, h.v]

/-- The counts of `clearCm` of 02 R40: a marked lane is active again, and no mark stands. -/
theorem clearCm (s : State) :
    Counts s (s.clearCm s.cur) (fun l => if (s.grp s.cur).cm.getLsbD l then 0 else s.dcOf s.cur l) 0 :=
  ((refl s).setDc _).setMarks (fun _ => 0)

theorem dropDc (h : Counts s t f m) : Counts s (t.dropDc s.cur) (fun l => f l - 1) m :=
  (h.setDc _).congr fun l hl => by rw [h.count l hl]

end Counts

/-- The word ends with the depth counts f, the marks c and the stream at word w, and changes nothing else. -/
def GoesOn (s : State) (i : Instr) (f : Nat → Nat) (c : Nat → Bool) (w : Nat) : Prop :=
  ∃ t, exec i s = .next t
    ∧ (∀ l, l < 32 → t.dcOf s.cur l = f l ∧ (t.grp s.cur).cm.getLsbD l = c l) ∧ AtWord s t w
    ∧ { t.grp s.cur with dc := [], cm := 0, lpc := 0, hlpc := 0, lwait := .none, refillArr := false } =
      { s.grp s.cur with dc := [], cm := 0, lpc := 0, hlpc := 0, lwait := .none, refillArr := false }
    ∧ (∀ j, j ≠ s.cur → t.grp j = s.grp j) ∧ { t with groups := [] } = { s with groups := [] }

theorem grp_lgoto (s : State) (g w : Nat) :
    { (s.lgoto g w).grp g with lpc := 0, hlpc := 0, lwait := .none, refillArr := false } =
    { s.grp g with lpc := 0, hlpc := 0, lwait := .none, refillArr := false } := by
  rw [State.lgoto, State.grp_onGrp_self]
  split <;> rfl

theorem dcOf_lgoto (s : State) (g w l : Nat) : (s.lgoto g w).dcOf g l = s.dcOf g l :=
  (congrArg (fun x : Group => x.dc.get 0 l) (grp_lgoto s g w) :)

theorem cm_lgoto (s : State) (g w : Nat) : ((s.lgoto g w).grp g).cm = (s.grp g).cm := (congrArg Group.cm (grp_lgoto s g w) :)

theorem atWord_lgoto {s t : State} (hc : t.cur = s.cur) (w : Nat) : AtWord s (t.lgoto s.cur w) w := by
  have h := (laneFrame_lgoto t w).1
  rwa [AtWord, hc] at h

theorem Counts.goesOn {s t : State} {f : Nat → Nat} {m : Word} {i : Instr} {w : Nat} (h : Counts s t f m)
    (he : exec i s = .next (t.lgoto s.cur w)) {c : Nat → Bool} (hc : ∀ l, l < 32 → m.getLsbD l = c l) : GoesOn s i f c w := by
  refine ⟨_, he, fun l hl => ⟨?_, ?_⟩, atWord_lgoto h.cur w, ?_, fun j hj => ?_, h.rest⟩
  · rw [dcOf_lgoto, h.count l hl]
  · rw [cm_lgoto, h.marks, hc l hl]
  · have hg := congrArg (fun x : Group => { x with dc := [], cm := 0 }) (grp_lgoto t s.cur w)
    have hs := congrArg (fun x : Group => { x with lpc := 0, hlpc := 0, lwait := .none, refillArr := false }) h.group
    exact hg.trans hs
  · rw [State.lgoto, State.grp_onGrp_other _ _ hj, h.groups j hj]

/-! ## The words of 02 R39 and R40 -/

theorem getLsbD_laneMask_foldl (L : List Nat) (m : Word) {l : Nat} (hl : l < 32) :
    (L.foldl (fun m k => m ||| (1#32 <<< k)) m).getLsbD l = (m.getLsbD l || L.contains l) := by
  induction L generalizing m with
  | nil => simp
  | cons k L ih =>
    rw [List.foldl_cons, ih, BitVec.getLsbD_or, List.contains_cons, Bool.or_assoc]
    congr 2
    by_cases hk : l = k
    · subst hk
      simp [hl]
    · simp only [BitVec.getLsbD_shiftLeft, hl, BitVec.getLsbD_one, decide_true, Bool.true_and, beq_eq_false_iff_ne.2 hk]
      simp
      omega

/-- The mask of some lanes, joined to another. -/
theorem getLsbD_or_laneMask (m : Word) (L : List Nat) {l : Nat} (hl : l < 32) :
    (m ||| laneMask L).getLsbD l = (m.getLsbD l || L.contains l) := by
  rw [BitVec.getLsbD_or, laneMask, getLsbD_laneMask_foldl L 0 hl]
  simp

theorem taking_contains (s : State) (g : Nat) (h : Hdr) {l : Nat} (hl : l < 32) :
    (s.taking g h).contains l = (s.active g l && s.guard g h l) := by
  rw [Bool.eq_iff_iff, List.contains_iff_mem, mem_taking]
  simp [hl]

theorem skipOr_eq {s t : State} {f : Nat → Nat} {m : Word} (h : Counts s t f m) (off : Nat) :
    t.skipOr s.cur off =
      t.lgoto s.cur (if (List.range 32).any (fun l => f l == 0) then s.lpc s.cur + 1 else s.lpc s.cur + off) := by
  rw [State.skipOr, State.ladv, h.anyActive, h.lpc]
  exact (apply_ite (t.lgoto s.cur) _ _ _).symm

theorem ladv_eq {s t : State} {f : Nat → Nat} {m : Word} (h : Counts s t f m) :
    t.ladv s.cur = t.lgoto s.cur (s.lpc s.cur + 1) := by rw [State.ladv, h.lpc]

theorem laneTraps_of {s : State} {i : Instr} {m : Nat → R State} {code info : Nat} {l : Option Nat} {va : GWord}
    (he : exec i s = runLane s m) (hm : m s.cur = .error (.trap { code := code, info := info, lane := l, va := va } none))
    (hf : s.cur ≠ farrierId) : LaneTraps s i code info l va := by
  rw [LaneTraps, he]
  exact runLane_trap hm hf

theorem enterLoop_ok {s : State} (hc : ∀ l, l < 32 → s.dcOf s.cur l ≠ 255) :
    ∃ t, enterLoop s s.cur = .ok t
      ∧ Counts s t (fun l => if s.dcOf s.cur l = 0 then 0 else s.dcOf s.cur l + 1) (s.grp s.cur).cm :=
  ⟨_, by rw [enterLoop, incOk_ok hc]; rfl, ((Counts.refl s).setDc _).congr fun l _ => by simp [State.active]⟩

theorem backTo_ok {s t : State} {off : Nat} (ho : off ≤ t.lpc s.cur) : backTo t s.cur off = .ok (t.lgoto s.cur (t.lpc s.cur - off)) :=
  legal_bind_true (decide_eq_true ho) _

theorem backTo_trap {s t : State} {off : Nat} (ho : t.lpc s.cur < off) : backTo t s.cur off = .error (trapOf cILLEGAL) :=
  legal_bind_false (decide_eq_false (Nat.not_le.2 ho)) _

section
variable {s : State} (hf : s.cur ≠ farrierId)
include hf

/-- lif: an active lane whose condition fails waits one deep, and a waiting lane waits one deeper. -/
theorem lif_goesOn (h : Hdr) (off : BitVec 20) (hc : ∀ l, l < 32 → s.dcOf s.cur l ≠ 255) :
    let f (l : Nat) : Nat := if s.dcOf s.cur l = 0 then (if s.guard s.cur h l then 0 else 1) else s.dcOf s.cur l + 1
    GoesOn s (.lif h off) f (fun l => (s.grp s.cur).cm.getLsbD l)
      (if (List.range 32).any (fun l => f l == 0) then s.lpc s.cur + 1 else s.lpc s.cur + off.toNat) := by
  intro f
  have hn : Counts s (s.setDc s.cur (fun l => if s.active s.cur l then b2n (!s.guard s.cur h l) else s.dcOf s.cur l + 1)) f
      (s.grp s.cur).cm := ((Counts.refl s).setDc _).congr fun l _ => by
    cases hg : s.guard s.cur h l <;> simp [f, State.active, b2n, hg]
  refine hn.goesOn ?_ fun _ _ => rfl
  rw [exec_lif, ← skipOr_eq hn]
  exact runLane_ok (by rw [incOk_ok hc]; rfl) hf

theorem lloop_goesOn (k : Sched) (hc : ∀ l, l < 32 → s.dcOf s.cur l ≠ 255) :
    GoesOn s (.lloop k) (fun l => if s.dcOf s.cur l = 0 then 0 else s.dcOf s.cur l + 1) (fun l => (s.grp s.cur).cm.getLsbD l)
      (s.lpc s.cur + 1) := by
  obtain ⟨t, ht, hn⟩ := enterLoop_ok hc
  refine hn.goesOn ?_ fun _ _ => rfl
  rw [exec_lloop, ← ladv_eq hn]
  exact runLane_ok (by rw [ht]; rfl) hf

/-- A count of 255 cannot rise: the lowest such lane traps. -/
theorem counts_trap (h : Hdr) (k : Sched) (off : BitVec 20) {l : Nat} (hl : l < 32) (hd : s.dcOf s.cur l = 255)
    (hmin : ∀ j, j < l → s.dcOf s.cur j ≠ 255) :
    LaneTraps s (.lif h off) 0x01 0 (some l) 0 ∧ LaneTraps s (.lloop k) 0x01 0 (some l) 0 := by
  have hi := incOk_trap hl hd hmin
  refine ⟨laneTraps_of (exec_lif h off s) ?_ hf, laneTraps_of (exec_lloop k s) ?_ hf⟩
  · rw [hi]; rfl
  · rw [enterLoop, hi]; rfl

theorem lelse_goesOn (k : Sched) (off : BitVec 20) :
    let f (l : Nat) : Nat := if s.dcOf s.cur l = 0 then 1 else if s.dcOf s.cur l = 1 then 0 else s.dcOf s.cur l
    GoesOn s (.lelse k off) f (fun l => (s.grp s.cur).cm.getLsbD l)
      (if (List.range 32).any (fun l => f l == 0) then s.lpc s.cur + 1 else s.lpc s.cur + off.toNat) := by
  intro f
  have hn : Counts s (s.setDc s.cur (fun l => match s.dcOf s.cur l with
      | 0 => 1
      | 1 => 0
      | n => n)) f (s.grp s.cur).cm := by
    refine ((Counts.refl s).setDc _).congr fun l _ => ?_
    simp only [f]
    split <;> simp_all
  refine hn.goesOn ?_ fun _ _ => rfl
  rw [exec_lelse, ← skipOr_eq hn]
  exact runLane_ok rfl hf

theorem lendif_goesOn (k : Sched) :
    GoesOn s (.lendif k) (fun l => s.dcOf s.cur l - 1) (fun l => (s.grp s.cur).cm.getLsbD l) (s.lpc s.cur + 1) := by
  have hn := (Counts.refl s).dropDc
  refine hn.goesOn ?_ fun _ _ => rfl
  rw [exec_lendif, ← ladv_eq hn]
  exact runLane_ok rfl hf

/-- The lanes that leave wait for n + 1 closers; those that continue are marked too. -/
theorem leave_goesOn (h : Hdr) {n : BitVec 8} (hn : n ≠ 255) :
    let take (l : Nat) : Bool := s.dcOf s.cur l == 0 && s.guard s.cur h l
    let f (l : Nat) : Nat := if take l then n.toNat + 1 else s.dcOf s.cur l
    GoesOn s (.lbreak h n) f (fun l => (s.grp s.cur).cm.getLsbD l) (s.lpc s.cur + 1) ∧
    GoesOn s (.lcont h n) f (fun l => (s.grp s.cur).cm.getLsbD l || take l) (s.lpc s.cur + 1) := by
  intro take f
  have hb : (n != 255) = true := bne_iff_ne.2 hn
  have hd : Counts s (s.setDc s.cur (fun k => if (s.leaving s.cur h).contains k then n.toNat + 1 else s.dcOf s.cur k)) f
      (s.grp s.cur).cm := ((Counts.refl s).setDc _).congr fun l hl => by
    rw [State.leaving, taking_contains s s.cur h hl]
    rfl
  refine ⟨?_, ?_⟩
  · refine hd.goesOn ?_ fun _ _ => rfl
    rw [exec_lbreak, ← ladv_eq hd]
    exact runLane_ok (legal_bind_true hb _) hf
  · have hm := hd.setMarks (fun x => x.cm ||| laneMask (s.leaving s.cur h))
    rw [hd.marks] at hm
    refine hm.goesOn ?_ fun l hl => ?_
    · rw [exec_lcont, ← ladv_eq hm]
      exact runLane_ok (legal_bind_true hb _) hf
    · rw [getLsbD_or_laneMask _ _ hl, State.leaving, taking_contains s s.cur h hl]
      rfl

theorem leave_traps (h : Hdr) {n : BitVec 8} (hn : n = 255) :
    LaneTraps s (.lbreak h n) 0x01 0 none 0 ∧ LaneTraps s (.lcont h n) 0x01 0 none 0 := by
  have hb : (n != 255) = false := by simp [hn]
  exact ⟨laneTraps_of (exec_lbreak h n s) (legal_bind_false hb _) hf, laneTraps_of (exec_lcont h n s) (legal_bind_false hb _) hf⟩

theorem lendloop_goesOn (k : Sched) (off : BitVec 20) :
    let f (l : Nat) : Nat := if (s.grp s.cur).cm.getLsbD l then 0 else s.dcOf s.cur l
    ((List.range 32).any (fun l => f l == 0) = true →
      (off.toNat ≤ s.lpc s.cur → GoesOn s (.lendloop k off) f (fun _ => false) (s.lpc s.cur - off.toNat)) ∧
      (s.lpc s.cur < off.toNat → LaneTraps s (.lendloop k off) 0x01 0 none 0)) ∧
    ((List.range 32).any (fun l => f l == 0) = false →
      GoesOn s (.lendloop k off) (fun l => f l - 1) (fun _ => false) (s.lpc s.cur + 1)) := by
  intro f
  have hn : Counts s (s.clearCm s.cur) f 0 := Counts.clearCm s
  have hm : ∀ l, l < 32 → (0 : Word).getLsbD l = false := fun l _ => BitVec.getLsbD_zero
  refine ⟨fun ha => ⟨fun ho => hn.goesOn ?_ hm, fun ho => laneTraps_of (exec_lendloop k off s) ?_ hf⟩, fun ha => ?_⟩
  · rw [exec_lendloop]
    refine runLane_ok ?_ hf
    simp only [hn.anyActive, ha, if_true]
    rw [← hn.lpc]
    exact backTo_ok (by rw [hn.lpc]; exact ho)
  · simp only [hn.anyActive, ha, if_true]
    exact backTo_trap (by rw [hn.lpc]; exact ho)
  · refine hn.dropDc.goesOn ?_ hm
    rw [exec_lendloop, ← ladv_eq hn.dropDc]
    refine runLane_ok ?_ hf
    simp only [hn.anyActive, ha, Bool.false_eq_true, if_false]

end

/-! ## Refill loops (02 R42 to R44) -/

theorem zip_take_length {α β : Type} (a : List α) (b : List β) : a.zip (b.take a.length) = a.zip b := by
  induction a generalizing b with
  | nil => simp
  | cons x a ih => cases b <;> simp [ih]

theorem map_fst_zip_sublist {α β : Type} (a : List α) (b : List β) : ((a.zip b).map Prod.fst).Sublist a := by
  induction a generalizing b with
  | nil => simp
  | cons x a ih => cases b <;> simp [ih]

/-- What refill_pull of 02 R43 does for the asking lanes: the queue's oldest items go to the lowest of them, in order, and the rest of
them stay asking. -/
structure Refilled (t u : State) (iq : Nat) (d : VReg) (want : List Nat) (q : List GWord) : Prop where
  cur    : u.cur = t.cur
  lpc    : u.lpc t.cur = t.lpc t.cur
  queue  : (u.teamOf t.cur).queue iq = q.drop want.length
  low    : ∀ l v, (l, v) ∈ want.zip q → u.rv t.cur d.toNat l = v.setWidth 32
  high   : ∀ l v, (l, v) ∈ want.zip q → u.rv t.cur (d.toNat + 1) l = (v >>> 32).setWidth 32
  gets   : ∀ l v, (l, v) ∈ want.zip q → u.dcOf t.cur l = 0
  asks   : ∀ l, l ∈ want → (∀ v, (l, v) ∉ want.zip q) → u.dcOf t.cur l = 1
  counts : ∀ l, l < 32 → l ∉ want → u.dcOf t.cur l = t.dcOf t.cur l
  regs   : ∀ r l, l < 32 → (r ≠ d.toNat ∧ r ≠ d.toNat + 1) ∨ (∀ v, (l, v) ∉ want.zip q) → u.rv t.cur r l = t.rv t.cur r l
  groups : ∀ j, j ≠ t.cur → u.grp j = t.grp j

theorem any_fst_eq_true {α : Type} {L : List (Nat × α)} {l : Nat} : (L.any fun e => e.1 == l) = true ↔ ∃ v, (l, v) ∈ L := by
  simp [List.any_eq_true]

theorem dcOf_of_laneFrame {s t : State} {vs ps : List Nat} (h : LaneFrame s t vs ps) (l : Nat) : t.dcOf s.cur l = s.dcOf s.cur l :=
  (congrArg (fun x : Group => x.dc.get 0 l) h.group :)

theorem teamOf_of_laneFrame {s t : State} {vs ps : List Nat} (h : LaneFrame s t vs ps) : t.teamOf s.cur = s.teamOf s.cur := by
  rw [State.teamOf, State.teamOf, State.team, State.team, (congrArg State.teams h.rest :), (congrArg Group.team h.group :)]

/-- The items written to a pair of lane registers of their lanes. -/
def State.giveItems (s : State) (d : Nat) (got : List (Nat × GWord)) : State :=
  (s.wvs s.cur d (got.map (fun e : Nat × GWord => (e.1, e.2.setWidth 32)))).wvs s.cur (d + 1)
    (got.map (fun e : Nat × GWord => (e.1, (e.2 >>> 32).setWidth 32)))

theorem giveItems_spec (s : State) (d : Nat) {got : List (Nat × GWord)} (hl : ∀ e ∈ got, e.1 < 32) (hn : (got.map Prod.fst).Nodup) :
    let u := s.giveItems d got
    u.cur = s.cur ∧ u.lpc s.cur = s.lpc s.cur ∧ LaneFrame s u [d, d + 1] []
      ∧ (∀ l v, (l, v) ∈ got → u.rv s.cur d l = v.setWidth 32 ∧ u.rv s.cur (d + 1) l = (v >>> 32).setWidth 32)
      ∧ (∀ r l, l < 32 → l ∉ got.map Prod.fst → u.rv s.cur r l = s.rv s.cur r l) := by
  intro u
  have keys (f : GWord → Word) : (got.map (fun e : Nat × GWord => (e.1, f e.2))).map Prod.fst = got.map Prod.fst := by
    simp [Function.comp_def]
  have bound (f : GWord → Word) : ∀ e ∈ got.map (fun e : Nat × GWord => (e.1, f e.2)), e.1 < 32 := by
    intro e he
    obtain ⟨x, hx, rfl⟩ := List.mem_map.1 he
    exact hl x hx
  obtain ⟨c1, f1, in1, out1⟩ := wvs_spec s d _ (bound (fun v => v.setWidth 32)) (by rw [keys (fun v => v.setWidth 32)]; exact hn)
  generalize ht : s.wvs s.cur d (got.map (fun e : Nat × GWord => (e.1, e.2.setWidth 32))) = t at c1 f1 in1 out1
  obtain ⟨c2, f2, in2, out2⟩ := wvs_spec t (d + 1) _ (bound (fun v => (v >>> 32).setWidth 32))
    (by rw [keys (fun v => (v >>> 32).setWidth 32)]; exact hn)
  rw [keys (fun v => v.setWidth 32)] at out1
  rw [keys (fun v => (v >>> 32).setWidth 32)] at out2
  have hu : t.wvs t.cur (d + 1) (got.map (fun e : Nat × GWord => (e.1, (e.2 >>> 32).setWidth 32))) = u := by
    rw [c1, ← ht]
    rfl
  have f2' := f2.regs
  rw [hu, c1] at c2 in2 out2 f2'
  rw [hu] at f2
  have lt32 {l : Nat} {v : GWord} (h : (l, v) ∈ got) : l < 32 := hl (l, v) h
  refine ⟨c2, ?_, ?_, fun l v h => ⟨?_, ?_⟩, fun r l hl hout => ?_⟩
  · refine lpc_congr ?_
    rw [show u = (s.wvs s.cur d _).wvs s.cur (d + 1) _ from rfl, wvs_grp, wvs_grp]
  · exact laneFrame_trans (laneFrame_mono f1 (by simp) (by simp)) (laneFrame_mono f2 (by simp) (by simp)) c1
  · rw [f2' d l (lt32 h) (by simp)]
    exact in1 l _ (List.mem_map.2 ⟨_, h, rfl⟩)
  · exact in2 l _ (List.mem_map.2 ⟨_, h, rfl⟩)
  · have hr1 : t.rv s.cur r l = s.rv s.cur r l := by
      by_cases hr : r = d
      · rw [hr, out1 l hl hout]
      · exact f1.regs r l hl (by simpa using hr)
    rw [← hr1]
    by_cases hr : r = d + 1
    · rw [hr, out2 l hl hout]
    · exact f2' r l hl (by simpa using hr)

theorem refillPull_refilled (t : State) (iq : Nat) (d : VReg) {want : List Nat} (hw : ∀ l ∈ want, l < 32) (hn : want.Nodup) :
    Refilled t (t.refillPull t.cur iq d want) iq d want ((t.teamOf t.cur).queue iq) := by
  generalize hq : (t.teamOf t.cur).queue iq = q
  -- the state with the queue cut and the new counts, before the items are written
  let cut := t.onTeam (t.grp t.cur).team (fun y => y.setQueue iq (q.drop want.length))
  let count (l : Nat) : Nat := if want.contains l then b2n (!((want.zip q).any fun e => e.1 == l)) else cut.dcOf t.cur l
  let t' := cut.setDc t.cur count
  have hu : t.refillPull t.cur iq d want = t'.giveItems d.toNat (want.zip q) := by
    rw [State.refillPull, show (t.team (t.grp t.cur).team).queue iq = q from hq, zip_take_length]
    rfl
  have hc : Counts cut t' count (t.grp t.cur).cm := (Counts.refl cut).setDc count
  have hcur : t'.cur = t.cur := hc.cur
  have hwant {l : Nat} {v : GWord} (h : (l, v) ∈ want.zip q) : l ∈ want := (List.of_mem_zip h).1
  obtain ⟨ucur, ulpc, uframe, uget, uout⟩ := giveItems_spec t' d.toNat (got := want.zip q)
    (fun e he => hw e.1 (hwant (v := e.2) he)) (hn.sublist (map_fst_zip_sublist want q))
  have udc (l : Nat) (hl : l < 32) := (dcOf_of_laneFrame uframe l).trans (hc.count l hl)
  have ureg := uframe.regs
  have uteam := teamOf_of_laneFrame uframe
  have ugrp := uframe.groups
  rw [← hu] at *
  rw [hcur] at ucur ulpc udc uget uout ureg uteam ugrp
  have hrv (r l : Nat) : t'.rv t.cur r l = t.rv t.cur r l := hc.rv r l
  constructor
  case cur => exact ucur
  case lpc => exact ulpc.trans hc.lpc
  case queue =>
    rw [uteam, show t'.teamOf t.cur = cut.teamOf t.cur from hc.teamOf, State.teamOf, State.grp_onTeam, State.team_onTeam_self]
    simp [Team.queue, Team.setQueue]
  case low => exact fun l v h => (uget l v h).1
  case high => exact fun l v h => (uget l v h).2
  case gets =>
    intro l v h
    have hany := any_fst_eq_true.2 ⟨v, h⟩
    rw [udc l (hw l (hwant h))]
    simp [count, hwant h, hany, b2n]
  case asks =>
    intro l hl hno
    have hany : ((want.zip q).any fun e => e.1 == l) = false := by
      rw [← Bool.not_eq_true, any_fst_eq_true]
      exact fun ⟨v, h⟩ => hno v h
    rw [udc l (hw l hl)]
    simp [count, hl, hany, b2n]
  case counts =>
    intro l hl hno
    rw [udc l hl]
    simp [count, hno, cut, State.dcOf]
  case regs =>
    intro r l hl h
    rw [← hrv]
    obtain ⟨h1, h2⟩ | h := h
    · exact ureg r l hl (by simp [h1, h2])
    · refine uout r l hl fun hm => ?_
      obtain ⟨⟨k, v⟩, he, rfl⟩ := List.mem_map.1 hm
      exact h v he
  case groups => exact fun j hj => (ugrp j hj).trans (hc.groups j hj)

/-- The lanes that ask at a refill loop's head: those that wait one deep on arrival by the closer's branch and are not marked to
continue, and on entry those that are active (02 R43). -/
def State.asking (s : State) (g : Nat) : List Nat :=
  indices 32 (fun l => if (s.grp g).refillArr then s.dcOf g l == 1 && !(s.grp g).cm.getLsbD l else s.dcOf g l == 0)

theorem asking_lt {s : State} {g : Nat} : ∀ l ∈ s.asking g, l < 32 := fun _ h => (mem_indices.1 h).1

theorem asking_nodup (s : State) (g : Nat) : (s.asking g).Nodup := List.Nodup.filter _ List.nodup_range

theorem needRegs_ok {s : State} {g : Nat} {d : VReg} {n : Nat} (h : regsOk s g d n = true) : needRegs s g [(d, n)] = .ok () := by
  rw [needRegs, List.all_cons, h]
  rfl

section
variable {s : State} (hf : s.cur ≠ farrierId) {iq : BitVec 5} (hq : iq.toNat < (s.teamOf s.cur).niq)
include hf hq

/-- The head of a refill loop runs as the pull, from the state in which the counts of an entry have risen. -/
theorem lloopRefill_pulls (k : Sched) (d : VReg) (hr : regsOk s s.cur d 2 = true)
    (hc : (s.grp s.cur).refillArr = false → ∀ l, l < 32 → s.dcOf s.cur l ≠ 255) :
    ∃ t, exec (.lloopRefill k iq d) s = .next ((t.refillPull s.cur iq.toNat d (s.asking s.cur)).ladv s.cur)
      ∧ Counts s t (fun l => if (s.grp s.cur).refillArr || s.dcOf s.cur l == 0 then s.dcOf s.cur l else s.dcOf s.cur l + 1)
          (s.grp s.cur).cm := by
  cases ha : (s.grp s.cur).refillArr with
  | true =>
    refine ⟨s, ?_, (Counts.refl s).congr fun l _ => by simp⟩
    rw [exec_lloopRefill]
    refine runLane_ok ?_ hf
    rw [needRegs_ok hr]
    refine (legal_bind_true (decide_eq_true hq) _).trans ?_
    simp only [ha, State.asking, if_true]
    rfl
  | false =>
    obtain ⟨t, ht, hn⟩ := enterLoop_ok (hc ha)
    refine ⟨t, ?_, hn.congr fun l _ => ?_⟩
    · rw [exec_lloopRefill]
      refine runLane_ok ?_ hf
      rw [needRegs_ok hr]
      refine (legal_bind_true (decide_eq_true hq) _).trans ?_
      simp only [ha, State.asking, ht, Bool.false_eq_true, if_false]
      rfl
    · by_cases hz : s.dcOf s.cur l = 0 <;> simp [hz]

theorem lloopRefill_refills (k : Sched) (d : VReg) (hr : regsOk s s.cur d 2 = true)
    (hc : (s.grp s.cur).refillArr = false → ∀ l, l < 32 → s.dcOf s.cur l ≠ 255) :
    let q := (s.teamOf s.cur).iqs.get [] iq.toNat
    let got := (s.asking s.cur).zip q
    ∃ t, exec (.lloopRefill k iq d) s = .next t ∧ AtWord s t (s.lpc s.cur + 1)
      ∧ (t.teamOf s.cur).iqs.get [] iq.toNat = q.drop (s.asking s.cur).length
      ∧ (∀ l v, (l, v) ∈ got → t.rv s.cur d.toNat l = v.setWidth 32 ∧ t.rv s.cur (d.toNat + 1) l = (v >>> 32).setWidth 32
          ∧ t.dcOf s.cur l = 0)
      ∧ (∀ l, l ∈ s.asking s.cur → (∀ v, (l, v) ∉ got) → t.dcOf s.cur l = 1)
      ∧ (∀ l, l < 32 → l ∉ s.asking s.cur →
          t.dcOf s.cur l = if (s.grp s.cur).refillArr || s.dcOf s.cur l == 0 then s.dcOf s.cur l else s.dcOf s.cur l + 1)
      ∧ (∀ r l, l < 32 → (r ≠ d.toNat ∧ r ≠ d.toNat + 1) ∨ (∀ v, (l, v) ∉ got) → t.rv s.cur r l = s.rv s.cur r l)
      ∧ (∀ j, j ≠ s.cur → t.grp j = s.grp j) := by
  intro q got
  obtain ⟨t, he, hn⟩ := lloopRefill_pulls hf hq k d hr hc
  have hp := refillPull_refilled t iq.toNat d (asking_lt (s := s)) (asking_nodup s s.cur)
  rw [hn.cur] at hp
  have hcur := hn.cur
  generalize t.refillPull s.cur iq.toNat d (s.asking s.cur) = u at he hp
  have hqueue : (t.teamOf s.cur).queue iq.toNat = q := by rw [hn.teamOf]; rfl
  rw [hqueue] at hp
  obtain ⟨ucur, ulpc, uqueue, ulow, uhigh, ugets, uasks, ucounts, uregs, ugroups⟩ := hp
  rw [hcur] at ucur ulpc uqueue ulow uhigh ugets uasks ucounts uregs ugroups
  rw [State.ladv, ulpc, hn.lpc] at he
  have hl := laneFrame_lgoto u (s.lpc s.cur + 1)
  rw [ucur] at hl
  have lregs := hl.2.regs
  have lteam := teamOf_of_laneFrame hl.2
  have lgrp := hl.2.groups
  rw [ucur] at lregs lteam lgrp
  refine ⟨_, he, atWord_lgoto ucur _, ?_, fun l v h => ?_, fun l h hno => ?_, fun l h hno => ?_, fun r l h hno => ?_, fun j hj => ?_⟩
  · rw [lteam]
    exact uqueue
  · have h32 : l < 32 := asking_lt l (List.of_mem_zip h).1
    rw [lregs _ l h32 (by simp), lregs _ l h32 (by simp), dcOf_lgoto]
    exact ⟨ulow l v h, uhigh l v h, ugets l v h⟩
  · rw [dcOf_lgoto]
    exact uasks l h hno
  · rw [dcOf_lgoto, ucounts l h hno, hn.count l h]
  · rw [lregs r l h (by simp), uregs r l h hno, hn.rv]
  · rw [lgrp j hj, ugroups j hj, hn.groups j hj]

omit hf hq in
theorem Counts.lgoto_spec {t : State} {f : Nat → Nat} {m : Word} (hn : Counts s t f m) (w : Nat) :
    let u := t.lgoto s.cur w
    AtWord s u w ∧ (u.grp s.cur).refillArr = false ∧ (∀ l, l < 32 → u.dcOf s.cur l = f l) ∧ (u.grp s.cur).cm = m ∧ u.teams = s.teams
      ∧ ∀ r l, l < 32 → u.rv s.cur r l = s.rv s.cur r l := by
  have hl := (laneFrame_lgoto t w).2.regs
  rw [hn.cur] at hl
  refine ⟨atWord_lgoto hn.cur w, ?_, fun l h => ?_, ?_, hn.teams, fun r l h => ?_⟩
  · rw [State.lgoto, State.grp_onGrp_self]
    split <;> rfl
  · rw [dcOf_lgoto, hn.count l h]
  · rw [cm_lgoto, hn.marks]
  · rw [hl r l h (by simp), hn.rv]

/-- A closer of a refill loop ends with the counts f, no marks and the stream at w, and leaves the queues and the registers. -/
def ClosesRefill (s : State) (i : Instr) (f : Nat → Nat) (w : Nat) (arrives : Bool) : Prop :=
  ∃ t, exec i s = .next t ∧ AtWord s t w ∧ (t.grp s.cur).refillArr = arrives ∧ (∀ l, l < 32 → t.dcOf s.cur l = f l)
    ∧ (t.grp s.cur).cm = 0 ∧ t.teams = s.teams ∧ ∀ r l, l < 32 → t.rv s.cur r l = s.rv s.cur r l

theorem lendloopRefill_closes (k : Sched) (off : BitVec 20) :
    let x := s.grp s.cur
    let q := (s.teamOf s.cur).iqs.get [] iq.toNat
    let f (l : Nat) : Nat := if x.cm.getLsbD l then 0 else s.dcOf s.cur l
    let back : Bool := (List.range 32).any (fun l => f l == 0) || ((List.range 32).any (fun l => f l == 1) && !q.isEmpty)
    (back = true → off.toNat ≤ s.lpc s.cur → ClosesRefill s (.lendloopRefill k iq off) f (s.lpc s.cur - off.toNat) true) ∧
    (back = true → s.lpc s.cur < off.toNat → LaneTraps s (.lendloopRefill k iq off) 0x01 0 none 0) ∧
    (back = false → ClosesRefill s (.lendloopRefill k iq off) (fun l => f l - 1) (s.lpc s.cur + 1) false) := by
  intro x q f back
  have hn : Counts s (s.clearCm s.cur) f 0 := Counts.clearCm s
  have hone : (List.range 32).any (fun l => (s.clearCm s.cur).dcOf s.cur l == 1) = (List.range 32).any (fun l => f l == 1) :=
    any_congr fun l hl => by rw [hn.count l hl]
  have htest : ((s.clearCm s.cur).anyActive s.cur || ((List.range 32).any (fun l => (s.clearCm s.cur).dcOf s.cur l == 1)
      && !((s.teamOf s.cur).queue iq.toNat).isEmpty)) = back := by
    rw [hn.anyActive, hone]
    rfl
  refine ⟨fun hb ho => ?_, fun hb ho => laneTraps_of (exec_lendloopRefill k iq off s) ?_ hf, fun hb => ?_⟩
  · obtain ⟨uat, -, ucount, ucm, uteams, uregs⟩ := hn.lgoto_spec (s.lpc s.cur - off.toNat)
    generalize hu : (s.clearCm s.cur).lgoto s.cur (s.lpc s.cur - off.toNat) = u at uat ucount ucm uteams uregs
    have hback : backTo (s.clearCm s.cur) s.cur off.toNat = .ok u := by
      rw [backTo_ok (by rw [hn.lpc]; exact ho), hn.lpc, hu]
    refine ⟨u.onGrp s.cur (fun x => { x with refillArr := true }), ?_, ?_, ?_, ?_, ?_, uteams, fun r l hl => ?_⟩
    · rw [exec_lendloopRefill]
      refine runLane_ok ?_ hf
      refine (legal_bind_true (decide_eq_true hq) _).trans ?_
      simp only [htest, hb, if_true, hback]
      rfl
    · simpa [AtWord, State.lpc] using uat
    · rw [State.grp_onGrp_self]
    · simpa [State.dcOf] using ucount
    · simpa using ucm
    · rw [← uregs r l hl]
      simp only [State.rv, State.inBank, State.grp_onGrp_self]
      rfl
  · refine (legal_bind_true (decide_eq_true hq) _).trans ?_
    simp only [htest, hb, if_true, backTo_trap (show (s.clearCm s.cur).lpc s.cur < off.toNat by rw [hn.lpc]; exact ho)]
    rfl
  · refine ⟨_, ?_, hn.dropDc.lgoto_spec (s.lpc s.cur + 1)⟩
    rw [exec_lendloopRefill, ← ladv_eq hn.dropDc]
    refine runLane_ok ?_ hf
    refine (legal_bind_true (decide_eq_true hq) _).trans ?_
    simp only [htest, hb, Bool.false_eq_true, if_false]
    rfl

end

end Sys2Proof.Machine

namespace Sys2Proof

open Sys2Proof.Machine

/-- Settles O38: by the new depth counts and marks of each word, and by the pull of a refill loop's head. -/
theorem laneFlow : Obligations.LaneFlow := by
  unfold Obligations.LaneFlow
  refine ⟨fun s h k off n hf => ?_, fun s k iq d off hf hq => ⟨?_, ?_, ?_, ?_⟩⟩
  · exact ⟨fun hc => ⟨lif_goesOn hf h off hc, lloop_goesOn hf k hc⟩,
      fun l ⟨hl, hd, hmin⟩ => counts_trap hf h k off hl hd hmin, lelse_goesOn hf k off, lendif_goesOn hf k,
      fun hn => leave_goesOn hf h hn, fun hn => leave_traps hf h hn, lendloop_goesOn hf k off⟩
  · exact lloopRefill_refills hf hq k d
  · intro hb ho
    obtain ⟨t, he, hat, harr, hcount, hcm, hteams, hregs⟩ := (lendloopRefill_closes hf hq k off).1 hb ho
    exact ⟨t, he, hat, harr, hcount, hcm, hteams, hregs⟩
  · exact (lendloopRefill_closes hf hq k off).2.1
  · intro hb
    obtain ⟨t, he, hat, -, hcount, hcm, hteams, hregs⟩ := (lendloopRefill_closes hf hq k off).2.2 hb
    exact ⟨t, he, hat, hcount, hcm, hteams, hregs⟩

end Sys2Proof
end

section
/-! What a settle and the invalidation of shared lines do to a core's L1 (04 R85, R86, R92, R93). -/

namespace Sys2Proof.Machine

open Sys2Proof

/-! ## Entries of tables -/

theorem Tab.mem_of_find {α : Type} {t : Tab α} {k : Nat} {x : α} (h : Tab.find t k = some x) : (k, x) ∈ t := by
  induction t with
  | nil => cases h
  | cons e t ih =>
    obtain ⟨j, y⟩ := e
    by_cases hj : j = k
    · subst hj
      simp only [Tab.find, beq_self_eq_true, if_true, Option.some.injEq] at h
      simp [h]
    · simp only [Tab.find, beq_iff_eq, hj, if_false] at h
      exact List.mem_cons_of_mem _ (ih h)

/-- In a table in canonical form every entry is the one that its key finds. -/
theorem Tab.find_of_mem {α : Type} {t : Tab α} (hr : Tab.rising t = true) {k : Nat} {x : α} (h : (k, x) ∈ t) : Tab.find t k = some x := by
  induction t with
  | nil => cases h
  | cons e t ih =>
    obtain ⟨j, y⟩ := e
    obtain ⟨ha, hr⟩ := (Tab.rising_cons _ t).1 hr
    rcases List.mem_cons.1 h with h | h
    · cases h
      simp [Tab.find]
    · have hjk : j ≠ k := (ha _ h).ne
      simpa [Tab.find, hjk] using ih hr h

/-- A first entry that is kept is still the first. -/
theorem Tab.find_dropIf_of_kept {α : Type} {t : Tab α} {f : Nat → α → Bool} {k : Nat} {x : α} (h : Tab.find t k = some x)
    (hf : f k x = false) : Tab.find (Tab.dropIf t f) k = some x := by
  induction t with
  | nil => cases h
  | cons e t ih =>
    obtain ⟨j, y⟩ := e
    unfold Tab.dropIf at ih ⊢
    by_cases hj : j = k
    · subst hj
      simp only [Tab.find, beq_self_eq_true, if_true, Option.some.injEq] at h
      subst h
      simp [hf, Tab.find]
    · simp only [Tab.find, beq_iff_eq, hj, if_false] at h
      cases hy : f j y <;> simp [hy, Tab.find, hj, ih h]

theorem Tab.find_map {α β : Type} (t : Tab α) (f : Nat → α → β) (k : Nat) :
    Tab.find (t.map (fun e => (e.1, f e.1 e.2))) k = (Tab.find t k).map (f k) := by
  induction t with
  | nil => rfl
  | cons e t ih =>
    obtain ⟨j, y⟩ := e
    by_cases hj : j = k
    · subst hj
      simp [Tab.find]
    · simpa [Tab.find, hj] using ih

/-! ## Writing lines back -/

/-- A line whose dirty bytes have been written back. -/
def Line.cleaned (x : Line) : Line := if x.dirty = 0 then x else { x with dirty := 0, stamp := 0 }

theorem Line.cleaned_dirty (x : Line) : x.cleaned.dirty = 0 := by
  unfold Line.cleaned
  split
  · assumption
  · rfl

theorem Line.cleaned_cleaned (x : Line) : x.cleaned.cleaned = x.cleaned := by
  rw [Line.cleaned, if_pos x.cleaned_dirty]

/-- From s to t core c has written lines back: the tables hold what `find` says, and nothing else of a core has changed. -/
structure WroteBack (s t : State) (c : Nat) (lines : List Nat) : Prop where
  finds  : ∀ l, (t.core c).l1.find l = if l ∈ lines then ((s.core c).l1.find l).map Line.cleaned else (s.core c).l1.find l
  rising : (s.core c).l1.rising = true → (t.core c).l1.rising = true
  core   : { t.core c with l1 := [] } = { s.core c with l1 := [] }

namespace WroteBack

theorem refl (s : State) (c : Nat) : WroteBack s s c [] := ⟨fun _ => by simp, id, rfl⟩

theorem wbLine (s : State) (c line : Nat) : WroteBack s (s.wbLine c line) c [line] := by
  unfold State.wbLine
  split
  next hn =>
    refine ⟨fun l => ?_, id, rfl⟩
    by_cases hl : l = line
    · simp [hl, hn]
    · simp [hl]
  next x hx =>
    split
    next hd =>
      have hclean : x.cleaned = x := if_pos (eq_of_beq hd)
      refine ⟨fun l => ?_, id, rfl⟩
      by_cases hl : l = line
      · simp [hl, hx, hclean]
      · simp [hl]
    next hd =>
      have hclean : x.cleaned = { x with dirty := 0, stamp := 0 } := if_neg fun h => hd (beq_iff_eq.2 h)
      have hcore := (AtHomes.acceptLine s c line x).core c
      refine ⟨fun l => ?_, fun hr => ?_, ?_⟩
      · rw [State.core_onCore_self, hcore]
        by_cases hl : l = line
        · simp [hl, hx, hclean, Tab.find_put_self]
        · simp [hl, Tab.find_put_other _ _ hl]
      · rw [State.core_onCore_self, hcore]
        exact Tab.rising_put _ _ hr
      · rw [State.core_onCore_self, hcore]

theorem trans {s t u : State} {c : Nat} {a b : List Nat} (h : WroteBack s t c a) (k : WroteBack t u c b) : WroteBack s u c (a ++ b) := by
  refine ⟨fun l => ?_, fun hr => k.rising (h.rising hr), k.core.trans h.core⟩
  rw [k.finds, h.finds]
  by_cases ha : l ∈ a <;> by_cases hb : l ∈ b <;> simp [ha, hb, Function.comp_def, Line.cleaned_cleaned]

theorem foldl (s : State) (c : Nat) (lines : List Nat) : WroteBack s (lines.foldl (fun s l => s.wbLine c l) s) c lines := by
  induction lines generalizing s with
  | nil => exact refl s c
  | cons l lines ih => exact (wbLine s c l).trans (ih _)

end WroteBack

/-- After the lines that satisfy f are written back, a dirty line does not satisfy it. -/
theorem writeBackIf_dirty {s : State} {c l : Nat} {f : Nat → Line → Bool} {z : Line}
    (h : ((s.writeBackIf c f).core c).l1.find l = some z) (hd : z.dirty ≠ 0) : f l z = false := by
  rw [State.writeBackIf, (WroteBack.foldl s c _).finds] at h
  split at h
  next hmem =>
    obtain ⟨x, -, rfl⟩ := Option.map_eq_some_iff.1 h
    exact absurd x.cleaned_dirty hd
  next hmem =>
    refine Bool.eq_false_iff.2 fun hf => hmem (List.mem_map.2 ⟨(l, z), List.mem_filter.2 ⟨Tab.mem_of_find h, ?_⟩, rfl⟩)
    simpa [hf] using hd

/-! ## Settles -/

/-- A settle that is not yet covered: its mark, and the lines that it leaves dirty. -/
theorem settle_spec {s : State} {c : Nat} {m : Word} (hm : markLe m (s.core c).settled = false) :
    let t := s.settle c m
    (t.core c).settled = m ∧ (t.core c).cm = (s.core c).cm ∧ ((s.core c).l1.rising = true → (t.core c).l1.rising = true)
      ∧ ∀ l z, (t.core c).l1.find l = some z → z.dirty ≠ 0 → markLe z.stamp m = false := by
  intro t
  have hwb := WroteBack.foldl s c (((s.core c).l1.filter (fun e => e.2.dirty != 0 && markLe e.2.stamp m)).map Prod.fst)
  have hcore : t.core c = { (s.writeBackIf c (fun _ x => markLe x.stamp m)).core c with settled := m } := by
    have ht : t = s.settle c m := rfl
    rw [State.settle, if_neg (by simp [hm])] at ht
    rw [ht, ((AtHomes.bumpCore ..).trans (AtHomes.bumpCore ..)).core]
    exact State.core_onCore_self (s.writeBackIf c (fun _ x => markLe x.stamp m)) c (fun k => { k with settled := m })
  refine ⟨?_, ?_, fun hr => ?_, fun l z hz hd => ?_⟩
  · rw [hcore]
  · rw [hcore]
    exact (congrArg Core.cm hwb.core :)
  · rw [hcore]
    exact hwb.rising hr
  · rw [hcore] at hz
    exact writeBackIf_dirty hz hd

/-! ## The invalidation of shared lines -/

/-- The core after the invalidation: the clean lines of shared pages are gone from its L1, and the others of shared pages are read anew. -/
theorem core_invShared (s : State) (c : Nat) : (s.invShared c).core c = { s.core c with
    l1 := ((s.core c).l1.dropIf (fun _ x => x.dirty == 0 && !x.priv)).map (fun e => (e.1, if e.2.priv then e.2 else s.refreshed c e.1 e.2)) } := by
  rw [State.invShared, State.core_onCore_self, (AtHomes.bumpCore ..).core]

theorem homeByte_invShared (s : State) (c a : Nat) : (s.invShared c).homeByte a = s.homeByte a := by
  unfold State.invShared State.bumpCore
  split <;> rfl

section
variable {s : State} {c l : Nat}

theorem noneShared_invShared (s : State) (c : Nat) : (s.invShared c).NoneShared c := by
  have hmem {l : Nat} {x : Line} (h : (l, x) ∈ ((s.invShared c).core c).l1) : ∃ y, (y.dirty ≠ 0 ∨ y.priv = true)
      ∧ x = if y.priv then y else s.refreshed c l y := by
    rw [core_invShared] at h
    obtain ⟨⟨k, y⟩, hy, he⟩ := List.mem_map.1 h
    cases he
    refine ⟨y, ?_, rfl⟩
    have := (List.mem_filter.1 hy).2
    simp only [Bool.not_and, Bool.not_not, Bool.or_eq_true, Bool.not_eq_true', beq_eq_false_iff_ne] at this
    exact this
  refine ⟨fun l x h => ?_, fun l x k h hp hk hd => ?_⟩
  · obtain ⟨y, hy, rfl⟩ := hmem h
    split
    next hp => exact .inr hp
    next hp => exact .inl (hy.resolve_right hp)
  · obtain ⟨y, hy, rfl⟩ := hmem (Tab.mem_of_find h)
    have hpy : y.priv = false := by
      cases hyp : y.priv <;> simp_all
    rw [if_neg (by simp [hpy])] at hd ⊢
    have hdy : y.dirty.getLsbD k = false := hd
    rw [homeByte_invShared, State.refreshed, List.getD_eq_getElem _ _ (by simpa using hk)]
    simp [hdy]

/-- A line that stays keeps its dirty bytes, and all of it where its page is not shared. -/
theorem find_invShared_of_kept {y : Line} (h : (s.core c).l1.find l = some y) (hk : y.dirty ≠ 0 ∨ y.priv = true) :
    ∃ z, ((s.invShared c).core c).l1.find l = some z ∧ z.dirty = y.dirty ∧ (y.priv = true → z = y) := by
  have hkept : Tab.find ((s.core c).l1.dropIf (fun _ x => x.dirty == 0 && !x.priv)) l = some y := by
    refine Tab.find_dropIf_of_kept h ?_
    obtain hk | hk := hk
    · simp only [beq_eq_false_iff_ne.2 hk, Bool.false_and]
    · simp [hk]
  refine ⟨if y.priv then y else s.refreshed c l y, ?_, ?_, fun hp => if_pos hp⟩
  · rw [core_invShared]
    refine (Tab.find_map _ (fun k x => if x.priv then x else s.refreshed c k x) l).trans ?_
    rw [hkept]
    rfl
  · split <;> rfl

/-- A line that is there was there with the same dirty bytes and the same stamp. -/
theorem find_invShared {z : Line} (hr : (s.core c).l1.rising = true) (h : ((s.invShared c).core c).l1.find l = some z) :
    ∃ y, (s.core c).l1.find l = some y ∧ z.dirty = y.dirty ∧ z.stamp = y.stamp := by
  rw [core_invShared] at h
  obtain ⟨⟨k, y⟩, hy, he⟩ := List.mem_map.1 (Tab.mem_of_find h)
  cases he
  refine ⟨y, Tab.find_of_mem hr (List.mem_of_mem_filter hy), ?_, ?_⟩ <;> split <;> rfl

/-! ## Wide fences -/

/-- A fence of .deck or wider takes a mark, settles it and invalidates the shared lines (04 R85, R93). -/
theorem fenceWide_spec (hm : markLe (s.core c).cm (s.core c).settled = false) (hr : (s.core c).l1.rising = true) :
    let t := s.fenceWide c
    (t.core c).cm = (s.core c).cm + 1 ∧ (t.core c).settled = (s.core c).cm ∧ t.NoneShared c ∧ Traffic s t
      ∧ ∀ l z, (t.core c).l1.find l = some z → z.dirty ≠ 0 → markLe z.stamp (s.core c).cm = false := by
  intro t
  have hmark : (s.onCore c (fun k => { k with cm := k.cm + 1 })).core c = { s.core c with cm := (s.core c).cm + 1 } :=
    State.core_onCore_self ..
  obtain ⟨hsettled, hcm, hrise, hdirty⟩ := settle_spec (s := s.onCore c (fun k => { k with cm := k.cm + 1 })) (c := c)
    (m := (s.core c).cm) (by rw [hmark]; exact hm)
  have hfull : (s.onCore c (fun k => { k with cm := k.cm + 1 })).settle c (s.core c).cm = s.fullSettle c := rfl
  rw [hfull] at hsettled hcm hrise hdirty
  have hrising := hrise (by rw [hmark]; exact hr)
  refine ⟨?_, ?_, noneShared_invShared .., (Traffic.fullSettle s c).trans (Traffic.invShared ..), fun l z hz hd => ?_⟩
  · rw [show (t.core c).cm = ((s.fullSettle c).core c).cm by
      rw [show t = (s.fullSettle c).invShared c from rfl, core_invShared], hcm, hmark]
  · rw [show (t.core c).settled = ((s.fullSettle c).core c).settled by
      rw [show t = (s.fullSettle c).invShared c from rfl, core_invShared], hsettled]
  · obtain ⟨y, hy, hyd, hys⟩ := find_invShared hrising hz
    rw [hys]
    exact hdirty l y hy (hyd ▸ hd)

end

end Sys2Proof.Machine
end

section
/-! The end of a lane block, yields, lane-varying calls and lane fences (02 R30, R31, R45, 09 R215 to R217). -/

namespace Sys2Proof.Machine

open Sys2Proof

/-! ## Outcomes of lane words -/

theorem runLane_wait {s t : State} {m : Nat → R State} (h : m s.cur = .error (.wait t)) (hf : s.cur ≠ farrierId) :
    runLane s m = .next t := by
  simp [runLane, h, hf]

/-- The word stalls: it changes its stream's wait alone. -/
theorem runLane_stalls {s : State} {m : Nat → R State} {r : Stall} (h : m s.cur = waitL s s.cur r) (hf : s.cur ≠ farrierId) :
    ∃ t, runLane s m = .next t ∧ OnlyGroup s t { s.grp s.cur with lwait := .stall r } :=
  ⟨_, runLane_wait h hf, onlyGroup_onGrp s _⟩

/-- The word only goes on. -/
theorem runLane_ladv {s : State} {m : Nat → R State} (h : m s.cur = .ok (s.ladv s.cur)) (hf : s.cur ≠ farrierId) :
    ∃ t, runLane s m = .next t ∧ AtWord s t (s.lpc s.cur + 1) ∧ LaneFrame s t [] [] :=
  ⟨_, runLane_ok h hf, laneFrame_lgoto s _⟩

theorem onlyGroup_congr {s t : State} {x y : Group} (h : OnlyGroup s t x) (hx : x = y) : OnlyGroup s t y := hx ▸ h

theorem onlyGroup_of {s t : State} {f : Group → Group} {x : Group} (ht : t = s.onGrp s.cur f) (hx : f (s.grp s.cur) = x) :
    OnlyGroup s t x := by
  rw [ht, ← hx]
  exact onlyGroup_onGrp s f

/-! ## The queue of blocks: those that have ended, the one that runs, and the rest -/

section
variable {p r : List QEntry} {e : QEntry} (hp : p.all (fun b => b.posted) = true) (he : e.posted = false)
include hp he

theorem takeWhile_posted : (p ++ e :: r).takeWhile (fun b => b.posted) = p := by
  rw [List.takeWhile_append_of_pos (List.all_eq_true.1 hp)]
  simp [he]

theorem dropWhile_posted : (p ++ e :: r).dropWhile (fun b => b.posted) = e :: r := by
  rw [List.dropWhile_append_of_pos (List.all_eq_true.1 hp)]
  simp [he]

theorem find_not_posted : (p ++ e :: r).find? (fun b => !b.posted) = some e := by
  rw [List.find?_append, List.find?_eq_none.2 fun b hb => by simp [List.all_eq_true.1 hp b hb]]
  simp [he]

end

section
variable {s : State} (hf : s.cur ≠ farrierId)
include hf

/-- The block at the head of those that have not ended leaves its result, unless it is .nr. -/
theorem lend_posts (hs : (s.grp s.cur).sys = false) {p r : List QEntry} {e : QEntry} (hq : (s.grp s.cur).laneQ = p ++ e :: r)
    (hp : p.all (fun b => b.posted) = true) (he : e.posted = false) (hring : retireF (s.grp s.cur).ringF = []) :
    ∃ t, exec .lend s = .next t ∧ OnlyGroup s t { s.grp s.cur with
      laneQ := p ++ (if e.nr then [] else [{ e with posted := true }]) ++ r, started := false, lwait := .none, hazards := [], ringM := 0,
      ringL := 0, ringF := [], refillArr := false } := by
  refine ⟨s.endBlock s.cur, ?_, ?_⟩
  · rw [exec_lend]
    exact runLane_ok (if_pos (by rw [hring]; rfl)) hf
  · refine onlyGroup_of rfl ?_
    simp only [hs, hq, find_not_posted hp he, takeWhile_posted hp he, dropWhile_posted hp he, Bool.false_eq_true, if_false,
      List.drop_succ_cons, List.drop_zero]

theorem lend_stalls (hring : retireF (s.grp s.cur).ringF ≠ []) :
    ∃ t, exec .lend s = .next t ∧ OnlyGroup s t { s.grp s.cur with lwait := .stall .future } := by
  rw [exec_lend]
  exact runLane_stalls (if_neg (by simpa using hring)) hf

theorem vyield_records (h : Hdr) (a : VReg) (hs : (s.grp s.cur).sys = false) {p r : List QEntry} {e : QEntry} {l : Nat} {ls : List Nat}
    (hq : (s.grp s.cur).laneQ = p ++ e :: r) (hp : p.all (fun b => b.posted) = true) (he : e.posted = false)
    (hl : s.taking s.cur h = l :: ls) (hr : regsOk s s.cur a 1 = true) :
    ∃ t, exec (.vyield h a) s = .next t ∧ OnlyGroup s t { s.grp s.cur with
      laneQ := p ++ { e with result := s.rv s.cur a.toNat l } :: r, lpc := ((s.grp s.cur).lpc + 1) % 2 ^ 20, lwait := .none,
      refillArr := false } := by
  refine ⟨(s.setResult s.cur (s.rv s.cur a.toNat l)).ladv s.cur, ?_, ?_⟩
  · rw [exec_vyield]
    refine runLane_ok ?_ hf
    rw [needRegs_ok hr, hl]
    rfl
  · have hset : OnlyGroup s (s.setResult s.cur (s.rv s.cur a.toNat l)) { s.grp s.cur with
        laneQ := p ++ { e with result := s.rv s.cur a.toNat l } :: r } := by
      refine onlyGroup_of rfl ?_
      simp only [hs, hq, takeWhile_posted hp he, dropWhile_posted hp he, Bool.false_eq_true, if_false]
    have hlpc : (s.setResult s.cur (s.rv s.cur a.toNat l)).lpc s.cur = (s.grp s.cur).lpc := by
      rw [State.lpc, hset.1, hs]
      rfl
    rw [State.ladv, hlpc]
    exact onlyGroup_congr (hset.onGrp _) (by simp only [hs, Bool.false_eq_true, if_false])

theorem vyield_of_no_lane (h : Hdr) (a : VReg) (hl : s.taking s.cur h = []) (hr : regsOk s s.cur a 1 = true) :
    ∃ t, exec (.vyield h a) s = .next t ∧ AtWord s t (s.lpc s.cur + 1) ∧ LaneFrame s t [] [] := by
  rw [exec_vyield]
  refine runLane_ladv ?_ hf
  rw [needRegs_ok hr, hl]
  rfl

/-! ## Fences -/

theorem vfence_stalls_future (k : Sched) (sc : Scope) (hu : s.unanswered s.cur = true) :
    ∃ t, exec (.vfence k sc) s = .next t ∧ OnlyGroup s t { s.grp s.cur with lwait := .stall .future } := by
  rw [exec_vfence]
  exact runLane_stalls (if_pos hu) hf

section
variable {sc : Scope} (k : Sched) (hu : s.unanswered s.cur = false)
include hu

theorem vfence_narrow (hw : wideScope sc = false) :
    ∃ t, exec (.vfence k sc) s = .next t ∧ AtWord s t (s.lpc s.cur + 1) ∧ LaneFrame s t [] [] := by
  rw [exec_vfence]
  exact runLane_ladv (by simp [hu, hw]) hf

theorem vfence_stalls_latency (hw : wideScope sc = true) (h : s.reinEarlier s.cur true = true ∨ (sc = .rein ∧ s.reinStale s.cur = true)) :
    ∃ t, exec (.vfence k sc) s = .next t ∧ OnlyGroup s t { s.grp s.cur with lwait := .stall .latency } := by
  rw [exec_vfence]
  refine runLane_stalls ?_ hf
  have hc : (s.reinEarlier s.cur true || (sc == .rein && s.reinStale s.cur)) = true := by simpa using h
  simp [hu, hw, hc]

theorem vfence_wide (hw : wideScope sc = true) (h1 : s.reinEarlier s.cur true = false) (h2 : sc = .rein → s.reinStale s.cur = false)
    (hm : markLe (s.core (coreOf s.cur)).cm (s.core (coreOf s.cur)).settled = false) (hr : (s.core (coreOf s.cur)).l1.rising = true) :
    let c := coreOf s.cur
    let m := (s.core c).cm
    ∃ t, exec (.vfence k sc) s = .next t ∧ (t.core c).cm = m + 1 ∧ (t.core c).settled = m ∧ AtWord s t (s.lpc s.cur + 1)
      ∧ (∀ l z, (t.core c).l1.find l = some z → z.dirty ≠ 0 → markLe z.stamp m = false) ∧ t.NoneShared c
      ∧ (∀ r l, l < 32 → t.rv s.cur r l = s.rv s.cur r l) ∧ ∀ j, j ≠ s.cur → t.grp j = s.grp j := by
  intro c m
  obtain ⟨hcm, hset, hnone, ht, hdirty⟩ := fenceWide_spec hm hr
  have hc : (s.reinEarlier s.cur true || (sc == .rein && s.reinStale s.cur)) = false := by
    cases hsc : s.reinStale s.cur <;> simp_all
  have hregs := (laneFrame_lgoto (s.fenceWide c) ((s.fenceWide c).lpc s.cur + 1)).2.regs
  rw [ht.cur] at hregs
  refine ⟨(s.fenceWide c).ladv s.cur, ?_, hcm, hset, ?_, hdirty, hnone, fun r l hl => ?_, fun j hj => ?_⟩
  · rw [exec_vfence]
    exact runLane_ok (by simp [hu, hw, hc]; rfl) hf
  · rw [State.ladv, ht.lpc]
    exact atWord_lgoto ht.cur _
  · rw [State.ladv, hregs r l hl (by simp), ht.rv]
  · rw [State.ladv, State.lgoto, State.grp_onGrp_other _ _ hj, ht.grp]

end

end

/-! ## Lane-varying calls (02 R45) -/

/-- A second entry of the same key takes the place of the first. -/
theorem Tab.put_put {α : Type} (t : Tab α) (k : Nat) (x y : α) : Tab.put (Tab.put t k x) k y = Tab.put t k y := by
  induction t with
  | nil => simp [Tab.put]
  | cons e t ih =>
    obtain ⟨j, z⟩ := e
    by_cases hj : j = k
    · simp [Tab.put, hj]
    · by_cases hk : k < j
      · simp [Tab.put, hj, hk]
      · simp [Tab.put, hj, hk, ih]

theorem setTeam_setTeam (s : State) (k : Nat) {x y : Team} (hx : x ≠ Team.empty) (hy : y ≠ Team.empty) :
    (s.setTeam k x).setTeam k y = s.setTeam k y := by
  simp only [State.setTeam, Tab.set, hx, hy, if_false, Tab.put_put]

theorem ne_empty_of_queue {y : Team} {j : Nat} (h : j < y.niq) : y ≠ Team.empty := by
  rintro rfl
  exact absurd h (Nat.not_lt_zero j)

/-- The item that a lane posts. -/
def State.laneItem (s : State) (g : Nat) (a : VReg) (l : Nat) : GWord := s.rv g (a.toNat + 1) l ++ s.rv g a.toNat l

theorem getLsbD_or_lane {m : Word} {l k : Nat} (hne : k ≠ l) (hm : m.getLsbD k = false) : (m ||| (1#32 <<< l)).getLsbD k = false := by
  rw [BitVec.getLsbD_or, hm, Bool.false_or, BitVec.getLsbD_shiftLeft, BitVec.getLsbD_one]
  by_cases hk : k < l
  · simp [hk]
  · have : k - l ≠ 0 := by omega
    simp [this]

/-- The record of a team to whose queue j an item has been posted. -/
def Team.pushItem (y : Team) (j : Nat) (w : GWord) : Team := y.setQueue j (y.iqs.get [] j ++ [w])

theorem pushItem_queue (y : Team) (j : Nat) (w : GWord) : (y.pushItem j w).iqs.get [] j = y.iqs.get [] j ++ [w] := Tab.get_set_self ..

theorem pushItem_queue_other (y : Team) {j i : Nat} (w : GWord) (h : i ≠ j) : (y.pushItem j w).iqs.get [] i = y.iqs.get [] i :=
  Tab.get_set_other _ _ _ h

/-- A lane posts when its queue has room. -/
theorem postItems_step {s : State} {g : Nat} {t a : VReg} {j l : Nat} {L : List Nat} {done : Word} (hj : j < 32) (hd : done.getLsbD l = false)
    (hk : s.rv g t.toNat l = BitVec.ofNat 32 j) (hroom : ((s.teamOf g).iqs.get [] j).length < 256) :
    s.postItems g t a done (l :: L) =
      (s.setTeam (s.grp g).team ((s.teamOf g).pushItem j (s.laneItem g a l))).postItems g t a (done ||| (1#32 <<< l)) L := by
  have hkj : (s.rv g t.toNat l).toNat % 32 = j := by
    rw [hk, BitVec.toNat_ofNat]
    omega
  rw [State.postItems, if_neg (by simp [hd])]
  simp only [hkj]
  exact if_neg (Nat.not_le.2 hroom)

/-- With the team's record at y, every lane of the list posts its item to queue j, which has room for all. -/
theorem postItems_room (s : State) (g : Nat) (t a : VReg) {j : Nat} (hj : j < 32) (L : List Nat) {y : Team} {done : Word} (hjq : j < y.niq)
    (hn : L.Nodup) (hd : ∀ l ∈ L, done.getLsbD l = false) (hk : ∀ l ∈ L, s.rv g t.toNat l = BitVec.ofNat 32 j)
    (hroom : (y.iqs.get [] j).length + L.length ≤ 256) :
    ∃ z d, (s.setTeam (s.grp g).team y).postItems g t a done L = (s.setTeam (s.grp g).team z, d, true)
      ∧ z.iqs.get [] j = y.iqs.get [] j ++ L.map (s.laneItem g a) ∧ ∀ i, i ≠ j → z.iqs.get [] i = y.iqs.get [] i := by
  induction L generalizing y done with
  | nil => exact ⟨y, done, rfl, by simp, fun _ _ => rfl⟩
  | cons l L ih =>
    obtain ⟨hdl, hd⟩ := List.forall_mem_cons.1 hd
    obtain ⟨hkl, hk⟩ := List.forall_mem_cons.1 hk
    obtain ⟨hnl, hn⟩ := List.nodup_cons.1 hn
    rw [List.length_cons] at hroom
    have hteam : (s.setTeam (s.grp g).team y).teamOf g = y := by rw [State.teamOf, State.grp_setTeam, State.team_setTeam_self]
    have hjq' : j < (y.pushItem j (s.laneItem g a l)).niq := hjq
    obtain ⟨z, d, hz, hzj, hzo⟩ := ih (done := done ||| (1#32 <<< l)) hjq' hn
      (fun k hkL => getLsbD_or_lane (fun h => hnl (h ▸ hkL)) (hd k hkL)) hk (by rw [pushItem_queue]; simp; omega)
    refine ⟨z, d, ?_, ?_, fun i hi => ?_⟩
    · have hstep := postItems_step (s := s.setTeam (s.grp g).team y) (a := a) (L := L) hj hdl hkl (by rw [hteam]; omega)
      rw [hstep, hteam, State.grp_setTeam, show (s.setTeam (s.grp g).team y).laneItem g a l = s.laneItem g a l from rfl,
        setTeam_setTeam s _ (ne_empty_of_queue hjq) (ne_empty_of_queue hjq')]
      exact hz
    · rw [hzj, pushItem_queue]
      simp
    · rw [hzo i hi, pushItem_queue_other _ _ hi]

/-- The same from the state itself, where some lane posts. -/
theorem postItems_all {s : State} {g : Nat} {t a : VReg} {j : Nat} (hj : j < 32) {L : List Nat} {done : Word} (hjq : j < (s.teamOf g).niq)
    (hne : L ≠ []) (hn : L.Nodup) (hd : ∀ l ∈ L, done.getLsbD l = false) (hk : ∀ l ∈ L, s.rv g t.toNat l = BitVec.ofNat 32 j)
    (hroom : ((s.teamOf g).iqs.get [] j).length + L.length ≤ 256) :
    ∃ z d, s.postItems g t a done L = (s.setTeam (s.grp g).team z, d, true)
      ∧ z.iqs.get [] j = (s.teamOf g).iqs.get [] j ++ L.map (s.laneItem g a) ∧ ∀ i, i ≠ j → z.iqs.get [] i = (s.teamOf g).iqs.get [] i := by
  obtain ⟨l, L, rfl⟩ := List.exists_cons_of_ne_nil hne
  obtain ⟨hdl, hd⟩ := List.forall_mem_cons.1 hd
  obtain ⟨hkl, hk⟩ := List.forall_mem_cons.1 hk
  obtain ⟨hnl, hn⟩ := List.nodup_cons.1 hn
  rw [List.length_cons] at hroom
  rw [postItems_step hj hdl hkl (by omega)]
  obtain ⟨z, d, hz, hzj, hzo⟩ := postItems_room s g t a hj L (y := (s.teamOf g).pushItem j (s.laneItem g a l)) (done := done ||| (1#32 <<< l)) hjq hn
    (fun k hkL => getLsbD_or_lane (fun h => hnl (h ▸ hkL)) (hd k hkL)) hk (by rw [pushItem_queue]; simp; omega)
  refine ⟨z, d, hz, ?_, fun i hi => ?_⟩
  · rw [hzj, pushItem_queue]
    simp
  · rw [hzo i hi, pushItem_queue_other _ _ hi]

/-- The same groups under another listing, and the rest alike. -/
theorem laneFrame_of_grp {s t : State} (hg : ∀ j, t.grp j = s.grp j) (hr : { t with groups := [] } = { s with groups := [] }) :
    LaneFrame s t [] [] := by
  have hcores : t.cores = s.cores := (congrArg State.cores hr :)
  have hcore (c : Nat) : t.core c = s.core c := by rw [State.core, State.core, hcores]
  have hbank (g : Nat) : t.bank g = s.bank g := by rw [State.bank, State.bank, hcore]
  refine ⟨fun r l _ _ => ?_, fun p _ => ?_, by rw [hg], fun j _ => hg j, hidesV_of (by rw [hg]) (hbank _), fun j _ => hbank j,
    fun c => by rw [hcore], fun a => (congrArg (fun x : State => x.homeByte a) hr :), (congrArg (fun x : State => { x with cores := [] }) hr :)⟩
  · have hb : t.inBank s.cur = s.inBank s.cur := by rw [State.inBank, State.inBank, hg]
    rw [State.rv, State.rv, hb, hbank, hg]
  · simp only [State.pmask, hg]

/-- Each lane that takes part names a bound queue with room for all of them: every lane posts, and the word goes on. -/
theorem lcallQ_posts {s : State} (h : Hdr) (t a : VReg) {j : Nat} (hjq : j < (s.teamOf s.cur).niq) (hj : j < 32)
    (hb : (s.teamOf s.cur).boundQ j = true) (hr : LaneOk s [(t, 1), (a, 2)]) (hp : (s.grp s.cur).posted = 0)
    (hk : ∀ l ∈ s.taking s.cur h, s.rv s.cur t.toNat l = BitVec.ofNat 32 j) (hne : s.taking s.cur h ≠ [])
    (hroom : ((s.teamOf s.cur).iqs.get [] j).length + (s.taking s.cur h).length ≤ 256) :
    ∃ u, exec (.lcallQ h t a) s = .next u ∧ AtWord s u (s.lpc s.cur + 1)
      ∧ (u.teamOf s.cur).iqs.get [] j = (s.teamOf s.cur).iqs.get [] j ++ (s.taking s.cur h).map (s.laneItem s.cur a)
      ∧ (∀ i, i ≠ j → (u.teamOf s.cur).iqs.get [] i = (s.teamOf s.cur).iqs.get [] i)
      ∧ LaneFrame (s.setTeam (s.grp s.cur).team (u.teamOf s.cur)) u [] [] := by
  obtain ⟨z, d, hz, hzj, hzo⟩ := postItems_all (a := a) (done := (s.grp s.cur).posted) hj hjq hne (taking_nodup ..)
    (fun l _ => by rw [hp]; exact BitVec.getLsbD_zero) hk hroom
  let w := s.setTeam (s.grp s.cur).team z
  generalize hv : w.onGrp s.cur (fun x => { x with posted := 0 }) = v
  have hvg (k : Nat) : v.grp k = w.grp k := by
    rw [← hv]
    by_cases hc : k = s.cur
    · rw [hc, State.grp_onGrp_self, ← hp]
      rfl
    · exact State.grp_onGrp_other _ _ hc
  have hcur : v.cur = s.cur := by rw [← hv]; rfl
  have hframe : LaneFrame w v [] [] := laneFrame_of_grp hvg (by rw [← hv]; rfl)
  have hgo := laneFrame_lgoto v (s.lpc s.cur + 1)
  have hlpc : v.lpc s.cur = s.lpc s.cur := by
    rw [State.lpc, hvg]
    rfl
  have hteam := teamOf_of_laneFrame hgo.2
  rw [hcur] at hgo hteam
  have hz' : (v.lgoto s.cur (s.lpc s.cur + 1)).teamOf s.cur = z :=
    hteam.trans ((teamOf_of_laneFrame hframe).trans (State.team_setTeam_self ..))
  have hlegal : (s.taking s.cur h).filter (fun l => !(decide ((s.rv s.cur t.toNat l).toNat < 32)
      && decide ((s.rv s.cur t.toNat l).toNat < (s.teamOf s.cur).niq) && (s.teamOf s.cur).boundQ (s.rv s.cur t.toNat l).toNat)) = [] := by
    refine List.filter_eq_nil_iff.2 fun l hl => ?_
    have hkl : (s.rv s.cur t.toNat l).toNat = j := by
      rw [hk l hl, BitVec.toNat_ofNat]
      omega
    simp [hkl, hj, hjq, hb]
  refine ⟨v.lgoto s.cur (s.lpc s.cur + 1), ?_, atWord_lgoto hcur _, ?_, ?_, ?_⟩
  · rw [exec_lcallQ]
    refine runLane_ok ?_ hr.1
    rw [show needRegs s s.cur [(t, 1), (a, 2)] = .ok () by simp only [needRegs, hr.2]; rfl]
    simp only [bind, Except.bind, hlegal, legalLanes, hz, if_true]
    rw [← hlpc, ← hv]
    rfl
  · rw [hz']
    exact hzj
  · rw [hz']
    exact hzo
  · rw [hz']
    exact laneFrame_trans hframe hgo.2 (by rw [hcur]; rfl)

end Sys2Proof.Machine

namespace Sys2Proof

open Sys2Proof.Machine

/-- Settles O39: by the queue's split at the block that runs, by induction on the lanes that post, and by what a wide fence does. -/
theorem laneBlocks : Obligations.LaneBlocks := by
  unfold Obligations.LaneBlocks
  intro s h k a t' sc hf
  refine ⟨fun hs p e r hq hp he => ⟨?_, ?_⟩, ?_, ?_, ?_, ?_, ?_, fun hu hw => ⟨?_, ?_⟩⟩
  · exact lend_posts hf hs hq hp he
  · exact fun l ls hl hr => vyield_records hf h a hs hq hp he hl hr
  · exact lend_stalls hf
  · exact fun hl hr => vyield_of_no_lane hf h a (indices_eq_nil hl) hr
  · intro j hjq hj hb hr hp hk lanes hne hroom
    exact lcallQ_posts h t' a hjq hj hb hr hp (fun l hl => hk l (mem_taking.1 hl).1 (mem_taking.1 hl).2) hne hroom
  · exact vfence_stalls_future hf k sc
  · exact vfence_narrow hf k
  · exact vfence_stalls_latency hf k hu hw
  · exact vfence_wide hf k hu hw

end Sys2Proof
end

section
/-! The lane queue (02 R29 to R32, 08 R195). -/

namespace Sys2Proof.Machine

open Sys2Proof

/-! ## The order of the two streams of a group -/

theorem Tab.mem_del_ne {α : Type} {t : Tab α} {k : Nat} {e : Nat × α} (h : e ∈ Tab.del t k) : e.1 ≠ k := by
  induction t with
  | nil => cases h
  | cons f t ih =>
    obtain ⟨j, y⟩ := f
    by_cases hj : j = k
    · simp only [Tab.del, hj, beq_self_eq_true, if_true] at h
      exact ih h
    · simp only [Tab.del, beq_iff_eq, hj, if_false] at h
      rcases List.mem_cons.1 h with rfl | h
      · exact hj
      · exact ih h

theorem Tab.find_eq_none {α : Type} {t : Tab α} {k : Nat} (h : Tab.find t k = none) {e : Nat × α} (he : e ∈ t) : e.1 ≠ k := by
  induction t with
  | nil => cases he
  | cons f t ih =>
    obtain ⟨j, y⟩ := f
    by_cases hj : j = k
    · simp [Tab.find, hj] at h
    · simp only [Tab.find, beq_iff_eq, hj, if_false] at h
      rcases List.mem_cons.1 he with rfl | he
      · exact hj
      · exact ih h he

/-- The keys of the lines of a core's stack caches. -/
def State.stackKeys (s : State) (c : Nat) : List Nat := (s.core c).stackc.map Prod.fst

theorem keys_stampDown (bay : Nat) (st : Word) (t : Tab Line) : (stampDown bay st t).map Prod.fst = t.map Prod.fst := by
  rw [stampDown, List.map_map]
  refine List.map_congr_left fun e _ => ?_
  simp only [Function.comp]
  split <;> rfl

theorem mem_stackKeys_stackDel {s : State} {c k j : Nat} (h : j ∈ (s.stackDel c k).stackKeys c) : j ≠ k ∧ j ∈ s.stackKeys c := by
  unfold State.stackKeys State.stackDel at h
  split at h
  next hn =>
    obtain ⟨e, he, rfl⟩ := List.mem_map.1 h
    exact ⟨Tab.find_eq_none hn he, h⟩
  · rw [State.core_onCore_self, keys_stampDown] at h
    obtain ⟨e, he, rfl⟩ := List.mem_map.1 h
    exact ⟨Tab.mem_del_ne he, List.mem_map.2 ⟨e, Tab.mem_del he, rfl⟩⟩

/-- A line given up is no longer there, and no other comes. -/
theorem mem_stackKeys_stackGive {s : State} {c k j : Nat} (h : j ∈ (s.stackGive c k).stackKeys c) : j ≠ k ∧ j ∈ s.stackKeys c := by
  unfold State.stackGive at h
  split at h
  next hn =>
    obtain ⟨e, he, rfl⟩ := List.mem_map.1 h
    exact ⟨Tab.find_eq_none hn he, h⟩
  · obtain ⟨hne, hmem⟩ := mem_stackKeys_stackDel h
    refine ⟨hne, ?_⟩
    split at hmem
    · split at hmem
      · exact hmem
      · rw [State.stackKeys, State.core_onCore_self] at hmem
        exact hmem
    · rw [State.stackKeys, (AtHomes.acceptLine ..).core] at hmem
      exact hmem

theorem mem_stackKeys_foldl {c j : Nat} (keys : List Nat) {s : State} (h : j ∈ (keys.foldl (fun s k => s.stackGive c k) s).stackKeys c) :
    j ∉ keys ∧ j ∈ s.stackKeys c := by
  induction keys generalizing s with
  | nil => exact ⟨List.not_mem_nil, h⟩
  | cons k keys ih =>
    obtain ⟨hn, hm⟩ := ih h
    obtain ⟨hne, hm⟩ := mem_stackKeys_stackGive hm
    exact ⟨by simp [hne, hn], hm⟩

/-- The order of the streams leaves the bay's stack cache empty. -/
theorem stackLines_stackSync (s : State) (g : Nat) : stackLines ((s.stackSync g).core (coreOf g)) (bayOf g) = [] := by
  refine List.filter_eq_nil_iff.2 fun e he hb => ?_
  obtain ⟨hn, hm⟩ := mem_stackKeys_foldl (c := coreOf g) _ (List.mem_map.2 ⟨e, he, rfl⟩)
  obtain ⟨e', he', hk⟩ := List.mem_map.1 hm
  exact hn (List.mem_map.2 ⟨e', List.mem_filter.2 ⟨he', by rw [hk]; exact hb⟩, hk⟩)

/-- The lane stream's window writes that its deck has not applied are ordered before the control stream. -/
theorem unapplied_syncLane {s : State} {g : Nat} {w : RWrite} (h : w ∈ (s.syncLane g).unapplied (deckOf g)) (hg : w.gid = g)
    (hl : w.lane = true) : w.synced = true := by
  have hd : (s.syncLane g).deck (deckOf g) = { s.deck (deckOf g) with
      sendQ := (s.deck (deckOf g)).sendQ.map (fun w => if w.gid == g && w.lane then { w with synced := true } else w),
      own := (s.deck (deckOf g)).own.map (fun w => if w.gid == g && w.lane then { w with synced := true } else w) } :=
    State.deck_onDeck_self ..
  rw [State.unapplied, hd, List.mem_append] at h
  have hmap (L : List RWrite) (hm : w ∈ L.map (fun w => if w.gid == g && w.lane then { w with synced := true } else w)) : w.synced = true := by
    obtain ⟨x, -, rfl⟩ := List.mem_map.1 hm
    by_cases hx : (x.gid == g && x.lane) = true
    · simp [hx]
    · rw [if_neg hx] at hg hl
      exact absurd (by simp [hg, hl]) hx
  exact h.elim (hmap _) (hmap _)

/-! ## The words -/

/-- What lwait does once the blocks have ended. -/
theorem lwait_orders {s : State} (hf : s.cur ≠ farrierId)
    (hw : (if (s.grp s.cur).sys then (s.grp s.cur).hblock.isNone else s.blocksEnded s.cur) = true) :
    Does s .lwait (fun t => AtPc s t ((s.grp s.cur).pc + 4) ∧ (∀ r, t.rg s.cur r = s.rg s.cur r) ∧ (∀ g, g ≠ s.cur → t.grp g = s.grp g)
      ∧ stackLines (t.core (coreOf s.cur)) (bayOf s.cur) = []
      ∧ ∀ w ∈ t.unapplied (deckOf s.cur), w.gid = s.cur → w.lane = true → w.synced = true) := by
  have ht := Traffic.stackSync (s.syncLane s.cur) s.cur
  have hsync := stackLines_stackSync (s.syncLane s.cur) s.cur
  generalize hu : (s.syncLane s.cur).stackSync s.cur = u at ht hsync
  have hcur : u.cur = s.cur := ht.cur
  have hpc : (u.grp s.cur).pc = (s.grp s.cur).pc := by rw [ht.grp]; rfl
  have hgo := ctlFrame_goto u ((u.grp s.cur).pc + BitVec.ofNat 64 4)
  have hregs := hgo.2.regs
  have hgrps := hgo.2.groups
  rw [hcur] at hgo hregs hgrps
  refine ⟨u.adv s.cur 4, ?_, ?_, fun r => ?_, fun g hg => ?_, hsync, fun w hm => ?_⟩
  · rw [exec_lwait]
    refine runCtrl_ok ((notFarrier_bind hf _).trans ?_)
    rw [if_pos hw, hu]
    rfl
  · have h := hgo.1
    rw [AtPc, hcur] at h
    exact ⟨h.1.trans (by rw [hpc]; rfl), h.2⟩
  · rw [State.adv, hregs r (by simp), ht.rg]
    rfl
  · rw [State.adv, hgrps g hg, ht.grp]
    rfl
  · have hun : (u.adv s.cur 4).unapplied (deckOf s.cur) = (s.syncLane s.cur).unapplied (deckOf s.cur) := ht.unapplied _
    rw [hun] at hm
    exact unapplied_syncLane hm

theorem lwait_waits {s : State} (hf : s.cur ≠ farrierId)
    (hw : (if (s.grp s.cur).sys then (s.grp s.cur).hblock.isNone else s.blocksEnded s.cur) = false) : Waits s .lwait .laneq := by
  refine waits_of_error (exec_lwait s) ((notFarrier_bind hf _).trans ?_)
  rw [if_neg (by simp [hw])]

/-- A word that takes a value out of the group's record into a group register. -/
theorem takes_result {s : State} {i : Instr} {m : Nat → R State} {x : Group} {d : GReg} {v : GWord} (he : exec i s = runCtrl s m)
    (hm : m s.cur = (s.setGrp s.cur x).wg s.cur d v >>= fun u => pure (u.adv s.cur 4)) (hpc : x.pc = (s.grp s.cur).pc)
    (hsys : x.sys = (s.grp s.cur).sys) (hlim : x.stackLim = (s.grp s.cur).stackLim) (hb : s.stackBad s.cur d v = false) :
    ∃ t, exec i s = .next t ∧ t.rg s.cur d = (if d = 0 then 0 else v) ∧ Past s t 4 ∧ CtlFrame (s.setGrp s.cur x) t [d] [] := by
  have hb' : (s.setGrp s.cur x).stackBad s.cur d v = false := by
    simpa only [State.stackBad, State.inBank, State.grp_setGrp_self, hsys, hlim] using hb
  obtain ⟨hreg, hat, hframe⟩ := putG_goto (s.setGrp s.cur x) d v ((s.grp s.cur).pc + BitVec.ofNat 64 4)
  refine ⟨_, ?_, hreg, hat, hframe⟩
  rw [he]
  refine runCtrl_ok ?_
  rw [hm, State.wg, hb', State.setGrp_cur]
  have hpc' : (((s.setGrp s.cur x).putG s.cur d v).grp s.cur).pc = (s.grp s.cur).pc := by
    rw [State.pc_putG, State.grp_setGrp_self, hpc]
  simp only [bind, Except.bind, pure, Except.pure, Bool.false_eq_true, if_false, State.adv, hpc']

section
variable {s : State} (hf : s.cur ≠ farrierId)
include hf

/-- lrun of either form: the block joins the queue, or starts in a handler, or waits for a place. -/
theorem lrunAny_spec (w : BitVec 19) (a : GReg) (nr : Bool) {i : Instr} (he : exec i s = runCtrl s (fun g => lrunAny s g w.toNat a nr)) :
    let x := s.grp s.cur
    ((s.teamOf s.cur).lcn ≤ w.toNat → CtlTraps s i 0x01 0 0) ∧ (w.toNat < (s.teamOf s.cur).lcn →
    let e : QEntry := { arg := s.rg s.cur a, block := w.toNat, nr := nr, posted := false, fmt := x.fmt, count := x.count, result := 0 }
    (x.sys = false → x.laneQ.length < 8 →
      ∃ t, exec i s = .next t ∧ OnlyGroup s t { x with laneQ := x.laneQ ++ [e], pc := x.pc + 4, cwait := .none }) ∧
    (x.sys = false → 8 ≤ x.laneQ.length → Waits s i .laneq) ∧
    (x.sys = true → x.hblock = none →
      ∃ t, exec i s = .next t ∧ OnlyGroup s t { x with
        hblock := some e, hlpc := w.toNat, dc := [], cm := 0, hazards := [], refillArr := false, pc := x.pc + 4, cwait := .none }) ∧
    (x.sys = true → x.hblock.isSome → Waits s i .laneq)) := by
  intro x
  have hrun (h : w.toNat < (s.teamOf s.cur).lcn) : lrunAny s s.cur w.toNat a nr = _ :=
    (notFarrier_bind hf _).trans (legal_bind_true (decide_eq_true h) _)
  refine ⟨fun h => ctlTraps_illegal hf he ((notFarrier_bind hf _).trans (legal_bind_false (decide_eq_false (Nat.not_lt.2 h)) _)),
    fun h => ?_⟩
  intro e
  refine ⟨fun hs hl => ?_, fun hs hl => ?_, fun hs hb => ?_, fun hs hb => ?_⟩
  · refine ⟨_, he.trans (runCtrl_ok ((hrun h).trans ?_)), (onlyGroup_onGrp s (fun y => { y with laneQ := y.laneQ ++ [e] })).adv 4⟩
    rw [if_neg (Bool.eq_false_iff.1 hs), if_neg (Nat.not_le.2 hl)]
    rfl
  · refine waits_of_error he ((hrun h).trans ?_)
    rw [if_neg (Bool.eq_false_iff.1 hs), if_pos hl]
  · refine ⟨_, he.trans (runCtrl_ok ((hrun h).trans ?_)),
      (onlyGroup_onGrp s (fun y => { y with hblock := some e, hlpc := w.toNat, dc := [], cm := 0, hazards := [], refillArr := false })).adv 4⟩
    rw [if_pos hs, hb]
    rfl
  · refine waits_of_error he ((hrun h).trans ?_)
    rw [if_pos hs, if_pos hb]

variable (d : GReg)

theorem lres_takes_handler (hs : (s.grp s.cur).sys = true) {w : Word} {l : List Word} (hr : (s.grp s.cur).hresult = w :: l)
    (hb : s.stackBad s.cur d (w.zeroExtend 64) = false) :
    ∃ t, exec (.lres d) s = .next t ∧ t.rg s.cur d = (if d = 0 then 0 else w.zeroExtend 64) ∧ Past s t 4
      ∧ CtlFrame (s.setGrp s.cur { s.grp s.cur with hresult := l }) t [d] [] := by
  refine takes_result (exec_lres d s) ((notFarrier_bind hf _).trans ((if_pos hs).trans ?_)) rfl rfl rfl hb
  rw [hr]
  rfl

theorem lres_waits_handler (hs : (s.grp s.cur).sys = true) (hr : (s.grp s.cur).hresult = [])
    (hb : (s.grp s.cur).hblock.any (fun e => !e.nr) = true) : Waits s (.lres d) .laneq := by
  obtain ⟨e, he, hn⟩ := (Option.any_eq_true ..).1 hb
  refine waits_of_error (exec_lres d s) ((notFarrier_bind hf _).trans ?_)
  have hnr : e.nr = false := by simpa using hn
  simp only [hs, hr, he, hnr, Bool.false_eq_true, if_true, if_false]

theorem lres_illegal_handler (hs : (s.grp s.cur).sys = true) (hr : (s.grp s.cur).hresult = [])
    (hb : (s.grp s.cur).hblock.any (fun e => !e.nr) = false) : CtlTraps s (.lres d) 0x01 0 0 := by
  refine ctlTraps_illegal hf (exec_lres d s) ((notFarrier_bind hf _).trans ?_)
  simp only [hs, hr, if_true]
  cases he : (s.grp s.cur).hblock with
  | none => rfl
  | some e =>
    have hn : e.nr = true := by simpa [he] using hb
    exact if_pos hn

section
variable {l r : List QEntry} {e : QEntry} (hs : (s.grp s.cur).sys = false) (hq : (s.grp s.cur).laneQ = l ++ e :: r)
  (hl : l.all (fun b => b.nr) = true) (hn : e.nr = false)
include hs hq hl hn

omit hf hs hq in
theorem find_not_nr : (l ++ e :: r).find? (fun b => !b.nr) = some e := by
  rw [List.find?_append, List.find?_eq_none.2 fun b hb => by simp [List.all_eq_true.1 hl b hb]]
  simp [hn]

omit hf hs hq in
theorem eraseP_not_nr : (l ++ e :: r).eraseP (fun b => !b.nr) = l ++ r := by
  rw [List.eraseP_append_right _ fun b hb => by simp [List.all_eq_true.1 hl b hb]]
  simp [hn]

theorem lres_takes (hp : e.posted = true) (hb : s.stackBad s.cur d (e.result.zeroExtend 64) = false) :
    ∃ t, exec (.lres d) s = .next t ∧ t.rg s.cur d = (if d = 0 then 0 else e.result.zeroExtend 64) ∧ Past s t 4
      ∧ CtlFrame (s.setGrp s.cur { s.grp s.cur with laneQ := l ++ r }) t [d] [] := by
  have hfind : (s.grp s.cur).laneQ.find? (fun b => !b.nr) = some e := by rw [hq, find_not_nr hl hn]
  refine takes_result (exec_lres d s) ((notFarrier_bind hf _).trans ((if_neg (Bool.eq_false_iff.1 hs)).trans ?_)) rfl rfl rfl hb
  rw [hfind, ← eraseP_not_nr (r := r) hl hn, ← hq]
  exact if_pos hp

theorem lres_waits (hp : e.posted = false) : Waits s (.lres d) .laneq := by
  refine waits_of_error (exec_lres d s) ((notFarrier_bind hf _).trans ?_)
  simp only [hs, hq, find_not_nr hl hn, hp, Bool.false_eq_true, if_false]

end

theorem lres_illegal (hs : (s.grp s.cur).sys = false) (hl : (s.grp s.cur).laneQ.all (fun b => b.nr) = true) :
    CtlTraps s (.lres d) 0x01 0 0 := by
  refine ctlTraps_illegal hf (exec_lres d s) ((notFarrier_bind hf _).trans ?_)
  have hnone : (s.grp s.cur).laneQ.find? (fun b => !b.nr) = none :=
    List.find?_eq_none.2 fun b hb => by simp [List.all_eq_true.1 hl b hb]
  simp only [hs, hnone, Bool.false_eq_true, if_false]

end

end Sys2Proof.Machine

namespace Sys2Proof

open Sys2Proof.Machine

/-- Settles O11: by the entries that find a result, and by induction on the lines that the order of the streams gives up. -/
theorem laneQueue : Obligations.LaneQueue := by
  unfold Obligations.LaneQueue
  refine ⟨fun s w a nr hf => ?_, fun s d hf => ⟨fun hs => ⟨?_, ?_, ?_, ?_, ?_⟩, fun hs => ⟨fun l e r hq hl hn => ⟨?_, ?_⟩, ?_, ?_, ?_⟩⟩⟩
  · cases nr with
    | false => exact lrunAny_spec hf w a false (exec_lrun w a s)
    | true => exact lrunAny_spec hf w a true (exec_lrunNr w a s)
  · exact fun w l hr hb => lres_takes_handler hf d hs hr hb
  · exact fun hr hb => lres_waits_handler hf d hs hr hb
  · exact fun hr hb => lres_illegal_handler hf d hs hr hb
  · exact fun hb => lwait_orders hf (by rw [if_pos hs, hb]; rfl)
  · exact fun hb => lwait_waits hf (by rw [if_pos hs]; simpa using hb)
  · exact fun hp hb => lres_takes hf d hs hq hl hn hp hb
  · exact fun hp => lres_waits hf d hs hq hl hn hp
  · exact fun hl => lres_illegal hf d hs hl
  · exact fun he => lwait_orders hf (by rw [if_neg (by simp [hs])]; exact he)
  · exact fun he => lwait_waits hf (by rw [if_neg (by simp [hs])]; exact he)

end Sys2Proof
end

section
/-! Trap entry, claims, settle acknowledgements and home timeouts (02 R35, 04 R92, R97, 15 R314). -/

namespace Sys2Proof.Machine

open Sys2Proof

/-- An event of the cores that happens. -/
theorem does_runUp {s t : State} {i : Instr} {m : Option State} {Q : State → Prop} (he : exec i s = runUp s m) (hh : s.pkg.halted = false)
    (hm : m = some t) (hq : Q t) : Does s i Q := by
  refine ⟨t, ?_, hq⟩
  rw [he, runUp, hh, hm]
  rfl

/-! ## The entry of a trap -/

/-- The deferred future loads of a group are withdrawn from its ring F and from its lane predicates; no other group changes. -/
theorem withdraw_grp (s : State) (g : Nat) :
    (∃ f p, (s.withdraw g).grp g = { s.grp g with ringF := f, p := p }) ∧ ∀ h, h ≠ g → (s.withdraw g).grp h = s.grp h := by
  unfold State.withdraw State.withdrawIf
  refine List.foldlRecOn (motive := fun t : State => (∃ f p, t.grp g = { s.grp g with ringF := f, p := p }) ∧ ∀ h, h ≠ g → t.grp h = s.grp h)
    _ _ ⟨⟨_, _, rfl⟩, fun _ _ => rfl⟩ ?_
  rintro t ⟨⟨f, p, ht⟩, ho⟩ d hd
  have hg : d.gid = g := by simpa using (List.mem_filter.1 hd).2
  rw [hg]
  refine ⟨?_, fun h hh => (State.grp_onGrp_other _ _ hh).trans (ho h hh)⟩
  rw [State.grp_onGrp_self, ht]
  exact ⟨_, _, rfl⟩

/-- The group has entered the handler of a trap, and no other group has changed. -/
structure Entered (s t : State) (g : Nat) (lane : Bool) (w : Trap) : Prop where
  group  : ∃ p, t.grp g = { (s.grp g).enter (s.core (coreOf g)).handlerBase lane w with p := p }
  groups : ∀ h, h ≠ g → t.grp h = s.grp h
  owner  : (t.bank g).owner = some g
  bytes  : ∀ a, t.homeByte a = s.homeByte a

theorem dropEarly_grp (s : State) (g h : Nat) : (s.dropEarly g).grp h = s.grp h := by
  unfold State.dropEarly
  split <;> rfl

/-- What the group gives up before its record enters the handler. -/
def State.beforeEntry (s : State) (g : Nat) : State := (((s.withdraw g).dropMark g).dropEarly g).dropClaim g

theorem enterTrap_eq (s : State) (g : Nat) (lane : Bool) (w : Trap) : s.enterTrap g lane w =
    (((s.beforeEntry g).onBank g (fun _ => { bankEmpty with owner := some g, id := (s.beforeEntry g).freeCtr })).tick).onGrp g
      (fun x => x.enter (s.core (coreOf g)).handlerBase lane w) := rfl

theorem grp_beforeEntry (s : State) (g h : Nat) : (s.beforeEntry g).grp h = (s.withdraw g).grp h := by
  rw [State.beforeEntry, State.dropClaim, State.grp_onTeam, dropEarly_grp]
  rfl

theorem homeByte_beforeEntry (s : State) (g a : Nat) : (s.beforeEntry g).homeByte a = s.homeByte a := by
  rw [State.beforeEntry, State.dropClaim, homeByte_onTeam]
  exact (((GivesUp.withdrawIf s (fun d => d.gid == g)).trans (GivesUp.dropMark _ g)).trans (GivesUp.dropEarly _ g)).homeByte a

theorem enterTrap_entered (s : State) (g : Nat) (lane : Bool) (w : Trap) : Entered s (s.enterTrap g lane w) g lane w := by
  obtain ⟨⟨f, p, hself⟩, hother⟩ := withdraw_grp s g
  have hgrp := grp_beforeEntry s g
  have hbyte := homeByte_beforeEntry s g
  rw [enterTrap_eq]
  generalize s.beforeEntry g = u at hgrp hbyte
  refine ⟨⟨p, ?_⟩, fun h hh => ?_, ?_, hbyte⟩
  · rw [State.grp_onGrp_self, State.grp_tick, State.grp_onBank, hgrp, hself]
    rfl
  · rw [State.grp_onGrp_other _ _ hh, State.grp_tick, State.grp_onBank, hgrp, hother h hh]
  · rw [State.bank_onGrp]
    exact (congrArg Bank.owner (State.bank_onBank_self u g (fun _ => { bankEmpty with owner := some g, id := u.freeCtr })) :)

theorem causeWord_eq (code info : Nat) (l : Option Nat) (va : GWord) :
    causeWord { code := code, info := info, lane := l, va := va } = BitVec.ofNat 64 (code + info * 2 ^ 32 + (match l with
      | some n => n * 2 ^ 8 + 2 ^ 13
      | none => 0)) :=
  congrArg (BitVec.ofNat 64) (Nat.add_right_comm _ _ _)

theorem handlerPc_eq (base : GWord) (code : Nat) :
    handlerPc base code = BitVec.ofNat 64 (base.toNat / 2 ^ 14 % 2 ^ 38 * 2 ^ 14 + 64 * code) := by
  rw [handlerPc, bits, Nat.shiftRight_eq_div_pow]

section
variable {s : State} {g : Nat} (hh : s.pkg.halted = false) (ho : s.occupied g = true)
include hh ho

/-- A waiting trap enters its handler once the bank is free. -/
theorem does_trapEntry {lane : Bool} {code info : Nat} {l : Option Nat} {va : GWord} (hp : (s.grp g).pend = some (.trap lane code info l va))
    (hs : (s.grp g).sys = false) (hb : (s.bank g).owner = none) (hx : (s.grp g).boundary = true) :
    Does s (.trapEntry g) (fun t => Entered s t g lane { code := code, info := info, lane := l, va := va }) := by
  refine does_runUp (exec_trapEntry g s) hh ?_ (enterTrap_entered s g lane _)
  simp only [ho, hp, hs, hb, hx, Bool.not_true, Bool.false_eq_true, if_false, BEq.rfl, Bool.and_self, if_true]

end

/-! ## Claims (02 R35) -/

section
variable {s : State} {g b : Nat} {c : Claim}

/-- Without the group's claims none waits in a bay whose claims are all the group's. -/
theorem headClaim_dropClaim (hall : ∀ e ∈ (s.teamOf g).claims, e.bay = b → e.gid = g) :
    Team.headClaim { s.teamOf g with claims := (s.teamOf g).claims.filter (fun c => c.gid != g) } b = none := by
  refine List.find?_eq_none.2 fun e he => ?_
  obtain ⟨hmem, hne⟩ := List.mem_filter.1 he
  intro hb
  exact absurd (hall e hmem (eq_of_beq hb)) (by simpa using hne)

/-- The group's claim is withdrawn and its registers are granted. -/
theorem team_grantClaim_dropClaim (s : State) (g n : Nat) :
    ((s.dropClaim g).grantClaim g n).team (s.grp g).team =
      { s.teamOf g with claims := (s.teamOf g).claims.filter (fun c => c.gid != g),
                        free := (s.teamOf g).free.set 0 (bayOf g) ((s.teamOf g).free.get 0 (bayOf g) - n) } := by
  rw [State.grantClaim, State.team_adv, State.team_onGrp, State.dropClaim, State.grp_onTeam, State.team_onTeam_self, State.team_onTeam_self]
  rfl

theorem grp_grantClaim_dropClaim (s : State) (g n : Nat) :
    ((s.dropClaim g).grantClaim g n).grp g =
      { (s.grp g).zeroRegs (s.grp g).count ((s.grp g).count + n) with count := (s.grp g).count + n, pc := (s.grp g).pc + 4, cwait := .none } := by
  rw [State.grantClaim, State.adv, State.goto, State.grp_onGrp_self, State.grp_onGrp_self, State.grp_onTeam, State.dropClaim, State.grp_onTeam]
  rfl

theorem grp_grantClaim_dropClaim_other (s : State) {g h : Nat} (n : Nat) (hne : h ≠ g) :
    ((s.dropClaim g).grantClaim g n).grp h = s.grp h := by
  rw [State.grantClaim, State.adv, State.goto, State.grp_onGrp_other _ _ hne, State.grp_onGrp_other _ _ hne, State.grp_onTeam,
    State.dropClaim, State.grp_onTeam]

theorem homeByte_grantClaim_dropClaim (s : State) (g n a : Nat) : ((s.dropClaim g).grantClaim g n).homeByte a = s.homeByte a :=
  homeByte_congr (by simp [State.grantClaim, State.dropClaim]) (by simp [State.grantClaim, State.dropClaim])
    (by simp [State.grantClaim, State.dropClaim]) a

/-- The oldest claim of the sub-pool is met whole. -/
theorem does_claimGrant (hh : s.pkg.halted = false) (hc : (s.teamOf g).headClaim (bayOf g) = some c) (hg : c.gid = g)
    (hn : c.n ≤ (s.teamOf g).free.get 0 (bayOf g)) (hw : (s.grp g).cwait = .claim)
    (hall : ∀ e ∈ (s.teamOf g).claims, e.bay = bayOf g → e.gid = g) :
    Does s (.claimGrant (s.grp g).team (bayOf g)) (fun t => t = (s.dropClaim g).grantClaim g c.n) := by
  refine does_runUp (exec_claimGrant _ _ s) hh ?_ rfl
  have hhead : Team.headClaim (((s.dropClaim g).grantClaim g c.n).team (s.grp g).team) (bayOf g) = none := by
    rw [team_grantClaim_dropClaim]
    exact headClaim_dropClaim hall
  have hhead' : (s.team (s.grp g).team).headClaim (bayOf g) = some c := hc
  have hn' : c.n ≤ (s.team (s.grp g).team).free.get 0 (bayOf g) := hn
  simp only [hhead', hg, hw, hn', claimTest_of_no_claim hhead, decide_true, BEq.rfl, Bool.and_self, if_true]

end

/-! ## The acknowledgement of a settle (04 R92) -/

theorem rg_onGrp_of (s : State) (g : Nat) {f : Group → Group} (hs : (f (s.grp g)).sys = (s.grp g).sys) (hg : (f (s.grp g)).g = (s.grp g).g)
    (r : GReg) : (s.onGrp g f).rg g r = s.rg g r := by
  have hb : (s.onGrp g f).inBank g = s.inBank g := by rw [State.inBank, State.inBank, State.grp_onGrp_self, hs]
  rw [State.rg, State.rg, hb, State.grp_onGrp_self, hg]
  rfl

/-- NoneShared speaks of the core's L1 and of the bytes at the homes. -/
theorem noneShared_congr {s t : State} {c : Nat} (h : s.NoneShared c) (hl : (t.core c).l1 = (s.core c).l1)
    (hb : ∀ a, t.homeByte a = s.homeByte a) : t.NoneShared c := by
  obtain ⟨h1, h2⟩ := h
  refine ⟨fun l x hx => h1 l x (hl ▸ hx), fun l x k hx hp hk hd => ?_⟩
  rw [hb]
  exact h2 l x k (hl ▸ hx) hp hk hd

/-- A group that was stopped meanwhile stands stalled FAULT; its registers and its place are as they were. -/
theorem park_spec (s : State) (g : Nat) :
    (∀ r, (s.park g).rg g r = s.rg g r) ∧ ((s.park g).grp g).pc = (s.grp g).pc
      ∧ ((s.park g).grp g).cwait = (if (s.grp g).halted then (s.grp g).cwait.stopped (.stall .fault) else (s.grp g).cwait)
      ∧ (∀ h, h ≠ g → (s.park g).grp h = s.grp h) ∧ (∀ c, (s.park g).core c = s.core c) ∧ ∀ a, (s.park g).homeByte a = s.homeByte a := by
  unfold State.park
  split
  · refine ⟨fun r => rg_onGrp_of s g rfl rfl r, ?_, ?_, fun h hh => State.grp_onGrp_other _ _ hh, fun _ => rfl, fun _ => rfl⟩
    · rw [State.grp_onGrp_self]
    · rw [State.grp_onGrp_self]
  · exact ⟨fun _ => rfl, rfl, rfl, fun _ _ => rfl, fun _ => rfl, fun _ => rfl⟩

/-- The end of a control stream's acquire of one value: the value is written and the stream goes on. -/
structure Acquired (s t : State) (g : Nat) (d : GReg) (v : GWord) (n : Nat) : Prop where
  reg    : t.rg g d = if d = 0 then 0 else v
  regs   : ∀ e, e ≠ d → t.rg g e = s.rg g e
  pc     : (t.grp g).pc = (s.grp g).pc + BitVec.ofNat 64 n
  cwait  : (t.grp g).cwait = if (s.grp g).halted then .stall .fault else .none
  groups : ∀ h, h ≠ g → t.grp h = s.grp h
  shared : t.NoneShared (coreOf g)
  lines  : (t.core (coreOf g)).l1 = ((s.invShared (coreOf g)).core (coreOf g)).l1
  bytes  : ∀ a, t.homeByte a = s.homeByte a

theorem endAcquire_acquired (s : State) (g n : Nat) (d : GReg) (v : GWord) (hb : s.stackBad g d v = false) :
    Acquired s (s.endAcquire g [(d.toNat, v)] n) g d v n := by
  have ht := Traffic.invShared s (coreOf g)
  have hnone := noneShared_invShared s (coreOf g)
  have hbyte := homeByte_invShared s (coreOf g)
  have heq : s.endAcquire g [(d.toNat, v)] n = (((s.invShared (coreOf g)).putG g d v).adv g n).park g := by
    have hfind : [(d.toNat, v)].find? (fun e : Nat × GWord => (s.invShared (coreOf g)).stackBad g (BitVec.ofNat 6 e.1) e.2) = none := by
      simp [ht.stackBad, hb]
    simp only [State.endAcquire, hfind, List.foldl_cons, List.foldl_nil, BitVec.ofNat_toNat, BitVec.setWidth_eq]
  rw [heq]
  generalize hu : s.invShared (coreOf g) = u at ht hnone hbyte
  have hgrp := State.putG_grp u g d v
  have hpc : ((u.putG g d v).grp g).pc = (s.grp g).pc := by rw [(congrArg Group.pc hgrp :), ht.grp]
  have hhalt : ((u.putG g d v).grp g).halted = (s.grp g).halted := by rw [(congrArg Group.halted hgrp :), ht.grp]
  have hregs (r : GReg) : ((u.putG g d v).adv g n).rg g r = (u.putG g d v).rg g r := rg_onGrp_of _ _ rfl rfl r
  obtain ⟨prg, ppc, pcw, pgrp, pcore, pbyte⟩ := park_spec ((u.putG g d v).adv g n) g
  have hl1 : ((((u.putG g d v).adv g n).park g).core (coreOf g)).l1 = (u.core (coreOf g)).l1 := by
    rw [pcore, State.core_adv, (congrArg Core.l1 (State.putG_core u g (coreOf g) d v) :)]
  have hbytes (a : Nat) : (((u.putG g d v).adv g n).park g).homeByte a = u.homeByte a := by
    rw [pbyte]
    exact rest_homeByte (State.putG_rest u g d v) a
  constructor
  case reg =>
    rw [prg, hregs]
    by_cases hd : d = 0
    · subst hd
      simp
    · rw [if_neg hd, State.rg_putG_self _ _ _ hd]
  case regs =>
    intro e he
    rw [prg, hregs, State.rg_putG_other _ _ _ he, ht.rg]
  case pc => rw [ppc, State.adv, State.goto, State.grp_onGrp_self, hpc]
  case cwait =>
    rw [pcw, State.adv, State.goto, State.grp_onGrp_self, hhalt]
    rfl
  case groups =>
    intro h hne
    rw [pgrp h hne, State.adv, State.goto, State.grp_onGrp_other _ _ hne, State.putG_grp_other _ _ _ hne, ht.grp]
  case shared => exact noneShared_congr hnone hl1 hbytes
  case lines => rw [hl1, hu]
  case bytes => exact fun a => (hbytes a).trans (hbyte a)

section
variable {s : State} {g : Nat} (hh : s.pkg.halted = false) (ho : s.occupied g = true)
include hh ho

theorem does_settleAck {r : Rec} {d : GReg} {v : GWord} {n : Nat} (hw : (s.grp g).cwait = .settle r [(d.toNat, v)] n)
    (hr : s.settledRec r = true) (hb : s.stackBad g d v = false) : Does s (.settleAck g false) (fun t => Acquired s t g d v n) := by
  refine does_runUp (exec_settleAck g false s) hh ?_ (endAcquire_acquired s g n d v hb)
  simp only [ho, hw, hr, Bool.not_true, Bool.false_eq_true, if_false, if_true]

/-- The settle that precedes an atomic is done: its word is tried again (log 14). -/
theorem does_settleAck_presettle_control {r : Rec} (hr : s.settledRec r = true) (hw : (s.grp g).cwait = .presettle r false) :
    Does s (.settleAck g false) (fun t => t.grp g = { s.grp g with cwait := .presettle r true } ∧ ∀ h, h ≠ g → t.grp h = s.grp h) := by
  refine does_runUp (exec_settleAck g false s) hh ?_ ⟨State.grp_onGrp_self s g (fun x => { x with cwait := .presettle r true }),
    fun h hne => State.grp_onGrp_other _ _ hne⟩
  simp only [ho, hw, hr, Bool.not_true, Bool.false_eq_true, if_false, if_true]

theorem does_settleAck_presettle_lane {r : Rec} (hr : s.settledRec r = true) (hw : (s.grp g).lwait = .presettle r false) :
    Does s (.settleAck g true) (fun t => t.grp g = { s.grp g with lwait := .presettle r true } ∧ ∀ h, h ≠ g → t.grp h = s.grp h) := by
  refine does_runUp (exec_settleAck g true s) hh ?_ ⟨State.grp_onGrp_self s g (fun x => { x with lwait := .presettle r true }),
    fun h hne => State.grp_onGrp_other _ _ hne⟩
  simp only [ho, hw, hr, Bool.not_true, Bool.false_eq_true, if_false, if_true]

/-! ## A home that does not answer (04 R97) -/

/-- In a mirrored partition the settle is done. -/
theorem does_homeTimeout_mirrored {lane : Bool} {r : Rec} (ha : s.acquiring g lane = some r)
    (hm : (s.part (s.codeOf g)).intcfg.getLsbD 0 = true) (hl : markLe r.mark (s.core r.core).settled = false) :
    Does s (.homeTimeout g lane) (fun t => (t.core r.core).settled = r.mark ∧ t.grp g = s.grp g ∧ ∀ h, h ≠ g → t.grp h = s.grp h) := by
  have ht := Traffic.settle s r.core r.mark
  refine does_runUp (exec_homeTimeout g lane s) hh ?_ ⟨(settle_spec hl).1, ht.grp g, fun h _ => ht.grp h⟩
  simp only [ho, ha, hm, Bool.not_true, Bool.false_eq_true, if_false, if_true]

omit hh ho in
/-- A group in user mode whose bank is free enters the handler at once. -/
theorem takeTrap_enters {lane : Bool} {w : Trap} (hs : (s.grp g).sys = false) (hb : (s.bank g).owner = none) (hx : (s.grp g).boundary = true) :
    s.takeTrap g lane w = s.enterTrap g lane w := by
  simp only [State.takeTrap, hs, hb, hx, Bool.false_eq_true, if_false, BEq.rfl, Bool.and_self, if_true]

/-- The group without the wait of the stream whose acquire fails. -/
def Group.unwaited (x : Group) (lane : Bool) : Group := if lane then { x with lwait := .none } else { x with cwait := .none }

omit hh ho in
theorem unwaited_same (x : Group) (lane : Bool) :
    (x.unwaited lane).sys = x.sys ∧ (x.unwaited lane).pc = x.pc := by
  cases lane <;> exact ⟨rfl, rfl⟩

omit hh ho in
/-- The low byte of TRAPCAUSE is the code. -/
theorem causeWord_code (w : Trap) (hc : w.code < 256) : (causeWord w).toNat % 256 = w.code := by
  obtain ⟨code, info, lane, va⟩ := w
  cases lane <;> simp only [causeWord, BitVec.toNat_ofNat] <;> simp only at hc <;> omega

omit hh ho in
theorem failAcquire_enters {lane : Bool} (hs : (s.grp g).sys = false) (hb : (s.bank g).owner = none)
    (hx : ((s.grp g).unwaited lane).boundary = true) :
    let y := (s.failAcquire g lane).grp g
    y.sys = true ∧ y.laneTrap = lane ∧ y.cause.toNat % 256 = 0x11 ∧ y.trapva = (s.grp g).acqVa ∧ y.trappc = (s.grp g).pc
      ∧ ∀ h, h ≠ g → (s.failAcquire g lane).grp h = s.grp h := by
  obtain ⟨hsys, hpc⟩ := unwaited_same (s.grp g) lane
  let w : Trap := { code := cACCESS, info := Config.freeNat s.freeCtr % 2 ^ 32, lane := if lane then some (s.grp g).acqLane else none,
                    va := (s.grp g).acqVa }
  let u := s.tick.onGrp g (fun y => y.unwaited lane)
  have hu : u.grp g = (s.grp g).unwaited lane := State.grp_onGrp_self ..
  have hsu : (u.grp g).sys = false := by rw [hu, hsys, hs]
  have hxu : (u.grp g).boundary = true := by rw [hu]; exact hx
  have heq : s.failAcquire g lane = u.enterTrap g lane w := takeTrap_enters hsu hb hxu
  obtain ⟨⟨p, hself⟩, hother, -, -⟩ := enterTrap_entered u g lane w
  rw [heq, hself, hu]
  refine ⟨rfl, rfl, ?_, rfl, hpc, fun h hne => ?_⟩
  · exact causeWord_code w (show 0x11 < 256 by decide)
  · rw [hother h hne]
    exact State.grp_onGrp_other _ _ hne

theorem does_homeTimeout_fails {lane : Bool} {r : Rec} (ha : s.acquiring g lane = some r)
    (hm : (s.part (s.codeOf g)).intcfg.getLsbD 0 = false) (hs : (s.grp g).sys = false) (hb : (s.bank g).owner = none)
    (hx : ((s.grp g).unwaited lane).boundary = true) :
    Does s (.homeTimeout g lane) (fun t =>
      let y := t.grp g
      y.sys = true ∧ y.laneTrap = lane ∧ y.cause.toNat % 256 = 0x11 ∧ y.trapva = (s.grp g).acqVa ∧ y.trappc = (s.grp g).pc
        ∧ ∀ h, h ≠ g → t.grp h = s.grp h) := by
  let u := s.tick.tryPost (s.codeOf g) (eventRec s (s.codeOf g) 0 (coreOf g) 0 (Config.freeNat s.freeCtr % 256))
  have hat : AtHomes s.tick u := AtHomes.tryPost ..
  have hgrp (h : Nat) : u.grp h = s.grp h := hat.grp h
  have hbank : u.bank g = s.bank g := hat.bank g
  have hfail := failAcquire_enters (s := u) (g := g) (lane := lane) (by rw [hgrp, hs]) (by rw [hbank, hb]) (by rw [hgrp]; exact hx)
  simp only [hgrp] at hfail
  refine does_runUp (exec_homeTimeout g lane s) hh ?_ hfail
  simp only [ho, ha, hm, Bool.not_true, Bool.false_eq_true, if_false]
  rfl

end

end Sys2Proof.Machine

namespace Sys2Proof

open Sys2Proof.Machine

/-- Settles O49: by what a group gives up before it enters a handler, by the grant of a claim that is the bay's only one, and by what the
invalidation of shared lines keeps. -/
theorem streamEvents : Obligations.StreamEvents := by
  unfold Obligations.StreamEvents
  intro s g hh ho
  refine ⟨fun lane code info l va hp hs hb hx => ?_, fun c hc hg hn hw hall => ?_, fun r d v n hw hr hb => ?_,
    fun r hr => ⟨does_settleAck_presettle_control hh ho hr, does_settleAck_presettle_lane hh ho hr⟩,
    fun lane r ha => ⟨does_homeTimeout_mirrored hh ho ha, does_homeTimeout_fails hh ho ha⟩⟩
  · obtain ⟨t, ht, ⟨p, hself⟩, hother, hown, hbyte⟩ := does_trapEntry hh ho hp hs hb hx
    refine ⟨t, ht, ?_⟩
    dsimp only
    rw [hself]
    exact ⟨rfl, rfl, rfl, rfl, rfl, causeWord_eq .., handlerPc_eq .., hown, hother, hbyte⟩
  · obtain ⟨t, ht, rfl⟩ := does_claimGrant hh hc hg hn hw hall
    refine ⟨_, ht, ?_⟩
    dsimp only
    rw [grp_grantClaim_dropClaim, team_grantClaim_dropClaim]
    refine ⟨rfl, rfl, rfl, fun r l hl hr => ?_, Tab.get_set_self .., headClaim_dropClaim hall,
      fun h hne => grp_grantClaim_dropClaim_other s _ hne, homeByte_grantClaim_dropClaim s g c.n⟩
    have hget := Group.zeroRegs_get (s.grp g) (s.grp g).count ((s.grp g).count + c.n) r hl
    rw [Nat.mul_comm 32 r, hget]
    simp [hr]
  · obtain ⟨t, ht, hacq⟩ := does_settleAck hh ho hw hr hb
    refine ⟨t, ht, hacq.reg, hacq.regs, hacq.pc, hacq.cwait, hacq.groups, hacq.shared, fun l y hy hk => ?_, hacq.bytes⟩
    rw [hacq.lines]
    exact find_invShared_of_kept hy hk

end Sys2Proof
end

section
/-! Drain groups, placement and retirement of teams (02 R21 to R26, R46, 14 R289, R299). -/

namespace Sys2Proof.Machine

open Sys2Proof

/-! ## The start of a drain group (02 R46) -/

/-- The team's record once a group holds the slot and its registers. -/
def Team.occupy (t : Team) (slot : Nat) : Team :=
  { t with
    free := t.free.set 0 (bayOf (64 * t.core + slot)) (t.free.get 0 (bayOf (64 * t.core + slot)) - t.vregs),
    slots := t.slots.map (fun x => if x.slot == slot then { x with occ := true } else x) }

theorem does_drainGroupStart {s : State} {k slot q : Nat} {h : SlotHold} {b : Bind} (hh : s.pkg.halted = false)
    (hslot : (s.team k).slots.find? (fun h => h.slot == slot && !h.occ) = some h) (hq : (s.team k).fullest = some q)
    (hb : (s.team k).binds[q]? = some b) (hsave : (s.team k).saving = 0) (hhalt : (s.part (s.team k).part).halting = false)
    (hfree : (s.team k).vregs ≤ (s.team k).free.get 0 (bayOf (64 * (s.team k).core + slot)))
    (hclaim : (s.team k).headClaim (bayOf (64 * (s.team k).core + slot)) = none) :
    Does s (.drainGroupStart k slot) (fun t => t = (s.onTeam k (fun y => y.occupy slot)).setGrp (64 * (s.team k).core + slot)
      (startGroup k (s.team k) h.gidx b.entry b.role)) := by
  refine does_runUp (exec_drainGroupStart k slot s) hh ?_ rfl
  simp only [hslot, hq, hb, hsave, hhalt, hfree, hclaim, Option.isNone_none, decide_true, Bool.not_false, BEq.rfl, Bool.and_self, if_true]
  rfl

/-! ## The slots that a placement takes -/

/-- The slots assigned are different ones of those offered. -/
theorem assignSlots_nodup {need slots regs r : List Nat} (h : assignSlots need slots regs = some r) : r.Nodup ∧ ∀ k ∈ r, k ∈ slots := by
  induction need generalizing slots regs r with
  | nil =>
    cases h
    exact ⟨List.nodup_nil, fun _ hk => nomatch hk⟩
  | cons n need ih =>
    rw [assignSlots] at h
    split at h
    · cases h
    next b _ =>
    split at h
    · cases h
    split at h
    · cases h
    next k hk =>
    obtain ⟨r', hr', rfl⟩ := Option.map_eq_some_iff.1 h
    obtain ⟨hn, hm⟩ := ih hr'
    refine ⟨List.nodup_cons.2 ⟨fun hkr => ?_, hn⟩, fun j hj => ?_⟩
    · simpa using (List.mem_filter.1 (hm k hkr)).2
    · rcases List.mem_cons.1 hj with rfl | hj
      · exact List.mem_of_find?_eq_some hk
      · exact List.mem_of_mem_filter (hm j hj)

theorem canPlace_nodup {s : State} {l k c : Nat} {x : Launch} {z : Stage} {slots : List Nat} (h : s.canPlace l x k z c = some slots) :
    slots.Nodup := by
  unfold State.canPlace at h
  split at h
  · unfold State.fits at h
    dsimp only at h
    split at h
    · exact (assignSlots_nodup h).1
    · cases h
  · cases h

/-- A range up to one of its members. -/
theorem range_split {n l : Nat} (h : l < n) : ∃ r, List.range n = List.range l ++ l :: r := by
  obtain ⟨k, rfl⟩ : ∃ k, n = l + (k + 1) := ⟨n - l - 1, by omega⟩
  exact ⟨_, by rw [List.range_add, List.range_succ_eq_map, List.map_cons, Nat.add_zero]⟩

/-- The lowest free team number of a core. -/
theorem foldr_lowest_free {s : State} {c tid : Nat} (hc : tid / 16 = c) (hfree : s.teams.find tid = none)
    (hlow : ∀ e, e / 16 = c → e < tid → (s.teams.find e).isSome) :
    (List.range 16).foldr (fun k a => if (s.teams.find (16 * c + k)).isSome then a else 16 * c + k) (16 * c) = tid := by
  obtain ⟨r, hr⟩ := range_split (n := 16) (l := tid % 16) (by omega)
  have htid : 16 * c + tid % 16 = tid := by omega
  have hskip : ∀ (L : List Nat) (a : Nat), (∀ k ∈ L, k < tid % 16) →
      L.foldr (fun k a => if (s.teams.find (16 * c + k)).isSome then a else 16 * c + k) a = a := by
    intro L a hL
    induction L with
    | nil => rfl
    | cons k L ih =>
      obtain ⟨hk, hL⟩ := List.forall_mem_cons.1 hL
      rw [List.foldr_cons, ih hL, if_pos (hlow _ (by omega) (by omega))]
  rw [hr, List.foldr_append, hskip _ _ fun k hk => List.mem_range.1 hk, List.foldr_cons, htid, hfree]
  rfl

/-! ## The groups of a placement -/

/-- Groups put at different numbers all stand there, and no other changes. -/
theorem foldl_setGrp {α : Type} (key : α → Nat) (val : α → Group) (L : List α) (s : State) (hn : (L.map key).Nodup) :
    let t := L.foldl (fun s a => s.setGrp (key a) (val a)) s
    (∀ a ∈ L, t.grp (key a) = val a) ∧ (∀ j, j ∉ L.map key → t.grp j = s.grp j) ∧ { t with groups := [] } = { s with groups := [] } := by
  induction L generalizing s with
  | nil => exact ⟨fun _ h => (nomatch h), fun _ _ => rfl, rfl⟩
  | cons a L ih =>
    rw [List.map_cons, List.nodup_cons] at hn
    obtain ⟨hin, hout, hrest⟩ := ih (s.setGrp (key a) (val a)) hn.2
    refine ⟨fun b hb => ?_, fun j hj => ?_, hrest⟩
    · rcases List.mem_cons.1 hb with rfl | hb
      · exact (hout _ hn.1).trans (State.grp_setGrp_self ..)
      · exact hin b hb
    · rw [List.map_cons, List.mem_cons, not_or] at hj
      exact (hout j hj.2).trans (State.grp_setGrp_other _ _ hj.1)

/-- Taking an index out of ranges leaves none that holds it. -/
theorem not_mem_cutRange {lin : Nat} {l : List Range} {r : Range} (h : r ∈ cutRange lin lin l) : ¬ (r.lo ≤ lin ∧ lin ≤ r.hi) := by
  obtain ⟨r0, -, hr⟩ := List.mem_flatMap.1 h
  split at hr
  next hout =>
    rw [List.mem_singleton.1 hr]
    simp only [Bool.or_eq_true, decide_eq_true_eq] at hout
    omega
  next hin =>
    rcases List.mem_append.1 hr with hr | hr
    · split at hr
      · rw [List.mem_singleton.1 hr]
        dsimp only
        omega
      · cases hr
    · split at hr
      · rw [List.mem_singleton.1 hr]
        dsimp only
        omega
      · cases hr

/-! ## The placement of a team (02 R21 to R23, 14 R299) -/

/-- The slots of a team that has just been placed, each with its group index. -/
theorem mem_newTeam_slots {s : State} {l k lin c n p : Nat} {x : Launch} {z : Stage} {area : Option Nat} {slots : List Nat}
    (hn : slots[n]? = some p) : ({ slot := p, gidx := n, occ := true } : SlotHold) ∈ (newTeam s l x k z lin c area slots).slots := by
  obtain ⟨hlt, -⟩ := List.getElem?_eq_some_iff.1 hn
  refine List.mem_map.2 ⟨(n, p), List.mem_of_getElem? (i := n) ?_, rfl⟩
  exact List.getElem?_zip_eq_some.2 ⟨List.getElem?_range hlt, hn⟩

theorem newTeam_slot_numbers (s : State) (l k lin c : Nat) (x : Launch) (z : Stage) (area : Option Nat) (slots : List Nat) :
    (newTeam s l x k z lin c area slots).slots.map (fun h => 64 * c + h.slot) = slots.map (fun p => 64 * c + p) := by
  have hz : ((List.range slots.length).zip slots).map Prod.snd = slots := List.map_snd_zip (by simp)
  calc _ = (((List.range slots.length).zip slots).map Prod.snd).map (fun p => 64 * c + p) := by
        simp only [newTeam, List.map_map]
        rfl
    _ = _ := by rw [hz]

/-- A team on a core has the lowest free number there, and each of its groups stands in its slot. -/
theorem placeTeam_spec {s : State} {t : Team} {tid : Nat} (entry roleMap : GWord) (hc : tid / 16 = t.core) (hfree : s.teams.find tid = none)
    (hlow : ∀ e, e / 16 = t.core → e < tid → (s.teams.find e).isSome) (hn : (t.slots.map (fun h => 64 * t.core + h.slot)).Nodup) :
    let u := s.placeTeam t entry roleMap
    (∀ h ∈ t.slots, u.grp (64 * t.core + h.slot) = startGroup tid t h.gidx entry (bits roleMap.toNat (4 * h.gidx) 4))
      ∧ u.teams = s.teams.put tid t ∧ u.launches = s.launches := by
  intro u
  have hu : u = t.slots.foldl (fun s h => s.setGrp (64 * t.core + h.slot)
      (startGroup tid t h.gidx entry (bits roleMap.toNat (4 * h.gidx) 4))) { s with teams := s.teams.put tid t } := by
    simp only [u, State.placeTeam, foldr_lowest_free hc hfree hlow]
  obtain ⟨hin, -, hrest⟩ := foldl_setGrp (fun h : SlotHold => 64 * t.core + h.slot)
    (fun h => startGroup tid t h.gidx entry (bits roleMap.toNat (4 * h.gidx) 4)) t.slots { s with teams := s.teams.put tid t } hn
  rw [← hu] at hin hrest
  exact ⟨hin, (congrArg State.teams hrest :), (congrArg State.launches hrest :)⟩

/-- The state after the lowest unstarted index of a deck's pool has been placed on a core. -/
def State.placed (s : State) (l k lin c : Nat) (x : Launch) (z : Stage) (area : Option Nat) (slots : List Nat) : State :=
  ((s.placeTeam (newTeam s l x k z lin c area slots) z.grid.entry z.grid.roleMap).tick).onLaunch l
    (fun y => { y with stages := y.stages.modify k (fun w => { w with
      pools := cutRange lin lin w.pools,
      areasUsed := match area with
        | some a => a :: w.areasUsed
        | none => w.areasUsed }) })

theorem does_teamPlace {s : State} {l k d lin c : Nat} {x : Launch} {z : Stage} {area : Option Nat} {slots : List Nat}
    (hh : s.pkg.halted = false) (hl : s.launch l = some x) (hz : s.stage l k = some z) (hlow : z.lowest d = some lin) (ha : z.area = some area)
    (hc : c < 384) (hd : deckOfCore c = d) (hp : s.canPlace l x k z c = some slots) (ho : s.outranked l x c = false)
    (hbelow : ∀ e, e < c → deckOfCore e = d → s.canPlace l x k z e = none ∨ s.outranked l x e = true) :
    Does s (.teamPlace l k d) (fun t => t = s.placed l k lin c x z area slots) := by
  obtain ⟨r, hr⟩ := indices_eq_cons (p := fun c => deckOfCore c == d && (s.canPlace l x k z c).isSome && !s.outranked l x c) hc
    (by simp [hd, hp, ho]) fun e he => by
      by_cases hde : deckOfCore e = d
      · obtain h | h := hbelow e he hde <;> simp [h]
      · simp [hde]
  refine does_runUp (exec_teamPlace l k d s) hh ?_ rfl
  simp only [hl, hz, hlow, ha, hr, hp]
  rfl

/-- The stages of a launch alone say what a stage is. -/
theorem stage_eq (s : State) (l k : Nat) : s.stage l k = ((s.launch l).map Launch.stages).bind (fun y => y[k]?) := by
  unfold State.stage
  cases s.launch l <;> rfl

theorem onLaunch_stage {s : State} {l k : Nat} {x : Launch} {z : Stage} {f : Launch → Launch} {g : Stage → Stage} (hl : s.launch l = some x)
    (hz : s.stage l k = some z) (hf : (f x).stages = x.stages.modify k g) : (s.onLaunch l f).stage l k = some (g z) := by
  have hx : x.stages[k]? = some z := by simpa only [State.stage, hl] using hz
  have hfind : s.launches.find l = some x := hl
  have hnew : (s.onLaunch l f).launch l = some (f x) := by
    rw [State.launch, State.onLaunch, hfind]
    exact Tab.find_put_self ..
  rw [State.stage, hnew]
  dsimp only
  rw [hf, List.getElem?_modify_eq, hx]
  rfl

theorem onLaunch_teams (s : State) (l : Nat) (f : Launch → Launch) : (s.onLaunch l f).teams = s.teams := by
  unfold State.onLaunch
  split <;> rfl

theorem onLaunch_groups (s : State) (l : Nat) (f : Launch → Launch) : (s.onLaunch l f).groups = s.groups := by
  unfold State.onLaunch
  split <;> rfl

theorem placed_spec {s : State} {l k lin c tid : Nat} {x : Launch} {z : Stage} {area : Option Nat} {slots : List Nat}
    (hl : s.launch l = some x) (hz : s.stage l k = some z) (hp : s.canPlace l x k z c = some slots) (htid : tid / 16 = c)
    (hfree : s.teams.find tid = none) (hlow : ∀ e, e / 16 = c → e < tid → (s.teams.find e).isSome) :
    let u := s.placed l k lin c x z area slots
    let t := newTeam s l x k z lin c area slots
    u.teams = s.teams.put tid t
      ∧ (∀ n p, slots[n]? = some p → ∃ role, u.grp (64 * c + p) = startGroup tid t n z.grid.entry role)
      ∧ ∃ w, u.stage l k = some w ∧ ∀ r ∈ w.pools, ¬(r.lo ≤ lin ∧ lin ≤ r.hi) := by
  intro u t
  have hn : (t.slots.map (fun h => 64 * t.core + h.slot)).Nodup := by
    rw [show t.slots.map (fun h => 64 * t.core + h.slot) = slots.map (fun p => 64 * c + p) from newTeam_slot_numbers ..]
    exact (canPlace_nodup hp).map fun a b h => Nat.add_left_cancel h
  obtain ⟨hgrp, hteams, hlaunches⟩ := placeTeam_spec z.grid.entry z.grid.roleMap (t := t) htid hfree hlow hn
  have hlaunch : ∀ j, ((s.placeTeam t z.grid.entry z.grid.roleMap).tick).launch j = s.launch j :=
    fun j => congrArg (fun y => y.find j) hlaunches
  have hstage : ((s.placeTeam t z.grid.entry z.grid.roleMap).tick).stage l k = some z := by
    rw [stage_eq, hlaunch, ← stage_eq, hz]
  refine ⟨(onLaunch_teams ..).trans hteams, fun n p hnp => ?_, _, onLaunch_stage ((hlaunch l).trans hl) hstage rfl,
    fun r hr => not_mem_cutRange hr⟩
  refine ⟨_, Eq.trans ?_ (hgrp _ (mem_newTeam_slots hnp))⟩
  exact congrArg (fun y => y.get Group.empty (64 * c + p)) (onLaunch_groups ..)

/-! ## Retirement (02 R26) -/

/-- The teams' records and the stages of every launch are as they were. -/
structure KeepsStages (s t : State) : Prop where
  teams  : t.teams = s.teams
  stages : ∀ l, (t.launch l).map Launch.stages = (s.launch l).map Launch.stages

namespace KeepsStages

theorem refl (s : State) : KeepsStages s s := ⟨rfl, fun _ => rfl⟩

theorem trans {s t u : State} (h : KeepsStages s t) (k : KeepsStages t u) : KeepsStages s u :=
  ⟨k.teams.trans h.teams, fun l => (k.stages l).trans (h.stages l)⟩

theorem foldl {α : Type} {f : State → α → State} (h : ∀ s a, KeepsStages s (f s a)) (l : List α) (s : State) : KeepsStages s (l.foldl f s) :=
  List.foldlRecOn (motive := fun t => KeepsStages s t) _ _ (refl s) fun t ht a _ => ht.trans (h t a)

/-- Neither the teams nor the launches have changed. -/
theorem of_tables {s t : State} (ht : t.teams = s.teams) (hl : t.launches = s.launches) : KeepsStages s t :=
  ⟨ht, fun l => by rw [State.launch, State.launch, hl]⟩

theorem of_traffic {s t : State} (h : Traffic s t) : KeepsStages s t := of_tables h.teams h.launches
theorem of_homeFrame {s t : State} (h : HomeFrame s t) : KeepsStages s t := of_traffic (Traffic.of_atHomes (AtHomes.of_homeFrame h))
theorem of_givesUp {s t : State} (h : GivesUp s t) : KeepsStages s t := of_tables (congrArg State.teams h.rest :) (congrArg State.launches h.rest :)

theorem onPipe (s : State) (k : Nat) (f : Pipe → Pipe) : KeepsStages s (s.onPipe k f) := by
  unfold State.onPipe
  split
  · exact of_tables rfl rfl
  · exact refl s

theorem onLaunch (s : State) (l : Nat) {f : Launch → Launch} (hf : ∀ x, (f x).stages = x.stages) : KeepsStages s (s.onLaunch l f) := by
  refine ⟨onLaunch_teams .., fun j => ?_⟩
  unfold State.onLaunch
  split
  next x hx =>
    by_cases hj : j = l
    · simp only [State.launch, hj, Tab.find_put_self, hx, Option.map_some, hf]
    · simp only [State.launch, Tab.find_put_other _ _ hj]
  · rfl

theorem stage {s t : State} (h : KeepsStages s t) (l k : Nat) : t.stage l k = s.stage l k := by
  rw [stage_eq, stage_eq, h.stages]

theorem bumpPipe (s : State) (p n off : Nat) : KeepsStages s (s.bumpPipe p n off) := of_tables rfl rfl

theorem freeSpill (s : State) (l k : Nat) (q : Word) : KeepsStages s (s.freeSpill l k q) := by
  unfold State.freeSpill
  split
  · exact refl s
  · split
    · exact refl s
    · exact (of_homeFrame (HomeFrame.ctxSet ..)).trans (onLaunch _ _ fun _ => rfl)

theorem freeTile (s : State) (k : Nat) (q : Word) : KeepsStages s (s.freeTile k q) := (freeSpill ..).trans (onPipe ..)

theorem sendMsgs (s : State) (p port : Nat) (dest : Option Nat) (l : List Msg) : KeepsStages s (s.sendMsgs p port dest l) := by
  unfold State.sendMsgs
  split
  · exact foldl (fun s _ => of_homeFrame (HomeFrame.dropPacket s p)) l s
  · split <;> exact of_tables rfl rfl

theorem sendTo (s : State) (k kind seq : Nat) (dest : Option Nat) : KeepsStages s (s.sendTo k kind seq dest) := by
  unfold State.sendTo
  split
  · exact refl s
  · exact (of_tables (s := s) (t := s.tick) rfl rfl).trans (sendMsgs ..)

theorem sendPipe (s : State) (k kind seq : Nat) : KeepsStages s (s.sendPipe k kind seq) := by
  unfold State.sendPipe
  split
  · exact refl s
  · exact sendTo ..

theorem sendCredits (s : State) (k : Nat) (froms : List Nat) (slot : Nat) : KeepsStages s (s.sendCredits k froms slot) := by
  unfold State.sendCredits
  split
  · exact refl s
  · split
    · exact foldl (fun s _ => sendTo s ..) froms s
    · exact refl s

theorem freeTaken (s : State) (k : Nat) (t : Tile) : KeepsStages s (s.freeTaken k t) := (freeTile ..).trans (sendCredits ..)

theorem commitTile (s : State) (p k : Nat) (q : Word) : KeepsStages s (s.commitTile p k q) := by
  unfold State.commitTile
  split
  · exact refl s
  · split
    · split
      · exact refl s
      · exact (((of_tables (s := s) (t := s.tick.tick) rfl rfl).trans (sendMsgs ..)).trans (onPipe ..)).trans (bumpPipe ..)
    · exact (onPipe ..).trans (bumpPipe ..)

theorem retireTile (s : State) (p k : Nat) (t : Tile) : KeepsStages s (s.retireTile p k t) := by
  unfold State.retireTile
  split
  · exact ((freeTile ..).trans (onPipe ..)).trans (bumpPipe ..)
  · exact commitTile ..
  · exact (freeTaken ..).trans (bumpPipe ..)
  · exact freeTaken ..
  all_goals exact refl s

theorem onTiles (s : State) (l : Nat) (who : Nat × Nat) {f : State → Nat → Tile → State} (hf : ∀ s k t, KeepsStages s (f s k t)) :
    KeepsStages s (s.onTiles l who f) := by
  refine foldl (fun s k => ?_) _ s
  split
  · exact refl s
  · exact foldl (fun s t => hf s k t) _ s

theorem closePipes (s : State) (l : Nat) : KeepsStages s (s.closePipes l) := by
  unfold State.closePipes
  split
  · exact refl s
  · refine foldl (fun s k => ?_) _ s
    split
    · exact refl s
    · split
      · exact refl s
      · dsimp only
        split
        · exact (onPipe ..).trans (sendPipe ..)
        · exact onPipe ..

theorem preemptTest (s : State) (p : Nat) : KeepsStages s (s.preemptTest p) := by
  unfold State.preemptTest
  dsimp only
  split
  · refine KeepsStages.trans (KeepsStages.trans (t := if bits (s.part p).stable.toNat 0 13 == 0 then s
      else s.physSet p (bits (s.part p).stable.toNat 21 31 * 2 ^ 21) 8 1) ?_ ?_) (of_homeFrame (HomeFrame.cause ..))
    · split
      · exact refl s
      · exact of_homeFrame (HomeFrame.physSet ..)
    · exact of_tables rfl rfl
  · exact refl s

end KeepsStages

/-! ## The steps of freeing a team -/

/-- Its groups give up what they hold, and the core's stack caches are written back. -/
def State.giveUpTeam (s : State) (x : Team) : State := (x.gids.foldl (fun s g => s.giveUp g) s).flushStack x.core

/-- Its groups wait at no pipe. -/
def State.leavePipes (s : State) (x : Team) : State :=
  (s.pipesOf x.launch).foldl (fun s k => s.onPipe k (fun p => { p with
    acqWait := p.acqWait.filter (fun g => !x.gids.contains g), getWait := p.getWait.filter (fun g => !x.gids.contains g) })) s

/-- Its window writes that its deck has accepted go on without it. -/
def State.orphanWrites (s : State) (x : Team) : State :=
  s.onDeck (deckOfCore x.core) (fun d => { d with
    sendQ := d.sendQ.map (RWrite.orphan x.gids), own := d.own.map (RWrite.orphan x.gids) })

/-- Its matrix operations, commands and range entries are gone. -/
def State.leaveEngines (s : State) (t : Nat) (x : Team) : State :=
  let k := s.core x.core
  let s := (k.matq.filter (fun m => m.team == t)).foldl (fun s m => s.clearLocks (2 * m.id)) s
  let s := (k.cmds.filter (fun e => e.2.team == t)).foldl (fun s e => s.clearLocks (2 * e.1 + 1)) s
  s.onCore x.core (fun k => { k with
    matq := k.matq.filter (fun m => m.team != t),
    cmds := k.cmds.dropIf (fun _ e => e.team == t),
    locks := k.locks.dropIf (fun _ e => !e.glob && e.owner == t) })

/-- Its groups' records are gone. -/
def State.dropGroups (s : State) (t : Nat) (x : Team) : State :=
  { s with groups := s.groups.dropIf (fun g e => g != farrierId && coreOf g == x.core && e.team == t) }

/-- The state in which a team has only its entry left. -/
def State.emptied (s : State) (t : Nat) : State :=
  ((((s.giveUpTeam (s.team t)).leavePipes (s.team t)).orphanWrites (s.team t)).leaveEngines t (s.team t)).dropGroups t (s.team t)

theorem freeTeam_eq (s : State) (t : Nat) :
    s.freeTeam t = ({ s.emptied t with teams := (s.emptied t).teams.del t }).preemptTest (s.team t).part := by
  simp only [State.freeTeam, State.emptied, State.giveUpTeam, State.leavePipes, State.orphanWrites, State.leaveEngines, State.dropGroups,
    State.giveUp]

namespace KeepsStages

theorem clearLocks (s : State) (n : Nat) : KeepsStages s (s.clearLocks n) :=
  of_tables (congrArg State.teams (onCores_rest ..) :) (congrArg State.launches (onCores_rest ..) :)

theorem giveUpTeam (s : State) (x : Team) : KeepsStages s (s.giveUpTeam x) :=
  (foldl (fun s g => of_givesUp (GivesUp.giveUp s g)) _ _).trans (of_traffic (Traffic.flushStack ..))

theorem leavePipes (s : State) (x : Team) : KeepsStages s (s.leavePipes x) := foldl (fun s k => onPipe s k _) _ s

theorem onCore (s : State) (c : Nat) (f : Core → Core) : KeepsStages s (s.onCore c f) := of_tables rfl rfl

theorem orphanWrites (s : State) (x : Team) : KeepsStages s (s.orphanWrites x) := of_tables rfl rfl

theorem leaveEngines (s : State) (t : Nat) (x : Team) : KeepsStages s (s.leaveEngines t x) := by
  unfold State.leaveEngines
  exact ((foldl (fun s _ => clearLocks s _) _ s).trans (foldl (fun s _ => clearLocks s _) _ _)).trans (onCore ..)

theorem dropGroups (s : State) (t : Nat) (x : Team) : KeepsStages s (s.dropGroups t x) := of_tables rfl rfl

theorem emptied (s : State) (t : Nat) : KeepsStages s (s.emptied t) := by
  unfold State.emptied
  exact ((((giveUpTeam ..).trans (leavePipes ..)).trans (orphanWrites ..)).trans (leaveEngines ..)).trans (dropGroups ..)

end KeepsStages

/-- A team that is freed loses its entry of the table of teams; the other teams and the stages are as they were. -/
theorem freeTeam_spec (s : State) (t : Nat) :
    (s.freeTeam t).teams = s.teams.del t ∧ ∀ l k, (s.freeTeam t).stage l k = s.stage l k := by
  have h := KeepsStages.emptied s t
  rw [freeTeam_eq]
  generalize s.emptied t = w at h
  have hp := KeepsStages.preemptTest { w with teams := w.teams.del t } (s.team t).part
  exact ⟨hp.teams.trans (congrArg (fun x => Tab.del x t) h.teams), fun l k => (hp.stage l k).trans (h.stage l k)⟩

/-- A retired index is listed once among those of its stage. -/
theorem retireIndex_stage {s : State} {t : Team} {z : Stage} (hz : s.stage t.launch t.stage = some z) :
    ∃ w, (s.retireIndex t false).stage t.launch t.stage = some w ∧ w.retired = t.lin :: z.retired.filter (· != t.lin) := by
  obtain ⟨x, hx⟩ : ∃ x, s.launch t.launch = some x := by
    unfold State.stage at hz
    split at hz
    next x hx => exact ⟨x, hx⟩
    · cases hz
  unfold State.retireIndex
  exact ⟨_, ((KeepsStages.closePipes ..).stage ..).trans (onLaunch_stage hx hz rfl), rfl⟩

theorem retireIndex_teams (s : State) (t : Team) (f : Bool) : (s.retireIndex t f).teams = s.teams := by
  unfold State.retireIndex
  exact (KeepsStages.closePipes ..).teams.trans (onLaunch_teams ..)

/-- The state after a team has retired. -/
def State.retired (s : State) (k : Nat) (t : Team) : State :=
  ((s.onTiles t.launch (t.stage, t.lin) (fun s k u => s.retireTile t.part k u)).freeTeam k).retireIndex t false

theorem does_teamRetire {s : State} {k : Nat} {t0 : Team} (hh : s.pkg.halted = false) (hk : s.teams.find k = some t0) (hg : t0.gids = [])
    (hf : t0.fullest = none) (hm : (s.core t0.core).matq.all (fun m => m.team != k) = true)
    (hc : (s.core t0.core).cmds.all (fun e => e.2.team != k) = true) : Does s (.teamRetire k) (fun t => t = s.retired k t0) := by
  refine does_runUp (exec_teamRetire k s) hh ?_ rfl
  simp only [hk, hg, hf, hm, hc, List.isEmpty_nil, Option.isNone_none, Bool.and_self, if_true]
  rfl

theorem retired_spec {s : State} {k : Nat} {t0 : Team} {z : Stage} (hz : s.stage t0.launch t0.stage = some z) :
    (s.retired k t0).teams = s.teams.del k ∧
      ∃ w, (s.retired k t0).stage t0.launch t0.stage = some w ∧ w.retired = t0.lin :: z.retired.filter (· != t0.lin) := by
  have htiles := KeepsStages.onTiles s t0.launch (t0.stage, t0.lin) (fun s k u => KeepsStages.retireTile s t0.part k u)
  unfold State.retired
  generalize s.onTiles t0.launch (t0.stage, t0.lin) (fun s k u => s.retireTile t0.part k u) = u at htiles
  refine ⟨?_, retireIndex_stage ?_⟩
  · rw [retireIndex_teams, (freeTeam_spec u k).1, htiles.teams]
  · rw [(freeTeam_spec u k).2, htiles.stage, hz]

end Sys2Proof.Machine

namespace Sys2Proof

open Sys2Proof.Machine

/-- Settles O51: by the slots that a placement takes, which are different ones, and by what the steps of a retirement leave of the teams
and of the stages. -/
theorem teamEvents : Obligations.TeamEvents := by
  unfold Obligations.TeamEvents
  intro s k hh
  refine ⟨?_, ?_, fun t0 z hk hz hg hf hm hc => ?_⟩
  · intro t0 slot h q b hslot hq hb hsave hhalt hfree hclaim g
    obtain ⟨t, ht, rfl⟩ := does_drainGroupStart hh hslot hq hb hsave hhalt hfree hclaim
    refine ⟨_, ht, ?_⟩
    dsimp only
    have hteam : ((s.onTeam k (fun y => y.occupy slot)).setGrp (64 * (s.team k).core + slot)
        (startGroup k (s.team k) h.gidx b.entry b.role)).team k = (s.team k).occupy slot :=
      (State.team_setGrp ..).trans (State.team_onTeam_self ..)
    rw [State.grp_setGrp_self, hteam]
    refine ⟨rfl, rfl, rfl, rfl, rfl, rfl, rfl, rfl, rfl, Tab.get_set_self .., ?_, rfl, fun j hj => State.grp_setGrp_other _ _ hj, fun _ => rfl⟩
    simp only [Team.occupy, beq_iff_eq]
    rfl
  · intro l d x z lin area c slots tid hl hz hlow ha hc hd hp ho hbelow htid hfree hlowest
    obtain ⟨t, ht, rfl⟩ := does_teamPlace hh hl hz hlow ha hc hd hp ho hbelow
    obtain ⟨hteams, hgrp, w, hw, hpools⟩ := placed_spec (area := area) hl hz hp htid hfree hlowest
    have hself : (s.placed l k lin c x z area slots).team tid = newTeam s l x k z lin c area slots := by
      rw [State.team, hteams, Tab.get_put_self]
    refine ⟨_, ht, ?_⟩
    dsimp only
    rw [hself]
    refine ⟨rfl, rfl, rfl, rfl, rfl, rfl, rfl, rfl, rfl, rfl, rfl, rfl, fun n p hn => ?_, fun j hj => ?_, w, hw, hpools⟩
    · obtain ⟨role, hrole⟩ := hgrp n p hn
      rw [hrole]
      exact ⟨rfl, rfl, rfl, rfl⟩
    · rw [State.team, hteams, Tab.get_put_other _ _ _ hj]
      rfl
  · obtain ⟨t, ht, heq⟩ := does_teamRetire hh hk hg hf hm hc
    obtain ⟨hteams, w, hw, hret⟩ := retired_spec (k := k) hz
    rw [← heq] at hteams hw
    refine ⟨_, ht, ?_, fun j hj => ?_, w, hw, hret⟩
    · rw [hteams, Tab.find_del_self]
    · rw [hteams, Tab.find_del_other _ hj]

end Sys2Proof
end

section
/-! Registering range entries in a core's table of 64 (04 R98, R100). -/

namespace Sys2Proof.Machine

open Sys2Proof

/-! ## Keys of a table that are free -/

/-- The key that `fresh` finds is free, if a key of its range is. -/
theorem Tab.fresh_free {α : Type} (t : Tab α) {n lo k : Nat} (hlo : lo ≤ k) (hk : k < lo + n) (hf : Tab.find t k = none) :
    Tab.fresh t n lo < lo + n ∧ Tab.find t (Tab.fresh t n lo) = none := by
  induction n generalizing lo with
  | zero => omega
  | succ n ih =>
    rw [Tab.fresh]
    cases hl : Tab.find t lo with
    | none => exact ⟨by simp, by simpa using hl⟩
    | some x =>
      have hne : lo ≠ k := fun e => by simp [e, hf] at hl
      obtain ⟨hlt, hnone⟩ := ih (lo := lo + 1) (by omega) (by omega)
      exact ⟨by simp only [Option.isSome_some, if_true]; omega, by simpa using hnone⟩

theorem Tab.mem_keys_of_find {α : Type} {t : Tab α} {k : Nat} {x : α} (h : Tab.find t k = some x) : k ∈ t.map Prod.fst :=
  List.mem_map_of_mem (f := Prod.fst) (Tab.mem_of_find h)

/-- A table with fewer than n entries has a free key below n. -/
theorem Tab.exists_free {α : Type} (t : Tab α) {n : Nat} (h : t.length < n) : ∃ k, k < n ∧ Tab.find t k = none := by
  by_contra hall
  push Not at hall
  have hsub : List.range n ⊆ t.map Prod.fst := by
    intro k hk
    obtain ⟨x, hx⟩ := Option.ne_none_iff_exists'.1 (hall k (List.mem_range.1 hk))
    exact Tab.mem_keys_of_find hx
  have hlen := (List.subperm_of_subset List.nodup_range hsub).length_le
  simp at hlen
  omega

theorem Tab.del_of_find_none {α : Type} {t : Tab α} {k : Nat} (h : Tab.find t k = none) : Tab.del t k = t := by
  induction t with
  | nil => rfl
  | cons e t ih =>
    obtain ⟨j, x⟩ := e
    by_cases hj : j = k
    · simp [Tab.find, hj] at h
    · simp only [Tab.find, beq_iff_eq, hj, if_false] at h
      simp [Tab.del, hj, ih h]

/-- An entry at a free key makes the table longer by one. -/
theorem Tab.length_put_of_free {α : Type} {t : Tab α} {k : Nat} (x : α) (h : Tab.find t k = none) : (Tab.put t k x).length = t.length + 1 := by
  induction t with
  | nil => rfl
  | cons e t ih =>
    obtain ⟨j, y⟩ := e
    by_cases hj : j = k
    · simp [Tab.find, hj] at h
    · simp only [Tab.find, beq_iff_eq, hj, if_false] at h
      by_cases hl : k < j <;> simp [Tab.put, hj, hl, ih h, Tab.del_of_find_none h]

/-! ## Range entries -/

/-- A range entry joins the table of a core. -/
def State.addLock (s : State) (c : Nat) (e : LockE) : State := s.onCore c (fun k => { k with locks := k.locks.put (k.locks.fresh 64 0) e })

/-- Range entries of one core have joined its table, each at a key that was free. -/
structure LocksAdded (s t : State) (c : Nat) (l : List LockE) : Prop where
  new   : ∀ e, e ∈ l → ∃ k, k < 64 ∧ (t.core c).locks.find k = some e
  old   : ∀ k e, (s.core c).locks.find k = some e → (t.core c).locks.find k = some e
  core  : { t.core c with locks := [] } = { s.core c with locks := [] }
  other : ∀ j, j ≠ c → t.core j = s.core j
  rest  : { t with cores := [] } = { s with cores := [] }

/-- Where the entries fit they all join (04 R98). -/
theorem foldl_addLock (c : Nat) (l : List LockE) (s : State) (h : (s.core c).locks.length + l.length ≤ 64) :
    LocksAdded s (l.foldl (fun s e => s.addLock c e) s) c l := by
  induction l generalizing s with
  | nil => exact ⟨by simp, fun _ _ h => h, rfl, fun _ _ => rfl, rfl⟩
  | cons e l ih =>
    rw [List.length_cons] at h
    obtain ⟨k, hk, hkf⟩ := Tab.exists_free (s.core c).locks (n := 64) (by omega)
    obtain ⟨hlt, hfree⟩ := Tab.fresh_free (s.core c).locks (n := 64) (lo := 0) (Nat.zero_le k) (by omega) hkf
    have hc : (s.addLock c e).core c = { s.core c with locks := (s.core c).locks.put ((s.core c).locks.fresh 64 0) e } :=
      State.core_onCore_self ..
    obtain ⟨new, old, core, other, rest⟩ := ih (s.addLock c e) (by rw [hc, Tab.length_put_of_free e hfree]; omega)
    refine ⟨?_, fun k x hx => old k x ?_, ?_, fun j hj => ?_, rest⟩
    · intro x hx
      rcases List.mem_cons.1 hx with rfl | hx
      · exact ⟨_, by omega, old _ _ (by rw [hc]; exact Tab.find_put_self ..)⟩
      · exact new x hx
    · have hne : k ≠ (s.core c).locks.fresh 64 0 := fun he => by rw [he, hfree] at hx; cases hx
      rw [hc]
      exact (Tab.find_put_other _ e hne).trans hx
    · rw [List.foldl_cons, core, hc]
    · exact (other j hj).trans (State.core_onCore_other _ _ hj)

/-- Entries of one core join its table of 64 together, or none does. -/
theorem registerLocks_one_core (s : State) (c : Nat) (l : List LockE) :
    s.registerLocks (l.map (fun e => (c, e))) =
      if l = [] ∨ (s.core c).locks.length + l.length ≤ 64 then some (l.foldl (fun s e => s.addLock c e) s) else none := by
  have hfits : ((l.map (fun e => (c, e))).all (fun e => decide ((s.core e.1).locks.length
      + ((l.map (fun e => (c, e))).filter (fun f => f.1 == e.1)).length ≤ 64))) = true ↔ l = [] ∨ (s.core c).locks.length + l.length ≤ 64 := by
    cases l with
    | nil => simp
    | cons e l => simp [List.filter_map, Function.comp_def]; exact fun h _ _ => h
  simp only [State.registerLocks, List.foldl_map, hfits]
  rfl

end Sys2Proof.Machine

namespace Sys2Proof

open Sys2Proof.Machine

/-- Settles O29: by induction on the entries, as a table of fewer than 64 entries has a free key below 64. -/
theorem rangeLocks : Obligations.RangeLocks := by
  unfold Obligations.RangeLocks
  intro s c l
  refine ⟨fun hn hne => ?_, fun hn => ?_⟩
  · rw [registerLocks_one_core, if_neg (by simp only [hne, false_or]; omega)]
  · obtain ⟨new, old, core, other, rest⟩ := foldl_addLock c l s hn
    exact ⟨_, by rw [registerLocks_one_core, if_pos (.inr hn)], new, old, core, other, rest⟩

end Sys2Proof
end

section
/-! Writes of the Rein window (11 R264, R265, 04 R106, R110). -/

namespace Sys2Proof.Machine

open Sys2Proof

/-! ## Control accesses that pass their checks (03 R58, R59) -/

/-- The access that a control word's one request becomes. -/
def ctlAccess (b : BufRec) (o : Int) (w : Nat) (t : Tr) : Acc := { lane := none, va := (b.address o).toNat, n := w, tr := t }

section
variable {s s1 : State} {bn : Slot} {o : Int} {w : Nat} {k : AccKind} {b : BufRec} {t : Tr} (h : CtlAcc s bn o w k b s1 t)
include h

theorem checkBounds_of_ctlAcc : checkBounds (s.slotRec s.cur bn) bn.toNat k [{ lane := none, off := o, n := w }] = .ok b := by
  simp [checkBounds, h.slot, h.bound, h.kind]

theorem checkAlign_of_ctlAcc {m : Req → Nat} (hm : m { lane := none, off := o, n := w } = w) :
    checkAlign b m [{ lane := none, off := o, n := w }] = .ok () := by
  simp [checkAlign, hm, h.align]

theorem checkGlobal_of_ctlAcc {m : Req → Nat} {bad : State → Acc → Bool} (hm : m { lane := none, off := o, n := w } = w)
    (hbad : bad s1 (ctlAccess b o w t) = false) :
    checkGlobal s s.cur bn k m bad [{ lane := none, off := o, n := w }] = .ok (s1, [ctlAccess b o w t]) := by
  have hidem : (!(kindWrites k && (s.teamOf s.cur).rerun && !b.idem)) = true := by
    cases hw : kindWrites k <;> cases hr : (s.teamOf s.cur).rerun <;> simp
    exact h.idem hw hr
  have hf : (s.cur == farrierId) = false := beq_eq_false_iff_ne.2 h.ongrp
  have htr : translateAll s (coreOf s.cur) (s.ctxOf s.cur) k bad [(none, (b.address o).toNat, w)] = .ok (s1, [ctlAccess b o w t]) := by
    rw [ctlAccess] at hbad
    simp [translateAll, h.trans, hbad, ctlAccess, bind, Except.bind, pure, Except.pure]
  have hlock : checkLocks s1 (coreOf s.cur) (s1.ctxOf s.cur) k [ctlAccess b o w t] = .ok () := by
    have hctx : s1.ctxOf s.cur = s.ctxOf s.cur := congrArg Team.ctx ((Traffic.translate h.trans).teamOf s.cur)
    simp [checkLocks, ctlAccess, hctx, h.lock]
  simp only [checkGlobal, hf, checkBounds_of_ctlAcc h, checkAlign_of_ctlAcc h hm, need, hidem, bind, Except.bind, List.map_cons, List.map_nil,
    htr, hlock, List.isEmpty_cons, if_true, Bool.false_eq_true, if_false]
  rfl

theorem traffic_of_ctlAcc : Traffic s s1 := Traffic.translate h.trans

end

theorem ctlCheck_of_ctlAcc {s s1 : State} {bn : Slot} {a : GReg} {off : BitVec 10} {w : Nat} {k : AccKind} {b : BufRec} {t : Tr}
    {bad : State → Acc → Bool} (h : CtlAcc s bn ((s.rg s.cur a).toInt + w * off.toInt) w k b s1 t)
    (hbad : bad s1 (ctlAccess b ((s.rg s.cur a).toInt + w * off.toInt) w t) = false) :
    ctlCheck s s.cur a bn off w k bad = .ok (s1, ctlAccess b ((s.rg s.cur a).toInt + w * off.toInt) w t) := by
  simp only [ctlCheck, ctlOff, checkGlobal_of_ctlAcc (m := fun q => q.n) h rfl hbad, bind, Except.bind]
  rfl

/-! ## Window writes (04 R106, R110) -/

theorem sendRein_of_room {s : State} {d : Nat} (w : RWrite) (h : (s.deck d).sendQ.length < 64) :
    s.sendRein d w = some (s.onDeck d (fun x => { x with sendQ := x.sendQ ++ [w] })) := if_neg (Nat.not_le.2 h)

theorem sendRein_of_full {s : State} {d : Nat} (w : RWrite) (h : 64 ≤ (s.deck d).sendQ.length) : s.sendRein d w = none := if_pos h

/-- A word goes on where its write has joined the queue, and waits as latency where it could not. -/
def sentOr (s : State) (g n : Nat) (r : Option State) : R State :=
  match r with
  | some t => pure (t.adv g n)
  | none => waitC s g .latency

/-- The state after a window write has joined its deck's queue, the core's next mark being one more where the write carries one. -/
def State.sentRein (s : State) (g : Nat) (rel : Bool) (w : RWrite) : State :=
  (if rel then s.onCore (coreOf g) (fun c => { c with cm := c.cm + 1 }) else s).onDeck (deckOf g) (fun x => { x with sendQ := x.sendQ ++ [w] })

/-- A window write that carries the core's mark or none. -/
theorem sendRein_marked (s : State) (g : Nat) (rel : Bool) (w : RWrite) :
    (if rel then s.markStep (coreOf g) else (0, s)).2.sendRein (deckOf g) w =
      if (s.deck (deckOf g)).sendQ.length < 64 then some (s.sentRein g rel w) else none := by
  by_cases hq : (s.deck (deckOf g)).sendQ.length < 64
  · rw [if_pos hq]
    cases rel <;> exact sendRein_of_room _ hq
  · rw [if_neg hq]
    cases rel <;> exact sendRein_of_full _ (Nat.not_lt.1 hq)

theorem traffic_mark (s : State) (c : Nat) : Traffic s (s.onCore c (fun k => { k with cm := k.cm + 1 })) := Traffic.onCore s c rfl

theorem sentRein_grp (s : State) (g h : Nat) (rel : Bool) (w : RWrite) : (s.sentRein g rel w).grp h = s.grp h := by
  cases rel <;> rfl

theorem sentRein_rg (s : State) (g h : Nat) (r : GReg) (rel : Bool) (w : RWrite) : (s.sentRein g rel w).rg h r = s.rg h r := by
  cases rel
  · rfl
  · exact (traffic_mark s (coreOf g)).rg h r

theorem sentRein_sendQ (s : State) (g : Nat) (rel : Bool) (w : RWrite) :
    ((s.sentRein g rel w).deck (deckOf g)).sendQ = (s.deck (deckOf g)).sendQ ++ [w] := by
  rw [State.sentRein, State.deck_onDeck_self]
  cases rel <;> rfl

theorem sentRein_cm (s : State) (g : Nat) (rel : Bool) (w : RWrite) :
    ((s.sentRein g rel w).core (coreOf g)).cm = if rel then (s.core (coreOf g)).cm + 1 else (s.core (coreOf g)).cm := by
  cases rel
  · rfl
  · exact congrArg Core.cm (State.core_onCore_self s (coreOf g) (fun c => { c with cm := c.cm + 1 }))

theorem sentRein_homeByte (s : State) (g : Nat) (rel : Bool) (w : RWrite) (a : Nat) : (s.sentRein g rel w).homeByte a = s.homeByte a := by
  cases rel <;> rfl

/-! ## rput and rseq (11 R264, R265) -/

theorem exec_rputAny (src o m : GReg) (bn : Slot) (rel : Bool) (s : State) :
    exec (if rel then .rputRel src o m bn else .rput src o m bn) s = runEngine s (fun g => rputAny s g src o m bn rel) := by
  cases rel <;> rfl

/-- The word's meaning after its group is known to be on a core. -/
theorem runEngine_of_core {s : State} (hf : s.cur ≠ farrierId) (m : Nat → R State) : runEngine s m = runCtrl s (fun _ => m s.cur) := by
  simp only [runEngine, runCtrl, notFarrier_bind hf]

theorem rputAny_illegal {s : State} {g : Nat} {src o m : GReg} {bn : Slot} {rel : Bool} (h : s.rg g m = 0 ∨ 2 ^ 32 ≤ (s.rg g m).toNat) :
    rputAny s g src o m bn rel = .error (trapOf cILLEGAL) := by
  have hl : (s.rg g m != 0 && decide ((s.rg g m).toNat < 2 ^ 32)) = false := by
    rcases h with h | h
    · simp [h]
    · simp; omega
  exact legal_bind_false hl _

/-- The window write of rput. -/
def rputWrite (s : State) (g pa : Nat) (mask : GWord) (data : List Word) (rel : Bool) : RWrite :=
  { reinWrite s g false pa (if rel then 2 else 1) 0 (mask.setWidth 32) data .none with mark := if rel then (s.core (coreOf g)).cm else 0 }

/-- What rput does once its checks have passed. -/
def rputMove (s : State) (g pa : Nat) (mask : GWord) (data : List Word) (rel : Bool) : R State :=
  if s.reinStale g || (rel && s.reinEarlier g false) then waitC s g .latency
  else if (s.deck (deckOf g)).sendQ.length < 64 then .ok ((s.sentRein g rel (rputWrite s g pa mask data rel)).adv g 4)
  else waitC s g .latency

section
variable {s : State} {g pa : Nat} {mask : GWord} {data : List Word} {rel : Bool}

theorem rputMove_waits (h : s.reinStale g = true ∨ (rel = true ∧ s.reinEarlier g false = true) ∨ 64 ≤ (s.deck (deckOf g)).sendQ.length) :
    rputMove s g pa mask data rel = waitC s g .latency := by
  unfold rputMove
  split
  · rfl
  · rename_i hw
    rcases h with hs | he | hq
    · exact absurd (by simp [hs]) hw
    · exact absurd (by simp [he]) hw
    · exact if_neg (Nat.not_lt.2 hq)

theorem rputMove_sends (hs : s.reinStale g = false) (he : rel = true → s.reinEarlier g false = false)
    (hq : (s.deck (deckOf g)).sendQ.length < 64) :
    rputMove s g pa mask data rel = .ok ((s.sentRein g rel (rputWrite s g pa mask data rel)).adv g 4) := by
  have hw : (s.reinStale g || (rel && s.reinEarlier g false)) = false := by simpa [hs] using he
  rw [rputMove, if_neg (Bool.eq_false_iff.1 hw), if_pos hq]

end

section
variable {s s1 : State} {src o m : GReg} {bn : Slot} {b : BufRec} {t : Tr} (rel : Bool)

theorem rputAny_of_ctlAcc (h : CtlAcc s bn (s.rg s.cur o).toInt 128 .store b s1 t) (hm : s.rg s.cur m ≠ 0) (hm32 : (s.rg s.cur m).toNat < 2 ^ 32)
    (hrein : pteHome t.e = 4) (hscr : (s.rg s.cur src).toNat + 128 ≤ (s.teamOf s.cur).scratch) (h16 : (s.rg s.cur src).toNat % 16 = 0)
    (hlock : lockHit (s1.core (coreOf s.cur)).locks false (s.grp s.cur).team (s.rg s.cur src).toNat ((s.rg s.cur src).toNat + 128) false = none) :
    rputAny s s.cur src o m bn rel =
      if (s.teamOf s.cur).winBad (s.rg s.cur src).toNat 128 then .error (trapAt cCHECKFAIL 0 none (s.rg s.cur src).toNat)
      else rputMove s1 s.cur t.pa (s.rg s.cur m) ((List.range 32).map (fun k => (s.teamOf s.cur).winW ((s.rg s.cur src).toNat + 4 * k))) rel := by
  have ht := traffic_of_ctlAcc h
  have hl : (s.rg s.cur m != 0 && decide ((s.rg s.cur m).toNat < 2 ^ 32)) = true := by
    simp only [Bool.and_eq_true, bne_iff_ne, decide_eq_true_eq]
    exact ⟨hm, hm32⟩
  have halign : ((s.rg s.cur src).toNat % 16 != 0) = false := by simp [h16]
  have hgrp := ht.grp s.cur
  rw [rputAny]
  simp only [hl, legal, need, if_true, checkBounds_of_ctlAcc h, checkAlign_of_ctlAcc h (m := fun _ => 128) rfl, if_neg (Nat.not_lt.2 hscr), halign,
    checkGlobal_of_ctlAcc h (m := fun _ => 128) (bad := notRein) rfl (by simp [notRein, ctlAccess, Tr.rein, hrein]), bind, Except.bind,
    pure, Except.pure, hgrp, hlock, ht.teamOf, Bool.false_eq_true, if_false]
  split
  · rfl
  · unfold rputMove
    split
    · rfl
    · have hsend (w : RWrite) : sentOr s1 s.cur 4 ((if rel then s1.markStep (coreOf s.cur) else (0, s1)).2.sendRein (deckOf s.cur) w) =
          if (s1.deck (deckOf s.cur)).sendQ.length < 64 then .ok ((s1.sentRein s.cur rel w).adv s.cur 4) else waitC s1 s.cur .latency := by
        rw [sendRein_marked]
        split <;> rfl
      cases rel <;> exact hsend _

end

end Sys2Proof.Machine

namespace Sys2Proof

open Sys2Proof.Machine

theorem ctlTraps_of_error {s : State} {i : Instr} {m : Nat → R State} {code info : Nat} {va : GWord} (hf : s.cur ≠ farrierId)
    (he : exec i s = runCtrl s m) (hm : m s.cur = .error (.trap { code := code, info := info, lane := none, va := va } none)) :
    CtlTraps s i code info va := he.trans (runCtrl_trap hm hf)

theorem past_adv {s u : State} (hp : (u.grp s.cur).pc = (s.grp s.cur).pc) (n : Nat) : Past s (u.adv s.cur n) n := by
  simp [Past, AtPc, State.adv, State.goto, hp]

theorem rg_adv (s : State) (g n : Nat) (r : GReg) : (s.adv g n).rg g r = s.rg g r := rg_onGrp_of s g rfl rfl r

theorem g64_toNat (v : GWord) : g64 (v.toNat : Int) = v := by simp [g64]

/-- Settles O35: by what rput does once its checks have passed, and by what a write that joins the deck's queue leaves. -/
theorem reinWords : Obligations.ReinWords := by
  unfold Obligations.ReinWords
  intro s s1 d src o m bn b t rel hf g from_ mask i q c
  have he : exec i s = runCtrl s (fun _ => rputAny s s.cur src o m bn rel) := (exec_rputAny ..).trans (runEngine_of_core hf _)
  have hseq := (exec_rseq d s).trans (runEngine_of_core hf _)
  refine ⟨fun hm => ctlTraps_illegal hf he (rputAny_illegal hm), fun hm hm32 hacc hrein hscr h16 hlock => ?_, fun hs hb => ?_, fun hs => ?_⟩
  · have heq := rputAny_of_ctlAcc rel hacc hm hm32 hrein hscr h16 hlock
    have ht := traffic_of_ctlAcc hacc
    refine ⟨fun hbad => ctlTraps_of_error hf he ?_, fun hbad => ?_⟩
    · rw [heq, if_pos hbad, trapAt, g64_toNat]
      rfl
    have hgood := heq.trans (if_neg (Bool.eq_false_iff.1 hbad))
    refine ⟨fun hw => ?_, fun hs hearly hq => ?_⟩
    · exact he.trans (runCtrl_wait (hgood.trans (rputMove_waits hw)))
    · let w := rputWrite s1 g t.pa mask ((List.range 32).map (fun k => (s.teamOf g).winW (from_ + 4 * k))) rel
      have hgrp : (s1.sentRein g rel w).grp g = s.grp g := (sentRein_grp ..).trans (ht.grp g)
      refine ⟨_, _, he.trans (runCtrl_ok (hgood.trans (rputMove_sends hs hearly hq))), past_adv (congrArg Group.pc hgrp) 4, fun r => ?_,
        sentRein_sendQ s1 g rel w, rfl, rfl, rfl, rfl, rfl, ?_, ?_, rfl, sentRein_cm s1 g rel w⟩
      · rw [rg_adv, sentRein_rg, ht.rg]
      · exact (BitVec.ofNat_toNat 32 mask).symm
      · rfl
  · have hrun : exec (.rseq d) s = ctlG s d (fun _ => .ok (BitVec.ofNat 64 (s.deck (deckOf g)).lastQ)) := by
      rw [hseq, hs]
      rfl
    exact ctlG_writes hrun rfl hb
  · exact waits_of_error hseq (if_pos hs)

end Sys2Proof
end

section
/-! Acquires and releases at .deck or wider (08 R192, 04 R90 to R92, R109). -/

namespace Sys2Proof.Machine

open Sys2Proof

/-! ## Tables that are copied entry by entry -/

theorem Tab.find_eq_none_of_above {α : Type} {t : Tab α} {k : Nat} (h : Tab.above k t) : Tab.find t k = none := by
  cases hf : Tab.find t k with
  | none => rfl
  | some x => exact absurd (h _ (Tab.mem_of_find hf)) (Nat.lt_irrefl k)

/-- Entries with different keys that are put into a table one after the other. -/
theorem Tab.find_foldl_put {α : Type} {l : Tab α} (hr : Tab.rising l = true) (t : Tab α) (k : Nat) :
    Tab.find (l.foldl (fun t e => Tab.put t e.1 e.2) t) k = (Tab.find l k).or (Tab.find t k) := by
  induction l generalizing t with
  | nil => rfl
  | cons e l ih =>
    obtain ⟨j, x⟩ := e
    obtain ⟨ha, hr⟩ := (Tab.rising_cons (j, x) l).1 hr
    rw [List.foldl_cons, ih hr]
    by_cases hj : j = k
    · subst hj
      simp [Tab.find, Tab.find_eq_none_of_above ha, Tab.find_put_self]
    · simp [Tab.find, hj, Tab.find_put_other t x (Ne.symm hj)]

theorem Tab.find_filter_key {α : Type} (t : Tab α) (f : Nat → Bool) (k : Nat) :
    Tab.find (t.filter (fun e => f e.1)) k = if f k then Tab.find t k else none := by
  have h := Tab.find_dropIf_key t (fun j => !f j) k
  simp only [Tab.dropIf, Bool.not_not] at h
  rw [h]
  cases f k <;> simp

theorem Tab.rising_filter {α : Type} {t : Tab α} (f : Nat × α → Bool) (h : Tab.rising t = true) : Tab.rising (t.filter f) = true := by
  have := Tab.rising_dropIf (fun k x => !f (k, x)) h
  simpa [Tab.dropIf] using this

/-! ## Bytes of host memory and the device's copies of them (03 R61, 16 R340) -/

/-- Where a line's copies go to host memory, whether or not its slice keeps the line, every byte is as it was. -/
theorem homeByte_of_hostWritten {s t : State} {line : Nat} (hr : s.hostL2.rising = true) (hm : t.mem = s.mem)
    (h2 : t.hostL2 = s.hostL2.dropIf (fun a _ => a / 128 == line))
    (h3 : t.hostMem = (s.hostL2.filter (fun e => e.1 / 128 == line)).foldl (fun t e => t.put e.1 e.2) s.hostMem) (a : Nat) :
    t.homeByte a = s.homeByte a := by
  have hf := Tab.find_foldl_put (Tab.rising_filter (fun e => e.1 / 128 == line) hr) s.hostMem a
  rw [Tab.find_filter_key s.hostL2 (fun k => k / 128 == line)] at hf
  unfold State.homeByte
  rw [hm, h2, h3, Tab.find_dropIf_key s.hostL2 (fun k => k / 128 == line), hf]
  by_cases hl : a / 128 = line
  · cases s.hostL2.find a <;> simp [hl]
  · simp [hl]

theorem homeByte_hostPush {s : State} (line : Nat) (hr : s.hostL2.rising = true) (a : Nat) : (s.hostPush line).homeByte a = s.homeByte a := by
  unfold State.hostPush
  split
  · rfl
  · refine homeByte_of_hostWritten (line := line) hr ?_ ?_ ?_ a <;> rfl

theorem homeByte_hostClean {s : State} (line : Nat) (hr : s.hostL2.rising = true) (a : Nat) : (s.hostClean line).homeByte a = s.homeByte a := by
  refine homeByte_of_hostWritten (line := line) hr ?_ ?_ ?_ a <;> rfl

theorem homeByte_mirrorLine {s : State} (line : Nat) (hr : s.hostL2.rising = true) (a : Nat) : (s.mirrorLine line).homeByte a = s.homeByte a := by
  unfold State.mirrorLine
  split
  · rfl
  · dsimp only
    split
    · rfl
    · split
      · rfl
      · split
        · exact homeByte_hostClean _ hr a
        · rfl

/-- One byte of storage that is written. -/
theorem homeByte_rawByte (s : State) (pa : Nat) (b : Byte) (a : Nat) : (s.rawByte pa b).homeByte a = if a = pa then b else s.homeByte a := by
  unfold State.rawByte
  split
  · rename_i hh
    have hpa : isHost pa = false := by simpa using hh
    by_cases ha : a = pa
    · subst ha
      simp [State.homeByte, hpa]
    · simp [State.homeByte, ha, Memory.read_write_other s.mem b ha]
  · rename_i hh
    have hpa : isHost pa = true := by simpa using hh
    split
    · by_cases ha : a = pa
      · subst ha
        simp [State.homeByte, hpa, Tab.find_put_self]
      · simp [State.homeByte, ha, Tab.find_put_other s.hostL2 b ha]
    · by_cases ha : a = pa
      · subst ha
        simp [State.homeByte, hpa, Tab.find_put_self, Tab.find_del_self]
      · simp [State.homeByte, ha, Tab.find_put_other s.hostMem b ha, Tab.find_del_other s.hostL2 ha]

theorem storedAt_rawBytes (s : State) (pa : Nat) (bs : List Byte) : StoredAt s (s.rawBytes pa bs) pa bs := by
  induction bs generalizing s pa with
  | nil => intro a; simp [State.rawBytes]
  | cons b bs ih =>
    intro a
    rw [State.rawBytes, ih, homeByte_rawByte, List.length_cons]
    rcases Nat.lt_trichotomy a pa with h | h | h
    · rw [if_neg (by omega), if_neg (by omega), if_neg (by omega)]
    · subst h
      rw [if_neg (by omega), if_pos rfl, if_pos (by omega)]
      simp
    · obtain ⟨k, rfl⟩ : ∃ k, a = pa + 1 + k := ⟨a - pa - 1, by omega⟩
      by_cases hk : k < bs.length
      · rw [if_pos (by omega), if_pos (by omega)]
        simp [show pa + 1 + k - (pa + 1) = k by omega, show pa + 1 + k - pa = k + 1 by omega]
      · rw [if_neg (by omega), if_neg (by omega), if_neg (by omega)]

theorem storedAt_of_same {s t u : State} {pa : Nat} {bs : List Byte} (h : StoredAt t u pa bs) (hb : ∀ a, t.homeByte a = s.homeByte a) :
    StoredAt s u pa bs := fun a => by rw [h a, hb]

theorem storedAt_then_same {s t u : State} {pa : Nat} {bs : List Byte} (h : StoredAt s t pa bs) (hb : ∀ a, u.homeByte a = t.homeByte a) :
    StoredAt s u pa bs := fun a => by rw [hb, h a]

/-- The bytes that were stored are read back. -/
theorem homeBytes_of_storedAt {s t : State} {pa : Nat} {bs : List Byte} (h : StoredAt s t pa bs) : t.homeBytes pa bs.length = bs := by
  refine List.ext_getElem (by simp [State.homeBytes]) (fun n h1 h2 => ?_)
  simp only [State.homeBytes, List.getElem_map, List.getElem_range, h (pa + n)]
  rw [if_pos (by omega)]
  simp [h2]

theorem foldl_eq_self {α β : Type} {f : α → β → α} {l : List β} {a : α} (h : ∀ b ∈ l, f a b = a) : l.foldl f a = a := by
  induction l with
  | nil => rfl
  | cons b l ih => rw [List.foldl_cons, h b (List.mem_cons_self ..), ih (fun c hc => h c (List.mem_cons_of_mem _ hc))]

/-- Where no snapshot runs a write copies no line first (15 R325). -/
theorem cow_of_noSnap {s : State} (h : NoSnap s) (line : Nat) : s.cow line = s :=
  foldl_eq_self (fun p _ => by simp [State.snapCopy, h p])

theorem Tab.sublist_del {α : Type} (t : Tab α) (k : Nat) : List.Sublist (Tab.del t k) t := by
  induction t with
  | nil => exact .refl _
  | cons e t ih =>
    rw [Tab.del]
    split
    · exact ih.cons e
    · exact ih.cons_cons e

theorem Tab.find_del_or {α : Type} (t : Tab α) (k l : Nat) : Tab.find (Tab.del t k) l = none ∨ Tab.find (Tab.del t k) l = Tab.find t l := by
  by_cases h : l = k
  · exact .inl (h ▸ Tab.find_del_self t k)
  · exact .inr (Tab.find_del_other t h)

theorem flushLine_of_clean {s : State} {c line : Nat} (hc : ∀ x, (s.core c).l1.find line = some x → x.dirty = 0) :
    s.flushLine c line = if ((s.core c).l1.find line).isSome then s.dropLine c line else s := by
  have hwb : s.wbLine c line = s := by
    unfold State.wbLine
    split
    · rfl
    · rename_i x hx
      simp [hc x hx]
  rw [State.flushLine, hwb]

/-! ## What a read at the home leaves -/

/-- The state without the lines of the cores and of the slices, the device's copies of host memory and the counters. -/
def State.offLines (s : State) : State := { s with ctr := [], hostL2 := [], hostMem := [], l2 := [], cores := [] }

/-- Lines have moved between a core, its slices and the host: every byte at its home is as it was. -/
structure ReadsHome (s t : State) : Prop where
  bytes  : ∀ a, t.homeByte a = s.homeByte a
  cores  : ∀ c, { t.core c with l1 := [] } = { s.core c with l1 := [] }
  rising : s.hostL2.rising = true → t.hostL2.rising = true
  rest   : t.offLines = s.offLines

namespace ReadsHome

theorem refl (s : State) : ReadsHome s s := ⟨fun _ => rfl, fun _ => rfl, id, rfl⟩

theorem trans {s t u : State} (h : ReadsHome s t) (k : ReadsHome t u) : ReadsHome s u :=
  ⟨fun a => (k.bytes a).trans (h.bytes a), fun c => (k.cores c).trans (h.cores c), k.rising ∘ h.rising, k.rest.trans h.rest⟩

section
variable {s t : State} (h : ReadsHome s t)
include h

theorem cur : t.cur = s.cur := (congrArg State.cur h.rest :)
theorem grp (g : Nat) : t.grp g = s.grp g := (congrArg (fun s => s.grp g) h.rest :)
theorem snoop : t.snoop = s.snoop := (congrArg State.snoop h.rest :)
theorem recs : t.recs = s.recs := (congrArg State.recs h.rest :)
theorem part (p : Nat) : t.part p = s.part p := (congrArg (fun s => s.part p) h.rest :)
theorem codeOfCore (c : Nat) : t.codeOfCore c = s.codeOfCore c := (congrArg (fun s => s.codeOfCore c) h.rest :)
theorem hostBias (p pa : Nat) : t.hostBias p pa = s.hostBias p pa := (congrArg (fun s => s.hostBias p pa) h.rest :)
theorem netOk (p d e : Nat) : t.netOk p d e = s.netOk p d e := (congrArg (fun s => s.netOk p d e) h.rest :)
theorem lineSlice (p pa : Nat) : t.lineSlice p pa = s.lineSlice p pa := (congrArg (fun s => s.lineSlice p pa) h.rest :)
theorem poisonedIn (p pa n : Nat) : t.poisonedIn p pa n = s.poisonedIn p pa n := (congrArg (fun s => s.poisonedIn p pa n) h.rest :)
theorem foreignRec (c pa : Nat) : t.foreignRec c pa = s.foreignRec c pa := (congrArg (fun s => s.foreignRec c pa) h.rest :)
theorem ownRec (c pa : Nat) : t.ownRec c pa = s.ownRec c pa := (congrArg (fun s => s.ownRec c pa) h.rest :)
theorem dirFull (p pa : Nat) : t.dirFull p pa = s.dirFull p pa := (congrArg (fun s => s.dirFull p pa) h.rest :)
theorem pinnedIn (sl : Nat) : t.pinnedIn sl = s.pinnedIn sl := (congrArg (fun s => s.pinnedIn sl) h.rest :)
theorem homeBytes (pa n : Nat) : t.homeBytes pa n = s.homeBytes pa n := by simp only [State.homeBytes, h.bytes]

theorem traffic : Traffic s t :=
  ⟨fun c => (congrArg (fun k : Core => { k with cm := 0, settled := 0, stackc := [], tlb := [], settleReqs := [] }) (h.cores c) :),
    (congrArg (fun s => { s.offMemory with cores := [] }) h.rest :)⟩

/-- A register that is loaded besides, by a word that goes on. -/
theorem loadFrame (d : GReg) (v : GWord) (n : Nat) : LoadFrame s ((t.putG s.cur d v).adv s.cur n) [d] := by
  have hcur := h.cur
  have ht := h.traffic
  have hq : { ((t.putG s.cur d v).adv s.cur n).grp s.cur with g := [], pc := 0, cwait := .none } =
      { s.grp s.cur with g := [], pc := 0, cwait := .none } := by
    have hput := State.putG_grp t s.cur d v
    rw [h.grp] at hput
    simp only [State.adv, State.goto, State.grp_onGrp_self]
    exact (congrArg (fun x : Group => { x with pc := 0, cwait := .none }) hput :)
  have k : CtlFrame t ((t.putG s.cur d v).adv s.cur n) [d] [] := by
    have hgo := (putG_goto t d v (((t.putG s.cur d v).grp s.cur).pc + BitVec.ofNat 64 n)).2.2
    rw [hcur] at hgo
    exact hgo
  have hbank : HidesG s t := hidesG_of (congrArg Group.g (h.grp s.cur)) (ht.bank s.cur)
  obtain ⟨hregs, hpreds, -, hgroups, hhides, hbanks, hcores, hbytes, hrest⟩ := k
  rw [hcur] at hregs hpreds hgroups hbanks
  refine ⟨⟨fun r hr => (hregs r hr).trans (ht.rg _ r), fun q => ?_, hq, fun g hg => (hgroups g hg).trans (h.grp g), ?_,
    fun g hg => (hbanks g hg).trans (ht.bank g), fun c => ?_, ?_⟩, fun a => (hbytes a).trans (h.bytes a), ?_⟩
  · exact (hpreds q (by simp)).trans (by simp [State.rq, h.grp])
  · exact hidesG_trans hbank hhides hcur (congrArg Group.sys (h.grp s.cur))
  · have hc := (congrArg (fun k : Core => { k with l1 := [], stackc := [] }) (hcores c) :)
    exact hc.trans (congrArg (fun k : Core => { k with banks := [], stackc := [] }) (h.cores c) :)
  · exact (congrArg State.teams hrest :).trans ht.teams
  · have hu := (congrArg (fun s : State => { s with ctr := [], snoop := [], hostL2 := [], hostMem := [], l2 := [], early := [] }) hrest :)
    exact hu.trans (congrArg (fun s : State => { s with groups := [], snoop := [], early := [] }) h.rest :)

end

end ReadsHome

/-- A read at the home that brings no line into a slice. -/
structure FreesLines (s t : State) : Prop extends ReadsHome s t where
  sub   : List.Sublist t.l2 s.l2
  finds : ∀ l, t.l2.find l = none ∨ t.l2.find l = s.l2.find l

namespace FreesLines

theorem refl (s : State) : FreesLines s s := ⟨.refl s, .refl _, fun _ => .inr rfl⟩

theorem trans {s t u : State} (h : FreesLines s t) (k : FreesLines t u) : FreesLines s u :=
  ⟨h.toReadsHome.trans k.toReadsHome, k.sub.trans h.sub, fun l => (k.finds l).elim .inl (fun e => e ▸ h.finds l)⟩

theorem bump (s : State) (a n : Nat) : FreesLines s (s.bump a n) :=
  ⟨⟨fun _ => rfl, fun _ => rfl, id, rfl⟩, .refl _, fun _ => .inr rfl⟩

theorem bumpCore (s : State) (c off n : Nat) : FreesLines s (s.bumpCore c off n) := by
  unfold State.bumpCore
  split
  · exact refl s
  · exact bump ..

/-- A change of a core's L1 alone. -/
theorem setL1 (s : State) (c : Nat) (f : Core → Core) (hf : { f (s.core c) with l1 := [] } = { s.core c with l1 := [] }) :
    FreesLines s (s.onCore c f) := by
  refine ⟨⟨fun _ => rfl, fun k => ?_, id, rfl⟩, .refl _, fun _ => .inr rfl⟩
  by_cases hk : k = c
  · subst hk
    rw [State.core_onCore_self]
    exact hf
  · rw [State.core_onCore_other _ _ hk]

theorem dropLine (s : State) (c line : Nat) : FreesLines s (s.dropLine c line) := by
  unfold State.dropLine
  refine .trans ?_ (setL1 _ _ _ rfl)
  split
  · split
    · exact bumpCore ..
    · exact refl _
  · exact refl _

/-- A clean line leaves the L1. -/
theorem flushLine {s : State} {c line : Nat} (hc : ∀ x, (s.core c).l1.find line = some x → x.dirty = 0) : FreesLines s (s.flushLine c line) := by
  rw [flushLine_of_clean hc]
  split
  · exact dropLine ..
  · exact refl _

theorem hostPush {s : State} (line : Nat) (hr : s.hostL2.rising = true) : FreesLines s (s.hostPush line) := by
  have hbytes := homeByte_hostPush line hr
  unfold State.hostPush at hbytes ⊢
  split
  · exact refl _
  · rename_i hh
    rw [if_neg hh] at hbytes
    exact ⟨⟨hbytes, fun _ => rfl, fun h => Tab.rising_dropIf (fun a _ => a / 128 == line) h, rfl⟩,
      Tab.sublist_del s.l2 line, Tab.find_del_or s.l2 line⟩

theorem hostOnly {s : State} (t : Tr) (hr : s.hostL2.rising = true) : FreesLines s (s.hostOnly t) := by
  unfold State.hostOnly
  split
  · exact hostPush _ hr
  · exact refl _

theorem sysPush {s : State} (sc : Scope) (pa : Nat) (hr : s.hostL2.rising = true) : FreesLines s (s.sysPush sc pa) := by
  unfold State.sysPush
  split
  · exact hostPush _ hr
  · exact refl _

end FreesLines

/-- The slice of a line has room for one more (01 R13). -/
def State.sliceRoom (s : State) (p line : Nat) : Prop :=
  (s.l2Lines (s.lineSlice p (line * 128))).length + s.pinnedIn (s.lineSlice p (line * 128)) + s.mirrorsIn (s.lineSlice p (line * 128)) < 12288

theorem FreesLines.sliceRoom {s t : State} {p line : Nat} (h : FreesLines s t) (hs : s.sliceRoom p line) : t.sliceRoom p line := by
  have hslice : t.lineSlice = s.lineSlice := funext fun p => funext fun pa => h.lineSlice p pa
  have hlines (sl : Nat) : (t.l2Lines sl).length ≤ (s.l2Lines sl).length := by
    simp only [State.l2Lines, List.length_map, hslice]
    exact (h.sub.filter _).length_le
  have hmirror : t.mirror = s.mirror := (congrArg State.mirror h.rest :)
  have hpart (l : Nat) : t.linePart l = none ∨ t.linePart l = s.linePart l := by
    unfold State.linePart
    split
    · exact h.finds l
    · exact .inr (congrArg (fun s => s.partAt (l * 128)) h.rest :)
  have hmirrors (sl : Nat) : t.mirrorsIn sl ≤ s.mirrorsIn sl := by
    simp only [State.mirrorsIn, ← List.countP_eq_length_filter, hmirror, hslice]
    refine List.countP_mono_left (fun l _ hl => ?_)
    rcases hpart l with hn | he
    · rw [hn] at hl
      cases hl
    · rwa [he] at hl
  unfold State.sliceRoom at hs ⊢
  rw [h.lineSlice, h.pinnedIn]
  have := hlines (s.lineSlice p (line * 128))
  have := hmirrors (s.lineSlice p (line * 128))
  omega

/-- A slice with room takes a line, and none leaves it. -/
theorem ReadsHome.l2For {s : State} {p : Nat} {t : Tr} (hs : s.sliceRoom p (t.pa / 128)) : ReadsHome s (s.l2For p t) := by
  have hroom : s.l2Room p (t.pa / 128) = true := by
    simp only [State.l2Room, Bool.or_eq_true, decide_eq_true_eq]
    exact .inr hs
  unfold State.l2For
  split
  · exact .refl s
  · unfold State.l2Touch
    split
    · exact .refl s
    · exact ⟨fun _ => rfl, fun _ => rfl, id, rfl⟩

/-- No snoop is sent for a line that the host does not hold. -/
theorem snoopHost_of_not_held {s : State} {pa : Nat} (w : Bool) (h : s.snoop.contains (pa / 128) = false) : s.snoopHost pa w = s := by
  simp only [State.snoopHost, State.snoopLine, h]
  rfl

/-! ## Acquires (08 R192, 04 R92, R109) -/

theorem runCtrl_congr {s : State} {m n : Nat → R State} (h : m s.cur = n s.cur) : runCtrl s m = runCtrl s n := by simp only [runCtrl, h]

/-- The state in which an acquire waits for the settle of a record. -/
def State.acquireAsks (s : State) (g : Nat) (d : GReg) (v : GWord) (x : Acc) (r : Rec) : State :=
  (s.requestSettle (coreOf g) r (some (g, false))).onGrp g (fun y => { y with cwait := .settle r [(d.toNat, v)] 8, acqVa := g64 x.va })

/-- The end of an acquire whose value is read: it waits for another core's record, or makes shared lines invalid and goes on. -/
def acquireEnd (s : State) (g : Nat) (d : GReg) (v : GWord) (x : Acc) : R State :=
  match s.varRec g x.tr with
  | some r => .error (.wait (s.acquireAsks g d v x r))
  | none => do
    let s ← (if s.varOwn g x.tr then s else s.invShared (coreOf g)).wgKeep g d v
    pure (s.adv g 8)

/-- The state in which an acquire reads its variable. -/
def State.acquireRead (s : State) (g : Nat) (sc : Scope) (x : Acc) : State :=
  if x.tr.rein then s
  else ((((((s.stackDrop g x).flushLine (coreOf g) (x.tr.pa / 128)).hostOnly x.tr).sysPush sc x.tr.pa).l2For (s.codeOfCore (coreOf g)) x.tr)).snoopHost
    x.tr.pa false

/-- An acquire at `.deck` or wider, from the state in which it reads its variable. -/
def acquireIn (u : State) (g : Nat) (d : GReg) (x : Acc) : R State :=
  if (if x.tr.rein then u.replicaBad (deckOf g) x.tr.pa 8 else u.poisonedIn (u.codeOfCore (coreOf g)) x.tr.pa 8) then
    .error (trapAt cCHECKFAIL 0 none x.va)
  else acquireEnd u g d (BitVec.ofNat 64 (ofBytes (if x.tr.rein then u.replica (deckOf g) x.tr.pa 8 else u.homeBytes x.tr.pa 8))) x

/-- What an acquire at `.deck` or wider does once its checks have passed. -/
def acquireAt (s : State) (g : Nat) (d : GReg) (sc : Scope) (x : Acc) : R State :=
  if s.reinWait g x.tr 8 || (sc == .rein && s.reinStale g) then waitC s g .latency else acquireIn (s.acquireRead g sc x) g d x

theorem exec_acq_wide {s s1 : State} {d a : GReg} {bn : Slot} {off : BitVec 10} {sc : Scope} {b : BufRec} {t : Tr} (hsc : wideScope sc = true)
    (h : CtlAcc s bn ((s.rg s.cur a).toInt + 8 * off.toInt) 8 .load b s1 t) :
    exec (.acq d a bn off sc) s =
      runCtrl s (fun _ => acquireAt s1 s.cur d sc (ctlAccess b ((s.rg s.cur a).toInt + 8 * off.toInt) 8 t)) := by
  refine (exec_acq ..).trans (runCtrl_congr ?_)
  have hck : ctlCheck s s.cur a bn off 8 .load anyPage = .ok (s1, ctlAccess b ((s.rg s.cur a).toInt + 8 * off.toInt) 8 t) :=
    ctlCheck_of_ctlAcc (w := 8) h rfl
  simp only [hck, hsc, bind, Except.bind, Bool.not_true, Bool.false_eq_true, if_false]
  rfl

theorem ReadsHome.invShared (s : State) (c : Nat) : ReadsHome s (s.invShared c) := by
  unfold State.invShared
  exact (FreesLines.bumpCore ..).toReadsHome.trans (FreesLines.setL1 _ c _ rfl).toReadsHome

theorem Traffic.requestSettle (s : State) (c : Nat) (r : Rec) (who : Option (Nat × Bool)) : Traffic s (s.requestSettle c r who) := by
  unfold State.requestSettle
  split
  · exact (FreesLines.bumpCore ..).traffic.trans (Traffic.onCore _ r.core rfl)
  · exact (FreesLines.bumpCore ..).traffic

/-- A request that stays inside NETBOUND joins those of the core that the record names. -/
theorem requestSettle_reqs {s : State} {c : Nat} {r : Rec} (who : Option (Nat × Bool))
    (h : s.netOk (s.codeOfCore c) (deckOfCore c) (deckOfCore r.core) = true) :
    ((s.requestSettle c r who).core r.core).settleReqs = (s.core r.core).settleReqs ++ [{ mark := r.mark, who := who }] := by
  rw [State.requestSettle, if_pos h, State.core_onCore_self]
  exact congrArg (fun l => l ++ [{ mark := r.mark, who := who }]) (congrArg Core.settleReqs ((FreesLines.bumpCore s c 0x88 1).cores r.core) :)

/-- The state in which an acquire that waits for no settle writes its register. -/
def State.acquired (u : State) (g : Nat) (t : Tr) : State := if u.varOwn g t then u else u.invShared (coreOf g)

theorem ReadsHome.acquired (u : State) (g : Nat) (t : Tr) : ReadsHome u (u.acquired g t) := by
  unfold State.acquired
  split
  · exact .refl u
  · exact .invShared ..

/-- What an acquire leaves that has read v in u and waits for no settle. -/
structure AcquireGoes (s s1 u z : State) (d : GReg) (v : GWord) (t : Tr) : Prop where
  reg    : z.rg s.cur d = if d = 0 then 0 else v
  past   : Past s z 8
  frame  : LoadFrame s1 z [d]
  lines  : (z.core (coreOf s.cur)).l1 = ((u.acquired s.cur t).core (coreOf s.cur)).l1
  shared : u.varOwn s.cur t = false → z.NoneShared (coreOf s.cur)

theorem core_adv_putG_l1 (s : State) (g c n : Nat) (d : GReg) (v : GWord) : (((s.putG g d v).adv g n).core c).l1 = (s.core c).l1 :=
  (congrArg Core.l1 (State.putG_core s g c d v) :)

section
variable {s s1 u : State} {d : GReg} {v : GWord} {x : Acc} (ht : Traffic s s1) (hu : ReadsHome s1 u)
include ht hu

theorem acquireEnd_goes (hr : u.varRec s.cur x.tr = none) (hb : s.stackBad s.cur d v = false) :
    ∃ z, acquireEnd u s.cur d v x = .ok z ∧ AcquireGoes s s1 u z d v x.tr := by
  have hacq := hu.trans (ReadsHome.acquired u s.cur x.tr)
  have hz := ht.trans hacq.traffic
  have hbad : (u.acquired s.cur x.tr).stackBad s.cur d v = false := (hz.stackBad _ _ _).trans hb
  have hcur : (u.acquired s.cur x.tr).cur = s.cur := hz.cur
  have hgo := putG_goto (u.acquired s.cur x.tr) d v ((((u.acquired s.cur x.tr).putG s.cur d v).grp s.cur).pc + BitVec.ofNat 64 8)
  rw [hcur] at hgo
  refine ⟨((u.acquired s.cur x.tr).putG s.cur d v).adv s.cur 8, ?_, hgo.1, ?_, ?_, core_adv_putG_l1 .., fun hown => ?_⟩
  · unfold acquireEnd
    rw [hr]
    have hw : (u.acquired s.cur x.tr).wgKeep s.cur d v = .ok ((u.acquired s.cur x.tr).putG s.cur d v) := if_neg (Bool.eq_false_iff.1 hbad)
    exact (congrArg (fun r : R State => r >>= fun s' => pure (s'.adv s.cur 8)) hw :)
  · exact past_adv ((State.pc_putG ..).trans (congrArg Group.pc (hz.grp s.cur))) 8
  · have hframe := hacq.loadFrame d v 8
    rwa [ht.cur] at hframe
  · have hinv : u.acquired s.cur x.tr = u.invShared (coreOf s.cur) := if_neg (Bool.eq_false_iff.1 hown)
    rw [hinv]
    refine noneShared_congr (noneShared_invShared u (coreOf s.cur)) (core_adv_putG_l1 ..) (fun a => ?_)
    exact rest_homeByte (State.putG_rest ..) a

theorem acquireEnd_asks {r : Rec} (hr : u.varRec s.cur x.tr = some r)
    (hn : s1.netOk (s1.codeOfCore (coreOf s.cur)) (deckOfCore (coreOf s.cur)) (deckOfCore r.core) = true) :
    ∃ z, acquireEnd u s.cur d v x = .error (.wait z) ∧ AsksSettle s s1 z r (.settle r [(d.toNat, v)] 8) := by
  have hz := (ht.trans hu.traffic).trans (Traffic.requestSettle u (coreOf s.cur) r (some (s.cur, false)))
  have hreq := requestSettle_reqs (s := u) (some (s.cur, false)) (by rw [hu.netOk, hu.codeOfCore]; exact hn)
  have hreqs : (u.core r.core).settleReqs = (s1.core r.core).settleReqs := (congrArg Core.settleReqs (hu.cores r.core) :)
  rw [hreqs] at hreq
  refine ⟨u.acquireAsks s.cur d v x r, by unfold acquireEnd; rw [hr], ?_, ?_, hreq, fun q => ?_, fun g hg => ?_⟩
  · rw [State.acquireAsks, State.grp_onGrp_self]
  · rw [State.acquireAsks, State.grp_onGrp_self]
    exact (congrArg Group.pc (hz.grp s.cur) :)
  · exact (rg_onGrp_of _ s.cur rfl rfl q).trans (hz.rg s.cur q)
  · exact (State.grp_onGrp_other _ _ hg).trans (hz.grp g)

end

/-! ## The read of an acquire outside the window -/

theorem dropLine_l1 (s : State) (c line : Nat) : ((s.dropLine c line).core c).l1 = (s.core c).l1.del line := by
  unfold State.dropLine
  rw [State.core_onCore_self]
  split
  · split
    · exact congrArg (fun l => Tab.del l line) (congrArg Core.l1 ((AtHomes.bumpCore s c 0xE0 1).core c))
    · rfl
  · rfl

/-- A clean line that is flushed is gone, and no other. -/
theorem find_flushLine_of_clean {s : State} {c line : Nat} (hc : ∀ x, (s.core c).l1.find line = some x → x.dirty = 0) (l : Nat) :
    ((s.flushLine c line).core c).l1.find l = if l = line then none else (s.core c).l1.find l := by
  rw [flushLine_of_clean hc]
  split
  · rw [dropLine_l1]
    by_cases hl : l = line
    · rw [if_pos hl, hl, Tab.find_del_self]
    · rw [if_neg hl, Tab.find_del_other _ hl]
  · rename_i hn
    by_cases hl : l = line
    · rw [if_pos hl, hl]
      simpa using hn
    · rw [if_neg hl]

theorem AtHomes.sysPush (s : State) (sc : Scope) (pa : Nat) : AtHomes s (s.sysPush sc pa) := by
  unfold State.sysPush
  split
  · exact hostPush ..
  · exact refl s

section
variable {s : State} {g : Nat} {sc : Scope} {x : Acc} (hx : x.tr.rein = false) (hs : s.inStack g x.va = false)
include hx hs

theorem acquireRead_eq : s.acquireRead g sc x =
    ((((s.flushLine (coreOf g) (x.tr.pa / 128)).hostOnly x.tr).sysPush sc x.tr.pa).l2For (s.codeOfCore (coreOf g)) x.tr).snoopHost x.tr.pa false := by
  simp [State.acquireRead, hx, State.stackDrop, hs]

theorem acquireRead_reads (hu : Undisturbed s (coreOf g) x.tr)
    (hc : ∀ y, (s.core (coreOf g)).l1.find (x.tr.pa / 128) = some y → y.dirty = 0) : ReadsHome s (s.acquireRead g sc x) := by
  have hflush := FreesLines.flushLine hc
  have honly := hflush.trans (FreesLines.hostOnly x.tr (hflush.rising hu.host))
  have hpush := honly.trans (FreesLines.sysPush sc x.tr.pa (honly.rising hu.host))
  have hl2 := hpush.toReadsHome.trans (ReadsHome.l2For (t := x.tr) (hpush.sliceRoom hu.slice))
  rw [acquireRead_eq hx hs, snoopHost_of_not_held false (by rw [hl2.snoop]; exact hu.snoop)]
  exact hl2

theorem find_acquireRead (hc : ∀ y, (s.core (coreOf g)).l1.find (x.tr.pa / 128) = some y → y.dirty = 0) (l : Nat) :
    ((s.acquireRead g sc x).core (coreOf g)).l1.find l = if l = x.tr.pa / 128 then none else (s.core (coreOf g)).l1.find l := by
  rw [acquireRead_eq hx hs, State.snoopHost, (AtHomes.snoopLine ..).core, (AtHomes.l2For ..).core, (AtHomes.sysPush ..).core,
    (AtHomes.hostOnly ..).core, find_flushLine_of_clean hc]

end

/-! ## The device's copies of host memory stay in rising order, and a core's mark stays -/

/-- The device's copies of host memory are in rising order where they were. -/
structure KeepsRising (s t : State) : Prop where
  keeps : s.hostL2.rising = true → t.hostL2.rising = true

namespace KeepsRising

theorem refl (s : State) : KeepsRising s s := ⟨id⟩

theorem trans {s t u : State} (h : KeepsRising s t) (k : KeepsRising t u) : KeepsRising s u := ⟨k.keeps ∘ h.keeps⟩

theorem foldl {α : Type} {f : State → α → State} (h : ∀ s a, KeepsRising s (f s a)) (l : List α) (s : State) : KeepsRising s (l.foldl f s) := by
  induction l generalizing s with
  | nil => exact refl s
  | cons a l ih => exact (h s a).trans (ih (f s a))

/-- The table of copies has not changed. -/
theorem of_same {s t : State} (h : t.hostL2 = s.hostL2) : KeepsRising s t := ⟨fun hr => h ▸ hr⟩

/-- Copies of a line have left the table. -/
theorem of_dropped {s t : State} {f : Nat → Byte → Bool} (h : t.hostL2 = s.hostL2.dropIf f) : KeepsRising s t :=
  ⟨fun hr => h ▸ Tab.rising_dropIf f hr⟩

theorem bumpDeck (s : State) (d off n : Nat) : KeepsRising s (s.bumpDeck d off n) := of_same rfl

theorem onPart (s : State) (p : Nat) (f : Part → Part) : KeepsRising s (s.onPart p f) := of_same rfl

theorem setMirror (s : State) (l : List Nat) : KeepsRising s { s with mirror := l } := of_same rfl

theorem killMarks (s : State) (line : Nat) : KeepsRising s (s.killMarks line) := of_same rfl

theorem clearPoison (s : State) (a n : Nat) : KeepsRising s (s.clearPoison a n) := of_same rfl

theorem poisonHome (s : State) (a : Nat) : KeepsRising s (s.poisonHome a) := of_same rfl

theorem bumpCore (s : State) (c off n : Nat) : KeepsRising s (s.bumpCore c off n) := ⟨(FreesLines.bumpCore s c off n).rising⟩

theorem dropPacket (s : State) (p : Nat) : KeepsRising s (s.dropPacket p) := bumpCore ..

theorem vector (s : State) (v : Nat) : KeepsRising s (s.vector v) := by
  unfold State.vector
  split <;> exact of_same rfl

theorem cause (s : State) (p b : Nat) : KeepsRising s (s.cause p b) := by
  unfold State.cause
  split
  · exact refl s
  · exact (onPart ..).trans (vector ..)

theorem hostPush (s : State) (line : Nat) : KeepsRising s (s.hostPush line) := ⟨fun hr => (FreesLines.hostPush line hr).rising hr⟩

theorem hostClean (s : State) (line : Nat) : KeepsRising s (s.hostClean line) := of_dropped (f := fun a _ => a / 128 == line) rfl

theorem rawByte (s : State) (a : Nat) (b : Byte) : KeepsRising s (s.rawByte a b) := by
  unfold State.rawByte
  split
  · exact of_same rfl
  · split
    · exact ⟨fun hr => Tab.rising_put a b hr⟩
    · exact ⟨fun hr => Tab.rising_del a hr⟩

theorem rawBytes (s : State) (a : Nat) (bs : List Byte) : KeepsRising s (s.rawBytes a bs) := by
  induction bs generalizing s a with
  | nil => exact refl s
  | cons b bs ih => exact (rawByte s a b).trans (ih ..)

theorem mirrorLine (s : State) (line : Nat) : KeepsRising s (s.mirrorLine line) := by
  unfold State.mirrorLine
  split
  · exact refl s
  · dsimp only
    split
    · exact refl s
    · refine KeepsRising.trans ?_ ((setMirror ..).trans (bumpDeck ..))
      split
      · exact refl s
      · split
        · exact (hostClean ..).trans (setMirror ..)
        · exact refl s

theorem areaPut (s : State) (p a : Nat) (bs : List Byte) : KeepsRising s (s.areaPut p a bs) := by
  unfold State.areaPut
  split
  · exact dropPacket s p
  · exact (foldl (fun s k => mirrorLine s (a / 128 + k)) _ s).trans (rawBytes ..)

theorem snapCopy (s : State) (p line : Nat) : KeepsRising s (s.snapCopy p line) := by
  unfold State.snapCopy State.snapAbandon State.areaNat
  dsimp only
  split
  · exact refl s
  · split
    · exact refl s
    · split
      · split
        · exact ((areaPut ..).trans (onPart ..)).trans (cause ..)
        · exact ((((areaPut ..).trans (areaPut ..)).trans (areaPut ..)).trans (areaPut ..)).trans (onPart ..)
      · exact (areaPut ..).trans (onPart ..)

theorem cow (s : State) (line : Nat) : KeepsRising s (s.cow line) := foldl (fun s p => snapCopy s p line) _ s

theorem homeWrite (s : State) (a : Nat) (bs : List Byte) : KeepsRising s (s.homeWrite a bs) := by
  unfold State.homeWrite
  split
  · exact refl s
  · exact ((((cow ..).trans (mirrorLine ..)).trans (killMarks ..)).trans (clearPoison ..)).trans (rawBytes ..)

theorem homeStore (s : State) (a : Nat) (bs : List Byte) : KeepsRising s (s.homeStore a bs) := foldl (fun s _ => homeWrite s _ _) _ s

theorem physSet (s : State) (p a n w : Nat) : KeepsRising s (s.physSet p a n w) := by
  unfold State.physSet
  split
  · exact homeStore ..
  · exact dropPacket s p

theorem tryPost (s : State) (p w : Nat) : KeepsRising s (s.tryPost p w) := by
  unfold State.tryPost State.postRec
  split
  · exact ((physSet ..).trans (onPart ..)).trans (cause ..)
  · exact of_same rfl

theorem homeMerge (s : State) (line : Nat) (data : List Byte) (mask : BitVec 128) : KeepsRising s (s.homeMerge line data mask) := by
  unfold State.homeMerge
  split
  · exact refl s
  · exact ((((cow ..).trans (mirrorLine ..)).trans (killMarks ..)).trans (foldl (fun _ _ => clearPoison ..) _ _)).trans
      (foldl (fun s k => rawByte s (line * 128 + k) (data.getD k 0)) _ _)

theorem hopBad (s : State) (c line : Nat) (bad : BitVec 4) : KeepsRising s (s.hopBad c line bad) :=
  foldl (fun s _ => (poisonHome s _).trans (tryPost ..)) _ s

theorem l2Touch (s : State) (p line : Nat) : KeepsRising s (s.l2Touch p line) := by
  unfold State.l2Touch
  split
  · exact refl s
  · split
    · exact of_same rfl
    · dsimp only
      split
      · exact ⟨((killMarks ..).trans (hostPush ..)).keeps⟩
      · exact refl s

theorem acceptLine (s : State) (c line : Nat) (x : Line) : KeepsRising s (s.acceptLine c line x) := by
  unfold State.acceptLine
  dsimp only
  split
  · exact refl s
  · split
    · exact bumpCore ..
    · split
      · exact refl s
      · exact ((l2Touch ..).trans (homeMerge ..)).trans (hopBad ..)

end KeepsRising

/-- The settle that a release asks of another core whose record stands at its variable (04 R91). -/
def State.settleOther (s : State) (c pa : Nat) : State :=
  match s.recs.find (recKey (s.codeOfCore c) pa) with
  | some r => if r.core != c then s.settleFrom (s.codeOfCore c) (s.lineSlice (s.codeOfCore c) pa / 96) r else s
  | none => s

theorem releaseAt_eq (s : State) (c pa : Nat) (m : Word) (sys : Bool) :
    let u := (s.settleOther c pa).flushLine c (pa / 128)
    let k := recKey (s.codeOfCore c) pa
    s.releaseAt c pa m sys =
      if (sys && isHost pa) || u.hostBias (s.codeOfCore c) pa then { u.settle c m with recs := (u.settle c m).recs.del k }
      else if u.dirFull (s.codeOfCore c) pa then
        { (u.settle c m).bumpCore c 0xA0 1 with recs := ((u.settle c m).bumpCore c 0xA0 1).recs.del k }
      else { u with recs := u.recs.put k { core := c, mark := m } } := rfl

/-- What settles and write-backs keep. -/
structure Settles (s t : State) : Prop where
  rising : KeepsRising s t
  marks  : ∀ c, (t.core c).cm = (s.core c).cm

namespace Settles

theorem refl (s : State) : Settles s s := ⟨.refl s, fun _ => rfl⟩

theorem trans {s t u : State} (h : Settles s t) (k : Settles t u) : Settles s u :=
  ⟨h.rising.trans k.rising, fun c => (k.marks c).trans (h.marks c)⟩

theorem foldl {α : Type} {f : State → α → State} (h : ∀ s a, Settles s (f s a)) (l : List α) (s : State) : Settles s (l.foldl f s) := by
  induction l generalizing s with
  | nil => exact refl s
  | cons a l ih => exact (h s a).trans (ih (f s a))

theorem of_reads {s t : State} (h : ReadsHome s t) : Settles s t := ⟨⟨h.rising⟩, fun c => (congrArg Core.cm (h.cores c) :)⟩

theorem of_atHomes {s t : State} (h : AtHomes s t) (k : KeepsRising s t) : Settles s t := ⟨k, fun c => congrArg Core.cm (h.core c)⟩

theorem onCore (s : State) (c : Nat) {f : Core → Core} (h : (f (s.core c)).cm = (s.core c).cm) : Settles s (s.onCore c f) := by
  refine ⟨.of_same rfl, fun k => ?_⟩
  by_cases hk : k = c
  · subst hk
    rw [State.core_onCore_self, h]
  · rw [State.core_onCore_other _ _ hk]

theorem bumpCore (s : State) (c off n : Nat) : Settles s (s.bumpCore c off n) := of_reads (FreesLines.bumpCore ..).toReadsHome

theorem wbLine (s : State) (c line : Nat) : Settles s (s.wbLine c line) := by
  unfold State.wbLine
  split
  · exact refl s
  · split
    · exact refl s
    · exact (of_atHomes (AtHomes.acceptLine ..) (KeepsRising.acceptLine ..)).trans (onCore _ _ rfl)

theorem flushLine (s : State) (c line : Nat) : Settles s (s.flushLine c line) := by
  unfold State.flushLine
  split
  · exact (wbLine ..).trans (of_reads (FreesLines.dropLine ..).toReadsHome)
  · exact refl s

theorem writeBackIf (s : State) (c : Nat) (f : Nat → Line → Bool) : Settles s (s.writeBackIf c f) := foldl (fun s l => wbLine s c l) _ s

theorem withRecs {s t : State} (h : Settles s t) (r : Tab Rec) : Settles s { t with recs := r } := ⟨⟨h.rising.keeps⟩, h.marks⟩

theorem settle (s : State) (c : Nat) (m : Word) : Settles s (s.settle c m) := by
  unfold State.settle
  split
  · exact refl s
  · have hwb := (writeBackIf s c (fun _ x => markLe x.stamp m)).trans (onCore _ c (f := fun k => { k with settled := m }) rfl)
    exact (hwb.withRecs _).trans ((bumpCore ..).trans (bumpCore ..))

theorem settleFrom (s : State) (p d : Nat) (r : Rec) : Settles s (s.settleFrom p d r) := by
  unfold State.settleFrom
  split
  · exact settle ..
  · exact bumpCore ..

theorem settleOther (s : State) (c pa : Nat) : Settles s (s.settleOther c pa) := by
  unfold State.settleOther
  split
  · split
    · exact settleFrom ..
    · exact refl s
  · exact refl s

theorem releaseAt (s : State) (c pa : Nat) (m : Word) (sys : Bool) : Settles s (s.releaseAt c pa m sys) := by
  have hflush := (settleOther s c pa).trans (flushLine _ c (pa / 128))
  rw [releaseAt_eq]
  split
  · exact (hflush.trans (settle ..)).withRecs _
  · split
    · exact ((hflush.trans (settle ..)).trans (bumpCore ..)).withRecs _
    · exact hflush.withRecs _

end Settles

theorem g64_natCast (n : Nat) : g64 (n : Int) = BitVec.ofNat 64 n := by simp [g64]

theorem Tab.find_filter_none {α : Type} {t : Tab α} (f : Nat × α → Bool) {k : Nat} (h : Tab.find t k = none) : Tab.find (t.filter f) k = none := by
  induction t with
  | nil => rfl
  | cons e t ih =>
    obtain ⟨j, x⟩ := e
    by_cases hj : j = k
    · simp [Tab.find, hj] at h
    · simp only [Tab.find, beq_iff_eq, hj, if_false] at h
      rw [List.filter_cons]
      split <;> simp [Tab.find, hj, ih h]

section
variable {s s1 u : State} {g : Nat} {d : GReg} {sc : Scope} {x : Acc}

theorem acquireAt_waits (h : (s.reinWait g x.tr 8 || (sc == .rein && s.reinStale g)) = true) : acquireAt s g d sc x = waitC s g .latency := if_pos h

theorem acquireAt_reads (hw : s.reinWait g x.tr 8 = false) (hs : sc = .rein → s.reinStale g = false) :
    acquireAt s g d sc x = acquireIn (s.acquireRead g sc x) g d x := by
  refine if_neg (Bool.eq_false_iff.1 ?_)
  simpa [hw] using hs

theorem reinWait_of_home {n : Nat} {t : Tr} (hx : t.rein = false) : s.reinWait g t n = false := by simp [State.reinWait, hx]

theorem reinStale_of_not_waiting {n : Nat} {t : Tr} (hx : t.rein = true) (h : s.reinWait g t n = false) : s.reinStale g = false := by
  simp only [State.reinWait, hx, Bool.true_and, Bool.or_eq_false_iff] at h
  exact h.1

/-- An acquire that reads its variable at the home. -/
theorem acquireIn_home (hx : x.tr.rein = false) (hu : ReadsHome s u) :
    acquireIn u g d x = if s.poisonedIn (s.codeOfCore (coreOf g)) x.tr.pa 8 then .error (trapAt cCHECKFAIL 0 none x.va)
      else acquireEnd u g d (BitVec.ofNat 64 (s.homeNat x.tr.pa 8)) x := by
  rw [acquireIn, hu.codeOfCore, hu.poisonedIn, hu.homeBytes, hx]
  rfl

/-- An acquire that reads its variable in the deck's replica. -/
theorem acquireIn_rein (hx : x.tr.rein = true) :
    acquireIn (s.acquireRead g sc x) g d x = if s.replicaBad (deckOf g) x.tr.pa 8 then .error (trapAt cCHECKFAIL 0 none x.va)
      else acquireEnd s g d (BitVec.ofNat 64 (ofBytes (s.replica (deckOf g) x.tr.pa 8))) x := by
  have hr : s.acquireRead g sc x = s := if_pos hx
  rw [hr, acquireIn, hx]
  rfl

theorem varRec_home (hx : x.tr.rein = false) : s.varRec g x.tr = s.foreignRec (coreOf g) x.tr.pa := by simp [State.varRec, hx]
theorem varOwn_home (hx : x.tr.rein = false) : s.varOwn g x.tr = s.ownRec (coreOf g) x.tr.pa := by simp [State.varOwn, hx]
theorem varRec_rein (hx : x.tr.rein = true) : s.varRec g x.tr = s.reinRec (deckOf g) (coreOf g) x.tr.pa := by simp [State.varRec, hx]
theorem varOwn_rein (hx : x.tr.rein = true) : s.varOwn g x.tr = s.reinOwn (deckOf g) (coreOf g) x.tr.pa := by simp [State.varOwn, hx]

/-- A line that is not in the L1 is not there after an acquire either. -/
theorem find_acquired_none {t : Tr} {line : Nat} (h : (u.core (coreOf g)).l1.find line = none) :
    ((u.acquired g t).core (coreOf g)).l1.find line = none := by
  unfold State.acquired
  split
  · exact h
  · rw [core_invShared]
    exact (Tab.find_map _ (fun k y => if y.priv then y else u.refreshed (coreOf g) k y) line).trans
      (congrArg (Option.map _) (Tab.find_filter_none _ h))

end

/-! ## Releases (08 R192, 04 R91, R109) -/

section
variable {s s1 : State} {src a : GReg} {bn : Slot} {off : BitVec 10} {sc : Scope} {b : BufRec} {t : Tr}

theorem exec_rel_wide (hsc : wideScope sc = true) (h : CtlAcc s bn ((s.rg s.cur a).toInt + 8 * off.toInt) 8 .store b s1 t) :
    exec (.rel src a bn off sc) s = runCtrl s (fun _ =>
      relStore s1 s.cur (ctlAccess b ((s.rg s.cur a).toInt + 8 * off.toInt) 8 t) sc (toBytes 8 (s.rg s.cur src).toNat)
        >>= fun u => pure (u.adv s.cur 8)) := by
  refine (exec_rel ..).trans (runCtrl_congr ?_)
  have hck : ctlCheck s s.cur a bn off 8 .store anyPage = .ok (s1, ctlAccess b ((s.rg s.cur a).toInt + 8 * off.toInt) 8 t) :=
    ctlCheck_of_ctlAcc (w := 8) h rfl
  simp only [hck, hsc, bind, Except.bind, if_true, (traffic_of_ctlAcc h).rg]

end

section
variable {s : State} {g : Nat} {x : Acc} {sc : Scope} {bs : List Byte}

theorem relStore_waits (h : s.reinEarlier g false = true ∨ (x.tr.rein || sc == .rein) = true ∧ s.reinStale g = true) :
    relStore s g x sc bs = waitC s g .latency := if_pos (by simpa using h)

/-- A state where there is one, and the wait as latency where there is none. -/
def orLatency (s : State) (g : Nat) (r : Option State) : R State :=
  match r with
  | some t => .ok t
  | none => waitC s g .latency

/-- The window write of a release. -/
def releaseWrite (s : State) (g : Nat) (x : Acc) (bs : List Byte) : RWrite :=
  { reinWrite s g false x.tr.pa 2 0 (lineWords (x.tr.pa % 128) bs).2 (lineWords (x.tr.pa % 128) bs).1 .none with mark := (s.core (coreOf g)).cm }

theorem relStore_rein (hx : x.tr.rein = true) (he : s.reinEarlier g false = false) (hs : s.reinStale g = false) :
    relStore s g x sc bs = if (s.deck (deckOf g)).sendQ.length < 64 then .ok (s.sentRein g true (releaseWrite s g x bs)) else waitC s g .latency := by
  rw [relStore, if_neg (by simp [he, hs]), if_pos hx]
  have hsend := sendRein_marked s g true (releaseWrite s g x bs)
  by_cases hq : (s.deck (deckOf g)).sendQ.length < 64
  · rw [if_pos hq]
    exact congrArg (orLatency s g) (hsend.trans (if_pos hq))
  · rw [if_neg hq]
    exact congrArg (orLatency s g) (hsend.trans (if_neg hq))

end

/-! ## Bytes of numbers, and stores within a line -/

@[simp] theorem length_toBytes (n w : Nat) : (toBytes n w).length = n := by
  induction n generalizing w with
  | zero => rfl
  | succ n ih => simp [toBytes, ih]

theorem ofBytes_toBytes (n w : Nat) : ofBytes (toBytes n w) = w % 2 ^ (8 * n) := by
  induction n generalizing w with
  | zero => simp [toBytes, ofBytes, Nat.mod_one]
  | succ n ih =>
    have hp : 2 ^ (8 * (n + 1)) = 256 * 2 ^ (8 * n) := by rw [Nat.mul_succ, Nat.pow_add]; ring
    rw [toBytes, ofBytes, ih, hp, Nat.mod_mul, BitVec.toNat_ofNat]

/-- A write at a home stores its bytes over what the copy of a snapshot and the mirror leave; they change nothing where none runs. -/
theorem storedAt_homeWrite_over (s : State) (pa : Nat) (bs : List Byte) :
    ∃ u, StoredAt u (s.homeWrite pa bs) pa bs ∧ (NoSnap s → s.hostL2.rising = true → ∀ a, u.homeByte a = s.homeByte a) := by
  unfold State.homeWrite
  split
  · rename_i hb
    rw [List.isEmpty_iff.1 hb]
    exact ⟨s, storedAt_rawBytes s pa [], fun _ _ _ => rfl⟩
  · refine ⟨_, storedAt_rawBytes _ pa bs, fun hn hr a => ?_⟩
    rw [cow_of_noSnap hn]
    exact homeByte_mirrorLine _ hr a

theorem homeStore_in_line (s : State) {pa : Nat} {bs : List Byte} (h0 : bs ≠ []) (h : pa % 128 + bs.length ≤ 128) :
    s.homeStore pa bs = s.homeWrite pa bs := by
  have hlen := List.length_pos_iff.2 h0
  have hn : (pa % 128 + bs.length + 127) / 128 = 1 := by omega
  have htake : bs.take ((pa / 128 + 0 + 1) * 128 - pa) = bs := List.take_of_length_le (by omega)
  simp [State.homeStore, hn, htake]

/-! ## Releases outside the window -/

/-- The state in which a release outside the window stores its value. -/
def State.releasing (s : State) (g : Nat) (x : Acc) (sc : Scope) : State :=
  (((s.stackDrop g x).l2For (s.codeOfCore (coreOf g)) x.tr).snoopHost x.tr.pa true).releaseSteps (coreOf g) x.tr.pa (sc == .sys)

/-- The state after a release outside the window. -/
def State.released (s : State) (g : Nat) (x : Acc) (sc : Scope) (bs : List Byte) : State :=
  (((s.releasing g x sc).homeStore x.tr.pa bs).hostOnly x.tr).sysPush sc x.tr.pa

theorem Traffic.releaseAt (s : State) (c pa : Nat) (m : Word) (sys : Bool) : Traffic s (s.releaseAt c pa m sys) := by
  have hother : Traffic s (s.settleOther c pa) := by
    unfold State.settleOther State.settleFrom
    split
    · split
      · split
        · exact settle ..
        · exact of_atHomes (AtHomes.of_homeFrame (HomeFrame.dropPacket ..))
      · exact refl s
    · exact refl s
  have hflush := hother.trans (flushLine _ c (pa / 128))
  rw [releaseAt_eq]
  split
  · exact (hflush.trans (settle ..)).trans (of_atHomes (AtHomes.setRecs ..))
  · split
    · exact ((hflush.trans (settle ..)).trans (of_atHomes (AtHomes.bumpCore ..))).trans (of_atHomes (AtHomes.setRecs ..))
    · exact hflush.trans (of_atHomes (AtHomes.setRecs ..))

section
variable {s : State} {g : Nat} {x : Acc} {sc : Scope} {bs : List Byte}

theorem relStore_home (hx : x.tr.rein = false) (he : s.reinEarlier g false = false) (hs : sc = .rein → s.reinStale g = false) :
    relStore s g x sc bs = .ok (s.released g x sc bs) := by
  rw [relStore, if_neg (by simpa [he, hx] using hs), if_neg (by simp [hx])]
  rfl

variable (hstack : s.inStack g x.va = false) (hu : Undisturbed s (coreOf g) x.tr)
include hstack hu

/-- The record steps begin where the line is in its slice and the core's mark has been taken. -/
theorem releasing_eq : ∃ t, ReadsHome s t ∧ AtHomes s t ∧
    s.releasing g x sc =
      (t.onCore (coreOf g) (fun c => { c with cm := c.cm + 1 })).releaseAt (coreOf g) x.tr.pa (s.core (coreOf g)).cm (sc == .sys) := by
  have hl2 : ReadsHome s (s.l2For (s.codeOfCore (coreOf g)) x.tr) := ReadsHome.l2For hu.slice
  have hat := AtHomes.l2For s (s.codeOfCore (coreOf g)) x.tr
  refine ⟨_, hl2, hat, ?_⟩
  have hdrop : s.stackDrop g x = s := by simp [State.stackDrop, hstack]
  rw [State.releasing, hdrop, snoopHost_of_not_held true (by rw [hl2.snoop]; exact hu.snoop), ← hat.core]
  rfl

theorem releasing_rising : (s.releasing g x sc).hostL2.rising = true := by
  obtain ⟨t, ht, hc, he⟩ := releasing_eq (sc := sc) hstack hu
  rw [he]
  exact (Settles.releaseAt ..).rising.keeps (ht.rising hu.host)

theorem releasing_cm : ((s.releasing g x sc).core (coreOf g)).cm = (s.core (coreOf g)).cm + 1 := by
  obtain ⟨t, ht, hc, he⟩ := releasing_eq (sc := sc) hstack hu
  rw [he, (Settles.releaseAt ..).marks, State.core_onCore_self, hc.core]

theorem traffic_releasing : Traffic s (s.releasing g x sc) := by
  obtain ⟨t, ht, hc, he⟩ := releasing_eq (sc := sc) hstack hu
  rw [he]
  exact (ht.traffic.trans (traffic_mark t (coreOf g))).trans (Traffic.releaseAt ..)

/-- The state after the store, but for where the bytes of host memory stand. -/
theorem released_reads : ReadsHome ((s.releasing g x sc).homeStore x.tr.pa bs) (s.released g x sc bs) := by
  have hr := (KeepsRising.homeStore (s.releasing g x sc) x.tr.pa bs).keeps (releasing_rising hstack hu)
  have honly := FreesLines.hostOnly x.tr hr
  exact (honly.trans (FreesLines.sysPush sc x.tr.pa (honly.rising hr))).toReadsHome

theorem traffic_released : Traffic s (s.released g x sc bs) :=
  ((traffic_releasing hstack hu).trans (Traffic.of_atHomes (AtHomes.of_homeFrame (HomeFrame.homeStore ..)))).trans
    (released_reads hstack hu).traffic

theorem released_cm : ((s.released g x sc bs).core (coreOf g)).cm = (s.core (coreOf g)).cm + 1 := by
  have hread := (congrArg Core.cm ((released_reads (bs := bs) (sc := sc) hstack hu).cores (coreOf g)) :)
  have hstore := congrArg Core.cm ((AtHomes.of_homeFrame (HomeFrame.homeStore (s.releasing g x sc) x.tr.pa bs)).core (coreOf g))
  exact (hread.trans hstore).trans (releasing_cm hstack hu)

/-- The value is stored, over what the record steps, the copy of a snapshot and the mirror leave. -/
theorem storedAt_released_over (h0 : bs ≠ []) (hline : x.tr.pa % 128 + bs.length ≤ 128) :
    ∃ u, StoredAt u (s.released g x sc bs) x.tr.pa bs ∧ (NoSnap (s.releasing g x sc) → ∀ a, u.homeByte a = (s.releasing g x sc).homeByte a) := by
  obtain ⟨u, hu', hsame⟩ := storedAt_homeWrite_over (s.releasing g x sc) x.tr.pa bs
  rw [← homeStore_in_line _ h0 hline] at hu'
  exact ⟨u, storedAt_then_same hu' (released_reads hstack hu).bytes, fun hn => hsame hn (releasing_rising hstack hu)⟩

/-- With no record at the variable, no line of it in the L1, and room in the directory, the record is the core's. -/
theorem releasing_records (hr : s.recs.find (recKey (s.codeOfCore (coreOf g)) x.tr.pa) = none)
    (hl : (s.core (coreOf g)).l1.find (x.tr.pa / 128) = none) (hsys : sc = .sys → isHost x.tr.pa = false)
    (hb : s.hostBias (s.codeOfCore (coreOf g)) x.tr.pa = false) (hd : s.dirFull (s.codeOfCore (coreOf g)) x.tr.pa = false) :
    (s.releasing g x sc).recs.find (recKey (s.codeOfCore (coreOf g)) x.tr.pa) = some { core := coreOf g, mark := (s.core (coreOf g)).cm }
      ∧ (∀ a, (s.releasing g x sc).homeByte a = s.homeByte a) ∧ ∀ p, (s.releasing g x sc).part p = s.part p := by
  obtain ⟨t, ht, hc, he⟩ := releasing_eq (sc := sc) hstack hu
  let v := t.onCore (coreOf g) (fun c => { c with cm := c.cm + 1 })
  have hk : recKey (v.codeOfCore (coreOf g)) x.tr.pa = recKey (s.codeOfCore (coreOf g)) x.tr.pa :=
    congrArg (fun p => recKey p x.tr.pa) (ht.codeOfCore (coreOf g))
  have hfind : v.recs.find (recKey (v.codeOfCore (coreOf g)) x.tr.pa) = none := by
    rw [hk]
    exact (congrArg (fun r => Tab.find r _) ht.recs).trans hr
  have hother : v.settleOther (coreOf g) x.tr.pa = v := by rw [State.settleOther, hfind]
  have hnone : (v.core (coreOf g)).l1.find (x.tr.pa / 128) = none := by
    rw [State.core_onCore_self, hc.core]
    exact hl
  have hflush : v.flushLine (coreOf g) (x.tr.pa / 128) = v := if_neg (by simp [hnone])
  have hbias : v.hostBias (v.codeOfCore (coreOf g)) x.tr.pa = false := by
    rw [show v.codeOfCore (coreOf g) = s.codeOfCore (coreOf g) from ht.codeOfCore _]
    exact (ht.hostBias (s.codeOfCore (coreOf g)) x.tr.pa).trans hb
  have hfull : v.dirFull (v.codeOfCore (coreOf g)) x.tr.pa = false := by
    rw [show v.codeOfCore (coreOf g) = s.codeOfCore (coreOf g) from ht.codeOfCore _]
    exact (ht.dirFull (s.codeOfCore (coreOf g)) x.tr.pa).trans hd
  have hhost : (sc == .sys && isHost x.tr.pa) = false := by simpa using hsys
  have hput : s.releasing g x sc =
      { v with recs := v.recs.put (recKey (v.codeOfCore (coreOf g)) x.tr.pa) { core := coreOf g, mark := (s.core (coreOf g)).cm } } := by
    rw [he, releaseAt_eq, hother, hflush, if_neg (by rw [hhost]; exact Bool.eq_false_iff.1 hbias), if_neg (Bool.eq_false_iff.1 hfull)]
  rw [hput]
  refine ⟨?_, ht.bytes, ht.part⟩
  rw [hk]
  exact Tab.find_put_self ..

end

end Sys2Proof.Machine

namespace Sys2Proof

open Sys2Proof.Machine

/-- Settles O25: by what the read at the home and the record steps leave, for each of the places of the variable. -/
theorem acquireRelease : Obligations.AcquireRelease := by
  unfold Obligations.AcquireRelease
  refine ⟨?_, ?_, ?_⟩
  · intro s s1 d a bn off sc b t hsc o h hu hhome hstack hstale c line i v hclean
    have hx : (ctlAccess b o 8 t).tr.rein = false := by simpa [ctlAccess, Tr.rein] using hhome
    have hread := acquireRead_reads (sc := sc) hx hstack hu hclean
    have he : exec i s = runCtrl s (fun _ => if s1.poisonedIn (s1.codeOfCore c) t.pa 8 then .error (trapAt cCHECKFAIL 0 none (b.address o).toNat)
        else acquireEnd (s1.acquireRead s.cur sc (ctlAccess b o 8 t)) s.cur d v (ctlAccess b o 8 t)) := by
      refine (exec_acq_wide hsc h).trans (runCtrl_congr ?_)
      exact (acquireAt_reads (reinWait_of_home hx) hstale).trans (acquireIn_home hx hread)
    have ht := traffic_of_ctlAcc h
    refine ⟨fun hp => ctlTraps_of_error h.ongrp he (by rw [if_pos hp, trapAt, g64_natCast]; rfl), fun hp => ⟨fun hr hb => ?_, fun r hr hn => ?_⟩⟩
    · obtain ⟨z, hz, hreg, hpast, hframe, hlines, hshared⟩ := acquireEnd_goes (v := v) (x := ctlAccess b o 8 t) ht hread
        (by rw [varRec_home hx, hread.foreignRec]; exact hr) hb
      rw [varOwn_home hx, hread.ownRec] at hshared
      refine ⟨z, he.trans (runCtrl_ok (by rw [if_neg (by simp [hp]), hz])), hreg, hpast, hframe, ?_, fun ho l hl => ?_, hshared⟩
      · rw [hlines]
        exact find_acquired_none (by rw [find_acquireRead hx hstack hclean]; exact if_pos rfl)
      · have hown : (s1.acquireRead s.cur sc (ctlAccess b o 8 t)).varOwn s.cur (ctlAccess b o 8 t).tr = true := by
          rw [varOwn_home hx, hread.ownRec]
          exact ho
        rw [hlines, State.acquired, if_pos hown, find_acquireRead hx hstack hclean]
        exact if_neg hl
    · obtain ⟨z, hz, hasks⟩ := acquireEnd_asks (d := d) (v := v) (x := ctlAccess b o 8 t) ht hread
        (by rw [varRec_home hx, hread.foreignRec]; exact hr) hn
      exact ⟨z, he.trans (runCtrl_wait (by rw [if_neg (by simp [hp]), hz])), hasks⟩
  · intro s s1 d a bn off sc b t hsc hhome o c k
    have hx : (ctlAccess b o 8 t).tr.rein = true := by simpa [ctlAccess, Tr.rein] using hhome
    refine ⟨?_, ?_⟩
    · intro h i v
      have he := exec_acq_wide (d := d) hsc h
      have ht := traffic_of_ctlAcc h
      refine ⟨fun hw => he.trans (runCtrl_wait (acquireAt_waits (by simp only [hw, Bool.true_or, ctlAccess]))), fun hw hbad => ?_, fun hw hgood => ?_⟩
      · have hr := (acquireAt_reads (d := d) (sc := sc) (x := ctlAccess b o 8 t) hw (fun _ => reinStale_of_not_waiting hx hw)).trans
          (acquireIn_rein hx)
        exact ctlTraps_of_error h.ongrp he (by rw [hr]; exact (if_pos hbad).trans (by rw [trapAt, g64_natCast]; rfl))
      · have hr : acquireAt s1 s.cur d sc (ctlAccess b o 8 t) = acquireEnd s1 s.cur d v (ctlAccess b o 8 t) :=
          ((acquireAt_reads (d := d) (sc := sc) (x := ctlAccess b o 8 t) hw (fun _ => reinStale_of_not_waiting hx hw)).trans
            (acquireIn_rein hx)).trans (if_neg (Bool.eq_false_iff.1 hgood))
        refine ⟨fun hn hb => ?_, fun r hr' hn => ?_⟩
        · obtain ⟨z, hz, hreg, hpast, hframe, hlines, hshared⟩ := acquireEnd_goes (x := ctlAccess b o 8 t) ht (ReadsHome.refl s1)
            (by rw [varRec_rein hx]; exact hn) hb
          rw [varOwn_rein hx] at hshared
          refine ⟨z, he.trans (runCtrl_ok (hr.trans hz)), hreg, hpast, hframe, fun ho => ?_, hshared⟩
          rw [hlines, State.acquired, if_pos (by rw [varOwn_rein hx]; exact ho)]
        · obtain ⟨z, hz, hasks⟩ := acquireEnd_asks (d := d) (v := v) (x := ctlAccess b o 8 t) ht (ReadsHome.refl s1)
            (by rw [varRec_rein hx]; exact hr') hn
          exact ⟨z, he.trans (runCtrl_wait (hr.trans hz)), hasks⟩
    · intro h i q w
      have he := exec_rel_wide (src := d) hsc h
      have ht := traffic_of_ctlAcc h
      refine ⟨fun hw => ?_, fun hearly hs hq => ?_⟩
      · refine he.trans (runCtrl_wait ?_)
        by_cases hw' : s1.reinEarlier s.cur false = true ∨ s1.reinStale s.cur = true
        · rw [relStore_waits (hw'.imp_right (fun e => ⟨by rw [hx]; rfl, e⟩))]
          rfl
        · simp only [not_or, Bool.not_eq_true] at hw'
          have hq : ¬ q.length < 64 := by
            rcases hw with hw | hw | hw
            · simp [hw'] at hw
            · simp [hw'] at hw
            · omega
          rw [relStore_rein hx hw'.1 hw'.2, if_neg hq]
          rfl
      · let y := releaseWrite s1 s.cur (ctlAccess b o 8 t) (toBytes 8 (s.rg s.cur d).toNat)
        let z := s1.sentRein s.cur true y
        have hgrp (g : Nat) : z.grp g = s.grp g := (sentRein_grp ..).trans (ht.grp g)
        refine ⟨z.adv s.cur 8, he.trans (runCtrl_ok ?_), past_adv (congrArg Group.pc (hgrp _)) 8, sentRein_cm s1 s.cur true y, fun r => ?_,
          sentRein_sendQ s1 s.cur true y, fun g hg => (State.grp_onGrp_other _ _ hg).trans (hgrp g), sentRein_homeByte s1 s.cur true y⟩
        · rw [relStore_rein hx hearly hs, if_pos hq]
          rfl
        · rw [rg_adv, sentRein_rg, ht.rg]
  · intro s s1 src a bn off sc b t hsc o h hu hhome hstack c i line k
    have hx : (ctlAccess b o 8 t).tr.rein = false := by simpa [ctlAccess, Tr.rein] using hhome
    have he := exec_rel_wide (src := src) hsc h
    refine ⟨fun hearly => he.trans (runCtrl_wait (by rw [relStore_waits (.inl hearly)]; rfl)), fun hearly hs => ?_⟩
    let x := ctlAccess b o 8 t
    let bs := toBytes 8 (s.rg s.cur src).toNat
    have ht := (traffic_of_ctlAcc h).trans (traffic_released (sc := sc) (bs := bs) (x := x) hstack hu)
    have hlen : bs.length = 8 := length_toBytes ..
    have hline : x.tr.pa % 128 + bs.length ≤ 128 := by
      have hp : x.tr.pa % 8 = 0 := h.phys
      omega
    obtain ⟨v, hv, hsame⟩ := storedAt_released_over (sc := sc) (x := x) hstack hu (List.ne_nil_of_length_pos (by omega)) hline
    have hval : (s1.released s.cur x sc bs).homeNat t.pa 8 = (s.rg s.cur src).toNat := by
      have hb := homeBytes_of_storedAt hv
      rw [hlen] at hb
      rw [State.homeNat, show t.pa = x.tr.pa from rfl, hb, ofBytes_toBytes]
      exact Nat.mod_eq_of_lt (s.rg s.cur src).isLt
    refine ⟨(s1.released s.cur x sc bs).adv s.cur 8, he.trans (runCtrl_ok (by rw [relStore_home hx hearly hs]; rfl)),
      past_adv (congrArg Group.pc (ht.grp _)) 8, hval, fun r => by rw [rg_adv, ht.rg],
      fun g hg => (State.grp_onGrp_other _ _ hg).trans (ht.grp g), released_cm hstack hu, fun hr hl hsys hb hd => ?_⟩
    obtain ⟨hrec, hbytes, hpart⟩ := releasing_records (sc := sc) (x := x) hstack hu hr hl hsys hb hd
    have hrecs : (s1.released s.cur x sc bs).recs = (s1.releasing s.cur x sc).recs :=
      (released_reads hstack hu).recs.trans (congrArg State.recs (HomeFrame.homeStore (s1.releasing s.cur x sc) x.tr.pa bs).rest :)
    refine ⟨(congrArg (fun r => Tab.find r k) hrecs).trans hrec, fun hn => ?_⟩
    have hquiet := hsame (fun p => by rw [hpart]; exact hn p)
    exact storedAt_of_same hv (fun p => (hquiet p).trans (hbytes p))

end Sys2Proof
end

section
/-! Host streams, multicasts and histograms (11 R258 to R262, 04 R96, R104, 05 R131). -/

namespace Sys2Proof.Machine

open Sys2Proof

/-! ## Registers of pairs and quads, and fields of command words (11 R247) -/

theorem bits_eq (w lo n : Nat) : bits w lo n = w / 2 ^ lo % 2 ^ n := by rw [bits, Nat.shiftRight_eq_div_pow]

theorem rgN_add (s : State) (g : Nat) (r : GReg) (n : Nat) : s.rgN g (r.toNat + n) = s.rg g (r + BitVec.ofNat 6 n) := by
  rw [State.rgN, BitVec.ofNat_add, BitVec.ofNat_toNat, BitVec.setWidth_eq]

theorem rg2_eq (s : State) (g : Nat) (r : GReg) : s.rg2 g r = s.rg g (r + 1) := rgN_add s g r 1

theorem pairOk_of_even {r : GReg} (h : r.toNat % 2 = 0) : pairOk r = .ok () := by simp [pairOk, legal, need, h]

theorem legal_of {b : Bool} (h : b = true) : legal b = .ok () := if_pos h
theorem need_of {b : Bool} (code : Nat) (h : b = true) : need b code = .ok () := if_pos h
theorem bits_zero (w n : Nat) : bits w 0 n = w % 2 ^ n := by rw [bits_eq, pow_zero, Nat.div_one]
theorem bits_zero_of_lt {w n : Nat} (h : w < 2 ^ n) : bits w 0 n = w := by rw [bits_zero, Nat.mod_eq_of_lt h]
theorem awBounds_of {n o : Nat} (h : o + 16 ≤ n) : awBounds n o = .ok () := if_neg (by omega)
theorem awAlign_of {o : Nat} (h : o % 16 = 0) : awAlign o = .ok () := if_neg (by rw [h]; decide)

/-! ## Commands that become outstanding -/

/-- Only the range tables of cores have changed. -/
structure LocksOnly (s t : State) : Prop where
  cores : ∀ c, { t.core c with locks := [] } = { s.core c with locks := [] }
  rest  : { t with cores := [] } = { s with cores := [] }

theorem LocksOnly.trans {s t u : State} (h : LocksOnly s t) (k : LocksOnly t u) : LocksOnly s u :=
  ⟨fun c => (k.cores c).trans (h.cores c), k.rest.trans h.rest⟩

theorem LocksOnly.addLock (s : State) (c : Nat) (e : LockE) : LocksOnly s (s.addLock c e) := by
  refine ⟨fun d => ?_, rfl⟩
  by_cases hd : d = c
  · rw [hd, State.addLock, State.core_onCore_self]
  · rw [State.addLock, State.core_onCore_other _ _ hd]

theorem locksOnly_of_registerLocks {s t : State} {l : List (Nat × LockE)} (h : s.registerLocks l = some t) : LocksOnly s t := by
  have hfold (l : List (Nat × LockE)) (s : State) : LocksOnly s (l.foldl (fun s e => s.addLock e.1 e.2) s) := by
    induction l generalizing s with
    | nil => exact ⟨fun _ => rfl, rfl⟩
    | cons e l ih => exact (LocksOnly.addLock s e.1 e.2).trans (ih _)
  rw [State.registerLocks] at h
  split at h
  · rw [← Option.some.inj h]
    exact hfold l s
  · cases h

section
variable {s t : State} (h : LocksOnly s t)
include h

theorem LocksOnly.grp (g : Nat) : t.grp g = s.grp g := (congrArg (fun s : State => s.grp g) h.rest :)
theorem LocksOnly.rg (g : Nat) (r : GReg) : t.rg g r = s.rg g r := by
  have hb : t.bank g = s.bank g := congrArg (fun x => Tab.get x bankEmpty (bayOf g)) (congrArg Core.banks (h.cores (coreOf g)) :)
  have hi : t.inBank g = s.inBank g := by simp only [State.inBank, h.grp]
  simp only [State.rg, hi, h.grp, hb]

end

/-- The state in which a command is outstanding on its core, before the control stream goes on. -/
def State.withCmd (s : State) (c : Nat) (x : Cmd) : State := s.tick.onCore c (fun k => { k with cmds := k.cmds.put s.freeCtr x })

theorem State.core_withCmd_self (s : State) (c : Nat) (x : Cmd) :
    (s.withCmd c x).core c = { s.core c with cmds := (s.core c).cmds.put s.freeCtr x } := State.core_onCore_self s.tick c _

theorem State.core_withCmd_other (s : State) {c k : Nat} (x : Cmd) (h : k ≠ c) : (s.withCmd c x).core k = s.core k :=
  State.core_onCore_other s.tick _ h

theorem State.rg_withCmd (s : State) (c : Nat) (x : Cmd) (g : Nat) (r : GReg) : (s.withCmd c x).rg g r = s.rg g r := by
  have hb : ((s.withCmd c x).core (coreOf g)).banks = (s.core (coreOf g)).banks := by
    by_cases hc : coreOf g = c
    · rw [hc, core_withCmd_self]
    · rw [core_withCmd_other _ _ hc]
  have hbank : (s.withCmd c x).bank g = s.bank g := congrArg (fun x => Tab.get x bankEmpty (bayOf g)) hb
  have hin : (s.withCmd c x).inBank g = s.inBank g := rfl
  have hgrp : (s.withCmd c x).grp g = s.grp g := rfl
  simp only [State.rg, hin, hgrp, hbank]

/-- A word that makes a command outstanding. -/
theorem addsCmd_of_next {s s2 : State} {i : Instr} {x : Cmd} (he : exec i s = .next (addCmd s2 s.cur x)) (hg : ∀ g, s2.grp g = s.grp g)
    (hr : ∀ r, s2.rg s.cur r = s.rg s.cur r) : AddsCmd s s2 i x := by
  have hself : (addCmd s2 s.cur x).core (coreOf s.cur) = { s2.core (coreOf s.cur) with cmds := (s2.core (coreOf s.cur)).cmds.put s2.freeCtr x } :=
    State.core_withCmd_self ..
  refine ⟨_, he, ?_, ?_, fun k hk => ?_, fun r => ?_, fun g hne => State.grp_onGrp_other (s2.withCmd _ x) _ hne, ?_,
    fun k hk => State.core_withCmd_other _ _ hk, rfl, rfl⟩
  · rw [hself]
    exact Tab.find_put_self ..
  · exact past_adv (u := s2.withCmd (coreOf s.cur) x) (congrArg Group.pc (hg s.cur)) 4
  · rw [hself]
    exact Tab.find_put_other _ _ hk
  · exact (rg_adv (s2.withCmd _ x) ..).trans ((State.rg_withCmd ..).trans (hr r))
  · rw [hself]

theorem newCmd_of_team {s t : State} {g : Nat} (h : (t.grp g).team = (s.grp g).team) (k : CmdKind) (a b : Place) :
    newCmd t g k a b = newCmd s g k a b := by rw [newCmd, newCmd, h]

theorem lockOrWait_some {s t : State} {l : List (Nat × LockE)} (g : Nat) (h : s.registerLocks l = some t) : lockOrWait s g l = .ok t := by
  rw [lockOrWait, h]

theorem lockOrWait_none {s : State} {l : List (Nat × LockE)} (g : Nat) (h : s.registerLocks l = none) : lockOrWait s g l = waitC s g .batch := by
  rw [lockOrWait, h]

theorem Traffic.engineL1 (s : State) (g : Nat) (src dst : List Acc) (srcR dstR : List (Nat × Nat)) :
    Traffic s (engineL1 s g src dst srcR dstR) :=
  (Traffic.foldl (fun s l => wbLine s (coreOf g) l) _ s).trans (Traffic.foldl (fun s l => flushLine s (coreOf g) l) _ _)

/-! ## Write-backs keep the layout of the package -/

/-- The partition codes of the quarters are as they were. -/
def SameLayout (s t : State) : Prop := t.pkg.codes = s.pkg.codes

namespace SameLayout

theorem trans {s t u : State} (h : SameLayout s t) (k : SameLayout t u) : SameLayout s u := Eq.trans k h

theorem foldl {α : Type} {f : State → α → State} (h : ∀ s a, SameLayout s (f s a)) (l : List α) (s : State) : SameLayout s (l.foldl f s) :=
  List.foldlRecOn (motive := fun t => SameLayout s t) _ _ rfl fun t ht a _ => ht.trans (h t a)

theorem of_homeFrame {s t : State} (h : HomeFrame s t) : SameLayout s t := (congrArg Pkg.codes h.pkg :)

theorem l2Touch (s : State) (p line : Nat) : SameLayout s (s.l2Touch p line) := by
  unfold State.l2Touch State.l2Out State.hostPush
  split
  · rfl
  · split
    · rfl
    · dsimp only
      split
      · split <;> rfl
      · rfl

theorem homeMerge (s : State) (line : Nat) (data : List Byte) (mask : BitVec 128) : SameLayout s (s.homeMerge line data mask) := by
  unfold State.homeMerge
  split
  · rfl
  · have hline := ((HomeFrame.cow s line).trans (HomeFrame.mirrorLine _ line)).trans (HomeFrame.killMarks _ line)
    exact of_homeFrame ((hline.trans (HomeFrame.foldl (fun _ _ => HomeFrame.clearPoison ..) _ _)).trans
      (HomeFrame.foldl (fun _ _ => HomeFrame.rawByte ..) _ _))

theorem tryPost (s : State) (p w : Nat) : SameLayout s (s.tryPost p w) := by
  unfold State.tryPost
  cases hc : s.canPost p with
  | false =>
    rw [postRec_of_not_canPost w hc]
    rfl
  | true =>
    obtain ⟨t, ht, hf⟩ := postRec_of_canPost w hc
    rw [ht]
    exact (of_homeFrame hf :)

theorem acceptLine (s : State) (c line : Nat) (x : Line) : SameLayout s (s.acceptLine c line x) := by
  unfold State.acceptLine
  dsimp only
  split
  · rfl
  · split
    · exact of_homeFrame (HomeFrame.bumpCore ..)
    · split
      · rfl
      · exact ((l2Touch ..).trans (homeMerge ..)).trans (foldl (fun s _ => (tryPost (s.poisonHome _) _ _ :)) _ _)

theorem wbLine (s : State) (c line : Nat) : SameLayout s (s.wbLine c line) := by
  unfold State.wbLine
  split
  · rfl
  · split
    · rfl
    · exact acceptLine ..

theorem dropLine (s : State) (c line : Nat) : SameLayout s (s.dropLine c line) := by
  unfold State.dropLine
  split
  · split
    · exact (of_homeFrame (HomeFrame.bumpCore s c 0xE0 1) :)
    · rfl
  · rfl

theorem flushLine (s : State) (c line : Nat) : SameLayout s (s.flushLine c line) := by
  unfold State.flushLine
  split
  · exact (wbLine s c line).trans (dropLine ..)
  · rfl

theorem engineL1 (s : State) (g : Nat) (src dst : List Acc) (srcR dstR : List (Nat × Nat)) : SameLayout s (engineL1 s g src dst srcR dstR) :=
  (foldl (fun s l => wbLine s (coreOf g) l) _ s).trans (foldl (fun s l => flushLine s (coreOf g) l) _ _)

theorem codeOf {s t : State} (h : SameLayout s t) (g : Nat) : t.codeOf g = s.codeOf g :=
  congrArg (fun l : List Nat => l.getD (deckOfCore (coreOf g) / 2) 0) h

end SameLayout

/-! ## Host streams (11 R260) -/

/-- Step 7 of a command whose ranges are in global memory: the pages that are being flipped, then the range entries. -/
def issueCmd (s : State) (g : Nat) (ranges : List (Nat × Nat)) (locks : List (Nat × LockE)) (x : State → Cmd) : R State := do
  flipOrWait s g ranges
  let s ← lockOrWait s g locks
  pure (addCmd s g (x s))

section
variable {s : State} {g : Nat} {ranges : List (Nat × Nat)} {locks : List (Nat × LockE)} {x : State → Cmd}

theorem issueCmd_held (h : s.flipTouches (s.codeOf g) (s.ctxOf g) ranges = true) :
    issueCmd s g ranges locks x = .error (.wait (s.onGrp g (fun x => { x with cwait := .flip .batch }))) := by
  simp [issueCmd, flipOrWait, h, bind, Except.bind]

theorem issueCmd_free (h : s.flipTouches (s.codeOf g) (s.ctxOf g) ranges = false) :
    issueCmd s g ranges locks x = lockOrWait s g locks >>= fun t => pure (addCmd t g (x t)) := by
  simp [issueCmd, flipOrWait, h, bind, Except.bind]

end

section
variable {s : State} {g : Nat} {src dst c : GReg} {xs xd : Glob}

/-- The command of a host stream. -/
def hostCmd (g : Nat) (out : Bool) (xs xd : Glob) (len aw : Nat) (s : State) : Cmd :=
  { newCmd s g (if out then .hostOut else .hostIn) (.glob xs.rcd xs.off) (.glob xd.rcd xd.off) with rows := 1, rowb := len, aw := aw, len := len }

/-- The virtual addresses of one row of a record. -/
def Glob.span (x : Glob) (len : Nat) : Nat × Nat := ((x.rcd.address x.off).toNat, (x.rcd.address x.off).toNat + len)

theorem exec_hstreamAny (src dst c : GReg) (out : Bool) (s : State) :
    exec (if out then .hstreamOut src dst c else .hstreamIn src dst c) s = runEngine s (fun g => hstreamAny s g src dst c out) := by
  cases out <;> rfl

variable (hw : (s.rg g c).toNat < 2 ^ 48) (hw1 : (s.rg g (c + 1)).toNat < 2 ^ 23)
  (hlen : 128 ≤ (s.rg g c).toNat % 2 ^ 40) (hmod : (s.rg g c).toNat % 2 ^ 40 % 128 = 0)
include hw hw1 hlen hmod

theorem hstream_legal : legal ((s.rg g c).toNat < 2 ^ 48 && (s.rg g (c + 1)).toNat < 2 ^ 23 && 128 ≤ (s.rg g c).toNat % 2 ^ 40
    && (s.rg g c).toNat % 2 ^ 40 % 128 == 0) = .ok () := by
  refine legal_of ?_
  simp only [Bool.and_eq_true, decide_eq_true_eq, beq_iff_eq]
  exact ⟨⟨⟨hw, hw1⟩, hlen⟩, hmod⟩

variable (out : Bool) (hc : c.toNat % 2 = 0)
include hc

theorem hstreamAny_rerun (hr : (s.teamOf g).rerun = true) : hstreamAny s g src dst c out = .error (trapOf cPIPEFAULT) := by
  simp only [hstreamAny, pairOk_of_even hc, rg2_eq, bits_zero, hstream_legal hw hw1 hlen hmod, hr, bind, Except.bind]
  rfl

theorem hstreamAny_of_checks (hr : (s.teamOf g).rerun = false)
    (hxs : globOf s g ((s.rg g c).toNat / 2 ^ 40 % 16) (s.rg g src).toInt (fun _ => 0) 1 ((s.rg g c).toNat % 2 ^ 40) = .ok xs)
    (hxd : globOf s g ((s.rg g c).toNat / 2 ^ 44 % 16) (s.rg g dst).toInt (fun _ => 0) 1 ((s.rg g c).toNat % 2 ^ 40) = .ok xd)
    (hsrc : xs.check .engRead = .ok ()) (hdst : xd.check .engWrite = .ok ()) (haw : (s.rg g (c + 1)).toNat + 16 ≤ (s.teamOf g).scratch)
    (has : xs.align 128 = .ok ()) (had : xd.align 128 = .ok ()) (hal : (s.rg g (c + 1)).toNat % 16 = 0) :
    let len := (s.rg g c).toNat % 2 ^ 40
    let u := engineL1 s g [] [] [xs.span len] [xd.span len]
    hstreamAny s g src dst c out = issueCmd u g [xs.span len, xd.span len]
      [(coreOf g, globLock (s.ctxOf g) (xs.span len) false (2 * u.freeCtr + 1)),
       (coreOf g, globLock (s.ctxOf g) (xd.span len) true (2 * u.freeCtr + 1))]
      (hostCmd g out xs xd len (s.rg g (c + 1)).toNat) := by
  have h40 : bits (s.rg g c).toNat 40 4 = (s.rg g c).toNat / 2 ^ 40 % 16 := bits_eq ..
  have h44 : bits (s.rg g c).toNat 44 4 = (s.rg g c).toNat / 2 ^ 44 % 16 := bits_eq ..
  have hneed : need (!(s.teamOf g).rerun) cPIPEFAULT = .ok () := need_of _ (by rw [hr]; rfl)
  simp only [hstreamAny, pairOk_of_even hc, rg2_eq, bits_zero_of_lt hw1, bits_zero _ 40, h40, h44, hstream_legal hw hw1 hlen hmod, hneed, hxs, hxd,
    hsrc, hdst, awBounds_of haw, awAlign_of hal, has, had, bind, Except.bind]
  rfl

end

/-! ## Multicasts (11 R258, R259) -/

/-- The checks of a multicast have passed. -/
structure McastChecks (s : State) (g : Nat) (src t c : GReg) (tower : Bool) (xs xd : Scr) : Prop where
  pair   : src.toNat % 2 = 0
  quad   : c.toNat % 4 = 0
  mask   : (s.rg g t).toNat < (if tower then 2 ^ 52 else 2 ^ 48)
  some   : mcastCores g (s.rg g t).toNat tower ≠ []
  part   : (mcastCores g (s.rg g t).toNat tower).all (fun k => s.codeOfCore k == s.codeOf g) = true
  word0  : (s.rg g c).toNat < 2 ^ 48
  rows   : 1 ≤ (s.rg g c).toNat % 2 ^ 11 ∧ (s.rg g c).toNat % 2 ^ 11 ≤ 1024
  rowb   : 16 ≤ (s.rg g c).toNat / 2 ^ 11 % 2 ^ 14 ∧ (s.rg g c).toNat / 2 ^ 11 % 2 ^ 14 ≤ 8192 ∧ (s.rg g c).toNat / 2 ^ 11 % 2 ^ 14 % 16 = 0
  word1  : (s.rg g (c + 1)).toNat < 2 ^ 41
  stage  : if tower then (s.rg g (c + 1)).toNat / 2 ^ 23 % 128 = 0 else (s.rg g (c + 1)).toNat / 2 ^ 23 = 0
  word2  : (s.rg g (c + 2)).toNat < 2 ^ 23
  mcast  : (s.teamOf g).mcast = true
  src    : scrOf (s.rg g src) (s.rg g (src + 1)) = .ok xs
  dst    : scrOf (s.rg g (c + 2)) (s.rg g (c + 3)) = .ok xd
  rerun  : (s.teamOf g).rerun = false
  srcIn  : xs.check (s.teamOf g).scratch 0 ((s.rg g c).toNat % 2 ^ 11) ((s.rg g c).toNat / 2 ^ 11 % 2 ^ 14) = .ok ()
  dstIn  : xd.check (s.teamOf g).scratch 0 ((s.rg g c).toNat % 2 ^ 11) ((s.rg g c).toNat / 2 ^ 11 % 2 ^ 14) = .ok ()
  awIn   : (s.rg g c).toNat / 2 ^ 25 + 16 ≤ (s.teamOf g).scratch
  arIn   : (s.rg g (c + 1)).toNat % 2 ^ 23 + 16 ≤ (s.teamOf g).scratch
  stIn   : tower = true → (s.rg g (c + 1)).toNat / 2 ^ 23 + (s.rg g c).toNat % 2 ^ 11 * ((s.rg g c).toNat / 2 ^ 11 % 2 ^ 14) ≤ 2 ^ 18
  awMod  : (s.rg g c).toNat / 2 ^ 25 % 16 = 0
  arMod  : (s.rg g (c + 1)).toNat % 2 ^ 23 % 16 = 0
  whole  : tower = true → (s.tower (towerOf g)).reinSplit.getLsbD 0 = false

/-- The receiver of a multicast on a core: the team of the grid that is placed there. -/
def mcastRecv (s : State) (y : Team) (k : Nat) : Recv :=
  { core := k, team := s.teamOn y k, done := [], uid := match s.teamOn y k with
      | some j => (s.team j).uid
      | none => 0 }

theorem mcastRecv_eq (s : State) (y : Team) :
    mcastRecv s y = fun k => { core := k, team := s.teamOn y k, uid := ((s.teamOn y k).map (fun j => (s.team j).uid)).getD 0, done := [] } := by
  funext k
  rw [mcastRecv]
  cases s.teamOn y k <;> rfl

/-- The range entries of a multicast. -/
def mcastLocks (s : State) (g : Nat) (tower : Bool) (xs xd : Scr) (rows rowb st : Nat) (recvs : List Recv) : List (Nat × LockE) :=
  let n := 2 * s.freeCtr + 1
  (coreOf g, scrLock (s.grp g).team (xs.range (xs.endOf 0 rows rowb)) false n)
    :: (if tower then [(coreOf g, globLock (stageOwner (towerOf g)) (st, st + rows * rowb) true n)] else [])
    ++ recvs.filterMap (fun r => r.team.map (fun k => (r.core, scrLock k (xd.range (xd.endOf 0 rows rowb)) true n)))

theorem exec_mcastAny (src t c : GReg) (tower : Bool) (s : State) :
    exec (if tower then .tmcastTower src t c else .tmcastDeck src t c) s = runEngine s (fun g => mcastAny s g src t c tower) := by
  cases tower <;> rfl

namespace McastChecks
section
variable {s : State} {g : Nat} {src t c : GReg} {tower : Bool} {xs xd : Scr} (h : McastChecks s g src t c tower xs xd)
include h

theorem legal_mask :
    legal ((s.rg g t).toNat < 2 ^ 52 && (tower || bits (s.rg g t).toNat 48 4 == 0) && !(mcastCores g (s.rg g t).toNat tower).isEmpty) = .ok () := by
  refine legal_of ?_
  have hb : bits (s.rg g t).toNat 48 4 = (s.rg g t).toNat / 2 ^ 48 % 2 ^ 4 := bits_eq ..
  have hm := h.mask
  have hn := h.some
  rw [hb]
  cases tower with
  | false => simp at hm hn ⊢; exact ⟨⟨by omega, by omega⟩, hn⟩
  | true => simp at hm hn ⊢; exact ⟨hm, hn⟩

theorem legal_rows :
    legal ((s.rg g c).toNat < 2 ^ 48 && 1 ≤ (s.rg g c).toNat % 2 ^ 11 && (s.rg g c).toNat % 2 ^ 11 ≤ 1024
      && 16 ≤ (s.rg g c).toNat / 2 ^ 11 % 2 ^ 14 && (s.rg g c).toNat / 2 ^ 11 % 2 ^ 14 ≤ 8192 && (s.rg g c).toNat / 2 ^ 11 % 2 ^ 14 % 16 == 0)
    = .ok () := by
  refine legal_of ?_
  simp only [Bool.and_eq_true, decide_eq_true_eq, beq_iff_eq]
  exact ⟨⟨⟨⟨⟨h.word0, h.rows.1⟩, h.rows.2⟩, h.rowb.1⟩, h.rowb.2.1⟩, h.rowb.2.2⟩

theorem legal_stage :
    legal ((s.rg g (c + 1)).toNat < 2 ^ 41 && (if tower then (s.rg g (c + 1)).toNat / 2 ^ 23 % 128 == 0 else (s.rg g (c + 1)).toNat / 2 ^ 23 == 0)
      && (s.rg g (c + 2)).toNat < 2 ^ 23) = .ok () := by
  refine legal_of ?_
  simp only [Bool.and_eq_true, decide_eq_true_eq]
  have hstage := h.stage
  refine ⟨⟨h.word1, ?_⟩, h.word2⟩
  cases tower with
  | false => exact beq_iff_eq.2 hstage
  | true => exact beq_iff_eq.2 hstage

/-- The staging range lies in the window. -/
theorem stage_in : (tower && decide (2 ^ 18 < (s.rg g (c + 1)).toNat / 2 ^ 23
    + (s.rg g c).toNat % 2 ^ 11 * ((s.rg g c).toNat / 2 ^ 11 % 2 ^ 14))) = false := by
  have hin := h.stIn
  cases tower with
  | false => rfl
  | true => simpa using hin rfl

/-- A tower that is not split reaches every line of its window. -/
theorem stage_reached (l : List Nat) (f : Nat → Nat) : (tower && l.any (fun k => !s.reinLineOk (deckOf g) (f k))) = false := by
  have hwhole := h.whole
  cases tower with
  | false => rfl
  | true =>
    have hw : (s.tower (towerOfDeck (deckOf g))).reinSplit.getLsbD 0 = false := hwhole rfl
    refine List.any_eq_false.2 (fun k _ => ?_)
    rw [State.reinLineOk, hw]
    exact Bool.false_ne_true

theorem mcastAny_eq :
    let cores := mcastCores g (s.rg g t).toNat tower
    let rows := (s.rg g c).toNat % 2 ^ 11
    let rowb := (s.rg g c).toNat / 2 ^ 11 % 2 ^ 14
    let st := (s.rg g (c + 1)).toNat / 2 ^ 23
    let recvs := cores.map (mcastRecv s (s.teamOf g))
    mcastAny s g src t c tower = lockOrWait s g (mcastLocks s g tower xs xd rows rowb st recvs) >>= fun u =>
      pure (addCmd u g { newCmd u g (if tower then .mcastTower else .mcastDeck) (.scr (u.grp g).team xs.off xs.rowp xs.tilep xs.rot)
          (.scr 0 xd.off xd.rowp xd.tilep xd.rot) with
        rows := rows, rowb := rowb, aw := (s.rg g c).toNat / 2 ^ 25, ar := (s.rg g (c + 1)).toNat % 2 ^ 23, st := st,
        len := rows * rowb * cores.length, recvs := recvs }) := by
  have h11 : bits (s.rg g c).toNat 11 14 = (s.rg g c).toNat / 2 ^ 11 % 2 ^ 14 := bits_eq ..
  have h25 : bits (s.rg g c).toNat 25 23 = (s.rg g c).toNat / 2 ^ 25 := by have := h.word0; rw [bits_eq]; omega
  have h23 : bits (s.rg g (c + 1)).toNat 23 18 = (s.rg g (c + 1)).toNat / 2 ^ 23 := by have := h.word1; rw [bits_eq]; omega
  have h1 : s.rgN g (c.toNat + 1) = s.rg g (c + 1) := rgN_add ..
  have h2 : s.rgN g (c.toNat + 2) = s.rg g (c + 2) := rgN_add ..
  have h3 : s.rgN g (c.toNat + 3) = s.rg g (c + 3) := rgN_add ..
  have hquad : legal (c.toNat % 4 == 0) = .ok () := legal_of (by simpa using h.quad)
  have hneed : need (!(s.teamOf g).rerun) cPIPEFAULT = .ok () := need_of _ (by rw [h.rerun]; rfl)
  simp only [mcastAny, pairOk_of_even h.pair, rg2_eq, h1, h2, h3, bits_zero _ 11, bits_zero _ 23, h11, h25, h23, hquad, h.legal_mask, legal_of h.part,
    h.legal_rows, h.legal_stage, legal_of h.mcast, h.src, h.dst, hneed, h.srcIn, h.dstIn, awBounds_of h.awIn, awBounds_of h.arIn, h.stage_in,
    h.stage_reached, awAlign_of h.awMod, awAlign_of h.arMod, bind, Except.bind, pure, Except.pure, Bool.false_eq_true, if_false]
  rfl

end
end McastChecks

/-! ## The histogram unit (11 R261, R262, 05 R131) -/

section
variable {s : State} {g : Nat} {src h c : GReg} {x : Scr}

/-- The checks of a histogram have passed. -/
structure QhistChecks (s : State) (g : Nat) (src h c : GReg) (x : Scr) : Prop where
  pair : src.toNat % 2 = 0
  word : (s.rg g c).toNat < 2 ^ 52
  rows : 1 ≤ (s.rg g c).toNat % 2 ^ 11 ∧ (s.rg g c).toNat % 2 ^ 11 ≤ 1024
  rowb : 16 ≤ (s.rg g c).toNat / 2 ^ 11 % 2 ^ 14 ∧ (s.rg g c).toNat / 2 ^ 11 % 2 ^ 14 ≤ 8192 ∧ (s.rg g c).toNat / 2 ^ 11 % 2 ^ 14 % 16 = 0
  fmt  : (s.rg g c).toNat / 2 ^ 25 % 16 ≤ 2
  src  : scrOf (s.rg g src) (s.rg g (src + 1)) = .ok x
  srcIn : x.check (s.teamOf g).scratch 0 ((s.rg g c).toNat % 2 ^ 11) ((s.rg g c).toNat / 2 ^ 11 % 2 ^ 14) = .ok ()
  dstIn : (s.rg g h).toNat + 528 ≤ (s.teamOf g).scratch
  awIn  : (s.rg g c).toNat / 2 ^ 29 + 16 ≤ (s.teamOf g).scratch
  dstMod : (s.rg g h).toNat % 16 = 0
  awMod : (s.rg g c).toNat / 2 ^ 29 % 16 = 0

theorem QhistChecks.legal_rows (k : QhistChecks s g src h c x) :
    legal ((s.rg g c).toNat < 2 ^ 52 && 1 ≤ (s.rg g c).toNat % 2 ^ 11 && (s.rg g c).toNat % 2 ^ 11 ≤ 1024
      && 16 ≤ (s.rg g c).toNat / 2 ^ 11 % 2 ^ 14 && (s.rg g c).toNat / 2 ^ 11 % 2 ^ 14 ≤ 8192 && (s.rg g c).toNat / 2 ^ 11 % 2 ^ 14 % 16 == 0
      && (s.rg g c).toNat / 2 ^ 25 % 16 ≤ 2) = .ok () := by
  refine legal_of ?_
  simp only [Bool.and_eq_true, decide_eq_true_eq, beq_iff_eq]
  exact ⟨⟨⟨⟨⟨⟨k.word, k.rows.1⟩, k.rows.2⟩, k.rowb.1⟩, k.rowb.2.1⟩, k.rowb.2.2⟩, k.fmt⟩

theorem exec_qhist_of_checks {acc : Bool} (k : QhistChecks s s.cur src h c x) (hf : s.cur ≠ farrierId) :
    let g := s.cur
    let tid := (s.grp g).team
    let n := 2 * s.freeCtr + 1
    let rows := (s.rg g c).toNat % 2 ^ 11
    let rowb := (s.rg g c).toNat / 2 ^ 11 % 2 ^ 14
    let gh := (s.rg g h).toNat
    exec (.qhist src h c acc) s = runCtrl s (fun _ =>
      lockOrWait s g [(coreOf g, scrLock tid (x.range (x.endOf 0 rows rowb)) false n), (coreOf g, scrLock tid (gh, gh + 528) true n)] >>= fun u =>
        pure (addCmd u g { newCmd u g .hist (.scr tid x.off x.rowp x.tilep x.rot) (.scr tid gh 0 0 0) with
          rows := rows, rowb := rowb, fmt := (s.rg g c).toNat / 2 ^ 25 % 16, acc := acc, aw := (s.rg g c).toNat / 2 ^ 29, len := rows * rowb })) := by
  refine (exec_qhist ..).trans ((runEngine_of_core hf _).trans (runCtrl_congr ?_))
  have h11 : bits (s.rg s.cur c).toNat 11 14 = (s.rg s.cur c).toNat / 2 ^ 11 % 2 ^ 14 := bits_eq ..
  have h25 : bits (s.rg s.cur c).toNat 25 4 = (s.rg s.cur c).toNat / 2 ^ 25 % 16 := bits_eq ..
  have h29 : bits (s.rg s.cur c).toNat 29 23 = (s.rg s.cur c).toNat / 2 ^ 29 := by have := k.word; rw [bits_eq]; omega
  have hin : ¬ (s.teamOf s.cur).scratch < (s.rg s.cur h).toNat + 528 := by have := k.dstIn; omega
  have hmod : ((s.rg s.cur h).toNat % 16 != 0) = false := by rw [k.dstMod]; rfl
  simp only [pairOk_of_even k.pair, rg2_eq, bits_zero _ 11, h11, h25, h29, k.legal_rows, k.src, k.srcIn, hin,
    awBounds_of k.awIn, hmod, awAlign_of k.awMod,
    bind, Except.bind, pure, Except.pure, Bool.false_eq_true, if_false]

end

theorem writesG_of_wg {s : State} {i : Instr} {m : Nat → R State} {d : GReg} {v : GWord} (he : exec i s = runCtrl s m)
    (hm : m s.cur = s.wg s.cur d v >>= fun u => pure (u.adv s.cur 4)) : WritesG s i d v :=
  ctlG_writes (f := fun _ => .ok v) (he.trans (runCtrl_congr hm)) rfl

/-- The counts of 64 bins at an offset of the window. -/
def Team.counts (y : Team) (o : Nat) : List Nat := (List.range 64).map (fun b => (y.winW (o + 4 * b)).toNat)

section
variable {s : State} {d h p : GReg} (hf : s.cur ≠ farrierId)
include hf

theorem qclip_illegal (hp : 2 ^ 17 ≤ (s.rg s.cur p).toNat) : CtlTraps s (.qclip d h p) 0x01 0 0 := by
  refine ctlTraps_illegal hf ((exec_qclip ..).trans (runEngine_of_core hf _)) ?_
  have hl : legal ((s.rg s.cur p).toNat < 2 ^ 17) = .error (trapOf cILLEGAL) := if_neg (by simpa using hp)
  simp only [hl, bind, Except.bind]

variable (hp : (s.rg s.cur p).toNat < 2 ^ 17)
include hp

theorem qclip_bounds (hin : (s.teamOf s.cur).scratch < (s.rg s.cur h).toNat + 528) : CtlTraps s (.qclip d h p) 0x03 16 (s.rg s.cur h) := by
  refine ctlTraps_of_error hf ((exec_qclip ..).trans (runEngine_of_core hf _)) ?_
  simp only [legal_of (decide_eq_true hp), hin, if_true, bind, Except.bind, trapAt, g64_toNat]
  rfl

/-- qclip, once its histogram is a range of the window that it may read. -/
theorem exec_qclip_of_checks (hin : (s.rg s.cur h).toNat + 528 ≤ (s.teamOf s.cur).scratch) (hmod : (s.rg s.cur h).toNat % 16 = 0)
    (hl : lockHit (s.core (coreOf s.cur)).locks false (s.grp s.cur).team (s.rg s.cur h).toNat ((s.rg s.cur h).toNat + 528) false = none) :
    let y := s.teamOf s.cur
    let gh := (s.rg s.cur h).toNat
    let gp := (s.rg s.cur p).toNat
    exec (.qclip d h p) s = runCtrl s (fun _ => if y.winBad gh 528 then .error (trapAt cCHECKFAIL 0 none gh) else
      s.wg s.cur d (BitVec.ofNat 64 (clipWord (y.counts gh) (y.counts (gh + 256)) (gp % 2 ^ 16) (gp.testBit 16)))
        >>= fun u => pure (u.adv s.cur 4)) := by
  dsimp only
  refine (exec_qclip ..).trans ((runEngine_of_core hf _).trans (runCtrl_congr ?_))
  have hin' : ¬ (s.teamOf s.cur).scratch < (s.rg s.cur h).toNat + 528 := by omega
  have hmod' : ((s.rg s.cur h).toNat % 16 != 0) = false := by rw [hmod]; rfl
  simp only [legal_of (decide_eq_true hp), hin', hmod', hl, bind, Except.bind, pure, Except.pure, Bool.false_eq_true, if_false]
  by_cases hbad : (s.teamOf s.cur).winBad (s.rg s.cur h).toNat 528 = true
  · rw [if_pos hbad, if_pos hbad]
  · rw [if_neg hbad, if_neg hbad]
    rfl

end

theorem clipWord_of_no_counts {pos neg : List Nat} (hp : pos.sum = 0) (hn : neg.sum = 0) (p : Nat) (q4 : Bool) : clipWord pos neg p q4 = 0x3C00 := by
  simp [clipWord, hp, hn]

theorem sum_counts_zero {y : Team} {o : Nat} (h : ∀ b, b < 64 → y.winW (o + 4 * b) = 0) : (y.counts o).sum = 0 := by
  rw [List.sum_eq_zero_iff]
  simpa [Team.counts] using fun b hb => by rw [h b hb]; rfl

end Sys2Proof.Machine

namespace Sys2Proof

open Sys2Proof.Machine

/-- A command whose ranges are in global memory: issued where nothing holds it. -/
theorem issueCmd_cases {s u : State} {i : Instr} {ranges : List (Nat × Nat)} {locks : List (Nat × LockE)} {x : State → Cmd}
    (he : exec i s = runCtrl s (fun _ => issueCmd u s.cur ranges locks x)) (ht : Traffic s u) (hs : SameLayout s u) :
    let held := u.flipTouches (s.codeOf s.cur) (s.ctxOf s.cur) ranges
    (∀ s2, held = false → u.registerLocks locks = some s2 → AddsCmd s s2 i (x s2)) ∧
    (held = true → exec i s = .next (u.onGrp s.cur (fun x => { x with cwait := .flip .batch }))) ∧
    (held = false → u.registerLocks locks = none → exec i s = .next (u.stallC s.cur .batch)) := by
  have hcode : u.codeOf s.cur = s.codeOf s.cur := hs.codeOf _
  have hctx : u.ctxOf s.cur = s.ctxOf s.cur := congrArg Team.ctx (ht.teamOf s.cur)
  dsimp only
  rw [← hcode, ← hctx]
  refine ⟨fun s2 hheld hl => ?_, fun hheld => he.trans (runCtrl_wait (issueCmd_held hheld)), fun hheld hl => he.trans (runCtrl_wait ?_)⟩
  · have hk := locksOnly_of_registerLocks hl
    refine addsCmd_of_next (he.trans (runCtrl_ok ?_)) (fun g => (hk.grp g).trans (ht.grp g)) (fun r => (hk.rg _ r).trans (ht.rg _ r))
    rw [issueCmd_free hheld, lockOrWait_some _ hl]
    rfl
  · rw [issueCmd_free hheld, lockOrWait_none _ hl]
    rfl

/-- Settles O32: by what each word does once its checks have passed, and by what a command that becomes outstanding leaves. -/
theorem engineCommands : Obligations.EngineCommands := by
  unfold Obligations.EngineCommands
  refine ⟨?_, ?_, ?_⟩
  · intro s src dst c xs xd out hf g w w1 len i rng hc hw hw1 hlen hmod
    have he := (exec_hstreamAny src dst c out s).trans (runEngine_of_core hf _)
    refine ⟨fun hr => ?_, fun hr hxs hxd hsrc hdst haw has had hal => ?_⟩
    · exact ctlTraps_of_error hf he (hstreamAny_rerun hw hw1 hlen hmod out hc hr)
    · have hbody := hstreamAny_of_checks hw hw1 hlen hmod out hc hr hxs hxd hsrc hdst haw has had hal
      obtain ⟨hadds, hheld, hfull⟩ := issueCmd_cases (he.trans (runCtrl_congr hbody)) (Traffic.engineL1 ..) (SameLayout.engineL1 ..)
      refine ⟨fun s2 hh hl => ?_, hheld, hfull⟩
      have hteam : (s2.grp g).team = (s.grp g).team := congrArg Group.team
        (((locksOnly_of_registerLocks hl).grp g).trans ((Traffic.engineL1 ..).grp g))
      have hcmd := hadds s2 hh hl
      rw [hostCmd, newCmd_of_team hteam] at hcmd
      exact hcmd
  · intro s s2 src t c tower xs xd hf g y mask w0 w1 rows rowb aw ar st n cores uid recvs i hpair hquad hmask hsome hpart hw0 hr1 hr2 hb1 hb2 hb3
      hw1 hst hw2 hmc hxs hxd hrr hsin hdin hawin harin hstin hawm harm hwhole hl
    have hk := locksOnly_of_registerLocks hl
    have hchecks : McastChecks s s.cur src t c tower xs xd :=
      ⟨hpair, hquad, hmask, hsome, hpart, hw0, ⟨hr1, hr2⟩, ⟨hb1, hb2, hb3⟩, hw1, hst, hw2, hmc,
      hxs, hxd, hrr, hsin, hdin, hawin, harin, hstin, hawm, harm, hwhole⟩
    have he := (exec_mcastAny src t c tower s).trans (runEngine_of_core hf _)
    have hlock : s.registerLocks (mcastLocks s s.cur tower xs xd rows rowb st (cores.map (mcastRecv s y))) = some s2 := by
      rw [mcastRecv_eq]
      exact hl
    have hadds := addsCmd_of_next (he.trans (runCtrl_ok (hchecks.mcastAny_eq.trans (by rw [lockOrWait_some _ hlock]; rfl)))) hk.grp (hk.rg s.cur)
    have hteam : (s2.grp g).team = (s.grp g).team := congrArg Group.team (hk.grp g)
    rw [newCmd_of_team hteam, hteam, mcastRecv_eq] at hadds
    exact hadds
  · intro s d src h c p acc x hf g y w rows rowb aw gh gp n k counts
    refine ⟨fun hpair hw hr1 hr2 hb1 hb2 hb3 hfmt hx hin hd haw hdm hawm => ?_, fun hp hin hmod hl => ?_,
      qclip_illegal hf, fun hp hin => qclip_bounds hf hp hin⟩
    · have hchecks : QhistChecks s s.cur src h c x := ⟨hpair, hw, ⟨hr1, hr2⟩, ⟨hb1, hb2, hb3⟩, hfmt, hx, hin, hd, haw, hdm, hawm⟩
      have he := exec_qhist_of_checks (acc := acc) hchecks hf
      refine ⟨fun s2 hl => ?_, fun hl => waits_of_error he (by rw [lockOrWait_none _ hl]; rfl)⟩
      have hk := locksOnly_of_registerLocks hl
      have hadds := addsCmd_of_next (he.trans (runCtrl_ok (by rw [lockOrWait_some _ hl]; rfl))) hk.grp (hk.rg s.cur)
      rw [newCmd_of_team (congrArg Group.team (hk.grp s.cur))] at hadds
      exact hadds
    · have he := exec_qclip_of_checks (d := d) hf hp hin hmod hl
      have hword (hgood : y.winBad gh 528 = false) :
          WritesG s (.qclip d h p) d (BitVec.ofNat 64 (clipWord (y.counts gh) (y.counts (gh + 256)) (gp % 2 ^ 16) (gp.testBit 16))) :=
        writesG_of_wg he (if_neg (Bool.eq_false_iff.1 hgood))
      refine ⟨fun hbad => ctlTraps_of_error hf he ?_, hword, fun hgood hzero => ?_⟩
      · rw [if_pos hbad, trapAt, g64_toNat]
        rfl
      · have hw := hword hgood
        rw [clipWord_of_no_counts (sum_counts_zero (fun b hb => (hzero b hb).1)) (sum_counts_zero (fun b hb => (hzero b hb).2))] at hw
        exact hw

end Sys2Proof
end

section
/-! Rein slots and refills (04 R105 to R107, R111). -/

namespace Sys2Proof.Machine

open Sys2Proof

/-! ## What a stream that goes on leaves of the Rein -/

/-- The deck without its queues of writes. -/
def Deck.offQueues (x : Deck) : Deck := { x with sendQ := [], own := [] }

/-- The towers, and the decks but for their queues of writes, are as they were. -/
structure KeepsReins (s t : State) : Prop where
  towers : t.towers = s.towers
  decks  : ∀ d, (t.deck d).offQueues = (s.deck d).offQueues

namespace KeepsReins

theorem refl (s : State) : KeepsReins s s := ⟨rfl, fun _ => rfl⟩

theorem trans {s t u : State} (h : KeepsReins s t) (k : KeepsReins t u) : KeepsReins s u :=
  ⟨k.towers.trans h.towers, fun d => (k.decks d).trans (h.decks d)⟩

theorem foldl {α : Type} {f : State → α → State} (h : ∀ s a, KeepsReins s (f s a)) (l : List α) (s : State) : KeepsReins s (l.foldl f s) :=
  List.foldlRecOn (motive := fun t => KeepsReins s t) _ _ (refl s) fun t ht a _ => ht.trans (h t a)

/-- Neither the towers nor the decks have changed. -/
theorem of_tables {s t : State} (ht : t.towers = s.towers) (hd : t.decks = s.decks) : KeepsReins s t :=
  ⟨ht, fun d => by rw [State.deck, State.deck, hd]⟩

theorem of_traffic {s t : State} (h : Traffic s t) : KeepsReins s t := of_tables (congrArg State.towers h.rest :) h.decks
theorem of_homeFrame {s t : State} (h : HomeFrame s t) : KeepsReins s t := of_traffic (Traffic.of_atHomes (AtHomes.of_homeFrame h))
theorem of_givesUp {s t : State} (h : GivesUp s t) : KeepsReins s t := of_tables (congrArg State.towers h.rest :) (congrArg State.decks h.rest :)

theorem tower {s t : State} (h : KeepsReins s t) (k : Nat) : t.tower k = s.tower k := congrArg (fun x => Tab.get x Tower.empty k) h.towers

/-- The queues of a deck have changed. -/
theorem onDeck (s : State) (d : Nat) {f : Deck → Deck} (h : ∀ x, (f x).offQueues = x.offQueues) : KeepsReins s (s.onDeck d f) := by
  refine ⟨rfl, fun j => ?_⟩
  by_cases hj : j = d
  · rw [hj, State.deck_onDeck_self, h]
  · rw [State.deck_onDeck_other _ _ hj]

theorem onLaunch (s : State) (l : Nat) (f : Launch → Launch) : KeepsReins s (s.onLaunch l f) := by
  unfold State.onLaunch
  split
  · exact of_tables rfl rfl
  · exact refl s

theorem onPipe (s : State) (k : Nat) (f : Pipe → Pipe) : KeepsReins s (s.onPipe k f) := by
  unfold State.onPipe
  split
  · exact of_tables rfl rfl
  · exact refl s

theorem onCores (s : State) (f : Core → Core) : KeepsReins s (s.onCores f) :=
  of_tables (congrArg State.towers (onCores_rest ..) :) (congrArg State.decks (onCores_rest ..) :)

theorem onCore (s : State) (c : Nat) (f : Core → Core) : KeepsReins s (s.onCore c f) := of_tables rfl rfl
theorem onGrp (s : State) (g : Nat) (f : Group → Group) : KeepsReins s (s.onGrp g f) := of_tables rfl rfl
theorem onTeam (s : State) (t : Nat) (f : Team → Team) : KeepsReins s (s.onTeam t f) := of_tables rfl rfl
theorem onPart (s : State) (p : Nat) (f : Part → Part) : KeepsReins s (s.onPart p f) := of_tables rfl rfl
theorem onBank (s : State) (g : Nat) (f : Bank → Bank) : KeepsReins s (s.onBank g f) := of_tables rfl rfl

theorem tryPost (s : State) (p w : Nat) : KeepsReins s (s.tryPost p w) := of_traffic (Traffic.of_atHomes (AtHomes.tryPost ..))

/-! ## Tiles and messages -/

theorem freeSpill (s : State) (l k : Nat) (q : Word) : KeepsReins s (s.freeSpill l k q) := by
  unfold State.freeSpill
  split
  · exact refl s
  · split
    · exact refl s
    · exact (of_homeFrame (HomeFrame.ctxSet ..)).trans (onLaunch ..)

theorem freeTile (s : State) (k : Nat) (q : Word) : KeepsReins s (s.freeTile k q) := (freeSpill ..).trans (onPipe ..)

theorem sendMsgs (s : State) (p port : Nat) (dest : Option Nat) (l : List Msg) : KeepsReins s (s.sendMsgs p port dest l) := by
  unfold State.sendMsgs
  split
  · exact foldl (fun s _ => of_homeFrame (HomeFrame.dropPacket s p)) l s
  · split <;> exact of_tables rfl rfl

theorem sendTo (s : State) (k kind seq : Nat) (dest : Option Nat) : KeepsReins s (s.sendTo k kind seq dest) := by
  unfold State.sendTo
  split
  · exact refl s
  · exact (of_tables (s := s) (t := s.tick) rfl rfl).trans (sendMsgs ..)

theorem sendPipe (s : State) (k kind seq : Nat) : KeepsReins s (s.sendPipe k kind seq) := by
  unfold State.sendPipe
  split
  · exact refl s
  · exact sendTo ..

theorem sendAbort (s : State) (k : Nat) : KeepsReins s (s.sendAbort k) := by
  unfold State.sendAbort
  split
  · exact refl s
  · split
    · exact (sendPipe ..).trans (onPipe ..)
    · exact refl s

theorem sendCredits (s : State) (k : Nat) (froms : List Nat) (slot : Nat) : KeepsReins s (s.sendCredits k froms slot) := by
  unfold State.sendCredits
  split
  · exact refl s
  · split
    · exact foldl (fun s _ => sendTo s ..) froms s
    · exact refl s

theorem endTile (s : State) (p k : Nat) (fault : Bool) (t : Tile) : KeepsReins s (s.endTile p k fault t) := by
  have hheld : KeepsReins s (((if fault then s.sendAbort k else s).freeTile k t.seq).bumpPipe p (k % 64) 16) := by
    refine (trans ?_ (freeTile ..)).trans (of_tables rfl rfl)
    split
    · exact sendAbort ..
    · exact refl s
  have htaken : KeepsReins s ((s.freeTaken k t).bumpPipe p (k % 64) 16) :=
    ((freeTile ..).trans (sendCredits ..)).trans (of_tables rfl rfl)
  unfold State.endTile
  split
  · exact hheld
  · exact hheld
  · exact htaken
  · exact htaken
  · exact htaken
  all_goals exact refl s

theorem discardTile (s : State) (k : Nat) (t : Tile) : KeepsReins s (s.discardTile k t) := by
  unfold State.discardTile
  split
  · exact (sendAbort ..).trans (freeTile ..)
  · exact (sendAbort ..).trans (freeTile ..)
  · exact onPipe ..
  · exact onPipe ..
  all_goals exact refl s

theorem onTiles (s : State) (l : Nat) (who : Nat × Nat) {f : State → Nat → Tile → State} (hf : ∀ s k t, KeepsReins s (f s k t)) :
    KeepsReins s (s.onTiles l who f) := by
  refine foldl (fun s k => ?_) _ s
  split
  · exact refl s
  · exact foldl (fun s t => hf s k t) _ s

theorem closePipes (s : State) (l : Nat) : KeepsReins s (s.closePipes l) := by
  unfold State.closePipes
  split
  · exact refl s
  · refine foldl (fun s k => ?_) _ s
    split
    · exact refl s
    · split
      · exact refl s
      · dsimp only
        split
        · exact (onPipe ..).trans (sendPipe ..)
        · exact onPipe ..

/-! ## The end of a team -/

theorem clearLocks (s : State) (n : Nat) : KeepsReins s (s.clearLocks n) := onCores ..

theorem abandonCmd (s : State) (c id : Nat) : KeepsReins s (s.abandonCmd c id) := by
  unfold State.abandonCmd
  split
  · exact refl s
  · dsimp only
    split
    · exact ((onTeam ..).trans (clearLocks ..)).trans (onCore ..)
    · exact (clearLocks ..).trans (onCore ..)

theorem abandonTeam (s : State) (t : Nat) : KeepsReins s (s.abandonTeam t) := foldl (fun s id => abandonCmd s (t / 16) id) _ s

theorem preemptTest (s : State) (p : Nat) : KeepsReins s (s.preemptTest p) := by
  have hset : KeepsReins s (if bits (s.part p).stable.toNat 0 13 == 0 then s
      else s.physSet p (bits (s.part p).stable.toNat 21 31 * 2 ^ 21) 8 1) := by
    split
    · exact refl s
    · exact of_homeFrame (HomeFrame.physSet ..)
  unfold State.preemptTest
  dsimp only
  split
  · exact (hset.trans (onPart ..)).trans (of_homeFrame (HomeFrame.cause ..))
  · exact refl s

theorem giveUpTeam (s : State) (x : Team) : KeepsReins s (s.giveUpTeam x) :=
  (foldl (fun s g => of_givesUp (GivesUp.giveUp s g)) _ _).trans (of_traffic (Traffic.flushStack ..))

theorem leaveEngines (s : State) (t : Nat) (x : Team) : KeepsReins s (s.leaveEngines t x) := by
  unfold State.leaveEngines
  exact ((foldl (fun s _ => clearLocks s _) _ s).trans (foldl (fun s _ => clearLocks s _) _ _)).trans (onCore ..)

theorem freeTeam (s : State) (t : Nat) : KeepsReins s (s.freeTeam t) := by
  have hpipes (s : State) (x : Team) : KeepsReins s (s.leavePipes x) := foldl (fun s k => onPipe s k _) _ s
  have hwrites (s : State) (x : Team) : KeepsReins s (s.orphanWrites x) := onDeck s _ (fun _ => rfl)
  have hgroups (s : State) (x : Team) : KeepsReins s (s.dropGroups t x) := of_tables rfl rfl
  have hempty : KeepsReins s (s.emptied t) := by
    unfold State.emptied
    exact ((((giveUpTeam ..).trans (hpipes ..)).trans (hwrites ..)).trans (leaveEngines ..)).trans (hgroups ..)
  rw [freeTeam_eq]
  generalize s.emptied t = w at hempty
  exact (hempty.trans (of_tables (s := w) (t := { w with teams := w.teams.del t }) rfl rfl)).trans (preemptTest ..)

theorem retireIndex (s : State) (t : Team) (f : Bool) : KeepsReins s (s.retireIndex t f) := by
  unfold State.retireIndex
  exact (onLaunch ..).trans (closePipes ..)

theorem dropLaunch (s : State) (l : Nat) : KeepsReins s (s.dropLaunch l) := by
  unfold State.dropLaunch
  split
  · exact refl s
  · rename_i x hx
    have htab : KeepsReins s { s with pipes := s.pipes.dropIf (fun k _ => k / 64 == l), launches := s.launches.del l } := of_tables rfl rfl
    exact (htab.trans (onCores ..)).trans (onPart ..)

theorem of_postRec {s t : State} {p w : Nat} (h : s.postRec p w = some t) : KeepsReins s t := of_traffic (Traffic.of_atHomes (AtHomes.postRec h))

theorem haltHitch {s t : State} {l code stage pipe team : Nat} (h : s.haltHitch l code stage pipe team = some t) : KeepsReins s t := by
  unfold State.haltHitch at h
  split at h
  · exact Option.some.inj h ▸ refl s
  · split at h
    · cases h
    · refine KeepsReins.trans ?_ (of_postRec h)
      refine KeepsReins.trans ?_ (dropLaunch ..)
      refine KeepsReins.trans ?_ ((of_homeFrame (HomeFrame.writeDonew ..)).trans (of_homeFrame (HomeFrame.writeStatus ..)))
      exact (foldl (fun s t => (abandonTeam s t).trans (freeTeam ..)) _ s).trans (foldl (fun s e => of_homeFrame (HomeFrame.ctxSet ..)) _ _)

theorem discardTeam {s u : State} {t : Nat} (h : s.discardTeam t = some u) : KeepsReins s u := by
  have hfree : KeepsReins s (((s.abandonTeam t).onTiles (s.team t).launch ((s.team t).stage, (s.team t).lin) State.discardTile).freeTeam t) :=
    ((abandonTeam ..).trans (onTiles _ _ _ discardTile)).trans (freeTeam ..)
  unfold State.discardTeam at h
  dsimp only at h
  split at h
  · exact Option.some.inj h ▸ hfree
  · split at h
    · exact (refl s).trans (haltHitch h)
    · rw [← Option.some.inj h]
      exact hfree.trans (onLaunch ..)

theorem faultTeam {s u : State} {t trap va kind : Nat} {double : Bool} {code : Nat} (h : s.faultTeam t trap va kind double code = some u) :
    KeepsReins s u := by
  unfold State.faultTeam at h
  dsimp only at h
  split at h
  · exact discardTeam h
  · split at h
    · cases h
    · rename_i v hv
      rw [← Option.some.inj h]
      exact ((((of_postRec hv).trans (abandonTeam ..)).trans (onTiles _ _ _ (fun s k u => endTile s _ k true u))).trans (freeTeam ..)).trans
        (retireIndex ..)

theorem enterTrap (s : State) (g : Nat) (lane : Bool) (t : Trap) : KeepsReins s (s.enterTrap g lane t) := by
  have hup : KeepsReins s ((((s.withdraw g).dropMark g).dropEarly g).dropClaim g) :=
    (of_givesUp (((GivesUp.withdrawIf s (fun d => d.gid == g)).trans (GivesUp.dropMark _ g)).trans (GivesUp.dropEarly _ g))).trans (onTeam ..)
  have htick (s : State) : KeepsReins s s.tick := of_tables rfl rfl
  unfold State.enterTrap
  exact ((hup.trans (onBank ..)).trans (htick _)).trans (onGrp ..)

theorem takeTrap (s : State) (g : Nat) (lane : Bool) (t : Trap) : KeepsReins s (s.takeTrap g lane t) := by
  unfold State.takeTrap
  split
  · split
    · rename_i h
      exact faultTeam h
    · exact onGrp ..
  · split
    · exact enterTrap ..
    · exact onGrp ..

end KeepsReins

/-! ## What ends with a write, and what an alarm leaves -/

/-- An acquire settles another core's record first (04 R109). -/
def State.settleFirst (s : State) (c : Nat) (rcd : Option Rec) : State :=
  match rcd with
  | some r => if r.core != c then s.settle r.core r.mark else s
  | none => s

namespace KeepsReins

theorem bumpDeck (s : State) (d off n : Nat) : KeepsReins s (s.bumpDeck d off n) := of_homeFrame (HomeFrame.bumpDeck ..)

theorem postPiece (s : State) (c id : Nat) (x : Cmd) (done : List Nat) (n flags : Nat) : KeepsReins s (s.postPiece c id x done n flags) := by
  unfold State.postPiece
  dsimp only
  split
  · exact ((onTeam ..).trans (clearLocks ..)).trans (onCore ..)
  · exact (onTeam s x.team _).trans (onCore ..)

theorem endCopyWrite (s : State) (w : RWrite) : KeepsReins s (s.endCopyWrite w) := by
  unfold State.endCopyWrite
  split
  · exact refl s
  · split
    · split
      · exact postPiece ..
      · exact refl s
    · exact refl s

theorem putG (s : State) (g : Nat) (r : GReg) (v : GWord) : KeepsReins s (s.putG g r v) := by
  unfold State.putG
  split
  · exact refl s
  · split
    · exact onBank ..
    · exact onGrp ..

theorem wv (s : State) (g r l : Nat) (w : Word) : KeepsReins s (s.wv g r l w) := by
  unfold State.wv
  split
  · exact onBank ..
  · exact onGrp ..

theorem park (s : State) (g : Nat) : KeepsReins s (s.park g) := by
  unfold State.park
  split
  · exact onGrp ..
  · exact refl s

theorem settleFirst (s : State) (c : Nat) (rcd : Option Rec) : KeepsReins s (s.settleFirst c rcd) := by
  unfold State.settleFirst
  split
  · split
    · exact of_traffic (Traffic.settle ..)
    · exact refl s
  · exact refl s

theorem adv (s : State) (g n : Nat) : KeepsReins s (s.adv g n) := of_tables rfl rfl
theorem ladv (s : State) (g : Nat) : KeepsReins s (s.ladv g) := of_tables rfl rfl

theorem endAtomic (s : State) (w : RWrite) (old : Word) (rcd : Option Rec) : KeepsReins s (s.endAtomic w old rcd) := by
  unfold State.endAtomic
  extract_lets own acquire u v
  have hacquire (s : State) : KeepsReins s (acquire s) := by
    change KeepsReins s (if own then s.settleFirst w.core rcd else (s.settleFirst w.core rcd).invShared w.core)
    split
    · exact settleFirst ..
    · exact (settleFirst ..).trans (of_traffic (Traffic.invShared ..))
  have hu : KeepsReins s u := by
    unfold u
    split
    · exact hacquire s
    · exact refl s
  clear_value u
  split
  · exact refl s
  · split
    · exact refl s
    · split
      · exact refl s
      · refine hu.trans ?_
        split
        · exact (onGrp ..).trans (takeTrap ..)
        · exact ((putG ..).trans (adv ..)).trans (park ..)
    · split
      · refine hu.trans ?_
        dsimp only
        split
        · exact onGrp ..
        · refine KeepsReins.trans (KeepsReins.trans (KeepsReins.trans ?_ (ladv ..)) (onGrp ..)) (park ..)
          exact foldl (fun s e => wv s ..) _ _
      all_goals exact refl s

theorem endOwn (s : State) (d : Nat) (old : Word) (rcd : Option Rec) : KeepsReins s (s.endOwn d old rcd) := by
  unfold State.endOwn
  split
  · exact refl s
  · rename_i w l _
    exact ((onDeck s d (f := fun x => { x with own := l }) (fun _ => rfl)).trans (endCopyWrite ..)).trans (endAtomic ..)

theorem setPkg (s : State) (k : Pkg) : KeepsReins s { s with pkg := k } := of_tables rfl rfl

theorem fcause (s : State) (b : Nat) : KeepsReins s (s.fcause b) := by
  unfold State.fcause
  split
  · exact refl s
  · exact (setPkg s _).trans (of_homeFrame (HomeFrame.vector ..))

theorem postAll (s : State) (core trap code : Nat) : KeepsReins s (s.postAll core trap code) := by
  refine foldl (fun s p => ?_) _ s
  split
  · exact tryPost ..
  · exact refl s

theorem hostDown (s : State) : KeepsReins s s.hostDown := by
  have hlines : KeepsReins s { s with
    hostL2 := [], l2 := s.l2.dropIf (fun l _ => isHost (l * 128)), snoop := [], pkg := { s.pkg with heldHost := [], biReqs := [] } } :=
    of_tables rfl rfl
  exact hlines.trans (foldl (fun s c => foldl (fun s e => (tryPost ..).trans (postPiece ..)) _ s) _ _)

theorem tamperHalt (s : State) : KeepsReins s s.tamperHalt := by
  have hcause (s : State) (c : Bool) (b : Nat) : KeepsReins s (if c then s.fcause b else s) := by
    split
    · exact fcause ..
    · exact refl s
  unfold State.tamperHalt
  exact (((hostDown s).trans (setPkg _ _)).trans (hcause _ _ 0)).trans (hcause _ _ 2)

theorem sensorAlarm (s : State) (n : Nat) : KeepsReins s (s.sensorAlarm n) := by
  have halarm : KeepsReins s (s.alarm (1#4 <<< n)) := by
    unfold State.alarm
    exact ((setPkg s _).trans (fcause ..)).trans (postAll ..)
  unfold State.sensorAlarm
  extract_lets pol u v
  have hhalt : KeepsReins s v := by
    refine halarm.trans ?_
    unfold v
    split
    · exact refl _
    · exact tamperHalt _
  split
  · exact hhalt.trans (setPkg _ _)
  · exact hhalt

end KeepsReins

/-! ## What a deck makes of a slot (04 R106, R107) -/

/-- The replica, poison and records of a deck once it has applied a slot's write. -/
def Deck.applied (x : Deck) (w : RWrite) : Deck :=
  { x with
    rep := (indices 32 (fun k => w.mask.getLsbD k)).foldl (fun t k =>
      let a := 32 * w.line + k
      let v := w.data.getD k 0
      let n := if w.kind ≤ 2 then v else BitVec.ofNat 32 (atomNew (aopOf w.aop) 4 (t.get 0 a).toNat v.toNat 0)
      t.set 0 a n) x.rep,
    bad := if w.kind ≤ 2 then x.bad.filter (fun q => !(coveredSectors w.line w.mask).contains q) else x.bad,
    recs := if w.kind == 2 || w.kind == 4 then x.recs.put w.line { core := w.core, mark := w.mark } else x.recs }

theorem applyWrite_eq (s : State) (d : Nat) (mine : Bool) (w : RWrite) :
    ∃ old rcd, s.applyWrite d mine w = if mine then ((s.onDeck d (fun x => x.applied w)).bumpDeck d 0 1).endOwn d old rcd
      else (s.onDeck d (fun x => x.applied w)).bumpDeck d 0 1 := ⟨_, _, rfl⟩

theorem applyWrite_keeps (s : State) (d : Nat) (mine : Bool) (w : RWrite) :
    KeepsReins (s.onDeck d (fun x => x.applied w)) (s.applyWrite d mine w) := by
  obtain ⟨old, rcd, h⟩ := applyWrite_eq s d mine w
  rw [h]
  split
  · exact (KeepsReins.bumpDeck ..).trans (KeepsReins.endOwn ..)
  · exact KeepsReins.bumpDeck ..

/-- The deck once it has applied the slot of sequence q. -/
def Deck.heard (x : Deck) (q : Nat) (w : Option RWrite) : Deck :=
  { (match w with
    | some w => if w.kind == 0 || w.kind == 5 then x else x.applied w
    | none => x) with lastQ := q }

/-- The deck once it has found the slot's check to fail. -/
def Deck.lost (x : Deck) : Deck := { x with stale := true, copying := none }

/-- The deck once it has received the slot of sequence q, or found its check to fail. -/
def Deck.hears (x : Deck) (q : Nat) (seen : Option (Option RWrite)) : Deck :=
  match seen with
  | some w => x.heard q w
  | none => x.lost

/-- What a deck makes of a slot does not depend on its queues. -/
theorem hears_offQueues {x z : Deck} (h : x.offQueues = z.offQueues) (q : Nat) (seen : Option (Option RWrite)) :
    (x.hears q seen).offQueues = (z.hears q seen).offQueues := by
  have hoff (y : Deck) : (y.hears q seen).offQueues = (y.offQueues.hears q seen).offQueues := by
    unfold Deck.hears Deck.heard
    rcases seen with _ | _ | w
    · rfl
    · rfl
    · dsimp only
      split <;> rfl
  rw [hoff x, hoff z, h]

/-- The tower without its count of mismatches, and without its notes of grants. -/
def Tower.offMissed (x : Tower) : Tower := { x with missed := 0 }
def Tower.offGrants (x : Tower) : Tower := { x with grant0 := 0, grant1 := 0 }

/-- A function of a tower's record that a view of it does not see. -/
theorem tower_onTower_of {α : Type} (s : State) (k : Nat) {f : Tower → Tower} (v : Tower → α) (h : ∀ x, v (f x) = v x) (j : Nat) :
    v ((s.onTower k f).tower j) = v (s.tower j) := by
  by_cases hj : j = k
  · rw [hj, State.tower_onTower_self, h]
  · rw [State.tower_onTower_other _ _ hj]

/-- Of the decks only d has changed but for its queues, and of the towers only their counts of mismatches. -/
structure OneDeck (s t : State) (d : Nat) (x : Deck) : Prop where
  self   : (t.deck d).offQueues = x.offQueues
  others : ∀ j, j ≠ d → (t.deck j).offQueues = (s.deck j).offQueues
  towers : ∀ k, (t.tower k).offMissed = (s.tower k).offMissed

theorem oneDeck_onDeck (s : State) (d : Nat) (f : Deck → Deck) : OneDeck s (s.onDeck d f) d (f (s.deck d)) :=
  ⟨by rw [State.deck_onDeck_self], fun j hj => by rw [State.deck_onDeck_other _ _ hj], fun _ => rfl⟩

theorem OneDeck.keeps {s t u : State} {d : Nat} {x : Deck} (h : OneDeck s t d x) (k : KeepsReins t u) : OneDeck s u d x :=
  ⟨(k.decks d).trans h.self, fun j hj => (k.decks j).trans (h.others j hj), fun j => by rw [k.tower]; exact h.towers j⟩

/-- A change of a deck that its queues do not matter to. -/
theorem OneDeck.onDeck {s t : State} {d : Nat} {x : Deck} (h : OneDeck s t d x) {f : Deck → Deck}
    (hf : ∀ y z : Deck, y.offQueues = z.offQueues → (f y).offQueues = (f z).offQueues) : OneDeck s (t.onDeck d f) d (f x) :=
  ⟨by rw [State.deck_onDeck_self]; exact hf _ _ h.self, fun j hj => by rw [State.deck_onDeck_other _ _ hj]; exact h.others j hj, h.towers⟩

theorem applySlot_heard (s : State) (d q : Nat) (mine : Bool) (w : Option RWrite) : OneDeck s (s.applySlot d q mine w) d ((s.deck d).heard q w) := by
  have hq (y z : Deck) (h : y.offQueues = z.offQueues) : { y with lastQ := q }.offQueues = { z with lastQ := q }.offQueues :=
    (congrArg (fun x : Deck => { x with lastQ := q }) h :)
  unfold State.applySlot Deck.heard
  cases w with
  | none => exact oneDeck_onDeck ..
  | some w =>
    dsimp only
    split
    · exact oneDeck_onDeck ..
    · exact ((oneDeck_onDeck s d (fun x => x.applied w)).keeps (applyWrite_keeps ..)).onDeck hq

theorem applySlot_towers (s : State) (d q : Nat) (mine : Bool) (w : Option RWrite) : (s.applySlot d q mine w).towers = s.towers := by
  unfold State.applySlot
  cases w with
  | none => rfl
  | some w =>
    dsimp only
    split
    · rfl
    · exact (applyWrite_keeps ..).towers

/-- What a deck receives of a slot, and what it is then. -/
theorem receiveSlot_oneDeck (s : State) (d q : Nat) (from_ : Option Nat) (sent : Option RWrite) (flips : List Nat) :
    OneDeck s (s.receiveSlot d q from_ sent flips) d ((s.deck d).hears q (slotSeen q sent flips)) := by
  unfold State.receiveSlot Deck.hears
  cases slotSeen q sent flips with
  | some w => exact applySlot_heard ..
  | none =>
    obtain ⟨self, others, towers⟩ := oneDeck_onDeck (s.bumpDeck d 8 1) d Deck.lost
    exact ⟨self, others,
      fun k => (tower_onTower_of _ _ (f := fun t => { t with missed := t.missed + 1 }) Tower.offMissed (fun _ => rfl) k).trans (towers k)⟩

/-- Decks that hear a slot one after the other: each is then what it makes of it, and nothing of the others but their queues matters. -/
theorem foldl_oneDeck {f : State → Nat → State} {y : Nat → Deck → Deck}
    (hf : ∀ s d, OneDeck s (f s d) d (y d (s.deck d))) (hy : ∀ d x z, Deck.offQueues x = z.offQueues → (y d x).offQueues = (y d z).offQueues)
    (l : List Nat) (hl : l.Nodup) (s : State) :
    (∀ d, ((l.foldl f s).deck d).offQueues = (if d ∈ l then y d (s.deck d) else s.deck d).offQueues)
      ∧ ∀ k, ((l.foldl f s).tower k).offMissed = (s.tower k).offMissed := by
  induction l generalizing s with
  | nil => exact ⟨fun _ => by simp, fun _ => rfl⟩
  | cons e l ih =>
    obtain ⟨hnot, hl⟩ := List.nodup_cons.1 hl
    obtain ⟨self, others, towers⟩ := hf s e
    obtain ⟨hdecks, htowers⟩ := ih hl (f s e)
    refine ⟨fun d => ?_, fun k => (htowers k).trans (towers k)⟩
    rw [List.foldl_cons, hdecks]
    by_cases hd : d = e
    · rw [hd, if_neg hnot, if_pos (List.mem_cons_self ..), self]
    · by_cases hm : d ∈ l
      · rw [if_pos hm, if_pos (List.mem_cons_of_mem _ hm), hy _ _ _ (others d hd)]
      · rw [if_neg hm, if_neg (by simp [hd, hm]), others d hd]

/-! ## A slot goes round (04 R105, R110) -/

/-- The slot's write and its deck. -/
def State.slotSent (s : State) (k : Nat) : Option (Nat × RWrite) := s.slotWrite k ((s.tower k).q % 1024)

/-- The state in which the slot's write has left its queue. -/
def State.slotTaken (s : State) (k : Nat) : State :=
  match s.slotSent k with
  | some (d, w) => s.takeWrite k d w
  | none => s

/-- The state in which the slot goes round. -/
def State.slotStart (s : State) (k : Nat) : State :=
  (s.slotTaken k).onTower k (fun t => { t with
    q := (s.tower k).q + 1,
    missed := if (s.tower k).q % 1024 == 0 then 0 else t.missed,
    held := match s.slotSent k with
      | some (_, w) => (t.held.dropIf (fun j _ => j + 4096 ≤ (s.tower k).q)).put (s.tower k).q w
      | none => t.held.dropIf (fun j _ => j + 4096 ≤ (s.tower k).q) })

/-- The decks that a slot reaches and whose replicas are current, rising. -/
def State.slotHeard (s : State) (k : Nat) : List Nat :=
  ((s.slotStart k).slotDecks k ((s.tower k).q % 1024)).filter (fun d => ((s.slotStart k).deck d).applies)

/-- The bits that a deck receives wrong. -/
def slotBits (flips : List (Nat × Nat)) (d : Nat) : List Nat := (flips.filter (fun e => e.1 == d)).map Prod.snd

/-- One deck receives the slot. -/
def State.slotAt (s : State) (k : Nat) (flips : List (Nat × Nat)) (u : State) (d : Nat) : State :=
  u.receiveSlot d (s.tower k).q ((s.slotSent k).map Prod.fst) ((s.slotSent k).map Prod.snd) (slotBits flips d)

/-- Every deck has received the slot. -/
def State.slotRound (s : State) (k : Nat) (flips : List (Nat × Nat)) : State := (s.slotHeard k).foldl (s.slotAt k flips) (s.slotStart k)

/-- A deck has received a header that is an anomaly (17 R376). -/
def State.slotIsOdd (s : State) (k : Nat) (flips : List (Nat × Nat)) : Bool :=
  (s.slotHeard k).any (fun d => match slotSeen (s.tower k).q ((s.slotSent k).map Prod.snd) (slotBits flips d) with
    | some (some w) => slotOdd k (s.tower k).q w
    | some none | none => false)

/-- A tower's frame has more mismatches than the sensor allows. -/
def State.manyMissed (s : State) (k : Nat) : Bool := 16 < (s.tower k).missed

theorem exec_reinSlot_eq {s : State} (hh : s.pkg.halted = false) (k : Nat) (flips : List (Nat × Nat)) :
    exec (.reinSlot k flips) s = .next (if s.slotIsOdd k flips || ((s.slotRound k flips).manyMissed k && !(s.slotStart k).manyMissed k)
      then (s.slotRound k flips).sensorAlarm 3 else s.slotRound k flips) := by
  rw [exec_reinSlot, execReinSlot, runUp, hh]
  rfl

theorem slotDecks_nodup (s : State) (k slot : Nat) : (s.slotDecks k slot).Nodup := by
  unfold State.slotDecks
  split
  · split <;> simp
  · exact (List.nodup_range).map (fun a b h => by simpa using h)

/-- A write that leaves its queue: only the queues of its deck and the tower's notes of grants change. -/
structure Takes (s t : State) (k : Nat) : Prop where
  tower  : (t.tower k).offGrants = (s.tower k).offGrants
  decks  : ∀ d, (t.deck d).offQueues = (s.deck d).offQueues
  groups : t.groups = s.groups

theorem takes_takeWrite (s : State) (k d : Nat) (w : RWrite) : Takes s (s.takeWrite k d w) k := by
  have hqueues (u : State) := (KeepsReins.onDeck u d (f := fun x => { x with sendQ := x.sendQ.erase w, own := x.own ++ [w] }) (fun _ => rfl)).decks
  unfold State.takeWrite
  dsimp only
  split
  · exact ⟨rfl, hqueues s.tick, rfl⟩
  · have hgrant (x : Tower) : (if x.reinSplit.getLsbD 0 && 2 ≤ d % 4 then { x with grant1 := d % 4 } else { x with grant0 := d % 4 }).offGrants
        = x.offGrants := by split <;> rfl
    exact ⟨(tower_onTower_of s k Tower.offGrants hgrant k :), hqueues _, rfl⟩

theorem takes_slotTaken (s : State) (k : Nat) : Takes s (s.slotTaken k) k := by
  unfold State.slotTaken
  split
  · exact takes_takeWrite ..
  · exact ⟨rfl, fun _ => rfl, rfl⟩

section
variable (s : State) (k : Nat)

theorem slotStart_tower : ((s.slotStart k).tower k).q = (s.tower k).q + 1 := by
  rw [State.slotStart, State.tower_onTower_self]

theorem slotStart_split : ((s.slotStart k).tower k).reinSplit = (s.tower k).reinSplit := by
  rw [State.slotStart, State.tower_onTower_self]
  exact (congrArg Tower.reinSplit (takes_slotTaken s k).tower :)

theorem slotStart_groups : (s.slotStart k).groups = s.groups := (takes_slotTaken s k).groups

theorem slotStart_deck (d : Nat) : ((s.slotStart k).deck d).offQueues = (s.deck d).offQueues := (takes_slotTaken s k).decks d

theorem mem_slotHeard (d : Nat) : d ∈ s.slotHeard k ↔ d ∈ s.slotDecks k ((s.tower k).q % 1024) ∧ (s.deck d).applies = true := by
  have happ : ((s.slotStart k).deck d).applies = (s.deck d).applies := (congrArg Deck.applies (slotStart_deck s k d) :)
  have hdecks : (s.slotStart k).slotDecks k ((s.tower k).q % 1024) = s.slotDecks k ((s.tower k).q % 1024) := by
    rw [State.slotDecks, State.slotDecks, slotStart_split]
  rw [State.slotHeard, List.mem_filter, happ, hdecks]

theorem slotHeard_nodup : (s.slotHeard k).Nodup := (slotDecks_nodup ..).filter _

/-- What a deck is once it has received the slot. -/
def State.slotMakes (s : State) (k : Nat) (flips : List (Nat × Nat)) (d : Nat) (x : Deck) : Deck :=
  x.hears (s.tower k).q (slotSeen (s.tower k).q ((s.slotSent k).map Prod.snd) (slotBits flips d))

/-- The decks and the towers after a slot has gone round, but for the decks' queues and the towers' counts of mismatches. -/
theorem slotRound_spec (flips : List (Nat × Nat)) :
    (∀ d, ((s.slotRound k flips).deck d).offQueues = (if d ∈ s.slotHeard k then s.slotMakes k flips d (s.deck d) else s.deck d).offQueues)
    ∧ ∀ j, ((s.slotRound k flips).tower j).offMissed = ((s.slotStart k).tower j).offMissed := by
  obtain ⟨hdecks, htowers⟩ := foldl_oneDeck (f := s.slotAt k flips) (y := s.slotMakes k flips) (fun u d => receiveSlot_oneDeck u d ..)
    (fun d x z h => hears_offQueues h ..) (s.slotHeard k) (slotHeard_nodup s k) (s.slotStart k)
  refine ⟨fun d => (hdecks d).trans ?_, htowers⟩
  by_cases hd : d ∈ s.slotHeard k
  · rw [if_pos hd, if_pos hd]
    exact hears_offQueues (slotStart_deck s k d) ..
  · rw [if_neg hd, if_neg hd]
    exact slotStart_deck s k d

/-- With an alarm of the REIN sensor or without one. -/
theorem does_reinSlot (hh : s.pkg.halted = false) (flips : List (Nat × Nat)) :
    Does s (.reinSlot k flips) (fun t => KeepsReins (s.slotRound k flips) t
      ∧ (s.slotIsOdd k flips = true → t = (s.slotRound k flips).sensorAlarm 3)) := by
  refine ⟨_, exec_reinSlot_eq hh k flips, ?_, fun hodd => if_pos (by rw [hodd]; rfl)⟩
  split
  · exact KeepsReins.sensorAlarm ..
  · exact KeepsReins.refl _

theorem slotRound_q {t : State} {flips : List (Nat × Nat)} (h : KeepsReins (s.slotRound k flips) t) : (t.tower k).q = (s.tower k).q + 1 := by
  rw [h.tower]
  exact (congrArg Tower.q ((slotRound_spec s k flips).2 k) :).trans (slotStart_tower s k)

/-! ## A slot that every deck receives as it was sent -/

/-- Every deck applies the slot as it was sent. -/
theorem slotRound_whole : s.slotRound k [] =
    (s.slotHeard k).foldl (fun u d =>
      u.applySlot d (s.tower k).q ((s.slotSent k).map Prod.fst == some d) ((s.slotSent k).map Prod.snd)) (s.slotStart k) := rfl

theorem slotRound_towers : (s.slotRound k []).towers = (s.slotStart k).towers := by
  rw [slotRound_whole]
  generalize s.slotStart k = u
  induction s.slotHeard k generalizing u with
  | nil => rfl
  | cons d l ih => exact (ih _).trans (applySlot_towers ..)

theorem does_wholeSlot (hh : s.pkg.halted = false) (hodd : s.slotIsOdd k [] = false) : Does s (.reinSlot k []) (fun t => t = s.slotRound k []) := by
  have hmissed : (s.slotRound k []).manyMissed k = (s.slotStart k).manyMissed k := by
    rw [State.manyMissed, State.manyMissed, State.tower, State.tower, slotRound_towers]
  refine ⟨_, exec_reinSlot_eq hh k [], if_neg ?_⟩
  rw [hodd, hmissed, Bool.and_not_self]
  exact Bool.false_ne_true

theorem slotIsOdd_whole : s.slotIsOdd k [] = (s.slotHeard k).any (fun _ => ((s.slotSent k).map Prod.snd).any (slotOdd k (s.tower k).q)) := by
  unfold State.slotIsOdd
  refine congrArg (fun f => (s.slotHeard k).any f) (funext fun d => ?_)
  cases h : (s.slotSent k).map Prod.snd <;> rfl

end

/-! ## Writes that no stream and no copy awaits -/

/-- No group has changed, and the decks' queues have only lost writes of their own that are through. -/
structure OnlyEnds (s t : State) : Prop where
  groups : t.groups = s.groups
  sendQ  : ∀ d, (t.deck d).sendQ = (s.deck d).sendQ
  own    : ∀ d w, w ∈ (t.deck d).own → w ∈ (s.deck d).own

namespace OnlyEnds

theorem refl (s : State) : OnlyEnds s s := ⟨rfl, fun _ => rfl, fun _ _ => id⟩

theorem trans {s t u : State} (h : OnlyEnds s t) (k : OnlyEnds t u) : OnlyEnds s u :=
  ⟨k.groups.trans h.groups, fun d => (k.sendQ d).trans (h.sendQ d), fun d w hw => h.own d w (k.own d w hw)⟩

theorem onDeck (s : State) (d : Nat) {f : Deck → Deck} (hq : ∀ x, (f x).sendQ = x.sendQ) (ho : (f (s.deck d)).own ⊆ (s.deck d).own) :
    OnlyEnds s (s.onDeck d f) := by
  refine ⟨rfl, fun j => ?_, fun j w hw => ?_⟩
  · by_cases hj : j = d
    · rw [hj, State.deck_onDeck_self, hq]
    · rw [State.deck_onDeck_other _ _ hj]
  · by_cases hj : j = d
    · subst hj
      rw [State.deck_onDeck_self] at hw
      exact ho hw
    · rwa [State.deck_onDeck_other _ _ hj] at hw

theorem of_homeFrame {s t : State} (h : HomeFrame s t) : OnlyEnds s t := by
  have hd (d : Nat) : t.deck d = s.deck d := congrArg (fun x => Tab.get x Deck.empty d) (congrArg State.decks h.rest :)
  exact ⟨(congrArg State.groups h.rest :), fun d => by rw [hd], fun d w hw => by rwa [hd] at hw⟩

/-- The write at the head of a deck's own ones ends, and nothing awaits it. -/
theorem endOwn (s : State) (d : Nat) (old : Word) (rcd : Option Rec) (h : ∀ w ∈ (s.deck d).own, w.cmd = none ∧ w.dest = .none) :
    OnlyEnds s (s.endOwn d old rcd) := by
  unfold State.endOwn
  cases ho : (s.deck d).own with
  | nil => exact refl s
  | cons w l =>
    obtain ⟨hcmd, hdest⟩ := h w (by rw [ho]; exact List.mem_cons_self ..)
    have hcopy (u : State) : u.endCopyWrite w = u := by rw [State.endCopyWrite, hcmd]
    have hatomic (u : State) : u.endAtomic w old rcd = u := by
      unfold State.endAtomic
      rw [hdest]
      exact ite_self _
    dsimp only
    rw [hcopy, hatomic]
    exact onDeck s d (fun _ => rfl) (by rw [ho]; exact List.subset_cons_self w l)

theorem applySlot (s : State) (d q : Nat) (mine : Bool) (sent : Option RWrite)
    (h : mine = true → ∀ w ∈ (s.deck d).own, w.cmd = none ∧ w.dest = .none) : OnlyEnds s (s.applySlot d q mine sent) := by
  have hlast (u : State) : OnlyEnds u (u.onDeck d (fun x => { x with lastQ := q })) := onDeck u d (fun _ => rfl) (fun _ h => h)
  have hwrite (w : RWrite) : OnlyEnds s (s.applyWrite d mine w) := by
    have happ : OnlyEnds s ((s.onDeck d (fun x => x.applied w)).bumpDeck d 0 1) :=
      (onDeck s d (f := fun x => x.applied w) (fun _ => rfl) (fun _ h => h)).trans (of_homeFrame (HomeFrame.bumpDeck ..))
    obtain ⟨old, rcd, he⟩ := applyWrite_eq s d mine w
    rw [he]
    split
    · rename_i hm
      exact happ.trans (endOwn _ d old rcd (fun x hx => h hm x (happ.own d x hx)))
    · exact happ
  unfold State.applySlot
  cases sent with
  | none => exact hlast s
  | some w =>
    dsimp only
    split
    · exact hlast s
    · exact (hwrite w).trans (hlast _)

theorem foldl_applySlot (q : Nat) (from_ : Option Nat) (sent : Option RWrite) (l : List Nat) (s : State)
    (h : ∀ e, from_ = some e → ∀ w ∈ (s.deck e).own, w.cmd = none ∧ w.dest = .none) :
    OnlyEnds s (l.foldl (fun u d => u.applySlot d q (from_ == some d) sent) s) := by
  induction l generalizing s with
  | nil => exact refl s
  | cons d l ih =>
    have hd := applySlot s d q (from_ == some d) sent (fun hm => h d (beq_iff_eq.1 hm))
    exact hd.trans (ih _ (fun e he w hw => h e he w (hd.own e w hw)))

end OnlyEnds

/-! ## The words of a replica that a write changes -/

theorem Tab.get_foldl_set (b : Nat) (v : Nat → Word) (ks : List Nat) (t : Tab Word) (p : Nat) :
    Tab.get (ks.foldl (fun t k => Tab.set t 0 (b + k) (v k)) t) 0 p = if b ≤ p ∧ p - b ∈ ks then v (p - b) else Tab.get t 0 p := by
  induction ks generalizing t with
  | nil => simp
  | cons k ks ih =>
    rw [List.foldl_cons, ih]
    by_cases hp : p = b + k
    · subst hp
      rw [Tab.get_set_self]
      simp
    · rw [Tab.get_set_other _ _ _ hp]
      have hk : b ≤ p → ¬ p - b = k := by omega
      by_cases hb : b ≤ p
      · simp [hb, hk hb]
      · simp [hb]

/-- The words of a replica after a write that is no atomic. -/
theorem applied_word (x : Deck) {w : RWrite} (hw : w.kind ≤ 2) (line : Nat) {j : Nat} (hj : j < 32) :
    (x.applied w).rep.get 0 (32 * line + j) = if line = w.line ∧ w.mask.getLsbD j = true then w.data.getD j 0 else x.rep.get 0 (32 * line + j) := by
  have hset : (x.applied w).rep =
      (indices 32 (fun k => w.mask.getLsbD k)).foldl (fun t k => Tab.set t 0 (32 * w.line + k) (w.data.getD k 0)) x.rep := by
    simp only [Deck.applied, hw, if_true]
  rw [hset, Tab.get_foldl_set (32 * w.line) (fun k => w.data.getD k 0)]
  have hiff : (32 * w.line ≤ 32 * line + j ∧ 32 * line + j - 32 * w.line ∈ indices 32 (fun k => w.mask.getLsbD k))
      ↔ line = w.line ∧ w.mask.getLsbD j = true := by
    rw [mem_indices]
    constructor
    · rintro ⟨hle, hlt, hm⟩
      have hl : line = w.line := by omega
      subst hl
      exact ⟨rfl, by rwa [Nat.add_sub_cancel_left] at hm⟩
    · rintro ⟨rfl, hm⟩
      exact ⟨by omega, by omega, by rwa [Nat.add_sub_cancel_left]⟩
  by_cases hc : line = w.line ∧ w.mask.getLsbD j = true
  · rw [if_pos (hiff.2 hc), if_pos hc, hc.1, Nat.add_sub_cancel_left]
  · rw [if_neg (fun h => hc (hiff.1 h)), if_neg hc]

/-! ## Slots with no write, and slots with one -/

/-- The deck that sends a slot's write is of the slot's Rein, and the write stands in its queue. -/
theorem slotTaken_none {s : State} {k : Nat} (h : s.slotSent k = none) : s.slotTaken k = s := by rw [State.slotTaken, h]

theorem slotTaken_some {s : State} {k e : Nat} {w : RWrite} (h : s.slotSent k = some (e, w)) : s.slotTaken k = s.takeWrite k e w := by
  rw [State.slotTaken, h]

theorem takeWrite_deck (s : State) (k d : Nat) (w : RWrite) :
    (s.takeWrite k d w).deck d = { s.deck d with sendQ := (s.deck d).sendQ.erase w, own := (s.deck d).own ++ [w] } := by
  unfold State.takeWrite
  rw [State.deck_onDeck_self]
  split <;> rfl

/-- Decks that change one after the other by the same function. -/
theorem foldl_onDeck (f : Deck → Deck) (l : List Nat) (hl : l.Nodup) (s : State) (d : Nat) :
    (l.foldl (fun u d => u.onDeck d f) s).deck d = if d ∈ l then f (s.deck d) else s.deck d := by
  induction l generalizing s with
  | nil => simp
  | cons e l ih =>
    obtain ⟨hnot, hl⟩ := List.nodup_cons.1 hl
    rw [List.foldl_cons, ih hl]
    by_cases hd : d = e
    · rw [hd, if_neg hnot, if_pos (List.mem_cons_self ..), State.deck_onDeck_self]
    · rw [State.deck_onDeck_other _ _ hd]
      simp [hd]

section
variable {s : State} {k : Nat}

theorem slotRound_onlyEnds (h : ∀ e w, s.slotSent k = some (e, w) → ∀ x ∈ ((s.slotStart k).deck e).own, x.cmd = none ∧ x.dest = .none) :
    OnlyEnds (s.slotStart k) (s.slotRound k []) := by
  rw [slotRound_whole]
  refine OnlyEnds.foldl_applySlot _ _ _ _ _ (fun e he => ?_)
  obtain ⟨p, hp, rfl⟩ := Option.map_eq_some_iff.1 he
  exact h p.1 p.2 hp

/-- A slot with no write: every current deck notes its sequence. -/
theorem does_emptySlot (hh : s.pkg.halted = false) (hn : s.slotSent k = none) :
    Does s (.reinSlot k []) (fun t => (t.tower k).q = (s.tower k).q + 1 ∧ t.groups = s.groups
      ∧ ∀ d, t.deck d = if d ∈ s.slotHeard k then { s.deck d with lastQ := (s.tower k).q } else s.deck d) := by
  have hodd : s.slotIsOdd k [] = false := by
    rw [slotIsOdd_whole, hn]
    exact List.any_eq_false.2 (fun _ _ => Bool.false_ne_true)
  obtain ⟨t, ht, rfl⟩ := does_wholeSlot s k hh hodd
  refine ⟨_, ht, slotRound_q s k (.refl _), ?_, fun d => ?_⟩
  · exact (slotRound_onlyEnds (fun e w h => by rw [hn] at h; cases h)).groups.trans (slotStart_groups s k)
  · have hround : s.slotRound k [] = (s.slotHeard k).foldl (fun u d => u.onDeck d (fun x => { x with lastQ := (s.tower k).q })) (s.slotStart k) := by
      rw [slotRound_whole, hn]
      rfl
    have hdeck : (s.slotStart k).deck d = s.deck d := (congrArg (fun u : State => u.deck d) (slotTaken_none hn) :)
    rw [hround, foldl_onDeck _ _ (slotHeard_nodup s k), hdeck]

variable {e : Nat} {w : RWrite} (hs : s.slotSent k = some (e, w))
include hs

theorem slotStart_held : ((s.slotStart k).tower k).held.find (s.tower k).q = some w := by
  rw [State.slotStart, State.tower_onTower_self, hs]
  exact Tab.find_put_self ..

theorem slotStart_sender :
    (s.slotStart k).deck e = { s.deck e with sendQ := (s.deck e).sendQ.erase w, own := (s.deck e).own ++ [w] } :=
  (congrArg (fun u : State => u.deck e) (slotTaken_some hs)).trans (takeWrite_deck ..)

/-- What a current deck makes of a slot's write that is no atomic. -/
theorem slotRound_writes (hk : 1 ≤ w.kind) (hk2 : w.kind ≤ 2) {d : Nat} (hd : d ∈ s.slotHeard k) :
    ((s.slotRound k []).deck d).offQueues = { (s.deck d).applied w with lastQ := (s.tower k).q }.offQueues := by
  have hkind : (w.kind == 0 || w.kind == 5) = false := by simp; omega
  have hmakes : s.slotMakes k [] d (s.deck d) = { (s.deck d).applied w with lastQ := (s.tower k).q } := by
    have hseen : s.slotMakes k [] d (s.deck d) = (s.deck d).heard (s.tower k).q ((s.slotSent k).map Prod.snd) := rfl
    rw [hseen, hs]
    simp only [Deck.heard, Option.map_some, hkind, Bool.false_eq_true, if_false]
  rw [(slotRound_spec s k []).1, if_pos hd, hmakes]

theorem slotIsOdd_some : s.slotIsOdd k [] = (s.slotHeard k).any (fun _ => slotOdd k (s.tower k).q w) := by
  rw [slotIsOdd_whole, hs]
  rfl

end

/-! ## Alarms of the sensors (17 R376, R377) -/

/-- The alarms that have been hit are as they were. -/
def SameAlarms (s t : State) : Prop := t.pkg.tamperstat = s.pkg.tamperstat

namespace SameAlarms

theorem trans {s t u : State} (h : SameAlarms s t) (k : SameAlarms t u) : SameAlarms s u := Eq.trans k h

theorem foldl {α : Type} {f : State → α → State} (h : ∀ s a, SameAlarms s (f s a)) (l : List α) (s : State) : SameAlarms s (l.foldl f s) :=
  List.foldlRecOn (motive := fun t => SameAlarms s t) _ _ rfl fun t ht a _ => ht.trans (h t a)

theorem of_homeFrame {s t : State} (h : HomeFrame s t) : SameAlarms s t := (congrArg Pkg.tamperstat h.pkg :)

theorem tryPost (s : State) (p w : Nat) : SameAlarms s (s.tryPost p w) := by
  unfold State.tryPost
  cases hc : s.canPost p with
  | false =>
    rw [postRec_of_not_canPost w hc]
    rfl
  | true =>
    obtain ⟨t, ht, hf⟩ := postRec_of_canPost w hc
    rw [ht]
    exact (of_homeFrame hf :)

theorem setPkg (s : State) {k : Pkg} (h : k.tamperstat = s.pkg.tamperstat) : SameAlarms s { s with pkg := k } := h
theorem onTeam (s : State) (t : Nat) (f : Team → Team) : SameAlarms s (s.onTeam t f) := rfl
theorem onCore (s : State) (c : Nat) (f : Core → Core) : SameAlarms s (s.onCore c f) := rfl

theorem clearLocks (s : State) (n : Nat) : SameAlarms s (s.clearLocks n) := (congrArg (fun u : State => u.pkg.tamperstat) (onCores_rest s _) :)

theorem postPiece (s : State) (c id : Nat) (x : Cmd) (done : List Nat) (n flags : Nat) : SameAlarms s (s.postPiece c id x done n flags) := by
  unfold State.postPiece
  dsimp only
  split
  · exact ((onTeam ..).trans (clearLocks ..)).trans (onCore ..)
  · exact (onTeam s x.team _).trans (onCore ..)

theorem fcause (s : State) (b : Nat) : SameAlarms s (s.fcause b) := by
  unfold State.fcause
  split
  · rfl
  · exact (setPkg s (by rfl)).trans (of_homeFrame (HomeFrame.vector ..))

theorem postAll (s : State) (core trap code : Nat) : SameAlarms s (s.postAll core trap code) := by
  refine foldl (fun s p => ?_) _ s
  split
  · exact tryPost ..
  · rfl

theorem tamperHalt (s : State) : SameAlarms s s.tamperHalt := by
  have hcause (s : State) (c : Bool) (b : Nat) : SameAlarms s (if c then s.fcause b else s) := by
    split
    · exact fcause ..
    · rfl
  have hlines : SameAlarms s { s with
    hostL2 := [], l2 := s.l2.dropIf (fun l _ => isHost (l * 128)), snoop := [], pkg := { s.pkg with heldHost := [], biReqs := [] } } := rfl
  have hdown : SameAlarms s s.hostDown := hlines.trans (foldl (fun s c => foldl (fun s e => (tryPost ..).trans (postPiece ..)) _ s) _ _)
  unfold State.tamperHalt
  exact ((hdown.trans (setPkg _ (by rfl))).trans (hcause _ _ 0)).trans (hcause _ _ 2)

end SameAlarms

/-- The alarm of a sensor is among those that have been hit. -/
theorem sensorAlarm_hit (s : State) (n : Nat) : (s.sensorAlarm n).pkg.tamperstat = s.pkg.tamperstat ||| (1#4 <<< n) := by
  have halarm : SameAlarms { s with pkg := { s.pkg with tamperstat := s.pkg.tamperstat ||| (1#4 <<< n) } } (s.alarm (1#4 <<< n)) := by
    unfold State.alarm
    exact (SameAlarms.fcause ..).trans (SameAlarms.postAll ..)
  have hhalt (u : State) (b : Bool) : SameAlarms u (if b then u else u.tamperHalt) := by
    split
    · rfl
    · exact SameAlarms.tamperHalt u
  have herase (u : State) (b : Prop) [Decidable b] : SameAlarms u (if b then { u with pkg := { u.pkg with keyErased := true } } else u) := by
    split <;> rfl
  exact (halarm.trans (hhalt ..)).trans (herase ..)

/-! ## Refills (04 R111) -/

theorem endCopied_of_no_own {s : State} {d : Nat} (l : Nat) (h : (s.deck d).own = []) : s.endCopied d l = s := by
  simp [State.endCopied, h]

section
variable {s : State} {d : Nat} (hh : s.pkg.halted = false) (hst : (s.deck d).stale = true) (haw : (s.deck d).awake = true)
  (hlive : (s.deck d).live = true)
include hh hst haw hlive

theorem does_refill_held (hc : (s.deck d).copying = none) (hold : (s.tower (towerOfDeck d)).holds (s.deck d).lastQ = true) :
    Does s (.refill d) (fun t => t = (s.bumpDeck d 0x10 1).onDeck d (fun y => { y with copying := some d })) := by
  refine does_runUp (exec_refill d s) hh ?_ rfl
  simp only [hst, haw, hlive, hc, hold, Option.isSome_none, Bool.not_true, Bool.false_and, Bool.or_self, Bool.false_eq_true, if_false, if_true]

theorem does_refill_copied {k n : Nat} (hc : (s.deck d).copying = none) (hold : (s.tower (towerOfDeck d)).holds (s.deck d).lastQ = false)
    (hk : s.copySource d = some k) (hkd : k ≠ d) (hn : s.copiedAt k = some n) (hown : (s.deck d).own = []) :
    Does s (.refill d) (fun t => t = ((s.bumpDeck d 0x10 1).bumpDeck d 0x18 1).onDeck d (fun y => { y with
      rep := (s.deck k).rep, bad := (s.deck k).bad, recs := (s.deck k).recs, copying := some k, lastQ := n })) := by
  refine does_runUp (exec_refill d s) hh ?_ rfl
  have hk' : (s.bumpDeck d 0x10 1).copySource d = some k := hk
  have hn' : (s.bumpDeck d 0x10 1).copiedAt k = some n := hn
  have hkd' : (k == d) = false := by simpa using hkd
  simp only [hst, haw, hlive, hc, hold, hk', hn', hkd', Option.isSome_none, Bool.not_true, Bool.false_and, Bool.or_self, Bool.false_eq_true, if_false,
    Option.map_some]
  refine congrArg some (endCopied_of_no_own n ?_)
  rw [State.deck_onDeck_self]
  exact hown

/-- The replica once the held slots after it are applied. -/
def State.replayed (s : State) (d : Nat) : State :=
  (s.heldAfter d (s.deck d).lastQ).foldl (fun u e => u.applySlot d e.1 (deckOfCore e.2.core == d) (some e.2)) s

/-- The state in which the replica is current again. -/
def State.refilled (s : State) (d : Nat) : State :=
  (s.replayed d).onDeck d (fun y => { y with stale := false, copying := none, lastQ := (s.tower (towerOfDeck d)).q - 1, waking := false })

theorem does_refillEnd (hc : (s.deck d).copying.isSome = true) (hold : (s.tower (towerOfDeck d)).holds (s.deck d).lastQ = true) :
    Does s (.refillEnd d) (fun t => t = if (s.deck d).waking then
      ({ s.refilled d with pkg := { (s.refilled d).pkg with fstate := 2 } }).fcause 0 else s.refilled d) := by
  refine does_runUp (exec_refillEnd d s) hh ?_ rfl
  have hc' : (s.deck d).copying.isNone = false := by
    cases h : (s.deck d).copying with
    | none => rw [h] at hc; cases hc
    | some x => rfl
  simp only [hst, haw, hlive, hc', hold, Bool.not_true, Bool.or_self, Bool.false_eq_true, if_false]
  rfl

end

/-- The cause of a command's end leaves its state. -/
theorem fcause_fstate (s : State) (b : Nat) : (s.fcause b).pkg.fstate = s.pkg.fstate := by
  unfold State.fcause
  split
  · rfl
  · exact (congrArg Pkg.fstate (HomeFrame.vector { s with pkg := { s.pkg with fintstat := s.pkg.fintstat ||| (1#3 <<< b) } } (28 + b)).pkg :)

/-- The replica after a refill. -/
theorem refilled_deck (s : State) (d : Nat) : (s.refilled d).deck d =
    { (s.replayed d).deck d with stale := false, copying := none, lastQ := (s.tower (towerOfDeck d)).q - 1, waking := false } :=
  State.deck_onDeck_self ..

end Sys2Proof.Machine

namespace Sys2Proof

open Sys2Proof.Machine

/-- Settles O53: by what a deck makes of the slot that it receives, whose effects on streams and copies leave the Rein as it is. -/
theorem reinEvents : Obligations.ReinEvents := by
  unfold Obligations.ReinEvents
  intro s hh
  refine ⟨?_, ?_, ?_⟩
  · intro k q decks
    refine ⟨fun hn => ?_, fun e w hs hk hk2 hdest hcmd hown hcore => ?_, fun e w hs hk hk4 hcore hany => ?_, ?_⟩
    · obtain ⟨t, ht, hq, hgroups, hdeck⟩ := does_emptySlot (k := k) hh hn
      refine ⟨t, ht, hq, hgroups, fun d hd ha => ?_, fun d hd => ?_⟩
      · rw [hdeck, if_pos ((mem_slotHeard ..).2 ⟨hd, ha⟩)]
      · rw [hdeck, if_neg (fun h => ?_)]
        obtain ⟨hd', ha⟩ := (mem_slotHeard ..).1 h
        rcases hd with hd | hd
        · exact hd hd'
        · rw [hd] at ha
          cases ha
    · have hs' : s.slotSent k = some (e, w) := hs
      have hodd : s.slotIsOdd k [] = false := by
        have hw : slotOdd k (s.tower k).q w = false := by
          have h5 : (w.kind == 5) = false := by simp; omega
          simp [slotOdd, hcore, h5]
        rw [slotIsOdd_some hs', hw]
        exact List.any_eq_false.2 (fun _ _ => Bool.false_ne_true)
      have hends : OnlyEnds (s.slotStart k) (s.slotRound k []) := by
        refine slotRound_onlyEnds (fun e' w' h x hx => ?_)
        obtain ⟨rfl, rfl⟩ := Prod.mk.inj (Option.some.inj (hs'.symm.trans h))
        rw [slotStart_sender hs', hown] at hx
        rw [List.mem_singleton.1 hx]
        exact ⟨hcmd, hdest⟩
      obtain ⟨t, ht, rfl⟩ := does_wholeSlot s k hh hodd
      refine ⟨_, ht, slotRound_q s k (.refl _), ?_, hends.groups.trans (slotStart_groups s k), ?_, fun d hd ha => ?_⟩
      · exact (congrArg (fun x : Tower => x.held.find q) ((slotRound_spec s k []).2 k) :).trans (slotStart_held hs')
      · rw [hends.sendQ, slotStart_sender hs']
      · have hdeck := slotRound_writes hs' hk hk2 ((mem_slotHeard ..).2 ⟨hd, ha⟩)
        refine ⟨(congrArg Deck.lastQ hdeck :), fun line j hj => ?_, ?_⟩
        · exact (congrArg (fun x : Deck => x.rep.get 0 (32 * line + j)) hdeck :).trans (applied_word _ hk2 line hj)
        · refine (congrArg (fun x : Deck => x.recs.find w.line) hdeck :).trans ?_
          have h4 : (w.kind == 4) = false := by simp; omega
          by_cases h2 : w.kind = 2
          · simp [Deck.applied, Deck.offQueues, h2, Tab.find_put_self]
          · simp [Deck.applied, Deck.offQueues, h2, h4]
    · have hs' : s.slotSent k = some (e, w) := hs
      have hodd : s.slotIsOdd k [] = true := by
        obtain ⟨d, hd, ha⟩ := List.any_eq_true.1 hany
        have hw : slotOdd k (s.tower k).q w = true := by
          have h0 : (w.kind != 0) = true := by simp; omega
          have h5 : (w.kind != 5) = true := by simp; omega
          simp [slotOdd, h0, h5, hcore]
        rw [slotIsOdd_some hs', hw]
        exact List.any_eq_true.2 ⟨d, (mem_slotHeard ..).2 ⟨hd, ha⟩, rfl⟩
      obtain ⟨t, ht, hkeeps, halarm⟩ := does_reinSlot s k hh []
      refine ⟨t, ht, ?_, slotRound_q s k hkeeps⟩
      rw [halarm hodd, sensorAlarm_hit]
      simp
    · intro flips bits
      obtain ⟨t, ht, hkeeps, -⟩ := does_reinSlot s k hh flips
      refine ⟨t, ht, slotRound_q s k hkeeps, fun d hd ha hbits hbad => ?_⟩
      have hmakes : s.slotMakes k flips d (s.deck d) = (s.deck d).lost := by
        have hseen : slotSeen (s.tower k).q ((s.slotSent k).map Prod.snd) (slotBits flips d) = none := by
          have hne : (slotBits flips d).isEmpty = false := List.isEmpty_eq_false_iff.2 hbits
          rw [slotSeen, hne]
          exact congrArg (Option.map some) hbad
        rw [State.slotMakes, hseen]
        rfl
      have hdeck := (hkeeps.decks d).trans ((slotRound_spec s k flips).1 d)
      rw [if_pos ((mem_slotHeard ..).2 ⟨hd, ha⟩), hmakes] at hdeck
      exact ⟨(congrArg Deck.stale hdeck :), (congrArg Deck.rep hdeck :), (congrArg Deck.lastQ hdeck :)⟩
  · intro d hst haw hlive hc
    refine ⟨fun hold => ?_, fun k n hold hk hkd hn hown => ?_⟩
    · obtain ⟨t, ht, rfl⟩ := does_refill_held hh hst haw hlive hc hold
      exact ⟨_, ht, State.deck_onDeck_self .., fun e he => State.deck_onDeck_other _ _ he⟩
    · obtain ⟨t, ht, rfl⟩ := does_refill_copied hh hst haw hlive hc hold hk hkd hn hown
      refine ⟨_, ht, ?_, ?_, ?_, ?_, fun e he => State.deck_onDeck_other _ _ he⟩
      all_goals rw [State.deck_onDeck_self]
  · intro d hst haw hlive hc hold
    obtain ⟨t, ht, rfl⟩ := does_refillEnd hh hst haw hlive hc hold
    have hkeeps : KeepsReins (s.refilled d) (if (s.deck d).waking then
        ({ s.refilled d with pkg := { (s.refilled d).pkg with fstate := 2 } }).fcause 0 else s.refilled d) := by
      split
      · exact (KeepsReins.setPkg _ _).trans (KeepsReins.fcause ..)
      · exact .refl _
    have hdeck := hkeeps.decks d
    rw [refilled_deck] at hdeck
    refine ⟨_, ht, (congrArg Deck.stale hdeck :), (congrArg Deck.copying hdeck :), (congrArg Deck.lastQ hdeck :), fun hnone => ?_, fun hwake => ?_⟩
    · have hreplay : s.replayed d = s := by rw [State.replayed, hnone]; rfl
      rw [hreplay] at hdeck
      exact (congrArg Deck.rep hdeck :)
    · rw [if_pos hwake, fcause_fstate]

end Sys2Proof
end

section
/-! The places of a frame's areas, the driver's answers, teams that stop, pre-emption, and the bound of a drain (15 R306, R316, R320, R321). -/

namespace Sys2Proof.Machine

open Sys2Proof

/-! ## The places of a frame's areas (15 R321) -/

/-- The first byte of the lane area of the group with index i, and after the last group's. -/
def laneAt (counts : List Nat) (i : Nat) : Nat := 0xA000 + ((counts.take i).map (fun c => 128 * c + 512)).sum

theorem lanes_eq (counts : List Nat) :
    counts.foldl (fun l c => l ++ [l.getLast?.getD 0xA000 + 128 * c + 512]) [0xA000] = (List.range (counts.length + 1)).map (laneAt counts) := by
  induction counts using List.reverseRecOn with
  | nil => rfl
  | append_singleton l c ih =>
    have hlast : ((List.range (l.length + 1)).map (laneAt l)).getLast? = some (laneAt l l.length) := by simp [List.range_succ]
    have hold : (List.range (l.length + 1)).map (laneAt (l ++ [c])) = (List.range (l.length + 1)).map (laneAt l) :=
      List.map_congr_left fun i hi => by
        have hle : i ≤ l.length := by simpa [Nat.lt_succ_iff] using hi
        rw [laneAt, laneAt, List.take_append_of_le_length hle]
    have hnew : laneAt (l ++ [c]) (l.length + 1) = laneAt l l.length + 128 * c + 512 := by
      simp [laneAt]
      omega
    rw [List.foldl_append, ih, List.foldl_cons, List.foldl_nil, hlast, List.length_append, List.length_singleton, List.range_succ (n := l.length + 1),
      List.map_append, hold, List.map_singleton, hnew]
    rfl

theorem lane_getD (counts : List Nat) (acc scratch niq : Nat) {i : Nat} (h : i ≤ counts.length) :
    (layoutOf counts acc scratch niq).lane.getD i 0 = laneAt counts i := by
  have hl : (layoutOf counts acc scratch niq).lane = (List.range (counts.length + 1)).map (laneAt counts) := lanes_eq counts
  rw [hl]
  simp [List.getD, Nat.lt_succ_iff.2 h]

theorem roundUp_spec {m : Nat} (hm : 0 < m) (n : Nat) : roundUp m n % m = 0 ∧ n ≤ roundUp m n ∧ roundUp m n < n + m := by
  have hdiv := Nat.div_add_mod (n + m - 1) m
  have hlt := Nat.mod_lt (n + m - 1) hm
  rw [Nat.mul_comm] at hdiv
  refine ⟨Nat.mul_mod_left .., ?_, ?_⟩ <;> (unfold roundUp; omega)

/-- The areas follow one another at their alignments. -/
theorem layoutOf_spec (counts : List Nat) (acc scratch niq : Nat) :
    let y := layoutOf counts acc scratch niq
    (∀ i, i ≤ counts.length → y.lane.getD i 0 = 0xA000 + ((counts.take i).map (fun c => 128 * c + 512)).sum)
      ∧ y.acc % 4096 = 0 ∧ y.lane.getD counts.length 0 ≤ y.acc ∧ y.acc < y.lane.getD counts.length 0 + 4096
      ∧ y.win % 4096 = 0 ∧ y.acc + 1024 * acc ≤ y.win ∧ y.win < y.acc + 1024 * acc + 4096
      ∧ y.team % 4096 = 0 ∧ y.win + scratch ≤ y.team ∧ y.team < y.win + scratch + 4096
      ∧ y.size % 65536 = 0 ∧ y.team + 256 + 2056 * niq ≤ y.size ∧ y.size < y.team + 256 + 2056 * niq + 65536 := by
  intro y
  have hacc : y.acc = roundUp 4096 (y.lane.getD counts.length 0) := by
    have hlane : y.lane = (List.range (counts.length + 1)).map (laneAt counts) := lanes_eq counts
    have hlast : y.lane.getLast?.getD 0xA000 = y.lane.getD counts.length 0 := by
      rw [hlane]
      simp [List.range_succ, List.getD]
    exact congrArg (roundUp 4096) hlast
  obtain ⟨ha, ha1, ha2⟩ := roundUp_spec (m := 4096) (by decide) (y.lane.getD counts.length 0)
  obtain ⟨hw, hw1, hw2⟩ := roundUp_spec (m := 4096) (by decide) (y.acc + 1024 * acc)
  obtain ⟨ht, ht1, ht2⟩ := roundUp_spec (m := 4096) (by decide) (y.win + scratch)
  obtain ⟨hs, hs1, hs2⟩ := roundUp_spec (m := 65536) (by decide) (y.team + 256 + 2056 * niq)
  rw [← hacc] at ha ha1 ha2
  exact ⟨fun i hi => lane_getD counts acc scratch niq hi, ha, ha1, ha2, hw, hw1, hw2, ht, ht1, ht2, hs, hs1, hs2⟩

/-! ## The driver's answers, and pre-emption (15 R306, R316, R320) -/

theorem exec_fresume_spec {s : State} {p : Nat} (ha : s.answers p = true) (frame : Nat) :
    let answer (act : Nat) (t : State) : Prop :=
      (t.part p).fresume = BitVec.ofNat 64 (act * 2 ^ 32 + frame % 2 ^ 32) ∧ t.groups = s.groups ∧ t.teams = s.teams
        ∧ (t.part p).saved = (s.part p).saved.map (fun v =>
            if v.frame = frame ∧ v.reason = 2 ∧ v.ready = false then { v with ready := true, fail := act == 2 } else v)
    Does s (.fresumeRetry p frame) (answer 1) ∧ Does s (.fresumeFail p frame) (answer 2) := by
  intro answer
  have hev (act : Nat) : ∃ t, s.fresume p frame act = some t ∧ answer act t := by
    refine ⟨_, (if_neg (by simp [ha]) : s.fresume p frame act = some _), ?_, rfl, rfl, ?_⟩
    · exact (congrArg Part.fresume (State.part_onPart_self ..) :)
    · refine (congrArg Part.saved (State.part_onPart_self ..)).trans ?_
      refine List.map_congr_left fun v _ => if_congr ?_ rfl rfl
      simp [and_assoc]
  obtain ⟨t, ht, hat⟩ := hev 1
  obtain ⟨u, hu, hau⟩ := hev 2
  exact ⟨⟨t, by rw [exec_fresumeRetry, execFresumeRetry, ht]; rfl, hat⟩, ⟨u, by rw [exec_fresumeFail, execFresumeFail, hu]; rfl, hau⟩⟩

theorem does_preemptReq_later {s : State} {p : Nat} (ha : s.answers p = true) (h : (s.part p).preState ≠ 0) :
    Does s (.preemptReq p) (fun t => t = s.onPart p (fun x => { x with preReq := true })) := by
  refine ⟨_, ?_, rfl⟩
  rw [exec_preemptReq, execPreemptReq, if_neg (by simp [ha]), if_pos (by simpa using h)]
  rfl

theorem does_preemptRestore_later {s : State} {p : Nat} (ha : s.answers p = true) (h : (s.part p).preState ≠ 2) :
    Does s (.preemptRestore p) (fun t => t = s.onPart p (fun x => { x with preReq := false })) := by
  refine ⟨_, ?_, rfl⟩
  rw [exec_preemptRestore, execPreemptRestore, if_neg (by simp [ha]), if_pos (by simpa using h)]
  rfl

/-- The test of a restored partition changes its STATE alone, and its interrupts. -/
theorem restoredTest_part (s : State) (p : Nat) :
    { (s.restoredTest p).part p with snap := Snap.empty, intstat := 0 } =
      { s.part p with
        preState := if (s.part p).preState = 3 ∧ (s.part p).saved.all (fun v => !v.ready) = true then 0 else (s.part p).preState,
        snap := Snap.empty, intstat := 0 } := by
  unfold State.restoredTest
  by_cases h : (s.part p).preState = 3 ∧ (s.part p).saved.all (fun v => !v.ready) = true
  · rw [if_pos (by simpa using h), if_pos h]
    refine ((HomeFrame.cause _ p 3).parts p).trans ?_
    rw [State.part_onPart_self]
  · rw [if_neg (by simpa using h), if_neg h]

theorem does_preemptRestore {s : State} {p : Nat} (ha : s.answers p = true) (h : (s.part p).preState = 2) :
    Does s (.preemptRestore p) (fun t => (t.part p).preReq = false ∧ (t.part p).halting = false
      ∧ (t.part p).preState = (if (s.part p).saved.all (fun v => !v.ready) then 0 else 3)) := by
  have hpart := restoredTest_part (s.onPart p (fun x => { x with preReq := false, preState := 3, halting := false })) p
  rw [State.part_onPart_self] at hpart
  refine ⟨_, ?_, (congrArg Part.preReq hpart :), (congrArg Part.halting hpart :), (congrArg Part.preState hpart :).trans ?_⟩
  · rw [exec_preemptRestore, execPreemptRestore, if_neg (by simp [ha]), if_neg (by simp [h])]
    rfl
  · simp

/-! ## Teams that stop (15 R316, R320) -/

/-- The team without its claims. -/
def Team.offClaims (t : Team) : Team := { t with claims := [] }

/-- Groups have stopped: claims are withdrawn, and the groups' records change but for what says whether they stop. -/
structure Stops (s t : State) : Prop where
  team   : ∀ j, (t.team j).offClaims = (s.team j).offClaims
  sys    : ∀ j, (t.grp j).sys = (s.grp j).sys
  pend   : ∀ j, (t.grp j).pend = (s.grp j).pend
  halted : ∀ j, (s.grp j).halted = true → (t.grp j).halted = true
  rest   : { t with groups := [], teams := [] } = { s with groups := [], teams := [] }

namespace Stops

theorem refl (s : State) : Stops s s := ⟨fun _ => rfl, fun _ => rfl, fun _ => rfl, fun _ => id, rfl⟩

theorem trans {s t u : State} (h : Stops s t) (k : Stops t u) : Stops s u :=
  ⟨fun j => (k.team j).trans (h.team j), fun j => (k.sys j).trans (h.sys j), fun j => (k.pend j).trans (h.pend j),
    fun j => k.halted j ∘ h.halted j, k.rest.trans h.rest⟩

theorem dropClaim (s : State) (g : Nat) : Stops s (s.dropClaim g) := by
  refine ⟨fun j => ?_, fun _ => rfl, fun _ => rfl, fun _ => id, rfl⟩
  unfold State.dropClaim
  by_cases hj : j = (s.grp g).team
  · rw [hj, State.team_onTeam_self]
    rfl
  · rw [State.team_onTeam_other _ _ hj]

/-- A change of a group's record that keeps what says whether it stops. -/
theorem onGrp (s : State) (g : Nat) {f : Group → Group} (hs : (f (s.grp g)).sys = (s.grp g).sys) (hp : (f (s.grp g)).pend = (s.grp g).pend)
    (hh : (f (s.grp g)).halted = true) : Stops s (s.onGrp g f) := by
  refine ⟨fun _ => rfl, fun j => ?_, fun j => ?_, fun j => ?_, rfl⟩
  all_goals by_cases hj : j = g
  · rw [hj, State.grp_onGrp_self, hs]
  · rw [State.grp_onGrp_other _ _ hj]
  · rw [hj, State.grp_onGrp_self, hp]
  · rw [State.grp_onGrp_other _ _ hj]
  · rw [hj, State.grp_onGrp_self]
    exact fun _ => hh
  · rw [State.grp_onGrp_other _ _ hj]
    exact id

theorem stopGroup (s : State) (g : Nat) : Stops s (s.stopGroup g) := by
  unfold State.stopGroup
  extract_lets x trap
  split
  · exact refl s
  · exact (dropClaim s g).trans (onGrp _ g rfl rfl rfl)

theorem foldl (l : List Nat) (s : State) : Stops s (l.foldl State.stopGroup s) :=
  List.foldlRecOn (motive := fun t => Stops s t) _ _ (refl s) fun _ ht g _ => ht.trans (stopGroup _ g)

end Stops

/-- A group outside a handler that awaits no trap stands stalled. -/
theorem stopGroup_halted {s : State} {g : Nat} (hs : (s.grp g).sys = false)
    (hp : ∀ lane code info l va, (s.grp g).pend ≠ some (.trap lane code info l va)) :
    ((s.stopGroup g).grp g).halted = true := by
  unfold State.stopGroup
  extract_lets x trap
  have htrap : trap = false := by
    unfold trap
    split
    · rename_i h
      exact absurd h (hp _ _ _ _ _)
    · rfl
    · rfl
  have hsys : x.sys = false := hs
  rw [htrap, hsys, if_neg (by decide), State.grp_onGrp_self]

theorem foldl_stopGroup_halted {l : List Nat} {s : State} {g : Nat} (hg : g ∈ l) (hs : (s.grp g).sys = false)
    (hp : ∀ lane code info l va, (s.grp g).pend ≠ some (.trap lane code info l va)) : ((l.foldl State.stopGroup s).grp g).halted = true := by
  induction l generalizing s with
  | nil => cases hg
  | cons e l ih =>
    have he := Stops.stopGroup s e
    by_cases hge : g = e
    · subst hge
      exact (Stops.foldl l _).halted g (stopGroup_halted hs hp)
    · exact ih ((List.mem_cons.1 hg).resolve_left hge) ((he.sys g).trans hs) (fun _ _ _ _ _ h => hp _ _ _ _ _ ((he.pend g).symm.trans h))

/-- The team's record once it stops. -/
def Team.stops (t : Team) (reason : Nat) (b : Option (List (Nat × Bool))) : Team := { t with saving := reason, blocked := b }

theorem stopTeam_eq (s : State) (k reason : Nat) :
    s.stopTeam k reason = (s.team k).gids.foldl State.stopGroup (s.onTeam k (fun x => x.stops reason (s.teamStalls (s.team k)))) := by
  have hg : ((s.onTeam k (fun x => x.stops reason (s.teamStalls (s.team k)))).team k).gids = (s.team k).gids := by
    rw [State.team_onTeam_self]
    rfl
  rw [← hg]
  rfl

theorem stopTeam_stops (s : State) (k reason : Nat) :
    Stops (s.onTeam k (fun x => x.stops reason (s.teamStalls (s.team k)))) (s.stopTeam k reason) := by
  rw [stopTeam_eq]
  exact Stops.foldl ..

theorem stopTeam_self (s : State) (k reason : Nat) :
    ((s.stopTeam k reason).team k).offClaims = ((s.team k).stops reason (s.teamStalls (s.team k))).offClaims := by
  rw [(stopTeam_stops s k reason).team, State.team_onTeam_self]

theorem stopTeam_other (s : State) (k reason : Nat) {j : Nat} (h : j ≠ k) : ((s.stopTeam k reason).team j).offClaims = (s.team j).offClaims := by
  rw [(stopTeam_stops s k reason).team, State.team_onTeam_other _ _ h]

theorem stopTeam_team (s : State) (k reason : Nat) {α : Type} {f : Team → α} (hf : ∀ x, f x.offClaims = f x) (j : Nat) :
    f ((s.stopTeam k reason).team j) = if j = k then f ((s.team k).stops reason (s.teamStalls (s.team k))) else f (s.team j) := by
  rw [← hf]
  split
  · rename_i h
    rw [h, stopTeam_self, hf]
  · rename_i h
    rw [stopTeam_other s k reason h, hf]

theorem stopTeam_rest (s : State) (k reason : Nat) :
    { s.stopTeam k reason with groups := [], teams := [] } = { s with groups := [], teams := [] } := (stopTeam_stops s k reason).rest

theorem stopTeam_halted {s : State} {k reason g : Nat} (hg : g ∈ (s.team k).gids) (hs : (s.grp g).sys = false)
    (hp : ∀ lane code info l va, (s.grp g).pend ≠ some (.trap lane code info l va)) : ((s.stopTeam k reason).grp g).halted = true := by
  rw [stopTeam_eq]
  exact foldl_stopGroup_halted hg hs hp

/-! ## A pre-emption (15 R320) -/

theorem stopTeam_saving (s : State) (k j : Nat) : ((s.stopTeam k 1).team j).saving = if j = k then 1 else (s.team j).saving :=
  stopTeam_team s k 1 (f := Team.saving) (fun _ => rfl) j

theorem stopTeam_part (s : State) (k reason j : Nat) : ((s.stopTeam k reason).team j).part = (s.team j).part := by
  refine (stopTeam_team s k reason (f := Team.part) (fun _ => rfl) j).trans ?_
  split
  · rename_i h
    rw [h]
    rfl
  · rfl

theorem foldl_stopTeam (l : List Nat) (s : State) :
    let t := l.foldl (fun s k => s.stopTeam k 1) s
    (∀ j, (t.team j).saving = if j ∈ l then 1 else (s.team j).saving) ∧ (∀ j, (t.team j).part = (s.team j).part) ∧ t.parts = s.parts := by
  induction l generalizing s with
  | nil => exact ⟨fun _ => by simp, fun _ => rfl, rfl⟩
  | cons k l ih =>
    obtain ⟨hsaving, hpart, hparts⟩ := ih (s.stopTeam k 1)
    refine ⟨fun j => ?_, fun j => (hpart j).trans (stopTeam_part s k 1 j), hparts.trans (congrArg State.parts (stopTeam_rest s k 1) :)⟩
    rw [List.foldl_cons, hsaving, stopTeam_saving]
    by_cases hj : j = k <;> simp [hj]

/-- The launch state is written, where the Stable has a place for it. -/
def State.saveLaunches (s : State) (p : Nat) : State :=
  if bits (s.part p).stable.toNat 0 13 == 0 then s else s.physSet p (bits (s.part p).stable.toNat 21 31 * 2 ^ 21) 8 1

theorem HomeFrame.saveLaunches (s : State) (p : Nat) : HomeFrame s (s.saveLaunches p) := by
  unfold State.saveLaunches
  split
  · exact refl s
  · exact physSet ..

theorem preemptTest_eq (s : State) (p : Nat) :
    s.preemptTest p = if (s.part p).preState = 1 ∧ s.teams.all (fun e => e.2.part != p) = true then
      ((s.saveLaunches p).onPart p (fun y => { y with preState := 2 })).cause p 3 else s :=
  if_congr (by simp) rfl rfl

/-- The test of a pre-emption changes the partition's STATE alone, and its snapshot and interrupts. -/
theorem preemptTest_part (s : State) (p : Nat) :
    { (s.preemptTest p).part p with snap := Snap.empty, intstat := 0 } =
      { s.part p with
        preState := if (s.part p).preState = 1 ∧ s.teams.all (fun e => e.2.part != p) = true then 2 else (s.part p).preState,
        snap := Snap.empty, intstat := 0 } := by
  by_cases h : (s.part p).preState = 1 ∧ s.teams.all (fun e => e.2.part != p) = true
  · rw [preemptTest_eq, if_pos h, if_pos h]
    refine ((HomeFrame.cause _ p 3).parts p).trans ?_
    rw [State.part_onPart_self]
    exact (congrArg (fun y : Part => { y with preState := 2 }) ((HomeFrame.saveLaunches s p).parts p) :)
  · rw [preemptTest_eq, if_neg h, if_neg h]

/-- A team that stops, or has stopped, has its entry. -/
theorem mem_teams_of_saving {s : State} {k : Nat} (h : (s.team k).saving ≠ 0) : (k, s.team k) ∈ s.teams := by
  have hget : s.team k = (s.teams.find k).getD Team.empty := by
    unfold State.team Tab.get
    cases s.teams.find k <;> rfl
  cases hf : s.teams.find k with
  | none =>
    rw [hget, hf] at h
    exact absurd rfl h
  | some x =>
    rw [hget, hf]
    exact Tab.mem_of_find hf

/-- The numbers of the teams of a partition that do not stop yet. -/
def State.running (s : State) (p : Nat) : List Nat := (s.teams.filter (fun e => e.2.part == p && e.2.saving == 0)).map Prod.fst

theorem team_of_find {s : State} {k : Nat} {x : Team} (h : s.teams.find k = some x) : s.team k = x := by
  rw [State.team, Tab.get, h]
  rfl

/-- A partition that has a team has it still when its teams stop. -/
theorem all_stopped {s : State} (p : Nat) (hr : Tab.rising s.teams = true) :
    ((s.running p).foldl (fun s k => s.stopTeam k 1) s).teams.all (fun e => e.2.part != p) = s.teams.all (fun e => e.2.part != p) := by
  obtain ⟨hsaving, hpart, -⟩ := foldl_stopTeam (s.running p) s
  cases hall : s.teams.all (fun e => e.2.part != p) with
  | true =>
    have hnone : s.running p = [] := by
      rw [State.running, List.map_eq_nil_iff, List.filter_eq_nil_iff]
      intro e he
      have := List.all_eq_true.1 hall e he
      simp only [bne_iff_ne] at this
      simp [this]
    rw [hnone]
    exact hall
  | false =>
    obtain ⟨⟨k, x⟩, he, hp⟩ := List.all_eq_false.1 hall
    have hx : s.team k = x := team_of_find (Tab.find_of_mem hr he)
    have hp : x.part = p := by simpa using hp
    have hsave : (((s.running p).foldl (fun s k => s.stopTeam k 1) s).team k).saving ≠ 0 := by
      rw [hsaving]
      split
      · decide
      · rename_i hk
        refine fun h => hk (List.mem_map.2 ⟨(k, x), List.mem_filter.2 ⟨he, ?_⟩, rfl⟩)
        rw [hx] at h
        simp [hp, h]
    refine List.all_eq_false.2 ⟨_, mem_teams_of_saving hsave, ?_⟩
    simp [hpart, hx, hp]

theorem does_preemptReq {s : State} {p : Nat} (ha : s.answers p = true) (h : (s.part p).preState = 0) (hr : Tab.rising s.teams = true) :
    Does s (.preemptReq p) (fun t => (t.part p).preReq = true ∧ (t.part p).halting = true
      ∧ (t.part p).preState = (if s.teams.all (fun e => e.2.part != p) then 2 else 1)
      ∧ ∀ k x, s.teams.find k = some x → x.part = p → x.saving = 0 → (t.team k).saving = 1) := by
  generalize hu : s.onPart p (fun x => { x with preReq := true, preState := 1, halting := true }) = u
  have hteams : u.teams = s.teams := by rw [← hu]; rfl
  have hexec : exec (.preemptReq p) s = .next (((u.running p).foldl (fun s k => s.stopTeam k 1) u).preemptTest p) := by
    rw [exec_preemptReq, execPreemptReq, if_neg (by simp [ha]), if_neg (by simp [h]), hu]
    rfl
  have hall := all_stopped (s := u) p (by rw [hteams]; exact hr)
  obtain ⟨hsaving, -, hparts⟩ := foldl_stopTeam (u.running p) u
  generalize hv : (u.running p).foldl (fun s k => s.stopTeam k 1) u = v at *
  have hp : v.part p = { s.part p with preReq := true, preState := 1, halting := true } := by
    have hsame : v.part p = u.part p := congrArg (fun x => Tab.get x Part.empty p) hparts
    rw [hsame, ← hu, State.part_onPart_self]
  have hpart := preemptTest_part v p
  rw [hp, hall, hteams] at hpart
  refine ⟨_, hexec, (congrArg Part.preReq hpart :), (congrArg Part.halting hpart :),
    (congrArg Part.preState hpart :).trans (if_congr (and_iff_right rfl) rfl rfl), ?_⟩
  intro k x hk hx hsave
  have hteam : (v.preemptTest p).team k = v.team k := congrArg (fun x => Tab.get x Team.empty k) (KeepsStages.preemptTest v p).teams
  rw [hteam, hsaving, if_pos]
  refine List.mem_map.2 ⟨(k, x), List.mem_filter.2 ⟨Tab.mem_of_find (hteams.symm ▸ hk), ?_⟩, rfl⟩
  simp [hx, hsave]

/-! ## The bound of a drain (11 R104) -/

theorem Tab.ne_of_mem_del {α : Type} {t : Tab α} {k : Nat} {e : Nat × α} (h : e ∈ Tab.del t k) : e.1 ≠ k := by
  induction t with
  | nil => cases h
  | cons f t ih =>
    by_cases hk : f.1 = k
    · simp only [Tab.del, hk, beq_self_eq_true, if_true] at h
      exact ih h
    · simp only [Tab.del, beq_iff_eq, hk, if_false] at h
      rcases List.mem_cons.1 h with rfl | h
      · exact hk
      · exact ih h

theorem Tab.ne_of_find_none {α : Type} {t : Tab α} {k : Nat} (h : Tab.find t k = none) {e : Nat × α} (he : e ∈ t) : e.1 ≠ k := by
  induction t with
  | nil => cases he
  | cons f t ih =>
    by_cases hk : f.1 = k
    · simp [Tab.find, hk] at h
    · simp only [Tab.find, beq_iff_eq, hk, if_false] at h
      rcases List.mem_cons.1 he with rfl | he
      · exact hk
      · exact ih h he

/-- What a change of every core's range entries leaves of the cores. -/
theorem cmds_clearLocks (s : State) (n c : Nat) : ((s.clearLocks n).core c).cmds = (s.core c).cmds := by
  refine List.foldlRecOn (motive := fun t : State => (t.core c).cmds = (s.core c).cmds) _ _ rfl fun t ht e _ => ?_
  by_cases hc : c = e
  · rw [hc, State.core_onCore_self, ← hc]
    exact ht
  · rw [State.core_onCore_other _ _ hc]
    exact ht

theorem groups_clearLocks (s : State) (n : Nat) : (s.clearLocks n).groups = s.groups := (congrArg State.groups (onCores_rest ..) :)

/-- The command has gone, and no other has come. -/
theorem mem_cmds_abandonCmd {s : State} {c id : Nat} {e : Nat × Cmd} (h : e ∈ ((s.abandonCmd c id).core c).cmds) :
    e ∈ (s.core c).cmds ∧ e.1 ≠ id := by
  unfold State.abandonCmd at h
  split at h
  · rename_i hnone
    exact ⟨h, Tab.ne_of_find_none hnone h⟩
  · extract_lets u at h
    rw [State.core_onCore_self, cmds_clearLocks] at h
    have hu : u.core c = s.core c := by
      unfold u
      split <;> rfl
    rw [hu] at h
    exact ⟨Tab.mem_del h, Tab.ne_of_mem_del h⟩

theorem groups_abandonCmd (s : State) (c id : Nat) : (s.abandonCmd c id).groups = s.groups := by
  unfold State.abandonCmd
  split
  · rfl
  · refine (groups_clearLocks _ _).trans ?_
    split <;> rfl

theorem mem_cmds_foldl {c : Nat} {e : Nat × Cmd} (ids : List Nat) {s : State} (h : e ∈ ((ids.foldl (fun s id => s.abandonCmd c id) s).core c).cmds) :
    e ∈ (s.core c).cmds ∧ e.1 ∉ ids := by
  induction ids generalizing s with
  | nil => exact ⟨h, List.not_mem_nil⟩
  | cons id ids ih =>
    obtain ⟨hmem, hne⟩ := ih h
    obtain ⟨hs, hid⟩ := mem_cmds_abandonCmd hmem
    exact ⟨hs, fun hin => (List.mem_cons.1 hin).elim hid hne⟩

theorem cmds_abandonTeam (s : State) (k : Nat) : ((s.abandonTeam k).core (k / 16)).cmds.all (fun e => e.2.team != k) = true := by
  refine List.all_eq_true.2 fun e he => ?_
  obtain ⟨hs, hne⟩ := mem_cmds_foldl _ he
  refine bne_iff_ne.2 fun hk => hne (List.mem_map.2 ⟨e, List.mem_filter.2 ⟨hs, ?_⟩, rfl⟩)
  simp [hk]

theorem groups_abandonTeam (s : State) (k : Nat) : (s.abandonTeam k).groups = s.groups :=
  List.foldlRecOn (motive := fun t : State => t.groups = s.groups) _ _ rfl fun t ht id _ => (groups_abandonCmd t _ id).trans ht

theorem does_drainBound {s : State} {k : Nat} {t0 : Team} (hh : s.pkg.halted = false) (hk : s.teams.find k = some t0) (hsave : t0.saving ≠ 0) :
    Does s (.drainBound k) (fun t =>
      (t.core (k / 16)).cmds.all (fun e => e.2.team != k) = true
        ∧ (t.core t0.core).locks.all (fun e => e.2.glob || e.2.owner != k || e.2.cmd % 2 == 0) = true ∧ t.groups = s.groups) := by
  refine does_runUp (s := s) (t := (s.abandonTeam k).onCore t0.core (fun x => { x with
    locks := x.locks.dropIf (fun _ e => !e.glob && e.owner == k && e.cmd % 2 == 1) })) (exec_drainBound k s) hh ?_ ⟨?_, ?_, groups_abandonTeam s k⟩
  · simp only [hk, beq_iff_eq, hsave, if_false]
  · have hcmds := cmds_abandonTeam s k
    by_cases hc : k / 16 = t0.core
    · rw [hc, State.core_onCore_self, ← hc]
      exact hcmds
    · rw [State.core_onCore_other _ _ hc]
      exact hcmds
  · rw [State.core_onCore_self]
    refine List.all_eq_true.2 fun e he => ?_
    have hkept := (List.mem_filter.1 he).2
    have hpar : (e.2.cmd % 2 == 0) = !(e.2.cmd % 2 == 1) := by rcases Nat.mod_two_eq_zero_or_one e.2.cmd with h | h <;> simp [h]
    rw [hpar]
    simpa only [Bool.not_and, Bool.not_not, bne] using hkept

end Sys2Proof.Machine
end

section
/-! What saves and ends of teams leave of the partitions' records (15 R307, R322). -/

namespace Sys2Proof.Machine

open Sys2Proof

/-! ## What saves and ends of teams leave of the partitions' records -/

/-- The partition's record without its STATE, its snapshot and its interrupts. -/
def Part.offState (x : Part) : Part := { x with preState := 0, snap := Snap.empty, intstat := 0 }

/-- The saved teams of every partition are as they were; and where every sector in core c's caches has a check that matches, no record
is posted, and every check still matches. -/
structure Quiet (c : Nat) (s t : State) : Prop where
  saved : ∀ p, (t.part p).saved = (s.part p).saved
  good  : s.CacheGood c → t.CacheGood c ∧ ∀ p, (t.part p).offState = (s.part p).offState

namespace Quiet

variable {c : Nat}

theorem refl (s : State) : Quiet c s s := ⟨fun _ => rfl, fun h => ⟨h, fun _ => rfl⟩⟩

theorem trans {s t u : State} (h : Quiet c s t) (k : Quiet c t u) : Quiet c s u :=
  ⟨fun p => (k.saved p).trans (h.saved p), fun hg =>
    ⟨(k.good (h.good hg).1).1, fun p => ((k.good (h.good hg).1).2 p).trans ((h.good hg).2 p)⟩⟩

theorem foldl {α : Type} {f : State → α → State} (h : ∀ s a, Quiet c s (f s a)) (l : List α) (s : State) : Quiet c s (l.foldl f s) :=
  List.foldlRecOn (motive := fun t => Quiet c s t) _ _ (refl s) fun t ht a _ => ht.trans (h t a)

theorem cacheGood_congr {s t : State} (h1 : (t.core c).l1 = (s.core c).l1) (h2 : (t.core c).stackc = (s.core c).stackc) (h : s.CacheGood c) :
    t.CacheGood c := ⟨fun e he => h.1 e (h1 ▸ he), fun e he => h.2 e (h2 ▸ he)⟩

/-- Neither the core's caches nor the partitions' records have changed. -/
theorem of_same {s t : State} (hp : t.parts = s.parts) (h1 : (t.core c).l1 = (s.core c).l1) (h2 : (t.core c).stackc = (s.core c).stackc) :
    Quiet c s t := by
  have hpart (p : Nat) : t.part p = s.part p := congrArg (fun x => Tab.get x Part.empty p) hp
  exact ⟨fun p => congrArg Part.saved (hpart p), fun h => ⟨cacheGood_congr h1 h2 h, fun p => congrArg Part.offState (hpart p)⟩⟩

theorem of_tables {s t : State} (hp : t.parts = s.parts) (hc : t.cores = s.cores) : Quiet c s t := by
  have hcore : t.core c = s.core c := congrArg (fun x => Tab.get x Core.empty c) hc
  exact of_same hp (congrArg Core.l1 hcore) (congrArg Core.stackc hcore)

theorem of_homeFrame {s t : State} (h : HomeFrame s t) : Quiet c s t := by
  have hcore : t.core c = s.core c := (AtHomes.of_homeFrame h).core c
  exact ⟨fun p => (congrArg Part.saved (h.parts p) :), fun hg =>
    ⟨cacheGood_congr (congrArg Core.l1 hcore) (congrArg Core.stackc hcore) hg, fun p => (congrArg Part.offState (h.parts p) :)⟩⟩

/-! ### Records of the state -/

theorem onCore (s : State) (k : Nat) {f : Core → Core} (h1 : ∀ x, (f x).l1 = x.l1) (h2 : ∀ x, (f x).stackc = x.stackc) :
    Quiet c s (s.onCore k f) := by
  by_cases hk : c = k
  · subst hk
    exact of_same rfl (by rw [State.core_onCore_self, h1]) (by rw [State.core_onCore_self, h2])
  · have hcore : (s.onCore k f).core c = s.core c := State.core_onCore_other _ _ hk
    exact of_same rfl (congrArg Core.l1 hcore) (congrArg Core.stackc hcore)

theorem onTeam (s : State) (k : Nat) (f : Team → Team) : Quiet c s (s.onTeam k f) := of_tables rfl rfl
theorem onDeck (s : State) (d : Nat) (f : Deck → Deck) : Quiet c s (s.onDeck d f) := of_tables rfl rfl
theorem onGrp (s : State) (g : Nat) (f : Group → Group) : Quiet c s (s.onGrp g f) := of_tables rfl rfl

theorem onLaunch (s : State) (l : Nat) (f : Launch → Launch) : Quiet c s (s.onLaunch l f) := by
  unfold State.onLaunch
  split <;> exact of_tables rfl rfl

theorem onPipe (s : State) (k : Nat) (f : Pipe → Pipe) : Quiet c s (s.onPipe k f) := by
  unfold State.onPipe
  split <;> exact of_tables rfl rfl

theorem onPreState (s : State) (p n : Nat) : Quiet c s (s.onPart p (fun y => { y with preState := n })) := by
  have hpart (j : Nat) : ((s.onPart p (fun y => { y with preState := n })).part j).offState = (s.part j).offState := by
    by_cases hj : j = p
    · rw [hj, State.part_onPart_self]
      rfl
    · rw [State.part_onPart_other _ _ hj]
  exact ⟨fun j => (congrArg Part.saved (hpart j) :), fun h => ⟨cacheGood_congr rfl rfl h, hpart⟩⟩

/-! ### The caches of a core -/

theorem tryPost (s : State) (p w : Nat) (j : Nat) : ((s.tryPost p w).part j).saved = (s.part j).saved := by
  have hstep (s : State) (f : Part → Part) (hf : ∀ x, (f x).saved = x.saved) : ((s.onPart p f).part j).saved = (s.part j).saved := by
    by_cases hj : j = p
    · rw [hj, State.part_onPart_self, hf]
    · rw [State.part_onPart_other _ _ hj]
  unfold State.tryPost
  cases hc : s.canPost p with
  | false =>
    rw [postRec_of_not_canPost w hc, Option.getD_none]
    exact hstep s _ fun _ => rfl
  | true =>
    obtain ⟨t, ht, hf⟩ := postRec_of_canPost w hc
    rw [ht]
    exact (congrArg Part.saved (hf.parts j) :).trans (hstep s _ fun _ => rfl)

theorem l2Touch (s : State) (p line : Nat) : Quiet c s (s.l2Touch p line) := by
  have hparts : (s.l2Touch p line).parts = s.parts := by
    unfold State.l2Touch State.l2Out State.hostPush
    split
    · rfl
    · split
      · rfl
      · dsimp only
        split
        · split <;> rfl
        · rfl
  exact of_tables hparts (AtHomes.l2Touch ..).cores

theorem homeMerge (s : State) (line : Nat) (data : List Byte) (mask : BitVec 128) : HomeFrame s (s.homeMerge line data mask) := by
  unfold State.homeMerge
  split
  · exact HomeFrame.refl s
  · have hline := ((HomeFrame.cow s line).trans (HomeFrame.mirrorLine _ line)).trans (HomeFrame.killMarks _ line)
    exact (hline.trans (HomeFrame.foldl (fun _ _ => HomeFrame.clearPoison ..) _ _)).trans (HomeFrame.foldl (fun _ _ => HomeFrame.rawByte ..) _ _)

/-- A line with no sector whose check fails posts no record. -/
theorem hopBad_zero (s : State) (k line : Nat) : s.hopBad k line 0 = s := by
  have hnone : indices 4 (fun q => (0 : BitVec 4).getLsbD q) = [] := by decide
  rw [State.hopBad, hnone]
  rfl

theorem hopBad (s : State) (k line : Nat) (bad : BitVec 4) (p : Nat) : ((s.hopBad k line bad).part p).saved = (s.part p).saved :=
  List.foldlRecOn (motive := fun t : State => (t.part p).saved = (s.part p).saved) _ _ rfl fun t ht _ _ => (tryPost (t.poisonHome _) _ _ p).trans ht

theorem acceptLine (s : State) (k line : Nat) (x : Line) :
    (∀ p, ((s.acceptLine k line x).part p).saved = (s.part p).saved) ∧ (x.bad = 0 → Quiet c s (s.acceptLine k line x)) := by
  have hmerged : Quiet c s (((s.l2Touch (s.codeOfCore k) line)).homeMerge line x.data x.dirty) := (l2Touch ..).trans (of_homeFrame (homeMerge ..))
  unfold State.acceptLine
  dsimp only
  split
  · exact ⟨fun _ => rfl, fun _ => refl s⟩
  · split
    · exact ⟨(of_homeFrame (c := c) (HomeFrame.bumpCore ..)).saved, fun _ => of_homeFrame (HomeFrame.bumpCore ..)⟩
    · split
      · exact ⟨fun _ => rfl, fun _ => refl s⟩
      · refine ⟨fun p => (hopBad ..).trans (hmerged.saved p), fun hx => ?_⟩
        have hbad : x.bad &&& sectorsOf x.dirty = 0 := by
          rw [hx]
          exact BitVec.zero_and
        rw [hbad, hopBad_zero]
        exact hmerged

theorem cacheGood_l1 {s : State} {line : Nat} {x : Line} (h : s.CacheGood c) (hx : (s.core c).l1.find line = some x) : x.bad = 0 :=
  h.1 _ (Tab.mem_of_find hx)

theorem cacheGood_stackc {s : State} {key : Nat} {x : Line} (h : s.CacheGood c) (hx : (s.core c).stackc.find key = some x) : x.bad = 0 :=
  h.2 _ (Tab.mem_of_find hx)

/-- A line put into the L1 whose checks match. -/
theorem cacheGood_put {s : State} (line : Nat) {x : Line} (h : s.CacheGood c) (hx : x.bad = 0) :
    (s.onCore c (fun k => { k with l1 := k.l1.put line x })).CacheGood c := by
  unfold State.CacheGood
  rw [State.core_onCore_self]
  refine ⟨fun e he => ?_, h.2⟩
  rcases Tab.mem_put he with rfl | he
  · exact hx
  · exact h.1 e he

theorem cacheGood_putStack {s : State} (key : Nat) {x : Line} (h : s.CacheGood c) (hx : x.bad = 0) :
    (s.onCore c (fun k => { k with stackc := k.stackc.put key x })).CacheGood c := by
  unfold State.CacheGood
  rw [State.core_onCore_self]
  refine ⟨h.1, fun e he => ?_⟩
  rcases Tab.mem_put he with rfl | he
  · exact hx
  · exact h.2 e he

theorem wbLine (s : State) (line : Nat) : Quiet c s (s.wbLine c line) := by
  unfold State.wbLine
  split
  · exact refl s
  · rename_i x hx
    split
    · exact refl s
    · obtain ⟨hsaved, hgood⟩ := acceptLine (c := c) s c line x
      refine ⟨hsaved, fun hg => ?_⟩
      obtain ⟨hcache, hparts⟩ := (hgood (cacheGood_l1 hg hx)).good hg
      have hbad := cacheGood_l1 hg hx
      exact ⟨cacheGood_put line hcache hbad, hparts⟩

theorem writeBackIf (s : State) (f : Nat → Line → Bool) : Quiet c s (s.writeBackIf c f) := foldl (fun s l => wbLine s l) _ s

theorem l1Take (s : State) (line : Nat) (data : List Byte) (mask : BitVec 128) : Quiet c s (s.l1Take c line data mask) := by
  unfold State.l1Take
  split
  · exact refl s
  · rename_i x hx
    refine ⟨fun _ => rfl, fun hg => ?_⟩
    have hbad := cacheGood_l1 hg hx
    exact ⟨cacheGood_put line hg hbad, fun _ => rfl⟩

theorem stackWb (s : State) (key : Nat) : Quiet c s (s.stackWb c key) := by
  unfold State.stackWb
  split
  · exact refl s
  · rename_i x hx
    obtain ⟨hsaved, hgood⟩ := acceptLine (c := c) s c (key % 2 ^ 46) x
    have htake := l1Take (c := c) (s.acceptLine c (key % 2 ^ 46) x) (key % 2 ^ 46) x.data x.dirty
    refine ⟨fun p => (htake.saved p).trans (hsaved p), fun hg => ?_⟩
    obtain ⟨hcache, hparts⟩ := ((hgood (cacheGood_stackc hg hx)).trans htake).good hg
    have hbad := cacheGood_stackc hg hx
    exact ⟨cacheGood_putStack key hcache hbad, hparts⟩

theorem flushStack (s : State) : Quiet c s (s.flushStack c) := by
  have hclear (s : State) : Quiet c s (s.onCore c (fun k => { k with stackc := [] })) := by
    refine ⟨fun _ => rfl, fun hg => ⟨?_, fun _ => rfl⟩⟩
    unfold State.CacheGood
    rw [State.core_onCore_self]
    exact ⟨hg.1, fun e he => nomatch he⟩
  exact (foldl (fun s k => stackWb s k) _ s).trans (hclear _)

/-! ### What ended groups give up -/

theorem withdraw (s : State) (g : Nat) : Quiet c s (s.withdraw g) := by
  unfold State.withdraw State.withdrawIf
  exact (of_tables (s := s) (t := { s with deferred := s.deferred.filter (fun d => !(d.gid == g)) }) rfl rfl).trans
    (foldl (fun s (d : Defer) => onGrp s d.gid _) _ _)

theorem dropMark (s : State) (g : Nat) : Quiet c s (s.dropMark g) := of_tables rfl rfl

theorem dropEarly (s : State) (g : Nat) : Quiet c s (s.dropEarly g) := by
  unfold State.dropEarly
  split <;> exact of_tables rfl rfl

theorem freeBank (s : State) (g : Nat) : Quiet c s (s.freeBank g) := by
  unfold State.freeBank
  split
  · exact onCore s _ (fun _ => rfl) (fun _ => rfl)
  · exact refl s

theorem giveUp (s : State) (g : Nat) : Quiet c s (s.giveUp g) := (((withdraw ..).trans (dropMark ..)).trans (dropEarly ..)).trans (freeBank ..)

/-! ### Tiles and messages -/

theorem sendMsgs (s : State) (p port : Nat) (dest : Option Nat) (l : List Msg) : Quiet c s (s.sendMsgs p port dest l) := by
  unfold State.sendMsgs
  split
  · exact foldl (fun s _ => of_homeFrame (HomeFrame.dropPacket s p)) l s
  · split <;> exact of_tables rfl rfl

theorem sendTo (s : State) (k kind seq : Nat) (dest : Option Nat) : Quiet c s (s.sendTo k kind seq dest) := by
  unfold State.sendTo
  split
  · exact refl s
  · exact (of_tables (s := s) (t := s.tick) rfl rfl).trans (sendMsgs ..)

theorem sendPipe (s : State) (k kind seq : Nat) : Quiet c s (s.sendPipe k kind seq) := by
  unfold State.sendPipe
  split
  · exact refl s
  · exact sendTo ..

theorem sendAbort (s : State) (k : Nat) : Quiet c s (s.sendAbort k) := by
  unfold State.sendAbort
  split
  · exact refl s
  · split
    · exact (sendPipe ..).trans (onPipe ..)
    · exact refl s

theorem freeSpill (s : State) (l k : Nat) (q : Word) : Quiet c s (s.freeSpill l k q) := by
  unfold State.freeSpill
  split
  · exact refl s
  · split
    · exact refl s
    · exact (of_homeFrame (HomeFrame.ctxSet ..)).trans (onLaunch ..)

theorem freeTile (s : State) (k : Nat) (q : Word) : Quiet c s (s.freeTile k q) := (freeSpill ..).trans (onPipe ..)

theorem sendCredits (s : State) (k : Nat) (froms : List Nat) (slot : Nat) : Quiet c s (s.sendCredits k froms slot) := by
  unfold State.sendCredits
  split
  · exact refl s
  · split
    · exact foldl (fun s _ => sendTo s ..) froms s
    · exact refl s

theorem bumpPipe (s : State) (p n off : Nat) : Quiet c s (s.bumpPipe p n off) := of_tables rfl rfl

theorem endTile (s : State) (p k : Nat) (fault : Bool) (t : Tile) : Quiet c s (s.endTile p k fault t) := by
  have hheld : Quiet c s (((if fault then s.sendAbort k else s).freeTile k t.seq).bumpPipe p (k % 64) 16) := by
    refine (trans ?_ (freeTile ..)).trans (bumpPipe ..)
    split
    · exact sendAbort ..
    · exact refl s
  have htaken : Quiet c s ((s.freeTaken k t).bumpPipe p (k % 64) 16) := ((freeTile ..).trans (sendCredits ..)).trans (bumpPipe ..)
  unfold State.endTile
  split
  · exact hheld
  · exact hheld
  · exact htaken
  · exact htaken
  · exact htaken
  all_goals exact refl s

theorem discardTile (s : State) (k : Nat) (t : Tile) : Quiet c s (s.discardTile k t) := by
  unfold State.discardTile
  split
  · exact (sendAbort ..).trans (freeTile ..)
  · exact (sendAbort ..).trans (freeTile ..)
  · exact onPipe ..
  · exact onPipe ..
  all_goals exact refl s

theorem onTiles (s : State) (l : Nat) (who : Nat × Nat) {f : State → Nat → Tile → State} (hf : ∀ s k t, Quiet c s (f s k t)) :
    Quiet c s (s.onTiles l who f) := by
  refine foldl (fun s k => ?_) _ s
  split
  · exact refl s
  · exact foldl (fun s t => hf s k t) _ s

theorem closePipes (s : State) (l : Nat) : Quiet c s (s.closePipes l) := by
  unfold State.closePipes
  split
  · exact refl s
  · refine foldl (fun s k => ?_) _ s
    split
    · exact refl s
    · split
      · exact refl s
      · dsimp only
        split
        · exact (onPipe ..).trans (sendPipe ..)
        · exact onPipe ..

/-! ### The end of a team -/

theorem clearLocks (s : State) (n : Nat) : Quiet c s (s.clearLocks n) := by
  unfold State.clearLocks State.onCores
  refine foldl (fun s k => ?_) _ s
  exact onCore s k (fun _ => rfl) (fun _ => rfl)

theorem abandonCmd (s : State) (k id : Nat) : Quiet c s (s.abandonCmd k id) := by
  unfold State.abandonCmd
  split
  · exact refl s
  · dsimp only
    split
    · exact ((onTeam ..).trans (clearLocks ..)).trans (onCore _ _ (fun _ => rfl) (fun _ => rfl))
    · exact (clearLocks ..).trans (onCore _ _ (fun _ => rfl) (fun _ => rfl))

theorem abandonTeam (s : State) (t : Nat) : Quiet c s (s.abandonTeam t) := foldl (fun s id => abandonCmd s (t / 16) id) _ s

theorem preemptTest (s : State) (p : Nat) : Quiet c s (s.preemptTest p) := by
  rw [preemptTest_eq]
  split
  · exact ((of_homeFrame (HomeFrame.saveLaunches s p)).trans (onPreState ..)).trans (of_homeFrame (HomeFrame.cause ..))
  · exact refl s

theorem giveUpTeam {s : State} {x : Team} (h : x.core = c) : Quiet c s (s.giveUpTeam x) := by
  subst h
  exact (foldl (fun s g => giveUp s g) _ _).trans (flushStack _)

theorem leavePipes (s : State) (x : Team) : Quiet c s (s.leavePipes x) := foldl (fun s k => onPipe s k _) _ s

theorem leaveEngines (s : State) (t : Nat) (x : Team) : Quiet c s (s.leaveEngines t x) := by
  unfold State.leaveEngines
  exact ((foldl (fun s _ => clearLocks s _) _ s).trans (foldl (fun s _ => clearLocks s _) _ _)).trans (onCore _ _ (fun _ => rfl) (fun _ => rfl))

theorem freeTeam {s : State} {t : Nat} (h : (s.team t).core = c) : Quiet c s (s.freeTeam t) := by
  have hgroups (s : State) (x : Team) : Quiet c s (s.dropGroups t x) := of_tables rfl rfl
  have hempty : Quiet c s (s.emptied t) := by
    unfold State.emptied
    exact ((((giveUpTeam h).trans (leavePipes ..)).trans (onDeck ..)).trans (leaveEngines ..)).trans (hgroups ..)
  rw [freeTeam_eq]
  generalize s.emptied t = w at hempty
  exact (hempty.trans (of_tables (s := w) (t := { w with teams := w.teams.del t }) rfl rfl)).trans (preemptTest ..)

/-! ### A frame -/

theorem pauseTest (s : State) (l : Nat) : Quiet c s (s.pauseTest l) := by
  unfold State.pauseTest
  split
  · exact refl s
  · refine foldl (fun s k => ?_) _ s
    split
    · exact refl s
    · split
      · exact refl s
      · dsimp only
        split
        · exact (sendPipe ..).trans (onPipe ..)
        · split
          · exact (sendPipe ..).trans (onPipe ..)
          · exact refl s

end Quiet

namespace HomeFrame

theorem putFields (s : State) (p base : Nat) (l : List (Nat × Nat × Nat)) : HomeFrame s (s.putFields p base l) :=
  foldl (fun s _ => physSet s p _ _ _) _ s

theorem physStore (s : State) (p pa : Nat) (bs : List Byte) : HomeFrame s (s.physStore p pa bs) := by
  refine foldl (fun s e => ?_) _ s
  split
  · exact homeWrite ..
  · exact dropPacket ..

theorem writeFrame (s : State) (base : Nat) (t : Team) (groups : List (Nat × Group)) (mats : List MatOp) (reason va kind : Nat) :
    HomeFrame s (s.writeFrame base t groups mats reason va kind) := by
  unfold State.writeFrame
  refine trans ?_ (putFields ..)
  refine trans ?_ (physStore ..)
  refine trans ?_ (putFields ..)
  refine trans ?_ (foldl (fun s e => (putFields ..).trans (putFields ..)) _ _)
  refine trans ?_ (foldl (fun s e => putFields ..) _ _)
  exact (physStore ..).trans (putFields ..)

end HomeFrame

end Sys2Proof.Machine
end

section
/-! The save of a team, and its page fault (15 R316, R320 to R322). -/

namespace Sys2Proof.Machine

open Sys2Proof

/-! ## A save (15 R320 to R322) -/

/-- The groups of a team that is saved have withdrawn what waits for them, and what its core has written is sent home. -/
def State.laidDown (s : State) (x : Team) : State :=
  ((x.gids.foldl (fun s g => (s.withdraw g).dropMark g) s).flushStack x.core).writeBackIf x.core (fun _ _ => true)

/-- The groups of a team that still run, each with its index. -/
def State.groupsOf (s : State) (t : Team) : List (Nat × Group) :=
  (List.range 16).filterMap (fun i =>
    ((t.slots.filter (fun h => h.occ)).map (fun h => (h.gidx, s.grp (64 * t.core + h.slot)))).find? (fun e => e.1 == i))

/-- The size of the frame of a team with these groups. -/
def Team.frameSize (t : Team) (groups : List (Nat × Group)) : Nat :=
  (layoutOf ((List.range t.groups).map (fun i => ((groups.find? (fun e => e.1 == i)).map (fun e => e.2.count)).getD 0)) t.acc t.scratch t.niq).size

/-- The team has left its core, and its record stands among those that are saved. -/
def State.saveEnd (s : State) (k : Nat) (t : Team) (v : Saved) : State :=
  ((s.freeTeam k).onPart t.part (fun x => { x with saved := x.saved ++ [v] })).pauseTest t.launch

theorem team_laidDown (s : State) (x : Team) (k : Nat) : (s.laidDown x).team k = s.team k := by
  have hgive : GivesUp s (x.gids.foldl (fun s g => (s.withdraw g).dropMark g) s) :=
    List.foldlRecOn (motive := fun t => GivesUp s t) _ _ (GivesUp.refl s) fun t ht g _ =>
      ht.trans ((GivesUp.withdrawIf t _).trans (GivesUp.dropMark ..))
  exact (((Traffic.flushStack ..).trans (Traffic.writeBackIf ..)).team k).trans (hgive.teams k)

theorem saveTeam_eq {s : State} {k f : Nat} {t0 : Team} (hk : s.teams.find k = some t0) (hs : t0.saving ≠ 0) (hd : s.drained k = true)
    (hf : (s.part t0.part).alloc (t0.frameSize ((s.laidDown t0).groupsOf t0) / 65536) = some f) :
    ∃ w v n, HomeFrame (s.laidDown t0) w ∧ v.frame = f ∧ v.team = t0 ∧ v.reason = t0.saving ∧ v.ready = (t0.saving == 1) ∧
      s.saveTeam k = if t0.saving == 2 then (w.saveEnd k t0 v).postRec t0.part n else some (w.saveEnd k t0 v) := by
  have hteam : (s.laidDown t0).team k = t0 := (team_laidDown s t0 k).trans (team_of_find hk)
  unfold State.saveTeam
  rw [hk]
  dsimp -zeta only
  extract_lets p stalls u t core groups0 groups mats locks counts size
  have ht : t = t0 := hteam
  clear_value t
  subst ht
  have hsize : p.alloc (size / 65536) = some f := hf
  rw [if_neg (by simp [hs, hd])]
  rw [hsize]
  exact ⟨_, _, _, HomeFrame.writeFrame _ _ _ _ _ _ _ _, rfl, rfl, rfl, rfl, rfl⟩

theorem saveTeam_none {s : State} {k : Nat} (h : ∀ t0, s.teams.find k = some t0 → t0.saving ≠ 0 → s.drained k = true →
    (s.part t0.part).alloc (t0.frameSize ((s.laidDown t0).groupsOf t0) / 65536) = none) : s.saveTeam k = none := by
  unfold State.saveTeam
  split
  · rfl
  · rename_i t0 hk
    have hteam : (s.laidDown t0).team k = t0 := (team_laidDown s t0 k).trans (team_of_find hk)
    dsimp -zeta only
    extract_lets p stalls u t core groups0 groups mats locks counts size
    split
    · rfl
    · rename_i hc
      obtain ⟨hs, hd⟩ : t0.saving ≠ 0 ∧ s.drained k = true := by simpa using hc
      have ht : t = t0 := hteam
      clear_value t
      subst ht
      have hsize : p.alloc (size / 65536) = none := h t hk hs hd
      rw [hsize]

theorem KeepsStages.laidDown (s : State) (x : Team) : KeepsStages s (s.laidDown x) := by
  have hgive (s : State) (g : Nat) : KeepsStages s ((s.withdraw g).dropMark g) := of_givesUp ((GivesUp.withdrawIf s _).trans (GivesUp.dropMark ..))
  exact ((foldl hgive x.gids s).trans (of_traffic (Traffic.flushStack ..))).trans (of_traffic (Traffic.writeBackIf ..))

theorem KeepsStages.pauseTest (s : State) (l : Nat) : KeepsStages s (s.pauseTest l) := by
  unfold State.pauseTest
  split
  · exact refl s
  · refine foldl (fun s k => ?_) _ s
    split
    · exact refl s
    · split
      · exact refl s
      · dsimp only
        split
        · exact (sendPipe ..).trans (onPipe ..)
        · split
          · exact (sendPipe ..).trans (onPipe ..)
          · exact refl s

theorem Quiet.fqtail {c : Nat} {s t : State} (h : Quiet c s t) (hg : s.CacheGood c) (p : Nat) : (t.part p).fqtail = (s.part p).fqtail :=
  (congrArg Part.fqtail ((h.good hg).2 p) :)

theorem Quiet.laidDown (s : State) (x : Team) : Quiet x.core s (s.laidDown x) :=
  ((foldl (fun s g => (withdraw s g).trans (dropMark ..)) x.gids s).trans (flushStack _)).trans (writeBackIf ..)

/-- The team's entry has gone, its record is the last of those saved, and its caches post no record where they are good. -/
theorem saveEnd_spec {s : State} {k : Nat} {t0 : Team} {v : Saved} (hk : s.team k = t0) :
    (s.saveEnd k t0 v).teams = s.teams.del k ∧ ((s.saveEnd k t0 v).part t0.part).saved = (s.part t0.part).saved ++ [v]
      ∧ (s.CacheGood t0.core → ((s.saveEnd k t0 v).part t0.part).fqtail = (s.part t0.part).fqtail) := by
  have hfree : Quiet t0.core s (s.freeTeam k) := Quiet.freeTeam (congrArg Team.core hk)
  have hteams := (freeTeam_spec s k).1
  unfold State.saveEnd
  generalize s.freeTeam k = u at hfree hteams
  generalize hz : u.onPart t0.part (fun x => { x with saved := x.saved ++ [v] }) = z
  have hpause := Quiet.pauseTest (c := t0.core) z t0.launch
  have hpart : z.part t0.part = { u.part t0.part with saved := (u.part t0.part).saved ++ [v] } := by rw [← hz, State.part_onPart_self]
  refine ⟨?_, ?_, fun hg => ?_⟩
  · rw [(KeepsStages.pauseTest z t0.launch).teams, ← hz]
    exact hteams
  · rw [hpause.saved, hpart, hfree.saved]
  · have hzgood : z.CacheGood t0.core := by
      rw [← hz]
      exact (hfree.good hg).1
    rw [hpause.fqtail hzgood, hpart]
    exact hfree.fqtail hg _

/-- What the post of a record leaves. -/
theorem postRec_spec {s t : State} {p w : Nat} (h : s.postRec p w = some t) :
    t.teams = s.teams ∧ (∀ j, (t.part j).saved = (s.part j).saved) ∧ (t.part p).fqtail = (s.part p).fqtail + 1 := by
  cases hc : s.canPost p with
  | false =>
    rw [postRec_of_not_canPost w hc] at h
    cases h
  | true =>
    obtain ⟨u, hu, hpost⟩ := postRec_of_canPost w hc
    cases hu.symm.trans h
    refine ⟨(KeepsStages.of_homeFrame hpost).teams, fun j => ((Quiet.of_homeFrame (c := 0) hpost).saved j).trans ?_, (hpost.fqtail p).trans ?_⟩
    · unfold State.advanceTail
      by_cases hj : j = p
      · rw [hj, State.part_onPart_self]
      · rw [State.part_onPart_other _ _ hj]
    · rw [State.advanceTail, State.part_onPart_self]

/-- What a save leaves. -/
theorem saveTeam_spec {s t : State} {k : Nat} (h : s.saveTeam k = some t) :
    ∃ t0 v, s.teams.find k = some t0 ∧ t.teams = s.teams.del k ∧ (t.part t0.part).saved = (s.part t0.part).saved ++ [v]
      ∧ v.team = t0 ∧ v.reason = t0.saving ∧ v.ready = (t0.saving == 1)
      ∧ (s.part t0.part).alloc (t0.frameSize ((s.laidDown t0).groupsOf t0) / 65536) = some v.frame
      ∧ (t0.saving = 2 → s.CacheGood t0.core → (t.part t0.part).fqtail = (s.part t0.part).fqtail + 1) := by
  obtain ⟨t0, hk, hs, hd, hnone⟩ : ∃ t0, s.teams.find k = some t0 ∧ t0.saving ≠ 0 ∧ s.drained k = true
      ∧ (s.part t0.part).alloc (t0.frameSize ((s.laidDown t0).groupsOf t0) / 65536) ≠ none := by
    by_contra hno
    push Not at hno
    rw [saveTeam_none hno] at h
    cases h
  obtain ⟨f, hf⟩ := Option.ne_none_iff_exists'.1 hnone
  obtain ⟨w, v, n, hw, hframe, hteam, hreason, hready, heq⟩ := saveTeam_eq hk hs hd hf
  have hwteams : w.teams = s.teams := (KeepsStages.of_homeFrame hw).teams.trans (KeepsStages.laidDown s t0).teams
  have hwk : w.team k = t0 := team_of_find (hwteams.symm ▸ hk)
  have hquiet : Quiet t0.core s w := (Quiet.laidDown s t0).trans (.of_homeFrame hw)
  obtain ⟨hteams, hsaved, htail⟩ := saveEnd_spec (v := v) hwk
  rw [hwteams] at hteams
  rw [hquiet.saved] at hsaved
  have htail (hg : s.CacheGood t0.core) : ((w.saveEnd k t0 v).part t0.part).fqtail = (s.part t0.part).fqtail :=
    (htail (hquiet.good hg).1).trans (hquiet.fqtail hg _)
  generalize w.saveEnd k t0 v = z at *
  refine ⟨t0, v, hk, ?_⟩
  rw [heq] at h
  by_cases h2 : t0.saving = 2
  · rw [if_pos (by simpa using h2)] at h
    obtain ⟨hzteams, hzsaved, hztail⟩ := postRec_spec h
    exact ⟨hzteams.trans hteams, (hzsaved _).trans hsaved, hteam, hreason, hready, hframe ▸ hf,
      fun _ hg => hztail.trans (congrArg (· + 1) (htail hg))⟩
  · rw [if_neg (by simpa using h2)] at h
    cases h
    exact ⟨hteams, hsaved, hteam, hreason, hready, hframe ▸ hf, fun h => absurd h h2⟩

/-! ## The save of a team (15 R322) -/

theorem count_withdraw (s : State) (g j : Nat) : ((s.withdraw g).grp j).count = (s.grp j).count := by
  unfold State.withdraw State.withdrawIf
  refine List.foldlRecOn (motive := fun t : State => (t.grp j).count = (s.grp j).count) _ _ rfl fun t ht d _ => ?_
  by_cases hj : j = d.gid
  · rw [hj, State.grp_onGrp_self, ← hj]
    exact ht
  · rw [State.grp_onGrp_other _ _ hj]
    exact ht

theorem count_laidDown (s : State) (x : Team) (j : Nat) : ((s.laidDown x).grp j).count = (s.grp j).count := by
  have hgive : ((x.gids.foldl (fun s g => (s.withdraw g).dropMark g) s).grp j).count = (s.grp j).count :=
    List.foldlRecOn (motive := fun t : State => (t.grp j).count = (s.grp j).count) _ _ rfl fun t ht g _ => (count_withdraw t g j).trans ht
  unfold State.laidDown
  rw [(Traffic.writeBackIf ..).grp, (Traffic.flushStack ..).grp, hgive]

/-- The group with an index below 16 is that of the first slot with the index that holds one. -/
theorem groupsOf_find (s : State) (t : Team) {i : Nat} (h : i < 16) :
    (s.groupsOf t).find? (fun e => e.1 == i) =
      (t.slots.find? (fun h => h.occ && h.gidx == i)).map (fun h => (h.gidx, s.grp (64 * t.core + h.slot))) := by
  have hmap : ((t.slots.filter (fun h => h.occ)).map (fun h => (h.gidx, s.grp (64 * t.core + h.slot)))).find? (fun e => e.1 == i) =
      (t.slots.find? (fun h => h.occ && h.gidx == i)).map (fun h => (h.gidx, s.grp (64 * t.core + h.slot))) := by
    rw [List.find?_map, List.find?_filter]
    simp only [Function.comp_def, Bool.decide_and, Bool.decide_eq_true]
  rw [State.groupsOf, List.find?_filterMap]
  generalize (t.slots.filter (fun h => h.occ)).map (fun h => (h.gidx, s.grp (64 * t.core + h.slot))) = l at hmap ⊢
  have hpred : (fun k => (l.find? (fun e => e.1 == k)).any (fun e => e.1 == i)) = fun k => k == i && (l.find? (fun e => e.1 == i)).isSome := by
    funext k
    by_cases hk : k = i
    · subst hk
      cases hf : l.find? (fun e => e.1 == k) with
      | none => simp
      | some e => simpa using List.find?_some hf
    · cases hf : l.find? (fun e => e.1 == k) with
      | none => simp [hk]
      | some e =>
        have he : e.1 = k := by simpa using List.find?_some hf
        simp [he, hk]
  rw [hpred, ← hmap]
  cases hf : l.find? (fun e => e.1 == i) with
  | none => simp
  | some e =>
    have hi : (List.range 16).find? (fun k => k == i) = some i := by
      rw [List.find?_range_eq_some]
      exact ⟨beq_self_eq_true i, List.mem_range.2 h, fun j hj => by simpa using hj.ne⟩
    simp [hi, hf]

/-- The size of a team's frame is that of the layout of its groups' register counts. -/
theorem frameSize_laidDown (s : State) {t : Team} (h : t.groups ≤ 16) :
    t.frameSize ((s.laidDown t).groupsOf t) = (layoutOf ((List.range t.groups).map (fun i =>
      ((t.slots.find? (fun h => h.occ && h.gidx == i)).map (fun h => (s.grp (64 * t.core + h.slot)).count)).getD 0)) t.acc t.scratch t.niq).size := by
  unfold Team.frameSize
  refine congrArg (fun l => (layoutOf l t.acc t.scratch t.niq).size) (List.map_congr_left fun i hi => ?_)
  rw [groupsOf_find _ _ (lt_of_lt_of_le (List.mem_range.1 hi) h), Option.map_map]
  simp only [Function.comp_def, count_laidDown]

theorem does_save {s : State} {k f : Nat} {t0 : Team} (hh : s.pkg.halted = false) (hk : s.teams.find k = some t0) (hs : t0.saving = 1)
    (hg : t0.groups ≤ 16) (hd : s.drained k = true)
    (hf : (s.part t0.part).alloc ((layoutOf ((List.range t0.groups).map (fun i =>
      ((t0.slots.find? (fun h => h.occ && h.gidx == i)).map (fun h => (s.grp (64 * t0.core + h.slot)).count)).getD 0)) t0.acc t0.scratch t0.niq).size
        / 65536) = some f) :
    Does s (.save k) (fun t => t.teams.find k = none ∧ (∀ j, j ≠ k → t.teams.find j = s.teams.find j)
      ∧ ∃ v, (t.part t0.part).saved = (s.part t0.part).saved ++ [v] ∧ v.frame = f ∧ v.team = t0 ∧ v.ready = true ∧ v.reason = 1) := by
  rw [← frameSize_laidDown s hg] at hf
  obtain ⟨w, v, n, -, -, -, -, -, heq⟩ := saveTeam_eq hk (by simp [hs]) hd hf
  rw [if_neg (by simp [hs])] at heq
  obtain ⟨t1, z, hk1, hteams, hsaved, hteam, hreason, hready, halloc, -⟩ := saveTeam_spec heq
  cases hk.symm.trans hk1
  refine does_runUp (exec_save k s) hh heq ⟨?_, fun j hj => ?_, z, hsaved, ?_, hteam, ?_, hreason.trans hs⟩
  · rw [hteams, Tab.find_del_self]
  · rw [hteams, Tab.find_del_other _ hj]
  · exact Option.some.inj (halloc.symm.trans hf)
  · rw [hready, hs]
    rfl

/-! ## A page fault (15 R316) -/

theorem exec_pagefault_of_fault {s : State} {g k va : Nat} {lane : Bool} {h : AccKind} {l : Option Nat}
    (ho : s.occupied g = true) (ht : (s.grp g).team = k)
    (hs : (s.grp g).sys = false) (hp : (s.grp g).pend = some (.pf lane va h l)) (hk : (s.team k).saving = 0) :
    exec (.pagefault g) s = runUp s (some (((s.stopTeam k 2).saveTeam k).getD (s.stopTeam k 2))) := by
  subst ht
  rw [exec_pagefault, execPagefault]
  simp [ho, hs, hp, hk]

theorem homeByte_stopTeam (s : State) (k r a : Nat) : (s.stopTeam k r).homeByte a = s.homeByte a :=
  (congrArg (fun x : State => x.homeByte a) (stopTeam_rest s k r) :)

theorem stopTeam_saving_eq (s : State) (k r : Nat) : ((s.stopTeam k r).team k).saving = r :=
  (stopTeam_team s k r (f := Team.saving) (fun _ => rfl) k).trans (if_pos rfl)

theorem stopTeam_blocked (s : State) (k r : Nat) : ((s.stopTeam k r).team k).blocked = s.teamStalls (s.team k) :=
  (stopTeam_team s k r (f := Team.blocked) (fun _ => rfl) k).trans (if_pos rfl)

/-- The team of a page fault stops, and waits until it has drained. -/
theorem does_pagefault_stops {s : State} {g k va : Nat} {lane : Bool} {h : AccKind} {l : Option Nat}
    (hh : s.pkg.halted = false) (ho : s.occupied g = true)
    (ht : (s.grp g).team = k) (hs : (s.grp g).sys = false) (hp : (s.grp g).pend = some (.pf lane va h l)) (hk : (s.team k).saving = 0)
    (hn : (s.stopTeam k 2).saveTeam k = none) :
    Does s (.pagefault g) (fun t => (t.team k).saving = 2 ∧ (t.team k).blocked = s.teamStalls (s.team k)
      ∧ (∀ j ∈ (s.team k).gids, (s.grp j).sys = false → (s.grp j).pend = none ∨ j = g → (t.grp j).halted = true)
      ∧ ∀ a, t.homeByte a = s.homeByte a) := by
  refine does_runUp (exec_pagefault_of_fault ho ht hs hp hk) hh rfl ?_
  rw [hn]
  refine ⟨stopTeam_saving_eq s k 2, stopTeam_blocked s k 2,
    fun j hj hjs hjp => stopTeam_halted hj hjs fun a b c d e hpend => ?_, homeByte_stopTeam s k 2⟩
  rcases hjp with hjp | rfl
  · rw [hjp] at hpend
    cases hpend
  · rw [hp] at hpend
    cases hpend

/-- The team of a page fault that has drained is saved, and its record posted. -/
theorem does_pagefault_saves {s : State} {g k va : Nat} {lane : Bool} {h : AccKind} {l : Option Nat}
    (hh : s.pkg.halted = false) (ho : s.occupied g = true)
    (ht : (s.grp g).team = k) (hs : (s.grp g).sys = false) (hp : (s.grp g).pend = some (.pf lane va h l)) (hk : (s.team k).saving = 0)
    (hn : (s.stopTeam k 2).saveTeam k ≠ none) (hc : s.CacheGood (s.team k).core) :
    let p := (s.team k).part
    Does s (.pagefault g) (fun t => t.teams.find k = none ∧ (t.part p).fqtail = (s.part p).fqtail + 1
      ∧ ∃ v, (t.part p).saved = (s.part p).saved ++ [v] ∧ v.reason = 2 ∧ v.ready = false ∧ v.team.lin = (s.team k).lin) := by
  intro p
  obtain ⟨t, hsave⟩ := Option.ne_none_iff_exists'.1 hn
  obtain ⟨t0, v, hfind, hteams, hsaved, hteam, hreason, hready, -, htail⟩ := saveTeam_spec hsave
  have hcores : (s.stopTeam k 2).core (s.team k).core = s.core (s.team k).core :=
    (congrArg (fun x : State => x.core (s.team k).core) (stopTeam_rest s k 2) :)
  have hpart : (s.stopTeam k 2).part p = s.part p := (congrArg (fun x : State => x.part p) (stopTeam_rest s k 2) :)
  have ht0 : (s.stopTeam k 2).team k = t0 := team_of_find hfind
  have hsaving : t0.saving = 2 := ht0 ▸ stopTeam_saving_eq s k 2
  have hp0 : t0.part = p := ht0 ▸ stopTeam_part s k 2 k
  have hcore : t0.core = (s.team k).core := by
    rw [← ht0]
    exact (stopTeam_team s k 2 (f := Team.core) (fun _ => rfl) k).trans (if_pos rfl)
  have hlin : t0.lin = (s.team k).lin := by
    rw [← ht0]
    exact (stopTeam_team s k 2 (f := Team.lin) (fun _ => rfl) k).trans (if_pos rfl)
  have hgood : (s.stopTeam k 2).CacheGood t0.core := by
    rw [hcore]
    exact Quiet.cacheGood_congr (congrArg Core.l1 hcores) (congrArg Core.stackc hcores) hc
  have htail := htail hsaving hgood
  rw [hp0, hpart] at hsaved htail
  refine does_runUp (exec_pagefault_of_fault ho ht hs hp hk) hh (by rw [hsave]; rfl) ⟨?_, htail, v, hsaved, hreason.trans hsaving, ?_, hteam ▸ hlin⟩
  · rw [hteams, Tab.find_del_self]
  · rw [hready, hsaving]
    rfl

end Sys2Proof.Machine
end

section
/-! The restore of a team (15 R322). -/

namespace Sys2Proof.Machine

open Sys2Proof

/-! ## A restore (15 R322) -/

theorem does_of_some {s : State} {i : Instr} {m : Option State} {Q : State → Prop} (he : exec i s = runUp s m) (hh : s.pkg.halted = false)
    (hs : m.isSome = true) (hq : ∀ t, m = some t → Q t) : Does s i Q := by
  obtain ⟨t, ht⟩ := Option.isSome_iff_exists.1 hs
  exact does_runUp he hh ht (hq t ht)

/-! ### What follows the reading of the groups -/

/-- The groups' records, the teams' and the saved teams are as they were. -/
structure KeepsPlaced (s t : State) : Prop where
  groups : t.groups = s.groups
  teams  : t.teams = s.teams
  saved  : ∀ p, (t.part p).saved = (s.part p).saved

namespace KeepsPlaced

theorem refl (s : State) : KeepsPlaced s s := ⟨rfl, rfl, fun _ => rfl⟩

theorem trans {s t u : State} (h : KeepsPlaced s t) (k : KeepsPlaced t u) : KeepsPlaced s u :=
  ⟨k.groups.trans h.groups, k.teams.trans h.teams, fun p => (k.saved p).trans (h.saved p)⟩

theorem foldl {α : Type} {f : State → α → State} (h : ∀ s a, KeepsPlaced s (f s a)) (l : List α) (s : State) : KeepsPlaced s (l.foldl f s) :=
  List.foldlRecOn (motive := fun t => KeepsPlaced s t) _ _ (refl s) fun t ht a _ => ht.trans (h t a)

theorem of_tables {s t : State} (hg : t.groups = s.groups) (ht : t.teams = s.teams) (hp : t.parts = s.parts) : KeepsPlaced s t :=
  ⟨hg, ht, fun p => congrArg (fun x => (Tab.get x Part.empty p).saved) hp⟩

theorem of_homeFrame {s t : State} (h : HomeFrame s t) : KeepsPlaced s t :=
  ⟨(AtHomes.of_homeFrame h).groups, (KeepsStages.of_homeFrame h).teams, (Quiet.of_homeFrame (c := 0) h).saved⟩

theorem onCore (s : State) (c : Nat) (f : Core → Core) : KeepsPlaced s (s.onCore c f) := of_tables rfl rfl rfl

theorem onPipe (s : State) (k : Nat) (f : Pipe → Pipe) : KeepsPlaced s (s.onPipe k f) := by
  unfold State.onPipe
  split <;> exact of_tables rfl rfl rfl

theorem onLaunch (s : State) (l : Nat) (f : Launch → Launch) : KeepsPlaced s (s.onLaunch l f) := by
  unfold State.onLaunch
  split <;> exact of_tables rfl rfl rfl

theorem invShared (s : State) (c : Nat) : KeepsPlaced s (s.invShared c) := by
  unfold State.invShared
  exact (of_homeFrame (HomeFrame.bumpCore ..)).trans (onCore ..)

theorem sendMsgs (s : State) (p port : Nat) (dest : Option Nat) (l : List Msg) : KeepsPlaced s (s.sendMsgs p port dest l) := by
  unfold State.sendMsgs
  split
  · exact foldl (fun s _ => of_homeFrame (HomeFrame.dropPacket s p)) l s
  · split <;> exact of_tables rfl rfl rfl

theorem sendPipe (s : State) (k kind seq : Nat) : KeepsPlaced s (s.sendPipe k kind seq) := by
  unfold State.sendPipe State.sendTo
  split
  · exact refl s
  · split
    · exact refl s
    · exact (of_tables (s := s) (t := s.tick) rfl rfl rfl).trans (sendMsgs ..)

theorem pauseTest (s : State) (l : Nat) : KeepsPlaced s (s.pauseTest l) := by
  unfold State.pauseTest
  split
  · exact refl s
  · refine foldl (fun s k => ?_) _ s
    split
    · exact refl s
    · split
      · exact refl s
      · dsimp only
        split
        · exact (sendPipe ..).trans (onPipe ..)
        · split
          · exact (sendPipe ..).trans (onPipe ..)
          · exact refl s

theorem onPreState (s : State) (p n : Nat) : KeepsPlaced s (s.onPart p (fun y => { y with preState := n })) :=
  ⟨rfl, rfl, (Quiet.onPreState (c := 0) s p n).saved⟩

theorem restoredTest (s : State) (p : Nat) : KeepsPlaced s (s.restoredTest p) := by
  unfold State.restoredTest
  dsimp only
  split
  · exact (onPreState ..).trans (of_homeFrame (HomeFrame.cause ..))
  · exact refl s

end KeepsPlaced

/-! ### The groups -/

/-- Groups that are put at different numbers by what no group's record changes. -/
theorem foldl_setGrp_read {α : Type} {key : α → Nat} {val : State → α → Group} {L : List α} {s u w : State}
    (hval : ∀ s g x a, val (State.setGrp s g x) a = val s a) (hu : ∀ a, val u a = val s a) (hn : (L.map key).Nodup)
    (hw : w = L.foldl (fun u a => u.setGrp (key a) (val u a)) u) :
    (∀ a ∈ L, w.grp (key a) = val s a) ∧ { w with groups := [] } = { u with groups := [] } := by
  have hfold : L.foldl (fun u a => u.setGrp (key a) (val u a)) u = L.foldl (fun u a => u.setGrp (key a) (val s a)) u := by
    clear hn hw
    induction L generalizing u with
    | nil => rfl
    | cons a L ih =>
      rw [List.foldl_cons, List.foldl_cons, hu]
      exact ih fun b => (hval ..).trans (hu b)
  obtain ⟨hin, -, hrest⟩ := foldl_setGrp key (val s) L u hn
  rw [hw, hfold]
  exact ⟨hin, hrest⟩

/-- A table that is filled below n. -/
theorem Tab.get_filled {α : Type} [DecidableEq α] (d : α) (f : Nat → α) {n i : Nat} (h : i < n) :
    ((List.range n).foldl (fun t i => Tab.set t d i (f i)) []).get d i = f i := by
  induction n with
  | zero => omega
  | succ n ih =>
    rw [List.range_succ, List.foldl_append, List.foldl_cons, List.foldl_nil]
    by_cases hi : i = n
    · rw [hi, Tab.get_set_self]
    · rw [Tab.get_set_other _ _ _ hi, ih (by omega)]

theorem readGroup_setGrp (s : State) (g : Nat) (x : Group) (r lane : Nat) (y : Group) :
    (s.setGrp g x).readGroup r lane y = s.readGroup r lane y := rfl

theorem readGroup_placed (s : State) (ts : Tab Team) (r lane : Nat) (y : Group) :
    State.readGroup { s.tick with teams := ts } r lane y = s.readGroup r lane y := rfl

/-- What a group's record says of it when it is read back. -/
theorem readGroup_spec (s : State) (r lane : Nat) (x : Group) :
    let y := s.readGroup r lane x
    y.pc = BitVec.ofNat 64 (s.homeNat r 8) ∧ y.count = s.homeNat (r + 0x21C) 4
      ∧ (∀ n, 1 ≤ n → n < 64 → y.g.get 0 n = BitVec.ofNat 64 (s.homeNat (r + 0x10 + 8 * n) 8))
      ∧ y.cwait = .none ∧ y.lwait = .none ∧ y.halted = false := by
  refine ⟨rfl, rfl, fun n h1 h2 => ?_, rfl, rfl, rfl⟩
  have hn : ¬ (n == 0) = true := by
    simp only [beq_iff_eq]
    omega
  unfold State.readGroup
  dsimp only
  rw [Tab.get_filled _ _ h2, if_neg hn]
  rfl

/-- The slots are as many as the groups that need one. -/
theorem assignSlots_length {need slots regs r : List Nat} (h : assignSlots need slots regs = some r) : r.length = need.length := by
  induction need generalizing slots regs r with
  | nil =>
    cases h
    rfl
  | cons n need ih =>
    rw [assignSlots] at h
    split at h
    · cases h
    split at h
    · cases h
    split at h
    · cases h
    obtain ⟨r', hr', rfl⟩ := Option.map_eq_some_iff.1 h
    exact congrArg (· + 1) (ih hr')

theorem canRestore_slots {s : State} {v : Saved} {c : Nat} {slots : List Nat} (h : s.canRestore v c = some slots) :
    slots.Nodup ∧ slots.length = v.team.groups := by
  unfold State.canRestore at h
  split at h
  · cases h
  split at h
  · unfold State.fits at h
    dsimp only at h
    split at h
    · exact ⟨(assignSlots_nodup h).1, (assignSlots_length h).trans (by simp [Saved.needs])⟩
    · cases h
  · cases h

/-- The first free team number of a core is one of it. -/
theorem freeTeam_core (s : State) (c : Nat) :
    (List.range 16).foldr (fun k a => if (s.teams.find (16 * c + k)).isSome then a else 16 * c + k) (16 * c) / 16 = c := by
  have hall : ∀ L : List Nat, (∀ k ∈ L, k < 16) →
      L.foldr (fun k a => if (s.teams.find (16 * c + k)).isSome then a else 16 * c + k) (16 * c) / 16 = c := by
    intro L hL
    induction L with
    | nil =>
      rw [List.foldr_nil]
      omega
    | cons k L ih =>
      obtain ⟨hk, hL⟩ := List.forall_mem_cons.1 hL
      rw [List.foldr_cons]
      split
      · exact ih hL
      · omega
  exact hall _ fun k hk => List.mem_range.1 hk

/-- Different groups have different slots. -/
theorem slots_inj {slots : List Nat} {i j : Nat} (hn : slots.Nodup) (hi : i < slots.length) (hj : j < slots.length)
    (h : slots.getD i 0 = slots.getD j 0) : i = j := by
  rw [List.getD_eq_getElem _ _ hi, List.getD_eq_getElem _ _ hj] at h
  exact (hn.getElem_inj_iff).1 h

theorem does_restore {s : State} {p frame : Nat} {v : Saved} (hh : s.pkg.halted = false)
    (hv : (s.part p).saved.find? (fun v => v.frame == frame) = some v) (hready : v.ready = true) (hok : s.framesOk p = true)
    (hc : ∃ c ∈ s.coresOf p, (s.canRestore v c).isSome) (hn : (v.gids.map Prod.fst).Nodup) (hg : ∀ e ∈ v.gids, e.1 < v.team.groups) :
    Does s (.restore p frame) (fun t => ∃ c slots tid, c ∈ s.coresOf p ∧ s.canRestore v c = some slots ∧ tid / 16 = c
      ∧ (t.team tid).lin = v.team.lin ∧ (t.team tid).launch = v.team.launch ∧ (t.team tid).stage = v.team.stage
      ∧ (t.team tid).saving = 0 ∧ (t.part p).saved = (s.part p).saved.filter (fun w => w.frame != frame)
      ∧ ∀ e ∈ v.gids,
          let y := t.grp (64 * c + slots.getD e.1 0)
          let r := (s.part p).frameBase frame + 0x2000 + 2048 * e.1
          y.team = tid ∧ y.pc = BitVec.ofNat 64 (s.homeNat r 8) ∧ y.count = s.homeNat (r + 0x21C) 4
            ∧ (∀ n, 1 ≤ n → n < 64 → y.g.get 0 n = BitVec.ofNat 64 (s.homeNat (r + 0x10 + 8 * n) 8))
            ∧ y.cwait = .none ∧ y.lwait = .none ∧ y.halted = false) := by
  obtain ⟨c, slots, hpick, hslots, hmem⟩ : ∃ c slots, ((s.coresOf p).filter (fun c => (s.canRestore v c).isSome))[Config.freeNat s.freeCtr %
      ((s.coresOf p).filter (fun c => (s.canRestore v c).isSome)).length]? = some c ∧ s.canRestore v c = some slots ∧ c ∈ s.coresOf p := by
    obtain ⟨d, hd, hsome⟩ := hc
    have hpos : 0 < ((s.coresOf p).filter (fun c => (s.canRestore v c).isSome)).length :=
      List.length_pos_of_mem (List.mem_filter.2 ⟨hd, hsome⟩)
    have hlt := Nat.mod_lt (Config.freeNat s.freeCtr) hpos
    obtain ⟨hin, hcan⟩ := List.mem_filter.1 (List.getElem_mem hlt)
    obtain ⟨slots, hslots⟩ := Option.isSome_iff_exists.1 hcan
    exact ⟨_, slots, List.getElem?_eq_getElem hlt, hslots, hin⟩
  refine does_of_some (exec_restore p frame s) hh ?_ fun t ht => ?_
  · simp only [hv, hready, hok, hpick, hslots, Bool.and_self, if_true, Option.isSome_some]
  · rw [hv] at ht
    dsimp -zeta only at ht
    rw [hready, hok] at ht
    extract_lets cores base counts y at ht
    have hcore : cores[Config.freeNat s.freeCtr % cores.length]? = some c := hpick
    rw [Bool.and_self, if_pos rfl, hcore] at ht
    dsimp -zeta only at ht
    rw [hslots] at ht
    dsimp -zeta only at ht
    extract_lets tid hold free team u gidOf w mats u1 u2 u3 u4 at ht
    obtain ⟨hnodup, hlen⟩ := canRestore_slots hslots
    have hkeys : ((v.gids.map Prod.fst).map gidOf).Nodup := by
      refine hn.map_on fun a ha b hb hab => ?_
      obtain ⟨x, hx, rfl⟩ := List.mem_map.1 ha
      obtain ⟨z, hz, rfl⟩ := List.mem_map.1 hb
      exact slots_inj hnodup (hlen ▸ hg x hx) (hlen ▸ hg z hz) (by simpa [gidOf] using hab)
    rw [List.map_map] at hkeys
    have hread (r lane : Nat) (x : Group) : u.readGroup r lane x = s.readGroup r lane x := readGroup_placed s _ r lane x
    obtain ⟨hgrp, hrest⟩ := foldl_setGrp_read (key := fun e : Nat × Group => gidOf e.1) (s := s) (w := w) (u := u)
      (fun s g x a => by rw [readGroup_setGrp]) (fun a => by rw [hread]) hkeys rfl
    have hwteams : w.teams = s.teams.put tid team := (congrArg State.teams hrest :)
    have hwpart : w.part p = s.part p := (congrArg (fun x : State => x.part p) hrest :)
    clear_value w mats
    have hlocks : KeepsPlaced w u2 := (KeepsPlaced.onCore w c _).trans (KeepsPlaced.foldl (fun s _ => KeepsPlaced.onCore s c _) _ _)
    have hend : KeepsPlaced u3 t := by
      rw [← Option.some.inj ht]
      exact (((KeepsPlaced.onLaunch ..).trans (.invShared ..)).trans (.pauseTest ..)).trans (.restoredTest ..)
    have hteam : t.team tid = team := by
      have hteams : t.teams = s.teams.put tid team := hend.teams.trans (hlocks.teams.trans hwteams)
      rw [State.team, hteams, Tab.get_put_self]
    have hsaved : (t.part p).saved = (s.part p).saved.filter (fun w => w.frame != frame) := by
      rw [hend.saved]
      refine (congrArg Part.saved (State.part_onPart_self ..) :).trans ?_
      rw [← hwpart, hlocks.saved]
    have hgroups (g : Nat) : t.grp g = w.grp g := congrArg (fun x => Tab.get x Group.empty g) (hend.groups.trans hlocks.groups)
    refine ⟨c, slots, tid, hmem, hslots, freeTeam_core s c, ?_, ?_, ?_, ?_, hsaved, fun e he => ?_⟩
    · rw [hteam]; rfl
    · rw [hteam]; rfl
    · rw [hteam]; rfl
    · rw [hteam]
    · intro z r
      have hz : z = _ := (hgroups _).trans (hgrp e he)
      have hspec := readGroup_spec s r (base + y.lane.getD e.1 0) e.2
      rw [hz]
      generalize s.readGroup r (base + y.lane.getD e.1 0) e.2 = x at hspec
      exact ⟨rfl, hspec⟩

end Sys2Proof.Machine
end

section
/-! Errors: of a team's state, and soft errors (17 R371, R380). -/

namespace Sys2Proof.Machine

open Sys2Proof

/-! ## What ends a team leaves of the stages (14 R299) -/

/-- The stages of every launch, and the core of every team, are as they were. -/
structure KeepsWork (s t : State) : Prop where
  stages : ∀ l, (t.launch l).map Launch.stages = (s.launch l).map Launch.stages
  core   : ∀ k, (t.team k).core = (s.team k).core

namespace KeepsWork

theorem of_keepsStages {s t : State} (h : KeepsStages s t) : KeepsWork s t :=
  ⟨h.stages, fun k => congrArg (fun x => (Tab.get x Team.empty k).core) h.teams⟩

theorem refl (s : State) : KeepsWork s s := of_keepsStages (.refl s)

theorem trans {s t u : State} (h : KeepsWork s t) (k : KeepsWork t u) : KeepsWork s u :=
  ⟨fun l => (k.stages l).trans (h.stages l), fun j => (k.core j).trans (h.core j)⟩

theorem foldl {α : Type} {f : State → α → State} (h : ∀ s a, KeepsWork s (f s a)) (l : List α) (s : State) : KeepsWork s (l.foldl f s) :=
  List.foldlRecOn (motive := fun t => KeepsWork s t) _ _ (refl s) fun t ht a _ => ht.trans (h t a)

theorem stage {s t : State} (h : KeepsWork s t) (l k : Nat) : t.stage l k = s.stage l k := by rw [stage_eq, stage_eq, h.stages]

theorem winPut_core (t : Team) (o : Nat) (bs : List Byte) : (t.winPut o bs).core = t.core := by
  induction bs generalizing t o with
  | nil => rfl
  | cons b bs ih => exact ih ..

/-- A post changes the window alone. -/
theorem post_core (t : Team) (o n flags : Nat) : (t.post o n flags).core = t.core := by
  have hset (t : Team) (o : Nat) (w : Word) : (t.winSetW o w).core = t.core := winPut_core ..
  unfold Team.post
  generalize postCount _ _ n = r
  dsimp only
  split
  · rw [hset, hset]
  · rw [hset, hset, hset]

theorem post (s : State) (k o n flags : Nat) : KeepsWork s (s.post k o n flags) := by
  unfold State.post
  refine ⟨fun l => congrArg (Option.map Launch.stages) (State.launch_onTeam ..), fun j => ?_⟩
  by_cases hj : j = k
  · rw [hj, State.team_onTeam_self, post_core]
  · rw [State.team_onTeam_other _ _ hj]

theorem abandonCmd (s : State) (c id : Nat) : KeepsWork s (s.abandonCmd c id) := by
  unfold State.abandonCmd
  split
  · exact refl s
  · dsimp only
    split
    · exact ((post ..).trans (of_keepsStages (.clearLocks ..))).trans (of_keepsStages (.onCore ..))
    · exact (of_keepsStages (.clearLocks ..)).trans (of_keepsStages (.onCore ..))

theorem abandonTeam (s : State) (t : Nat) : KeepsWork s (s.abandonTeam t) := foldl (fun s id => abandonCmd s (t / 16) id) _ s

end KeepsWork

namespace KeepsStages

theorem sendAbort (s : State) (k : Nat) : KeepsStages s (s.sendAbort k) := by
  unfold State.sendAbort
  split
  · exact refl s
  · split
    · exact (sendPipe ..).trans (onPipe ..)
    · exact refl s

theorem endTile (s : State) (p k : Nat) (fault : Bool) (t : Tile) : KeepsStages s (s.endTile p k fault t) := by
  have hheld : KeepsStages s (((if fault then s.sendAbort k else s).freeTile k t.seq).bumpPipe p (k % 64) 16) := by
    refine (trans ?_ (freeTile ..)).trans (bumpPipe ..)
    split
    · exact sendAbort ..
    · exact refl s
  have htaken : KeepsStages s ((s.freeTaken k t).bumpPipe p (k % 64) 16) := (freeTaken ..).trans (bumpPipe ..)
  unfold State.endTile
  split
  · exact hheld
  · exact hheld
  · exact htaken
  · exact htaken
  · exact htaken
  all_goals exact refl s

theorem discardTile (s : State) (k : Nat) (t : Tile) : KeepsStages s (s.discardTile k t) := by
  unfold State.discardTile
  split
  · exact (sendAbort ..).trans (freeTile ..)
  · exact (sendAbort ..).trans (freeTile ..)
  · exact onPipe ..
  · exact onPipe ..
  all_goals exact refl s

end KeepsStages

/-! ## An error of a team's state (17 R371) -/

/-- The state after a team has given back its commands and its tiles and left its core. -/
def State.left (s : State) (k : Nat) (x : Team) (f : State → Nat → Tile → State) : State :=
  ((s.abandonTeam k).onTiles x.launch (x.stage, x.lin) f).freeTeam k

theorem left_spec {s : State} {k : Nat} {x : Team} {f : State → Nat → Tile → State} (hk : s.team k = x)
    (hf : ∀ s k t, KeepsStages s (f s k t)) (hq : ∀ s k t, Quiet x.core s (f s k t)) :
    let t := s.left k x f
    t.teams.find k = none ∧ (∀ l j, t.stage l j = s.stage l j) ∧ Quiet x.core s t := by
  intro t
  have hwork : KeepsWork s ((s.abandonTeam k).onTiles x.launch (x.stage, x.lin) f) :=
    (KeepsWork.abandonTeam s k).trans (.of_keepsStages (KeepsStages.onTiles _ _ _ hf))
  have hquiet : Quiet x.core s ((s.abandonTeam k).onTiles x.launch (x.stage, x.lin) f) := (Quiet.abandonTeam s k).trans (Quiet.onTiles _ _ _ hq)
  have ht : t = ((s.abandonTeam k).onTiles x.launch (x.stage, x.lin) f).freeTeam k := rfl
  generalize (s.abandonTeam k).onTiles x.launch (x.stage, x.lin) f = u at hwork hquiet ht
  obtain ⟨hteams, hstage⟩ := freeTeam_spec u k
  have hcore : (u.team k).core = x.core := (hwork.core k).trans (congrArg Team.core hk)
  rw [ht]
  refine ⟨?_, fun l j => (hstage l j).trans (hwork.stage l j), hquiet.trans (Quiet.freeTeam hcore)⟩
  rw [hteams, Tab.find_del_self]

/-- The record of an error is posted: what goes on is the same state but for it. -/
theorem postRec_keeps {s : State} {p w : Nat} (hc : s.canPost p = true) (c : Nat) :
    ∃ t, s.postRec p w = some t ∧ KeepsStages s t ∧ (t.part p).fqtail = (s.part p).fqtail + 1 ∧ (s.CacheGood c → t.CacheGood c) := by
  obtain ⟨t, ht, hf⟩ := postRec_of_canPost w hc
  refine ⟨t, ht, ?_, (postRec_spec ht).2.2, fun hg => ((Quiet.of_homeFrame hf).good ?_).1⟩
  · exact (KeepsStages.of_tables (s := s) (t := s.advanceTail p) rfl rfl).trans (.of_homeFrame hf)
  · exact hg

theorem launch_of_stage {s : State} {l k : Nat} {z : Stage} (h : s.stage l k = some z) : ∃ x, s.launch l = some x := by
  unfold State.stage at h
  split at h
  next x hx => exact ⟨x, hx⟩
  · cases h

theorem part_onLaunch (s : State) (l : Nat) (f : Launch → Launch) (p : Nat) : (s.onLaunch l f).part p = s.part p := by
  unfold State.onLaunch
  split <;> rfl

theorem Quiet.retireIndex {c : Nat} (s : State) (t : Team) (f : Bool) : Quiet c s (s.retireIndex t f) := by
  unfold State.retireIndex
  exact (onLaunch ..).trans (closePipes ..)

theorem retireIndex_faulted {s : State} {t : Team} {z : Stage} (hz : s.stage t.launch t.stage = some z) :
    ∃ w, (s.retireIndex t true).stage t.launch t.stage = some w ∧ w.ended = t.lin :: z.ended.filter (· != t.lin) := by
  obtain ⟨x, hx⟩ := launch_of_stage hz
  unfold State.retireIndex
  exact ⟨_, ((KeepsStages.closePipes ..).stage ..).trans (onLaunch_stage hx hz rfl), rfl⟩

theorem returnIndex_stage {s : State} {t : Team} {z : Stage} (hz : s.stage t.launch t.stage = some z) :
    ∃ w, (s.returnIndex t).stage t.launch t.stage = some w ∧ w.ended = z.ended ∧ w.discards.get 0 t.lin = z.discards.get 0 t.lin + 1
      ∧ w.returned = z.returned ++ [{ lo := t.lin, hi := t.lin, deck := deckOfCore t.core }] := by
  obtain ⟨x, hx⟩ := launch_of_stage hz
  unfold State.returnIndex
  refine ⟨_, onLaunch_stage hx hz rfl, rfl, ?_, rfl⟩
  dsimp only
  rw [Tab.get_set_self]

theorem does_stateError_discards {s : State} {k : Nat} {x : Team} {z : Stage} (hh : s.pkg.halted = false) (hk : s.teams.find k = some x)
    (hr : x.rerun = true) (hc : s.canPost x.part = true) (hg : s.CacheGood x.core) (hz : s.stage x.launch x.stage = some z)
    (hd : z.discards.get 0 x.lin < z.retry) :
    Does s (.stateError k) (fun t => t.teams.find k = none ∧ (t.part x.part).fqtail = (s.part x.part).fqtail + 1
      ∧ ∃ w, t.stage x.launch x.stage = some w ∧ w.ended = z.ended ∧ w.discards.get 0 x.lin = z.discards.get 0 x.lin + 1
        ∧ w.returned = z.returned ++ [{ lo := x.lin, hi := x.lin, deck := deckOfCore x.core }]) := by
  have hteam : s.team k = x := team_of_find hk
  obtain ⟨u, hu, hkeep, htail, hgood⟩ := postRec_keeps (w := faultRec s x.part 0 0xFFFFFFFF x.ctx x.core 0 0 false x.stage 0x73) hc x.core
  have huteam : u.team k = x := (congrArg (fun y => Tab.get y Team.empty k) hkeep.teams).trans hteam
  have huz : u.stage x.launch x.stage = some z := (hkeep.stage ..).trans hz
  obtain ⟨hgone, hstage, hquiet⟩ := left_spec (f := State.discardTile) huteam KeepsStages.discardTile Quiet.discardTile
  have hdiscard : u.discardTeam k = some ((u.left k x State.discardTile).returnIndex x) := by
    unfold State.discardTeam
    rw [huteam]
    dsimp only
    rw [huz]
    exact if_neg (by simpa using hd)
  refine does_runUp (exec_stateError k s) hh ?_ ⟨?_, ?_, returnIndex_stage ((hstage ..).trans huz)⟩
  · rw [hk, Option.isSome_some, if_pos rfl, State.stateErr, hteam]
    rw [if_pos hr, hu]
    exact hdiscard
  · rw [State.returnIndex, onLaunch_teams]
    exact hgone
  · exact (congrArg Part.fqtail (part_onLaunch ..)).trans ((hquiet.fqtail (hgood hg) _).trans htail)

theorem does_stateError_ends {s : State} {k : Nat} {x : Team} (hh : s.pkg.halted = false) (hk : s.teams.find k = some x)
    (hr : x.rerun = false) (hc : s.canPost x.part = true) (hg : s.CacheGood x.core) :
    Does s (.stateError k) (fun t => t.teams.find k = none ∧ (t.part x.part).fqtail = (s.part x.part).fqtail + 1
      ∧ (∀ z, s.stage x.launch x.stage = some z →
          ∃ w, t.stage x.launch x.stage = some w ∧ w.ended = x.lin :: z.ended.filter (· != x.lin))) := by
  have hteam : s.team k = x := team_of_find hk
  obtain ⟨u, hu, hkeep, htail, hgood⟩ := postRec_keeps (w := faultRec s x.part 0 0xFFFFFFFF x.ctx x.core 0 0 false x.stage 0x73) hc x.core
  have huteam : u.team k = x := (congrArg (fun y => Tab.get y Team.empty k) hkeep.teams).trans hteam
  obtain ⟨hgone, hstage, hquiet⟩ := left_spec (f := fun s k u => s.endTile x.part k true u) huteam
    (fun s k u => KeepsStages.endTile s x.part k true u) (fun s k u => Quiet.endTile s x.part k true u)
  refine does_runUp (s := s) (t := (u.left k x (fun s k u => s.endTile x.part k true u)).retireIndex x true) (exec_stateError k s) hh ?_
    ⟨?_, ?_, fun z hz => retireIndex_faulted ((hstage ..).trans ((hkeep.stage ..).trans hz))⟩
  · rw [hk, Option.isSome_some, if_pos rfl, State.stateErr, hteam, if_neg (by simp [hr]), State.faultTeam, hteam,
      if_neg (by simp [hr]), hu]
    rfl
  · rw [retireIndex_teams]
    exact hgone
  · exact ((hquiet.trans (Quiet.retireIndex _ x true)).fqtail (hgood hg) x.part).trans htail

/-! ## The counters of errors (17 R371, R380) -/

/-- The counter of uncorrected errors of every deck is as it was. -/
structure KeepsErrors (s t : State) : Prop where
  counts : ∀ a, a % 0x100 = 0x28 → t.ctr.get 0 a = s.ctr.get 0 a

namespace KeepsErrors

theorem refl (s : State) : KeepsErrors s s := ⟨fun _ _ => rfl⟩

theorem trans {s t u : State} (h : KeepsErrors s t) (k : KeepsErrors t u) : KeepsErrors s u :=
  ⟨fun a ha => (k.counts a ha).trans (h.counts a ha)⟩

theorem foldl {α : Type} {f : State → α → State} (h : ∀ s a, KeepsErrors s (f s a)) (l : List α) (s : State) : KeepsErrors s (l.foldl f s) :=
  List.foldlRecOn (motive := fun t => KeepsErrors s t) _ _ (refl s) fun t ht a _ => ht.trans (h t a)

/-- No counter has changed. -/
theorem of_same {s t : State} (h : t.ctr = s.ctr) : KeepsErrors s t := ⟨fun a _ => congrArg (fun x => Tab.get x 0 a) h⟩

theorem bump (s : State) (a n : Nat) (h : a % 0x100 ≠ 0x28) : KeepsErrors s (s.bump a n) :=
  ⟨fun b hb => by
    have hab : b ≠ a := fun hab => h (hab ▸ hb)
    rw [State.bump, Tab.get_modify_other _ _ _ hab]⟩

theorem dropPacket (s : State) (p : Nat) : KeepsErrors s (s.dropPacket p) := by
  unfold State.dropPacket State.bumpCore
  split
  · exact refl s
  · exact bump _ _ _ (by omega)

theorem bumpMirror (s : State) (d : Nat) : KeepsErrors s (s.bumpDeck d 0x30 1) := bump _ _ _ (by omega)

theorem cause (s : State) (p b : Nat) : KeepsErrors s (s.cause p b) := by
  unfold State.cause State.vector
  split
  · exact refl s
  · split <;> exact of_same rfl

theorem rawByte (s : State) (a : Nat) (b : Byte) : KeepsErrors s (s.rawByte a b) := by
  unfold State.rawByte
  split
  · exact of_same rfl
  · split <;> exact of_same rfl

theorem rawBytes (s : State) (a : Nat) (bs : List Byte) : KeepsErrors s (s.rawBytes a bs) := by
  induction bs generalizing s a with
  | nil => exact refl s
  | cons b bs ih => exact (rawByte s a b).trans (ih ..)

theorem mirrorLine (s : State) (line : Nat) : KeepsErrors s (s.mirrorLine line) := by
  unfold State.mirrorLine
  split
  · exact refl s
  · dsimp only
    split
    · exact refl s
    · refine trans ?_ (bumpMirror ..)
      split
      · exact of_same rfl
      · split <;> exact of_same rfl

theorem areaPut (s : State) (p a : Nat) (bs : List Byte) : KeepsErrors s (s.areaPut p a bs) := by
  unfold State.areaPut
  split
  · exact dropPacket s p
  · exact (foldl (fun s k => mirrorLine s (a / 128 + k)) _ s).trans (rawBytes ..)

theorem onPart (s : State) (p : Nat) (f : Part → Part) : KeepsErrors s (s.onPart p f) := of_same rfl

theorem snapCopy (s : State) (p line : Nat) : KeepsErrors s (s.snapCopy p line) := by
  unfold State.snapCopy State.snapAbandon State.areaNat
  dsimp only
  split
  · exact refl s
  · split
    · exact refl s
    · split
      · split
        · exact ((areaPut ..).trans (onPart ..)).trans (cause ..)
        · exact ((((areaPut ..).trans (areaPut ..)).trans (areaPut ..)).trans (areaPut ..)).trans (onPart ..)
      · exact (areaPut ..).trans (onPart ..)

theorem homeWrite (s : State) (a : Nat) (bs : List Byte) : KeepsErrors s (s.homeWrite a bs) := by
  have hcow (s : State) (line : Nat) : KeepsErrors s (s.cow line) := foldl (fun s p => snapCopy s p line) _ s
  have hmarks (s : State) (line : Nat) : KeepsErrors s (s.killMarks line) := of_same rfl
  have hpoison (s : State) (a n : Nat) : KeepsErrors s (s.clearPoison a n) := of_same rfl
  unfold State.homeWrite
  split
  · exact refl s
  · exact ((((hcow ..).trans (mirrorLine ..)).trans (hmarks ..)).trans (hpoison ..)).trans (rawBytes ..)

theorem physSet (s : State) (p a n w : Nat) : KeepsErrors s (s.physSet p a n w) := by
  unfold State.physSet
  split
  · exact foldl (fun s _ => homeWrite s _ _) _ s
  · exact dropPacket s p

theorem postRec {s t : State} {p w : Nat} (h : s.postRec p w = some t) : KeepsErrors s t := by
  unfold State.postRec at h
  split at h
  · rw [← Option.some.inj h]
    exact ((physSet ..).trans (onPart ..)).trans (cause ..)
  · cases h

end KeepsErrors

/-! ## A sector that is poisoned stays so (17 R370) -/

theorem poison_rawBytes (s : State) (a : Nat) (bs : List Byte) : (s.rawBytes a bs).poison = s.poison := by
  induction bs generalizing s a with
  | nil => rfl
  | cons b bs ih =>
    refine (ih ..).trans ?_
    unfold State.rawByte
    split
    · rfl
    · split <;> rfl

theorem poison_mirrorLine (s : State) (line : Nat) : (s.mirrorLine line).poison = s.poison := by
  unfold State.mirrorLine
  split
  · rfl
  · dsimp only
    split
    · rfl
    · split
      · rfl
      · split <;> rfl

theorem poison_dropPacket (s : State) (p : Nat) : (s.dropPacket p).poison = s.poison := by
  unfold State.dropPacket State.bumpCore
  split <;> rfl

theorem poison_cause (s : State) (p b : Nat) : (s.cause p b).poison = s.poison := by
  unfold State.cause State.vector
  split
  · rfl
  · split <;> rfl

/-- A write of one sector leaves the poison of every other. -/
theorem mem_poison_physSet {s : State} {p a q : Nat} (w : Nat) (hn : NoSnap s) (ha : a % 32 = 0) (hq : q ∈ s.poison) (hne : a ≠ 32 * q) :
    q ∈ (s.physSet p a 32 w).poison := by
  have hlen : (toBytes 32 w).length = 32 := by simp [toBytes]
  have hbs : toBytes 32 w ≠ [] := fun h => by rw [h] at hlen; cases hlen
  have hwrite : (s.homeWrite a (toBytes 32 w)).poison = s.poison.filter (fun q => !(a ≤ 32 * q && 32 * q + 32 ≤ a + 32)) := by
    unfold State.homeWrite
    rw [if_neg (by simpa using hbs), poison_rawBytes, cow_of_noSnap hn, hlen]
    exact congrArg (List.filter _) (poison_mirrorLine ..)
  unfold State.physSet
  split
  · rw [State.homeSet, homeStore_in_line s hbs (by omega), hwrite]
    refine List.mem_filter.2 ⟨hq, ?_⟩
    simp only [Bool.not_eq_true', Bool.and_eq_false_iff, decide_eq_false_iff_not]
    omega
  · rw [poison_dropPacket]
    exact hq

/-- The record of an error in another sector than the record's own. -/
theorem mem_poison_postRec {s t : State} {p w q : Nat} (h : s.postRec p w = some t) (hn : NoSnap s) (hq : q ∈ s.poison)
    (hne : bits (s.part p).fqcfg.toNat 12 40 * 4096 + 32 * ((s.part p).fqtail.toNat % 2 ^ bits (s.part p).fqcfg.toNat 8 4) ≠ 32 * q) :
    q ∈ t.poison := by
  unfold State.postRec at h
  split at h
  · rw [← Option.some.inj h, poison_cause]
    exact mem_poison_physSet w hn (by omega) hq hne
  · cases h

theorem mem_poisonHome (s : State) (pa : Nat) : pa / 32 ∈ (s.poisonHome pa).poison := by
  unfold State.poisonHome
  dsimp only
  split
  · rename_i h
    simpa using h
  · exact List.mem_cons_self ..

/-! ## Errors of memory (17 R371) -/

theorem ctr_bumpDeck (s : State) (d off : Nat) : (s.bumpDeck d off 1).ctr.get 0 (0x780000 + 0x100 * d + off) =
    s.ctr.get 0 (0x780000 + 0x100 * d + off) + 1 := by
  unfold State.bumpDeck State.bump
  rw [Tab.get_modify_self]
  rfl

/-- An error that is not corrected is counted, and its record posted. -/
theorem does_softError_posts {s u v : State} {site : ErrSite} {d p w : Nat} (hh : s.pkg.halted = false) (hu : u = s.bumpDeck d 0x28 1)
    (hctr : v.ctr = u.ctr) (hc : v.canPost p = true) (he : s.softError site false = v.postRec p w) {Q : State → Prop}
    (hq : ∀ t, v.postRec p w = some t → t.ctr.get 0 (0x780000 + 0x100 * d + 0x28) = s.ctr.get 0 (0x780000 + 0x100 * d + 0x28) + 1 → Q t) :
    Does s (.softError site false) Q := by
  obtain ⟨t, ht, -⟩ := postRec_of_canPost w hc
  refine does_runUp (exec_softError site false s) hh (he.trans ht) (hq t ht ?_)
  rw [(KeepsErrors.postRec ht).counts _ (by omega), hctr, hu, ctr_bumpDeck]

theorem does_softError_home_corrected {s : State} {pa p : Nat} (hh : s.pkg.halted = false) (hp : s.partAt pa = some p) :
    Does s (.softError (.home pa) true) (fun t => t = s.bumpDeck (s.lineSlice p pa / 96) 0x20 1) := by
  refine does_runUp (exec_softError ..) hh ?_ rfl
  rw [State.softError]
  simp [hp]

theorem does_softError_home {s : State} {pa p : Nat} (hh : s.pkg.halted = false) (hp : s.partAt pa = some p) (hc : s.canPost p = true)
    (hr : bits (s.part p).fqcfg.toNat 12 40 * 4096 + 32 * ((s.part p).fqtail.toNat % 2 ^ bits (s.part p).fqcfg.toNat 8 4) ≠ pa / 32 * 32)
    (hn : NoSnap s) :
    Does s (.softError (.home pa) false) (fun t =>
      t.ctr.get 0 (0x780000 + 0x100 * (s.lineSlice p pa / 96) + 0x28) = s.ctr.get 0 (0x780000 + 0x100 * (s.lineSlice p pa / 96) + 0x28) + 1
        ∧ pa / 32 ∈ t.poison ∧ (t.part p).fqtail = (s.part p).fqtail + 1) := by
  refine does_softError_posts (v := (s.bumpDeck (s.lineSlice p pa / 96) 0x28 1).poisonHome pa) (p := p)
    (w := eventRec s p (pa / 32 * 32) 0 0 0x72) hh rfl rfl hc ?_ fun t ht hctr => ⟨hctr, ?_, (postRec_spec ht).2.2⟩
  · rw [State.softError]
    simp [hp]
  · exact mem_poison_postRec ht (fun p => hn p) (mem_poisonHome _ pa) (by rw [Nat.mul_comm 32 (pa / 32)]; exact hr)

theorem does_scrub {s : State} {pa p : Nat} (hh : s.pkg.halted = false) (hp : s.partAt pa = some p) (hc : (s.part p).intcfg.getLsbD 1 = true) :
    Does s (.scrub pa) (fun t => t = s) :=
  does_runUp (exec_scrub pa s) hh (by simp [hp, hc]) rfl

section
variable {s : State} {d pa : Nat} (hh : s.pkg.halted = false) (hd : d < 8) (hr : isRein pa = true) (ht : reinTower pa = towerOfDeck d)
include hh hd hr ht

theorem does_softError_replica_corrected : Does s (.softError (.replica d pa) true) (fun t => t = s.bumpDeck d 0x20 1) := by
  refine does_runUp (exec_softError ..) hh ?_ rfl
  rw [State.softError]
  simp [hr, ht, Nat.not_le.2 hd]

theorem does_softError_replica (hc : s.canPost (s.codeOfDeck d) = true) : Does s (.softError (.replica d pa) false) (fun t =>
    t.ctr.get 0 (0x780000 + 0x100 * d + 0x28) = s.ctr.get 0 (0x780000 + 0x100 * d + 0x28) + 1
      ∧ pa % 2 ^ 18 / 32 ∈ (t.deck d).bad ∧ (t.deck d).rep = (s.deck d).rep) := by
  refine does_softError_posts (v := (s.bumpDeck d 0x28 1).poisonReplica d pa) (p := s.codeOfDeck d)
    (w := eventRec s (s.codeOfDeck d) (pa / 32 * 32) 0 0 0x72) hh rfl rfl hc ?_ fun t ht hctr => ?_
  · rw [State.softError]
    simp [hr, ht, Nat.not_le.2 hd]
  · have hdeck : t.deck d = ((s.bumpDeck d 0x28 1).poisonReplica d pa).deck d :=
      (Traffic.of_atHomes (AtHomes.postRec ht)).deck d
    rw [hdeck, State.poisonReplica, State.deck_onDeck_self]
    exact ⟨hctr, List.mem_cons_self .., rfl⟩

end

theorem does_softError_window {s : State} {k o : Nat} {x : Team} (hh : s.pkg.halted = false) (hk : s.teams.find k = some x) (ho : o < x.scratch)
    (hc : s.canPost x.part = true) :
    Does s (.softError (.window k o) false) (fun t => o / 32 ∈ (t.team k).bad ∧ (t.team k).win = x.win
      ∧ (t.part x.part).fqtail = (s.part x.part).fqtail + 1) := by
  obtain ⟨t, ht, -⟩ := postRec_of_canPost (s := s.poisonWindow k o) (p := x.part) (eventRec s x.part (o / 32 * 32) x.core 0 0x72) hc
  refine does_runUp (exec_softError ..) hh (t := t) ?_ ?_
  · rw [State.softError]
    simpa [hk, Nat.not_le.2 ho] using ht
  · have hteam : t.team k = (s.poisonWindow k o).team k := congrArg (fun y => Tab.get y Team.empty k) (postRec_spec ht).1
    rw [hteam, State.poisonWindow, State.team_onTeam_self, team_of_find hk]
    exact ⟨List.mem_cons_self .., rfl, (postRec_spec ht).2.2⟩

/-! ## Errors of state that no address names, of directories, of caches and of slots -/

section
variable {s : State} {k : Nat} {x : Team} (hh : s.pkg.halted = false) (hk : s.teams.find k = some x)
include hh hk

/-- An error of the state of a team that has such state: a corrected one is counted at its core, another is a state error. -/
theorem softError_ofTeam {site : ErrSite} (hc : s.softError site true = some (s.bumpCore x.core 0xE8 1))
    (he : s.softError site false = s.stateErr k) :
    Does s (.softError site true) (fun t => t = s.bumpCore x.core 0xE8 1) ∧ exec (.softError site false) s = exec (.stateError k) s := by
  refine ⟨does_runUp (exec_softError ..) hh hc rfl, ?_⟩
  rw [exec_softError, exec_stateError, execSoftError, execStateError, he, hk]
  rfl

theorem softError_acc (h : x.acc ≠ 0) : Does s (.softError (.acc k) true) (fun t => t = s.bumpCore x.core 0xE8 1)
    ∧ exec (.softError (.acc k) false) s = exec (.stateError k) s := by
  refine softError_ofTeam hh hk ?_ ?_ <;> (rw [State.softError]; simp [hk, h])

theorem softError_items (h : x.niq ≠ 0) : Does s (.softError (.items k) true) (fun t => t = s.bumpCore x.core 0xE8 1)
    ∧ exec (.softError (.items k) false) s = exec (.stateError k) s := by
  refine softError_ofTeam hh hk ?_ ?_ <;> (rw [State.softError]; simp [hk, h])

theorem softError_locks (h : ∃ e ∈ (s.core x.core).locks, e.2.glob = false ∧ e.2.owner = k) :
    Does s (.softError (.locks k) true) (fun t => t = s.bumpCore x.core 0xE8 1)
      ∧ exec (.softError (.locks k) false) s = exec (.stateError k) s := by
  obtain ⟨e, he, hg, ho⟩ := h
  have hany : (s.core x.core).locks.any (fun e => !e.2.glob && e.2.owner == k) = true := List.any_eq_true.2 ⟨e, he, by simp [hg, ho]⟩
  have hsite (corrected : Bool) : s.softError (.locks k) corrected = if corrected then some (s.bumpCore x.core 0xE8 1) else s.stateErr k := by
    rw [State.softError]
    simp only [hk, Option.bind_some, hany, Bool.or_true, Bool.not_true, Bool.false_eq_true, if_false]
  exact softError_ofTeam hh hk (hsite true) (hsite false)

end

theorem softError_directory {s : State} {sl : Nat} (hh : s.pkg.halted = false) (h : sl < 768) :
    Does s (.softError (.directory sl) true) (fun t => t = s.bumpDeck (sl / 96) 0x20 1)
      ∧ Does s (.softError (.directory sl) false) (fun t => t = s.bumpDeck (sl / 96) 0x38 1) := by
  refine ⟨does_runUp (exec_softError ..) hh ?_ rfl, does_runUp (exec_softError ..) hh ?_ rfl⟩ <;> (rw [State.softError]; simp [Nat.not_le.2 h])

theorem does_softError_cache {s : State} {c pa : Nat} (hh : s.pkg.halted = false) (h : (s.core c).l1.keys.contains (pa / 128) = true) :
    Does s (.softError (.cache c pa) true) (fun t => t = s.bumpCore c 0xE8 1) := by
  refine does_runUp (exec_softError ..) hh ?_ rfl
  rw [State.softError]
  simp only [h, Bool.true_or, if_true]

theorem does_softError_slot {s : State} {k o : Nat} {q : Word} (hh : s.pkg.halted = false) (h : s.slotHas k q o = true) :
    Does s (.softError (.slot k q o) true) (fun t => t = s.bumpDeck (s.slotSlice k q / 96) 0x20 1) := by
  refine does_runUp (exec_softError ..) hh ?_ rfl
  rw [State.softError]
  simp [h]

end Sys2Proof.Machine
end

section
/-! Snapshots, and the statement about saves, errors and snapshots (15 R325). -/

namespace Sys2Proof.Machine

open Sys2Proof

/-! ## Snapshots (15 R325) -/

theorem parts_rawBytes (s : State) (a : Nat) (bs : List Byte) : (s.rawBytes a bs).parts = s.parts := by
  induction bs generalizing s a with
  | nil => rfl
  | cons b bs ih =>
    refine (ih ..).trans ?_
    unfold State.rawByte
    split
    · rfl
    · split <;> rfl

theorem parts_mirrorLine (s : State) (line : Nat) : (s.mirrorLine line).parts = s.parts := by
  unfold State.mirrorLine
  split
  · rfl
  · dsimp only
    split
    · rfl
    · split
      · rfl
      · split <;> rfl

theorem parts_areaPut (s : State) (p a : Nat) (bs : List Byte) : (s.areaPut p a bs).parts = s.parts := by
  unfold State.areaPut
  split
  · unfold State.dropPacket State.bumpCore
    split <;> rfl
  · refine (parts_rawBytes ..).trans ?_
    exact List.foldlRecOn (motive := fun t : State => t.parts = s.parts) _ _ rfl fun t ht k _ => (parts_mirrorLine ..).trans ht

/-- What the device writes of a snapshot's area that the area's deck reaches. -/
theorem storedAt_areaPut {s : State} {p a : Nat} (bs : List Byte) (hok : s.homeOk p (s.masterDeck p) a = true) (hr : s.hostL2.rising = true) :
    StoredAt s (s.areaPut p a bs) a bs := by
  have hlines : ∀ l : List Nat, let t := l.foldl (fun s k => s.mirrorLine (a / 128 + k)) s
      t.hostL2.rising = true ∧ ∀ b, t.homeByte b = s.homeByte b := fun l =>
    List.foldlRecOn (motive := fun t : State => t.hostL2.rising = true ∧ ∀ b, t.homeByte b = s.homeByte b) _ _ ⟨hr, fun _ => rfl⟩
      fun t ht k _ => ⟨(KeepsRising.mirrorLine t _).keeps ht.1, fun b => (homeByte_mirrorLine _ ht.1 b).trans (ht.2 b)⟩
  unfold State.areaPut
  rw [if_neg (by simp [hok])]
  exact storedAt_of_same (storedAt_rawBytes _ a bs) (hlines _).2

theorem snapCopy_of_copied {s : State} {p line : Nat} (h : (s.part p).snap.copied.contains line = true) : s.snapCopy p line = s := by
  unfold State.snapCopy
  dsimp only
  rw [if_pos (by simp only [h, Bool.or_true])]

/-- A page that has its data takes the old line. -/
theorem snapCopy_of_allocated {s : State} {p line : Nat} {e : Nat × Nat × Nat × Nat} (hrun : (s.part p).snap.running = true)
    (hc : (s.part p).snap.copied.contains line = false)
    (he : (s.part p).snap.pages.find? (fun e => decide (e.2.1 ≤ line * 128) && decide (line * 128 < e.2.1 + snapSize e.2.2.1)) = some e)
    (h0 : e.2.2.2 ≠ 0) :
    s.snapCopy p line = (s.areaPut p ((s.part p).snap.area + e.2.2.2 + (line * 128 - e.2.1)) (s.snapBytes p line)).onPart p
      (fun x => { x with snap := { (s.part p).snap with copied := line :: (s.part p).snap.copied } }) := by
  obtain ⟨va, pa, code, off⟩ := e
  unfold State.snapCopy
  dsimp only
  rw [if_neg (by rw [hrun, hc]; decide), he]
  exact if_neg (by simpa using h0)

theorem snapBytes_of_home {s : State} {p line : Nat} (h : isRein (line * 128) = false) : s.snapBytes p line = s.homeBytes (line * 128) 128 := by
  simp [State.snapBytes, h]

theorem does_snapCopyOnWrite {s : State} {p pa : Nat} {e : Nat × Nat × Nat × Nat} (hh : s.pkg.halted = false) (hrun : (s.part p).snap.running = true)
    (hc : (s.part p).snap.copied.contains (pa / 128) = false)
    (he : (s.part p).snap.pages.find? (fun e => decide (e.2.1 ≤ pa / 128 * 128) && decide (pa / 128 * 128 < e.2.1 + snapSize e.2.2.1)) = some e)
    (h0 : e.2.2.2 ≠ 0) (hrein : isRein (pa / 128 * 128) = false) (hr : s.hostL2.rising = true)
    (hok : s.homeOk p (s.masterDeck p) ((s.part p).snap.area + e.2.2.2 + (pa / 128 * 128 - e.2.1)) = true) :
    Does s (.snapCopyOnWrite p pa) (fun t =>
      (t.part p).snap.copied = pa / 128 :: (s.part p).snap.copied ∧ (t.part p).snap.running = true
        ∧ StoredAt s t ((s.part p).snap.area + e.2.2.2 + (pa / 128 * 128 - e.2.1)) (s.homeBytes (pa / 128 * 128) 128)) := by
  refine does_runUp (exec_snapCopyOnWrite p pa s) hh (if_pos hrun) ?_
  rw [snapCopy_of_allocated hrun hc he h0, snapBytes_of_home hrein, State.part_onPart_self]
  exact ⟨rfl, hrun, storedAt_areaPut _ hok hr⟩

/-- The partition's record after the cause of an interrupt is set. -/
theorem part_cause (s : State) (p : Nat) : ((s.cause p 3).part p).snap = (s.part p).snap ∧ ((s.cause p 3).part p).intstat.getLsbD 3 = true := by
  have hvector (s : State) (v : Nat) : (s.vector v).part p = s.part p := by
    unfold State.vector
    split <;> rfl
  unfold State.cause
  split
  · rename_i h
    exact ⟨rfl, h⟩
  · rw [hvector, State.part_onPart_self]
    exact ⟨rfl, by simp⟩

theorem homeByte_cause (s : State) (p b a : Nat) : (s.cause p b).homeByte a = s.homeByte a := by
  unfold State.cause State.vector
  split
  · rfl
  · split <;> rfl

theorem does_snapEnd {s : State} {p : Nat} (hh : s.pkg.halted = false) (hrun : (s.part p).snap.running = true) (hr : s.hostL2.rising = true)
    (hok : s.homeOk p (s.masterDeck p) ((s.part p).snap.area + 8) = true)
    (hall : ∀ e ∈ (s.part p).snap.pages, ∀ n, n < snapSize e.2.2.1 / 128 → (s.part p).snap.copied.contains (e.2.1 / 128 + n) = true) :
    Does s (.snapEnd p) (fun t =>
      (t.part p).snap = { (s.part p).snap with running := false } ∧ (t.part p).intstat.getLsbD 3 = true
        ∧ StoredAt s t ((s.part p).snap.area + 8) [1, 0, 0, 0, 0, 0, 0, 0]) := by
  have hcopied : (s.part p).snap.pages.foldl (fun s e =>
      (List.range (snapSize e.2.2.1 / 128)).foldl (fun s k => s.snapCopy p (e.2.1 / 128 + k)) s) s = s :=
    foldl_eq_self fun e he => foldl_eq_self fun k hk => snapCopy_of_copied (hall e he k (List.mem_range.1 hk))
  generalize hu : (s.areaNat p ((s.part p).snap.area + 8) 8 1).onPart p (fun x => { x with snap := { x.snap with running := false } }) = u
  have hpart : (u.part p).snap = { (s.part p).snap with running := false } := by
    have hsame : (s.areaNat p ((s.part p).snap.area + 8) 8 1).part p = s.part p :=
      congrArg (fun x => Tab.get x Part.empty p) (parts_areaPut ..)
    rw [← hu, State.part_onPart_self, hsame]
  have hstored : StoredAt s u ((s.part p).snap.area + 8) [1, 0, 0, 0, 0, 0, 0, 0] := by
    rw [← hu]
    exact storedAt_areaPut (toBytes 8 1) hok hr
  obtain ⟨hsnap, hint⟩ := part_cause u p
  refine does_runUp (t := u.cause p 3) (exec_snapEnd p s) hh ?_ ⟨hsnap.trans hpart, hint, storedAt_then_same hstored fun a => homeByte_cause ..⟩
  simp only [hrun, hcopied, Bool.not_true, Bool.false_eq_true, if_false, if_true]
  rw [← hu]

end Sys2Proof.Machine

namespace Sys2Proof

open Sys2Proof.Machine

/-- Settles O54: the layout by the alignment of its areas; a save, a page fault and an error of a team's state by what the steps of freeing
a team leave of the partitions' records, of the stages and, where no check fails, of the fault queue; a restore by the slots, which are
different ones, and by what is read back; the errors of memory by the counters and the poison that the post of a record leaves; and the
snapshots by the bytes of the area that is written. -/
theorem saveEvents : Obligations.SaveEvents := by
  unfold Obligations.SaveEvents
  refine ⟨⟨fun counts acc scratch niq => layoutOf_spec counts acc scratch niq, fun s k hh => ⟨?_, ?_, ?_, ?_⟩, fun s p ha => ⟨?_, ?_, ?_, ?_, ?_⟩⟩,
    fun s hh => ⟨?_, ?_, ?_, ?_, ?_, ?_, ?_, ?_, ?_⟩⟩
  · intro g lane va h l ho ht hs hp hk u p
    exact ⟨does_pagefault_stops hh ho ht hs hp hk, does_pagefault_saves hh ho ht hs hp hk⟩
  · intro t0 f hk hs hg hd hf
    exact does_save hh hk hs hg hd hf
  · intro t0 hk hs
    exact does_drainBound hh hk hs
  · intro p frame v hv hready hok hc hn hg
    exact does_restore hh hv hready hok hc hn hg
  · exact exec_fresume_spec ha
  · exact does_preemptReq ha
  · exact does_preemptRestore ha
  · exact does_preemptReq_later ha
  · exact does_preemptRestore_later ha
  · intro k x z hk hr hc hg hz hd
    exact does_stateError_discards hh hk hr hc hg hz hd
  · intro k x hk
    exact ⟨softError_acc hh hk, softError_items hh hk, softError_locks hh hk⟩
  · intro sl hsl
    exact softError_directory hh hsl
  · intro c pa h
    exact does_softError_cache hh h
  · intro k q o h
    exact does_softError_slot hh h
  · intro k x hk hr hc hg
    exact does_stateError_ends hh hk hr hc hg
  · intro cnt room
    refine ⟨fun pa p hp => ?_, fun d pa hd hr ht => ?_, fun k x o hk ho hc => does_softError_window hh hk ho hc⟩
    · refine ⟨?_, fun hroom hn => does_softError_home hh hp hroom.1 hroom.2 hn, does_scrub hh hp⟩
      obtain ⟨t, he, rfl⟩ := does_softError_home_corrected hh hp
      exact ⟨_, he, ctr_bumpDeck .., rfl, fun _ => rfl⟩
    · refine ⟨?_, does_softError_replica hh hd hr ht⟩
      obtain ⟨t, he, rfl⟩ := does_softError_replica_corrected hh hd hr ht
      exact ⟨_, he, ctr_bumpDeck .., rfl⟩
  · intro p pa e hrun hc he h0 hrein hr hok
    exact does_snapCopyOnWrite hh hrun hc he h0 hrein hr hok
  · intro p hrun hr hok hall
    exact does_snapEnd hh hrun hr hok hall

end Sys2Proof
end
